-- ==== Sys2Proof/Word.lean ====
section
/-! DEFINITION. The word types of the Octar module and the plainest arithmetic on them (spec/00 R2, R4; 02 R49). -/

namespace Sys2Proof

/-- The data unit of tokens, data registers and lanes: 128 bits (R12, "word"). -/
abbrev Word := BitVec 128
/-- A 64-bit register, structure word or configuration word. -/
abbrev W64 := BitVec 64
/-- A store word, literal or entry word of a fabric element. -/
abbrev W32 := BitVec 32
/-- One byte of memory. -/
abbrev Byte := BitVec 8

/-- Bit field `x[hi:lo]` of a natural number, both ends included (R2). -/
def fld (x hi lo : Nat) : Nat := x / 2 ^ lo % 2 ^ (hi + 1 - lo)

/-- Bit `i` of a natural number. -/
def bitN (x i : Nat) : Bool := x / 2 ^ i % 2 == 1

/-- Place `v`, cut to `hi + 1 - lo` bits, at `lo`. -/
def put (hi lo v : Nat) : Nat := v % 2 ^ (hi + 1 - lo) * 2 ^ lo

/-- One bit as a number. -/
def b2n (b : Bool) : Nat := if b then 1 else 0

/-- Two's complement reading of the low `w` bits. -/
def toSigned (w x : Nat) : Int :=
  if 2 * (x % 2 ^ w) < 2 ^ w then (x % 2 ^ w : Nat) else (x % 2 ^ w : Nat) - (2 ^ w : Nat)

/-- An integer written as `w` bits, mod 2^w. -/
def ofInt (w : Nat) (x : Int) : Nat := (x % (2 ^ w : Nat)).toNat

/-- Lane `i` of width `w` of a word (R49). -/
def lane (w i : Nat) (x : Word) : Nat := x.toNat / 2 ^ (w * i) % 2 ^ w

/-- The word whose lanes of width `w`, lane 0 first, are the list's values (R49). -/
def packLanes (w : Nat) : List Nat → Nat
  | [] => 0
  | v :: vs => v % 2 ^ w + 2 ^ w * packLanes w vs

/-- A word from lane values, lane 0 first. -/
def wordOfLanes (w : Nat) (vs : List Nat) : Word := BitVec.ofNat 128 (packLanes w vs)

/-- A word with `v` in lane 0 of width `w` and 0 in every other bit. -/
def lane0 (w v : Nat) : Word := BitVec.ofNat 128 (v % 2 ^ w)

/-- An N32 word with the four given lanes. -/
def n32x4 (a b c d : Nat) : Word := wordOfLanes 32 [a, b, c, d]

/-- Little-endian bytes of a number, `n` of them (R4). -/
def toBytes : Nat → Nat → List Byte
  | 0, _ => []
  | n + 1, x => BitVec.ofNat 8 x :: toBytes n (x / 256)

/-- The number whose little-endian bytes are given (R4). -/
def ofBytes : List Byte → Nat
  | [] => 0
  | b :: bs => b.toNat + 256 * ofBytes bs

/-- Update position `i` of a list (outside the list: unchanged). -/
def upd {α : Type} (l : List α) (i : Nat) (f : α → α) : List α := l.modify i f

/-- Association-list lookup. -/
def look {κ ν : Type} [DecidableEq κ] (l : List (κ × ν)) (k : κ) : Option ν :=
  match l with
  | [] => none
  | (k', v) :: r => if k' = k then some v else look r k

/-- Association-list insert or replace, keeping the place of a key that is present. -/
def insertKV {κ ν : Type} [DecidableEq κ] (l : List (κ × ν)) (k : κ) (v : ν) : List (κ × ν) :=
  match l with
  | [] => [(k, v)]
  | (k', v') :: r => if k' = k then (k, v) :: r else (k', v') :: insertKV r k v

/-- Association-list removal. -/
def eraseKV {κ ν : Type} [DecidableEq κ] (l : List (κ × ν)) (k : κ) : List (κ × ν) :=
  l.filter (fun e => !decide (e.1 = k))

/-- Floor of the base-2 logarithm; 0 for 0. -/
def log2N (n : Nat) : Nat := n.log2

end Sys2Proof
end

