-- ==== Sys2Proof/Machine/Types.lean ====
section
/-! DEFINITION. The vocabulary of the machine: elements, tokens, formats, fabric operations, places and inputs
(spec/01, 02, 03). Plain data only. -/

namespace Sys2Proof.Machine

/-- The elements of a tile, in the order of the ELT codes of R97. -/
inductive Elt where
  | pe0 | pe1 | me | mx
  deriving DecidableEq, Repr

/-- Element kinds (R13). -/
inductive Kind where
  | pe | me | mx
  deriving DecidableEq, Repr

/-- An element of a region, by region slot and image tile. -/
structure EltAt where
  slot : Nat
  x : Nat
  y : Nat
  elt : Elt
  deriving DecidableEq, Repr

/-- An image tile of a region. -/
structure TileAt where
  slot : Nat
  x : Nat
  y : Nat
  deriving DecidableEq, Repr

/-- An input of a switch of a region, at a physical tile (R396): SRC code and SIX index. -/
structure InAt where
  slot : Nat
  col : Nat
  row : Nat
  src : Nat
  six : Nat
  deriving DecidableEq, Repr

/-- A broadcast lane: the row lane or the column lane with an image index (R40). -/
inductive LaneId where
  | row (y : Nat)
  | col (x : Nat)
  deriving DecidableEq, Repr

/-- What feeds a channel (R18): an element port, a CCU output, a lane driver or a span circuit. -/
inductive SourceId where
  | port (x y : Nat) (elt : Elt) (q : Nat)
  | ccu (x y : Nat)
  | lane (l : LaneId)
  | span (n : Nat)
  deriving DecidableEq, Repr

/-- What a circuit ends in: a channel of an element, the arm input of a CCU, or a lane driver. -/
inductive DestId where
  | chan (x y : Nat) (elt : Elt) (ch : Nat)
  | arm (x y : Nat)
  | lane (l : LaneId)
  | span (n : Nat)
  deriving DecidableEq, Repr

/-- Units that a freeze request or the Furrow reaches (R344, R357). -/
inductive UnitId where
  | elt (x y : Nat) (e : Elt)
  | stream (x y s : Nat)
  | chain (x y c : Nat)
  | ccu (x y : Nat)
  | drain (x y c : Nat)
  | switch (col row : Nat)
  | laneDrv (l : LaneId)
  deriving DecidableEq, Repr

/-- A token: a word and its 25-bit sideband (R15). -/
structure Token where
  word : Word := 0
  mexp : BitVec 8 := 0
  gen : BitVec 4 := 0
  stag : BitVec 6 := 0
  cmk : Bool := false
  psn : Bool := false
  eosl : BitVec 3 := 0
  ctag : BitVec 2 := 0
  deriving DecidableEq, Repr

/-- The sideband as the 25 bits of R15. -/
def Token.side (t : Token) : Nat :=
  put 24 17 t.mexp.toNat + put 16 13 t.gen.toNat + put 12 7 t.stag.toNat + put 6 6 (b2n t.cmk)
    + put 5 5 (b2n t.psn) + put 4 2 t.eosl.toNat + put 1 0 t.ctag.toNat

/-- A token from a word and 25 sideband bits. -/
def Token.ofSide (w : Word) (n : Nat) : Token :=
  { word := w, mexp := .ofNat 8 (fld n 24 17), gen := .ofNat 4 (fld n 16 13), stag := .ofNat 6 (fld n 12 7),
    cmk := bitN n 6, psn := bitN n 5, eosl := .ofNat 3 (fld n 4 2), ctag := .ofNat 2 (fld n 1 0) }

/-- One block binding of a lane value (R224): entry, generation, stale mark (R172). -/
structure Binding where
  stag : BitVec 6
  gen : BitVec 4
  stale : Bool
  deriving DecidableEq, Repr

/-- A lane transfer (R40, R224): payload, micro-exponent field, block bindings. CTAG, CMK and PSN are those of its words. -/
structure LaneVal where
  payload : BitVec 1536 := 0
  mexp : BitVec 192 := 0
  binds : List Binding := []
  psn : Bool := false
  cmk : Bool := false
  ctag : BitVec 2 := 0
  deriving DecidableEq, Repr

/-- What travels on a circuit: a token, a scale transfer (R175) with its block index on a lane, or the Furrow (R357). -/
inductive Item where
  | token (t : Token)
  | scale (e : BitVec 9)
  | furrow
  deriving DecidableEq, Repr

/-- Lane types, TL codes 0x0 to 0xB (R49, R93). -/
inductive LaneTy where
  | i8 | i16 | i32 | n8 | n16 | n32 | f16 | b16 | f32 | f64 | e4m3 | e5m2
  deriving DecidableEq, Repr

/-- Block formats, FB codes 0x0 to 0x8 (R93). -/
inductive BlockFmt where
  | mxe4m3 | mxe5m2 | mxe3m2 | mxe2m3 | mxe2m1 | mxint8 | bx4 | bx6 | bx9
  deriving DecidableEq, Repr

/-- A channel format, FMT (R93). -/
inductive Fmt where
  | lane (t : LaneTy)
  | block (f : BlockFmt)
  deriving DecidableEq, Repr

/-- Rounding modes (R55). -/
inductive Rm where
  | rne | rtz | rdn | rup | rna | sto
  deriving DecidableEq, Repr

/-- Compare codes (R93). -/
inductive Cc where
  | eq | ne | lt | le | gt | ge | un | ord
  deriving DecidableEq, Repr

/-- Fence kinds (R94). -/
inductive FenceKind where
  | rel | acq | ar
  deriving DecidableEq, Repr

/-- Scopes (R93, R296). -/
inductive Scope where
  | element | region | device | domain | system
  deriving DecidableEq, Repr

/-- Atomic types (R93). -/
inductive AtomTy where
  | i32 | n32 | i64 | n64 | f16 | b16 | f32
  deriving DecidableEq, Repr

/-- Registers of a bank that RDR and WRR name (R117). -/
inductive Reg where
  | d (i : Nat) | p (i : Nat) | st | tm | fsw
  deriving DecidableEq, Repr

/-- Lane-wise integer forms of R126, R127 and R130. -/
inductive IntOp where
  | iadd | isub | imul | imulh | imad | iand | ior | ixor | inot | shl | shr | sar | rol | imin | imax | iabs | ineg
  | clz | popc | bfx | bfi
  deriving DecidableEq, Repr

/-- Floating-point arithmetic forms of R146. -/
inductive FltOp where
  | fadd | fsub | fmul | ffma | ffms | fnma | fmin | fmax | fabs | fneg | fcps | fdiv | fsqt
  deriving DecidableEq, Repr

/-- Special functions of R152. -/
inductive SpecOp where
  | frcp | frsq | fex2 | flg2 | fexe | ftnh | fsig
  deriving DecidableEq, Repr

/-- Scale forms of R181. -/
inductive ScaleOp where
  | smov | sadd | ssub | ssum | smax | smin | scmp | sfrm | sget | sset | sbnd | srel | sgen | szq | snq | sclr
  deriving DecidableEq, Repr

/-- Horizontal reductions of R163. -/
inductive RedOp where
  | rsum | rmax | rmin | ramx
  deriving DecidableEq, Repr

/-- SCAN operations (R164). -/
inductive ScanOp where
  | sum | max | min
  deriving DecidableEq, Repr

/-- Memory access forms of R197. -/
inductive AccOp where
  | ld | st | ldg | stg | gth | sct
  deriving DecidableEq, Repr

/-- Atomic operations of R201. -/
inductive AtomOp where
  | add | fadd | min | max | fmin | fmax | and | or | xor | swap | cas
  deriving DecidableEq, Repr

/-- Operand ports of a slot (R80). -/
inductive PortName where
  | a | b | c | p
  deriving DecidableEq, Repr

/-- The fabric operations of R91, each with the fields that MOD, E and the opcode give it (R94, R95). -/
inductive FOp where
  | nop
  | recv (ch : Nat) | peek (ch : Nat) | drop (ch : Nat)
  | send (q : Nat) (retag : Option Nat) (cmk : Bool)
  | sende (q : Nat) (retag : Option Nat) (cmk : Bool) (level : Nat)
  | sendp (q : Nat) (retag : Option Nat) (cmk : Bool)
  | rdr (r : Reg) | wrr (r : Reg)
  | fan | sel (w : Nat) | nul
  | state (imm : Option Nat)
  | tmsk (mask : Bool) (t : Nat)
  | int (o : IntOp) (t : LaneTy) (sat : Bool)
  | icmp (t : LaneTy) (cc : Cc)
  | isat (src dst : LaneTy)
  | aadd (t : LaneTy) (sh : Nat)
  | abnd (t : LaneTy)
  | steer | merge | amerge
  | carry (level : Nat)
  | gate | join | eosq | tagq | psnq
  | scale (o : ScaleOp) (k : Nat)
  | flt (o : FltOp) (t : LaneTy)
  | fcmp (t : LaneTy) (cc : Cc)
  | fcls (t : LaneTy)
  | frnd (t : LaneTy) (rm : Rm)
  | spec (o : SpecOp) (t : LaneTy)
  | cvt (dst src : LaneTy) (rm : Rm)
  | qnt (f : BlockFmt) (src : LaneTy) (rm : Rm)
  | dqt (f : BlockFmt) (dst : LaneTy) (rm : Rm)
  | pack (t : LaneTy)
  | unpk (t : LaneTy) (hi : Bool)
  | shuf (t : LaneTy) | bcst (t : LaneTy)
  | slid (t : LaneTy) (fillB up : Bool)
  | zip (t : LaneTy) (hi : Bool) | uzp (t : LaneTy) (hi : Bool)
  | red (o : RedOp) (t : LaneTy)
  | scan (t : LaneTy) (o : ScanOp)
  | ldot (t : LaneTy)
  | acc (o : AccOp) (chain w : Nat)
  | atom (o : AtomOp) (ret : Bool) (chain : Nat) (t : AtomTy)
  | ord (chain : Nat) | cmpl (chain : Nat)
  | fence (k : FenceKind) (sc : Scope)
  | fencef (chain : Nat) (sc : Scope)
  | tlk | tfil (chain : Nat) | tevc (chain : Nat) | tinv
  | strm (s : Nat) | strmq (s : Nat) | pref | xprb
  | mldb (f : Fmt) | mma (f : Fmt) | mmas (f : Fmt)
  | mzro | mdrn | mdrc (add : Bool) | mctx (c : Nat) | mcnt | mstat
  | ldi (t : LaneTy) (l0 : Bool) | sldi (k : Nat) | mark
  | bkpt (n : Nat) | trap (n : Nat) | halt
  deriving DecidableEq, Repr

/-- A decoded slot: the operation and its consumers, target slot and port (R80). -/
structure Slot where
  op : FOp
  con0 : Option (Nat × PortName) := none
  con1 : Option (Nat × PortName) := none
  deriving DecidableEq, Repr

/-- The result of a Grit comparison (R411, R413), a physical input of BEAT: it matches; the first firing differs and the
second matches; both differ, with the facts that INFO of fault 0x40 names. -/
inductive Grit where
  | match_ | refire
  | fail (residue : Bool) (lane : Nat)
  deriving DecidableEq, Repr

/-- How an item reaches the end of its circuit: from a switch input of the module, on a span circuit from a peer, or not at all, after 16
failed resends (R414). -/
inductive ArriveFrom where
  | input (i : InAt)
  | span (slot n : Nat) (it : Item)
  | failed (e : EltAt)
  deriving DecidableEq, Repr

/-- The request a walk serves (R281, R282): a chain's next request, a stream's data or scale array, a queued PREF. -/
inductive WalkFor where
  | chain (x y c : Nat)
  | streamData (x y s : Nat)
  | streamScale (x y s : Nat)
  | pref (x y : Nat)
  deriving DecidableEq, Repr

/-- A command queue (R247): an ME stream's scoreboard, a copy engine, a strip's collective engine. -/
inductive QueueId where
  | stream (slot x y s : Nat)
  | copy (n : Nat)
  | coll (strip : Nat)
  deriving DecidableEq, Repr

/-- The start header that collective neighbours exchange (R379). -/
structure CollHdr where
  gid : Nat
  nr : Nat
  op : Nat
  ptype : Nat
  c8 : Nat
  deriving DecidableEq, Repr

/-- What a scrub or a read of stored state finds (R414, R420). -/
inductive EccResult where
  | clean | corrected | uncorrectable
  deriving DecidableEq, Repr

/-- A read of stored state and where it stands (R414, R420): a 64-byte line of a memory target; scratchpad; the stream buffer's share of a
stream; an element's instruction store, slip plane, transition and channel tables; an ME's tag table, chain tracking entries and stream
descriptors; a window word; a CCU table; a switch's route entries and delay lines; SRF entries, registers, FIFOs, port queues, MX
accumulators and chunks of B halves; the switch of a skipped column; a dirty line of a control core's caches, by its local physical address; the
Hardpan core's key store and RAM; and the SRAM scrub of a strip, by the
number of the line among all its lines. -/
inductive ScrubOf where
  | line (addr : Nat)
  | spad (slot x y off : Nat)
  | buffer (slot x y stream n : Nat)
  | store (e : EltAt)
  | meTable (slot x y : Nat)
  | window (e : EltAt) (ch : Nat)
  | ccuTable (slot x y : Nat)
  | route (slot x y : Nat)
  | srf (e : EltAt) (k : Nat)
  | bankD (e : EltAt) (bank i : Nat)
  | bankP (e : EltAt) (bank i : Nat)
  | fifo (e : EltAt) (ch : Nat)
  | port (e : EltAt) (q : Nat)
  | mxTile (e : EltAt) (ctx : Nat)
  | mxHalf (e : EltAt) (ctx : Nat) (second : Bool) (n : Nat)
  | through (slot col row : Nat)
  | cache (hart addr : Nat)
  | hardpan
  | sram (strip n lines : Nat)
  deriving DecidableEq, Repr

/-- A device register that software writes (R2): by its device-space address, or a CSR of the hart itself. -/
inductive RegTarget where
  | mmio (addr : Nat)
  | csr (n : Nat)
  deriving DecidableEq, Repr

/-- Who writes a register: a hart with its MID, the Hardpan core or Bedrock (MID 0x000), the host's physical function, or its virtual
function v (R408). -/
inductive Master where
  | hart (h : Nat)
  | hardpan
  | pf
  | vf (v : Nat)
  deriving DecidableEq, Repr

/-- Kinds of access (R281). -/
inductive AKind where
  | read | write | atomic | control
  deriving DecidableEq, Repr

def AKind.code : AKind → Nat
  | .read => 0 | .write => 1 | .atomic => 2 | .control => 3

/-- What a flit of another module brings beside its header (R276, R383, R388 to R392, R406): nothing; a request to an address of this module
under a master ID; a hop unit that this module's engine forwards as a relay of a partition; the start of a post-copy migration (ticket
sequence, descriptor and page list); a pull of a record of a migration's list, or the news that its destination lost a page or could not write one; a policy carried by a
migration, and the result of its check; an open profiling session; what bytes of another module's memory have come to hold; that
the rank before or after a strip's engine has paused or goes on (R384); or that the next access
of an address there is denied (R291). -/
inductive LinkMsg where
  | header
  | read (mid addr n : Nat)
  | write (mid addr : Nat) (bytes : List (BitVec 8)) (psn : Bool)
  | atomic (mid addr : Nat) (o : AtomOp) (ret : Bool) (t : AtomTy) (b c : Nat)
  | relay (part tid module : Nat)
  | pageList (seq : Nat) (m : List W64) (recs : List (List W64))
  | pull (seq rec : Nat)
  | lost (seq : Nat)
  | failed (seq code : Nat)
  | policy (seq : Nat) (bytes : List (BitVec 8))
  | policyResult (seq code : Nat)
  | session (tid bank sel : Nat) (events : List W64) (counts : List Nat) (scat : Nat)
  | view (addr : Nat) (bytes : List (BitVec 8)) (psn : Bool)
  | denied (addr : Nat)
  | pause (strip : Nat) (after on : Bool)
  deriving DecidableEq, Repr

/-- A flit as it arrives on a lane group (R406): its number, what it brings, and the peer's groups and numbers it was sent under before (R410). -/
structure FlitIn where
  seq : Nat
  msg : LinkMsg := .header
  orig : List (Nat × Nat) := []
  deriving DecidableEq, Repr

/-- A page on its way to the destination of a migration (R391): its 64 KiB, and the lines that carry the poison marker. -/
structure PageIn where
  bytes : List (BitVec 8)
  marked : List Nat := []
  deriving DecidableEq, Repr

/-- Privilege modes of a hart (R101, R242): machine, HS, U, VS, VU. -/
inductive Mode where
  | m | hs | u | vs | vu
  deriving DecidableEq, Repr

/-- The virtualisation bit V (R242). -/
def Mode.virt : Mode → Bool
  | .vs | .vu => true
  | _ => false

/-- Modes that may execute the HS-only forms (R101). -/
def Mode.high : Mode → Bool
  | .m | .hs => true
  | _ => false

def Elt.code : Elt → Nat
  | .pe0 => 0 | .pe1 => 1 | .me => 2 | .mx => 3

def Elt.kind : Elt → Kind
  | .pe0 | .pe1 => .pe
  | .me => .me
  | .mx => .mx

def Elt.ofCode : Nat → Option Elt
  | 0 => some .pe0 | 1 => some .pe1 | 2 => some .me | 3 => some .mx
  | _ => none

end Sys2Proof.Machine
end

