-- ==== Sys2Proof/Syntax.lean ====
section
/-! DEFINITION. The steps of the machine: one constructor per row of spec/opcode_table.json, in the table's order.
The 39 control-core forms (03 R101) carry the register fields they use (09 R239); the other 97 are machine events with no
encoding, and carry the place they act on and, where something outside the module takes part, what it brings. -/

namespace Sys2Proof

open Machine

/-- One step of the module. -/
inductive Instr where
  -- elements, switches, lanes and CCUs (01, 04, 06, 14)
  | selection (e : EltAt)
  | beat (e : EltAt) (g : Grit)
  | tokenArrival (a : ArriveFrom)
  | scaleTransferArrival (a : ArriveFrom)
  | windowCreditReturn (slot : Nat) (dst : DestId)
  | creditReturn (slot : Nat) (dst : DestId)
  | tokenHop (slot col row dir : Nat)
  | laneDriverInput (i : InAt)
  | laneTransferArrival (slot : Nat) (l : LaneId) (x y : Nat)
  | ccuEmit (t : TileAt)
  | ccuArm (t : TileAt)
  -- ME chains, walks and streams (07, 10)
  | requestSend (t : TileAt) (chain : Nat)
  | requestPerform (t : TileAt) (chain : Nat)
  | atomicApply (t : TileAt) (chain : Nat)
  | remoteAck (t : TileAt) (chain seq : Nat)
  | replyDelivery (t : TileAt) (chain : Nat)
  | translationWalk (slot : Nat) (w : WalkFor)
  | streamDescriptorStart (t : TileAt) (s : Nat)
  | streamLoadUnit (t : TileAt) (s : Nat)
  | streamStoreUnit (t : TileAt) (s : Nat)
  | streamCompletionToken (t : TileAt) (s : Nat)
  | meBankSwap (t : TileAt)
  | mxDrainWord (t : TileAt) (ctx port : Nat)
  | mdrcElementWrite (engine : Nat)
  -- freeze, switch and rollback (12, 15)
  | freezeReceipt (slot : Nat) (u : UnitId)
  | frontSettle (slot : Nat)
  | watchdogExpiry (slot : Nat)
  | noProgressReport (slot : Nat)
  | furrowPass (slot : Nat) (u : UnitId)
  | tileFlip (slot col row : Nat)
  | drainDeadlineExpiry (slot : Nat)
  | regionComplete (slot : Nat)
  | rollback (slot : Nat)
  | defectMarkPersist (col row : Nat)
  -- control-core forms (03 R101; 09)
  | rgnld (rd rs1 : BitVec 5)
  | rgngo (rd rs1 rs2 : BitVec 5)
  | rgndrn (rd rs1 rs2 : BitVec 5)
  | rgnfrz (rd rs1 : BitVec 5)
  | rgnsav (rd rs1 rs2 : BitVec 5)
  | rgnrst (rd rs1 rs2 : BitVec 5)
  | rgnmov (rd rs1 rs2 : BitVec 5)
  | rgnkil (rd rs1 : BitVec 5)
  | rgnqry (rd rs1 rs2 : BitVec 5)
  | rgnslc (rd rs1 rs2 : BitVec 5)
  | strmCommand (rd rs1 rs2 : BitVec 5)
  | strmb (rd rs1 rs2 : BitVec 5)
  | strmqCommand (rd rs1 rs2 : BitVec 5)
  | sarm (rd rs1 rs2 : BitVec 5)
  | binit (rd rs1 rs2 : BitVec 5)
  | barv (rd rs1 rs2 : BitVec 5)
  | barvx (rd rs1 rs2 : BitVec 5)
  | bwait (rd rs1 rs2 : BitVec 5)
  | btest (rd rs1 rs2 : BitVec 5)
  | tfpsh (rd rs1 rs2 : BitVec 5)
  | tfpop (rd rs1 : BitVec 5)
  | tfqry (rd rs1 : BitVec 5)
  | cpy (rd rs1 rs2 : BitVec 5)
  | cpyt (rd rs1 rs2 : BitVec 5)
  | cpyq (rd rs1 : BitVec 5)
  | coll (rd rs1 rs2 : BitVec 5)
  | collq (rd rs1 : BitVec 5)
  | fencex (rd rs1 : BitVec 5)
  | cbinv (rd rs1 rs2 : BitVec 5)
  | cbsync (rd rs1 : BitVec 5)
  | ctrsel (rd rs1 rs2 : BitVec 5)
  | ctrrd (rd rs1 : BitVec 5)
  | ctrclr (rd rs1 : BitVec 5)
  | trcon (rd rs1 rs2 : BitVec 5)
  | trcoff (rd rs1 : BitVec 5)
  | dunego (rd rs1 : BitVec 5)
  | duneq (rd rs1 : BitVec 5)
  | svpol (rd rs1 rs2 : BitVec 5)
  | jrnrd (rd rs1 rs2 : BitVec 5)
  -- engine commands and barriers (09)
  | commandIssue (q : QueueId)
  | copyUnit (engine : Nat)
  | commandRetire (q : QueueId)
  | engineTokenPush (q : QueueId)
  | barrierCredit (n : Nat)
  | barrierFail (n : Nat)
  | barrierNotifyPush (n : Nat)
  | bwaitWake (hart : Nat)
  -- collectives and migration (13)
  | collStartExchange (strip : Nat) (prev next : CollHdr)
  | collHopUnit (strip seq : Nat) (unit : List Byte)
  | collHopAck (strip seq : Nat)
  | collHopTimeout (strip : Nat)
  | kvStepWrite (strip : Nat)
  | dunePageCopy (stream : Nat)
  | postcopyDemandPull (stream rec : Nat) (page : PageIn)
  | postcopyPush (stream : Nat)
  | pullAttemptTimeout (stream : Nat)
  -- the command front end (11)
  | notify (vcp qmsk : Nat)
  | vcpConfigWrite (m : Master) (vcp word : Nat) (value : W64)
  | vcpScan
  | launch | arm | signal | wait
  | waitComplete (seq : Nat)
  | copy | collPacket | migrate | query | cancel
  | placementSearch (slot : Nat)
  | emit (slot : Nat)
  | completionEntryWrite (vcp queue : Nat)
  | bedrockFault
  | bedrockUpdate (image signature : List Byte)
  -- device registers (10, 12, 14, 16)
  | invalidatePage (hart asid size : Nat)
  | invalidateAsid (hart asid : Nat)
  | invalidateAll (hart : Nat)
  | invalidationComplete
  | rsm (m : Master) (part : Nat) (ticket : W64)
  | srq (m : Master) (slot : Nat)
  | resumeStoppedRegion (m : Master) (slot : Nat)
  | debugBlockWrite (m : Master) (slot word : Nat) (value : W64)
  | partitionTableWrite (m : Master) (strip : Nat) (value : W64)
  | partitionBlockWrite (m : Master) (first off : Nat) (value : W64)
  | laneGroupControlWrite (m : Master) (group : Nat) (value : W64)
  | registerWrite (m : Master) (r : RegTarget) (value : W64)
  | laneGroupTrainingDone (group gen peerMod peerGroup own : Nat)
  | flitReceive (group : Nat) (flit : FlitIn) (crcOk : Bool) (acked : Nat) (refused : Bool)
  | laneGroupLost (group : Nat)
  | cxlSnoop (addr : Nat)
  -- reliability, disclosure, power (15, 16, 17)
  | scrubRead (what : ScrubOf) (found : EccResult)
  | scrubWriteback (target : Nat)
  | hartParityError (hart : Nat)
  | hardpanParityError
  | policyCheck
  | releaseInstant (tid : Nat)
  | traceRecordWrite (slot : Nat)
  | throttleEvaluation (pnow tj tcool : Nat)
  | thermalTrip (tj : Nat)
  | warmReset (m : Master)
  | coldReset
  | lossOfPower
  deriving DecidableEq, Repr

end Sys2Proof
end

