-- ==== Sys2Proof/WellFormed.lean ====
section
/-! DEFINITION. Well-formedness: the ranges an operand of a step must lie in (01 R9, R14, R40, R42; 09 R260; 11 R306; 14 R404,
R405), and the ranges of a fabric slot's fields (03 R80, R93, R94). -/

namespace Sys2Proof.Machine

def EltAt.wf (e : EltAt) : Bool := decide (e.slot < 512) && decide (e.x < 128) && decide (e.y < 32)

def TileAt.wf (t : TileAt) : Bool := decide (t.slot < 512) && decide (t.x < 128) && decide (t.y < 32)

/-- SRC codes 0 to 8 (R396); ports 0 to 15, circuits 0 to 127, 0 for the CCU output. -/
def InAt.wf (i : InAt) : Bool :=
  decide (i.slot < 512) && decide (i.col < 128) && decide (i.row < 32) &&
    ((decide (i.src < 4) && decide (i.six < 16)) || (i.src == 4 && i.six == 0) ||
      (decide (5 ≤ i.src) && decide (i.src < 9) && decide (i.six < 128)))

def LaneId.wf : LaneId → Bool
  | .row y => decide (y < 32)
  | .col x => decide (x < 128)

def DestId.wf : DestId → Bool
  | .chan x y _ ch => decide (x < 128) && decide (y < 32) && decide (ch < 32)
  | .arm x y => decide (x < 128) && decide (y < 32)
  | .lane l => l.wf
  | .span n => decide (n < 4096)

def UnitId.wf : UnitId → Bool
  | .elt x y _ => decide (x < 128) && decide (y < 32)
  | .stream x y s => decide (x < 128) && decide (y < 32) && decide (s < 8)
  | .chain x y c => decide (x < 128) && decide (y < 32) && decide (c < 8)
  | .ccu x y => decide (x < 128) && decide (y < 32)
  | .drain x y c => decide (x < 128) && decide (y < 32) && decide (c < 4)
  | .switch col row => decide (col < 128) && decide (row < 32)
  | .laneDrv l => l.wf

def ArriveFrom.wf : ArriveFrom → Bool
  | .input i => i.wf
  | .span slot n _ => decide (slot < 512) && decide (n < 4096)
  | .failed e => e.wf

def ScrubOf.wf : ScrubOf → Bool
  | .line a => decide (a < 2 ^ 47)
  | .spad slot x y off => decide (slot < 512) && decide (x < 128) && decide (y < 32) && decide (off < 393216)
  | .buffer slot x y i _ => decide (slot < 512) && decide (x < 128) && decide (y < 32) && decide (i < 8)
  | .meTable slot x y | .ccuTable slot x y | .route slot x y => decide (slot < 512) && decide (x < 128) && decide (y < 32)
  | .store e => e.wf
  | .window e c | .fifo e c => e.wf && decide (c < 32)
  | .srf e k => e.wf && decide (k < 64)
  | .bankD e b i => e.wf && decide (b < 4) && decide (i < 16)
  | .bankP e b i => e.wf && decide (b < 4) && decide (i < 4)
  | .port e q => e.wf && decide (q < 16)
  | .mxTile e c | .mxHalf e c _ _ => e.wf && decide (c < 4)
  | .through slot col row => decide (slot < 512) && decide (col < 128) && decide (row < 32)
  | .hardpan => true
  | .cache h a => decide (h < 64) && decide (a < 2 ^ 47)
  | .sram s n lines => decide (s < 8) && decide (n < lines)

def WalkFor.wf : WalkFor → Bool
  | .chain x y c => decide (x < 128) && decide (y < 32) && decide (c < 8)
  | .streamData x y s => decide (x < 128) && decide (y < 32) && decide (s < 8)
  | .streamScale x y s => decide (x < 128) && decide (y < 32) && decide (s < 8)
  | .pref x y => decide (x < 128) && decide (y < 32)

def QueueId.wf : QueueId → Bool
  | .stream slot x y s => decide (slot < 512) && decide (x < 128) && decide (y < 32) && decide (s < 8)
  | .copy n => decide (n < 64)
  | .coll s => decide (s < 8)

def Master.wf : Master → Bool
  | .hart h => decide (h < 64)
  | _ => true

def RegTarget.wf : RegTarget → Bool
  | .mmio a => decide (a < 2 ^ 47)
  | .csr n => decide (n < 4096)

/-- Channels, ports, registers, entries and immediates of a fabric operation lie in their fields (R94). -/
def Reg.wf : Reg → Bool
  | .d i => decide (i < 16)
  | .p i => decide (i < 4)
  | _ => true

def LaneTy.isInt : LaneTy → Bool
  | .i8 | .i16 | .i32 | .n8 | .n16 | .n32 => true
  | _ => false

/-- TF 0 to 3 (R93). -/
def LaneTy.isTf : LaneTy → Bool
  | .f16 | .b16 | .f32 | .f64 => true
  | _ => false

/-- TF 0 to 2 (R94, special functions). -/
def LaneTy.isTf2 : LaneTy → Bool
  | .f16 | .b16 | .f32 => true
  | _ => false

/-- The narrow types of PACK and UNPK (R94, R154). -/
def LaneTy.isNarrow : LaneTy → Bool
  | .i8 | .i16 | .n8 | .n16 | .f16 | .b16 | .e4m3 | .e5m2 => true
  | _ => false

/-- TL 0x0 to 0x8 (R94). -/
def LaneTy.isRed : LaneTy → Bool
  | .f64 | .e4m3 | .e5m2 => false
  | _ => true

def LaneTy.isIdx : LaneTy → Bool
  | .i32 | .n32 => true
  | _ => false

/-- Formats that MLDB, MMA, MMAS take (R94). -/
def Fmt.isMx : Fmt → Bool
  | .lane .i8 | .lane .n8 | .lane .f16 | .lane .b16 | .lane .e4m3 | .lane .e5m2 => true
  | .lane _ => false
  | .block _ => true

def Fmt.isBx : Fmt → Bool
  | .block .bx4 | .block .bx6 | .block .bx9 => true
  | _ => false

def AtomTy.isInt : AtomTy → Bool
  | .i32 | .n32 | .i64 | .n64 => true
  | _ => false

/-- Which types an atomic operation takes (R201). -/
def AtomOp.tyOk (o : AtomOp) (t : AtomTy) : Bool :=
  match o with
  | .fadd | .fmin | .fmax => !t.isInt
  | _ => t.isInt

/-- Which atomic operations exist as reductions (R201). -/
def AtomOp.hasRed : AtomOp → Bool
  | .fmin | .fmax | .swap | .cas => false
  | _ => true

def IntOp.hasSat : IntOp → Bool
  | .iadd | .isub | .imul | .imad | .iabs | .ineg => true
  | _ => false

def retagOk : Option Nat → Bool
  | none => true
  | some c => decide (c < 4)

/-- The limits of R94 and R95 on a fabric operation's fields. -/
def FOp.wf : FOp → Bool
  | .recv c | .peek c | .drop c => decide (c < 32)
  | .send q r _ | .sendp q r _ => decide (q < 16) && retagOk r
  | .sende q r _ l => decide (q < 16) && retagOk r && decide (1 ≤ l) && decide (l < 8)
  | .rdr r | .wrr r => r.wf
  | .sel w => decide (w < 5)
  | .state none => true
  | .state (some v) => decide (v < 16)
  | .tmsk _ t => decide (t < 32)
  | .int o t sat => t.isInt && (o.hasSat || !sat)
  | .icmp t cc => t.isInt && !(cc == .un) && !(cc == .ord)
  | .isat s d => s.isInt && d.isInt && !(s == d)
  | .aadd t sh => t.isIdx && decide (sh < 5)
  | .abnd t => t.isIdx
  | .carry l => decide (1 ≤ l) && decide (l < 8)
  | .scale _ k | .sldi k => decide (k < 64)
  | .flt _ t | .fcmp t _ | .fcls t | .frnd t _ => t.isTf
  | .spec _ t => t.isTf2
  | .cvt d s rm => !(d == s) && (!(d.isInt && s.isInt) || rm == .rne)
  | .qnt _ s _ | .dqt _ s _ => s.isTf2
  | .pack t | .unpk t _ => t.isNarrow
  | .shuf t | .bcst t | .slid t _ _ | .zip t _ | .uzp t _ => !(t == .f64)
  | .red _ t | .scan t _ => t.isRed
  | .ldot t => t == .i8 || t == .n8 || t == .f16 || t == .b16
  | .acc o c w => decide (c < 8) && decide (w < 5) && !((o == .gth || o == .sct) && w == 4)
  | .atom o ret c t => decide (c < 8) && o.tyOk t && (ret || o.hasRed)
  | .ord c | .cmpl c | .fencef c _ | .tfil c | .tevc c => decide (c < 8)
  | .strm s | .strmq s => decide (s < 8)
  | .mldb f | .mma f => f.isMx
  | .mmas f => f.isMx && !f.isBx
  | .mctx c => decide (c < 4)
  | .ldi _ _ => true
  | .bkpt n | .trap n => decide (n < 64)
  | _ => true

end Sys2Proof.Machine

namespace Sys2Proof

open Machine

/-- A step's operands lie in the ranges the spec gives their places. -/
def Instr.wf : Instr → Bool
  | .selection e | .beat e _ => e.wf
  | .tokenArrival a | .scaleTransferArrival a => a.wf
  | .windowCreditReturn s d | .creditReturn s d => decide (s < 512) && d.wf
  | .tokenHop s c r d => decide (s < 512) && decide (c < 128) && decide (r < 32) && decide (5 ≤ d) && decide (d < 9)
  | .laneDriverInput i => i.wf
  | .laneTransferArrival s l x y => decide (s < 512) && l.wf && decide (x < 128) && decide (y < 32)
  | .ccuEmit t | .ccuArm t | .meBankSwap t => t.wf
  | .requestSend t c | .requestPerform t c | .atomicApply t c | .replyDelivery t c => t.wf && decide (c < 8)
  | .remoteAck t c q => t.wf && decide (c < 8) && decide (q < 65536)
  | .translationWalk s w => decide (s < 512) && w.wf
  | .streamDescriptorStart t s | .streamLoadUnit t s | .streamStoreUnit t s | .streamCompletionToken t s =>
    t.wf && decide (s < 8)
  | .mxDrainWord t c p => t.wf && decide (c < 4) && decide (p < 13)
  | .mdrcElementWrite e | .copyUnit e => decide (e < 64)
  | .freezeReceipt s u | .furrowPass s u => decide (s < 512) && u.wf
  | .frontSettle s | .watchdogExpiry s | .noProgressReport s | .drainDeadlineExpiry s | .regionComplete s | .rollback s
  | .placementSearch s | .emit s | .traceRecordWrite s => decide (s < 512)
  | .tileFlip s c r => decide (s < 512) && decide (c < 128) && decide (r < 32)
  | .defectMarkPersist c r => decide (c < 129) && decide (r < 32)
  | .commandIssue q | .commandRetire q | .engineTokenPush q => q.wf
  | .bwaitWake h | .hartParityError h | .invalidateAll h => decide (h < 64)
  | .collStartExchange s _ _ | .collHopAck s _ | .collHopTimeout s | .kvStepWrite s => decide (s < 8)
  | .collHopUnit s _ u => decide (s < 8) && u.length == 64
  | .dunePageCopy s | .postcopyPush s | .pullAttemptTimeout s => decide (s < 16)
  | .postcopyDemandPull s _ p => decide (s < 16) && p.bytes.length == 65536 && p.marked.all (· < 1024)
  | .notify v q => decide (v < 256) && decide (q < 16)
  | .vcpConfigWrite m v w _ => m.wf && decide (v < 256) && decide (w < 2)
  | .completionEntryWrite v q => decide (v < 256) && decide (q < 4)
  | .invalidatePage h a z => decide (h < 64) && decide (a < 4096) && decide (z < 4)
  | .invalidateAsid h a => decide (h < 64) && decide (a < 4096)
  | .rsm m p _ => m.wf && decide (p < 8)
  | .srq m s | .resumeStoppedRegion m s => m.wf && decide (s < 512)
  | .debugBlockWrite m s w _ => m.wf && decide (s < 512) && decide (w < 8)
  | .partitionTableWrite m s _ => m.wf && decide (s < 8)
  | .partitionBlockWrite m f o _ => m.wf && decide (f < 8) && decide (o < 7)
  | .laneGroupControlWrite m g _ => m.wf && decide (g < 64)
  | .registerWrite m r _ => m.wf && r.wf
  | .laneGroupTrainingDone g n pm pg own => decide (g < 64) && decide (n < 3) && decide (pm < 8192) && decide (pg < 64) && decide (own < 8192)
  | .flitReceive g _ _ _ _ | .laneGroupLost g => decide (g < 64)
  | .cxlSnoop a => decide (a < 2 ^ 64)
  | .scrubRead w _ => w.wf
  | .scrubWriteback t => decide (t < 72)
  | .releaseInstant t => decide (t < 65536)
  | .warmReset m => m.wf
  | _ => true

end Sys2Proof
end

