-- ==== Sys2Proof/Decode.lean ====
section
/-! DEFINITION. Decoding and encoding: the control-core extension words of the harts (03 R101, R102) and the fabric words of
the elements (03 R79 to R95). Total on any bits; a rejected word says why. -/

namespace Sys2Proof

open Machine

/-- Why a hart's word is no form: an unassigned or ill-formed word of the four custom opcodes (R102), or a base-ISA word. -/
inductive DecodeError where
  | illegal
  | notExtension
  | short
  deriving DecidableEq, Repr

/-- The assigned encodings (R101): opcode, funct3 and funct7 choose the form; a register field the form does not use must be
0 (R102, R239). -/
def decodeFields (opc f3 f7 : Nat) (rs2 rs1 rd : BitVec 5) : Except DecodeError Instr :=
  let two (i : Instr) : Except DecodeError Instr := if rs2 = 0 then .ok i else .error .illegal
  match opc, f3, f7 with
  | 0x0B, 0, 0x00 => two (.rgnld rd rs1)
  | 0x0B, 0, 0x01 => .ok (.rgngo rd rs1 rs2)
  | 0x0B, 0, 0x02 => .ok (.rgndrn rd rs1 rs2)
  | 0x0B, 0, 0x03 => two (.rgnfrz rd rs1)
  | 0x0B, 0, 0x04 => .ok (.rgnsav rd rs1 rs2)
  | 0x0B, 0, 0x05 => .ok (.rgnrst rd rs1 rs2)
  | 0x0B, 0, 0x06 => .ok (.rgnmov rd rs1 rs2)
  | 0x0B, 0, 0x07 => two (.rgnkil rd rs1)
  | 0x0B, 0, 0x08 => .ok (.rgnqry rd rs1 rs2)
  | 0x0B, 0, 0x09 => .ok (.rgnslc rd rs1 rs2)
  | 0x2B, 0, 0x00 => .ok (.strmCommand rd rs1 rs2)
  | 0x2B, 0, 0x01 => .ok (.strmb rd rs1 rs2)
  | 0x2B, 0, 0x02 => .ok (.strmqCommand rd rs1 rs2)
  | 0x2B, 0, 0x03 => .ok (.sarm rd rs1 rs2)
  | 0x2B, 1, 0x00 => .ok (.binit rd rs1 rs2)
  | 0x2B, 1, 0x01 => .ok (.barv rd rs1 rs2)
  | 0x2B, 1, 0x02 => .ok (.barvx rd rs1 rs2)
  | 0x2B, 1, 0x03 => .ok (.bwait rd rs1 rs2)
  | 0x2B, 1, 0x04 => .ok (.btest rd rs1 rs2)
  | 0x2B, 2, 0x00 => .ok (.tfpsh rd rs1 rs2)
  | 0x2B, 2, 0x01 => two (.tfpop rd rs1)
  | 0x2B, 2, 0x02 => two (.tfqry rd rs1)
  | 0x5B, 0, 0x00 => .ok (.cpy rd rs1 rs2)
  | 0x5B, 0, 0x01 => .ok (.cpyt rd rs1 rs2)
  | 0x5B, 0, 0x02 => two (.cpyq rd rs1)
  | 0x5B, 1, 0x00 => .ok (.coll rd rs1 rs2)
  | 0x5B, 1, 0x01 => two (.collq rd rs1)
  | 0x5B, 2, 0x00 => two (.fencex rd rs1)
  | 0x5B, 2, 0x01 => .ok (.cbinv rd rs1 rs2)
  | 0x5B, 2, 0x02 => two (.cbsync rd rs1)
  | 0x7B, 0, 0x00 => .ok (.ctrsel rd rs1 rs2)
  | 0x7B, 0, 0x01 => two (.ctrrd rd rs1)
  | 0x7B, 0, 0x02 => two (.ctrclr rd rs1)
  | 0x7B, 0, 0x03 => .ok (.trcon rd rs1 rs2)
  | 0x7B, 0, 0x04 => two (.trcoff rd rs1)
  | 0x7B, 1, 0x00 => two (.dunego rd rs1)
  | 0x7B, 1, 0x01 => two (.duneq rd rs1)
  | 0x7B, 1, 0x02 => .ok (.svpol rd rs1 rs2)
  | 0x7B, 1, 0x03 => .ok (.jrnrd rd rs1 rs2)
  | 0x0B, _, _ | 0x2B, _, _ | 0x5B, _, _ | 0x7B, _, _ => .error .illegal
  | _, _, _ => .error .notExtension

/-- The R-type word of R101. -/
def rType (f7 : BitVec 7) (rs2 rs1 : BitVec 5) (f3 : BitVec 3) (rd : BitVec 5) (opc : BitVec 7) : W32 :=
  f7 ++ rs2 ++ rs1 ++ f3 ++ rd ++ opc

/-- The word of a control-core form, from the encodings of R101; none for a machine event, which has no encoding. -/
def encode : Instr → Option W32
  | .rgnld rd rs1 => some (rType 0x00 0 rs1 0 rd 0x0B)
  | .rgngo rd rs1 rs2 => some (rType 0x01 rs2 rs1 0 rd 0x0B)
  | .rgndrn rd rs1 rs2 => some (rType 0x02 rs2 rs1 0 rd 0x0B)
  | .rgnfrz rd rs1 => some (rType 0x03 0 rs1 0 rd 0x0B)
  | .rgnsav rd rs1 rs2 => some (rType 0x04 rs2 rs1 0 rd 0x0B)
  | .rgnrst rd rs1 rs2 => some (rType 0x05 rs2 rs1 0 rd 0x0B)
  | .rgnmov rd rs1 rs2 => some (rType 0x06 rs2 rs1 0 rd 0x0B)
  | .rgnkil rd rs1 => some (rType 0x07 0 rs1 0 rd 0x0B)
  | .rgnqry rd rs1 rs2 => some (rType 0x08 rs2 rs1 0 rd 0x0B)
  | .rgnslc rd rs1 rs2 => some (rType 0x09 rs2 rs1 0 rd 0x0B)
  | .strmCommand rd rs1 rs2 => some (rType 0x00 rs2 rs1 0 rd 0x2B)
  | .strmb rd rs1 rs2 => some (rType 0x01 rs2 rs1 0 rd 0x2B)
  | .strmqCommand rd rs1 rs2 => some (rType 0x02 rs2 rs1 0 rd 0x2B)
  | .sarm rd rs1 rs2 => some (rType 0x03 rs2 rs1 0 rd 0x2B)
  | .binit rd rs1 rs2 => some (rType 0x00 rs2 rs1 1 rd 0x2B)
  | .barv rd rs1 rs2 => some (rType 0x01 rs2 rs1 1 rd 0x2B)
  | .barvx rd rs1 rs2 => some (rType 0x02 rs2 rs1 1 rd 0x2B)
  | .bwait rd rs1 rs2 => some (rType 0x03 rs2 rs1 1 rd 0x2B)
  | .btest rd rs1 rs2 => some (rType 0x04 rs2 rs1 1 rd 0x2B)
  | .tfpsh rd rs1 rs2 => some (rType 0x00 rs2 rs1 2 rd 0x2B)
  | .tfpop rd rs1 => some (rType 0x01 0 rs1 2 rd 0x2B)
  | .tfqry rd rs1 => some (rType 0x02 0 rs1 2 rd 0x2B)
  | .cpy rd rs1 rs2 => some (rType 0x00 rs2 rs1 0 rd 0x5B)
  | .cpyt rd rs1 rs2 => some (rType 0x01 rs2 rs1 0 rd 0x5B)
  | .cpyq rd rs1 => some (rType 0x02 0 rs1 0 rd 0x5B)
  | .coll rd rs1 rs2 => some (rType 0x00 rs2 rs1 1 rd 0x5B)
  | .collq rd rs1 => some (rType 0x01 0 rs1 1 rd 0x5B)
  | .fencex rd rs1 => some (rType 0x00 0 rs1 2 rd 0x5B)
  | .cbinv rd rs1 rs2 => some (rType 0x01 rs2 rs1 2 rd 0x5B)
  | .cbsync rd rs1 => some (rType 0x02 0 rs1 2 rd 0x5B)
  | .ctrsel rd rs1 rs2 => some (rType 0x00 rs2 rs1 0 rd 0x7B)
  | .ctrrd rd rs1 => some (rType 0x01 0 rs1 0 rd 0x7B)
  | .ctrclr rd rs1 => some (rType 0x02 0 rs1 0 rd 0x7B)
  | .trcon rd rs1 rs2 => some (rType 0x03 rs2 rs1 0 rd 0x7B)
  | .trcoff rd rs1 => some (rType 0x04 0 rs1 0 rd 0x7B)
  | .dunego rd rs1 => some (rType 0x00 0 rs1 1 rd 0x7B)
  | .duneq rd rs1 => some (rType 0x01 0 rs1 1 rd 0x7B)
  | .svpol rd rs1 rs2 => some (rType 0x02 rs2 rs1 1 rd 0x7B)
  | .jrnrd rd rs1 rs2 => some (rType 0x03 rs2 rs1 1 rd 0x7B)
  | _ => none

/-- A hart's 32-bit word. -/
def decodeWord (w : W32) : Except DecodeError Instr :=
  decodeFields (fld w.toNat 6 0) (fld w.toNat 14 12) (fld w.toNat 31 25) (w.extractLsb' 20 5) (w.extractLsb' 15 5)
    (w.extractLsb' 7 5)

/-- The first instruction of a list of bytes (little-endian, R4) and the bytes after it. -/
def decodeBytes : List Byte → Except DecodeError (Instr × List Byte)
  | b0 :: b1 :: b2 :: b3 :: rest =>
    match decodeWord (BitVec.ofNat 32 (ofBytes [b0, b1, b2, b3])) with
    | .ok i => .ok (i, rest)
    | .error e => .error e
  | _ => .error .short

/-- The bytes of a well-formed instruction that has an encoding, lowest address first. -/
def encodeBytes (i : Instr) : Option (List Byte) := (encode i).map fun w => toBytes 4 w.toNat

/-- What the decoder reads from an instruction of the opcode table whose bits are `w`. -/
def decodeTableWord (nbits w : Nat) : Option Instr :=
  if nbits = 0 ∨ 32 < nbits then none
  else match decodeBytes (toBytes 4 (w % 2 ^ nbits)) with
    | .ok (i, _) => some i
    | .error _ => none

namespace Machine

/-! ### Code sets of R93 -/

def LaneTy.code : LaneTy → Nat
  | .i8 => 0 | .i16 => 1 | .i32 => 2 | .n8 => 3 | .n16 => 4 | .n32 => 5 | .f16 => 6 | .b16 => 7 | .f32 => 8 | .f64 => 9
  | .e4m3 => 10 | .e5m2 => 11

/-- TL (R93). -/
def tlOf : Nat → Option LaneTy
  | 0 => some .i8 | 1 => some .i16 | 2 => some .i32 | 3 => some .n8 | 4 => some .n16 | 5 => some .n32
  | 6 => some .f16 | 7 => some .b16 | 8 => some .f32 | 9 => some .f64 | 10 => some .e4m3 | 11 => some .e5m2
  | _ => none

/-- TI (R93). -/
def tiOf (n : Nat) : Option LaneTy := if n < 6 then tlOf n else none

/-- TF 0 to 3 (R93). -/
def tfOf (n : Nat) : Option LaneTy := if n < 4 then tlOf (n + 6) else none

def BlockFmt.code : BlockFmt → Nat
  | .mxe4m3 => 0 | .mxe5m2 => 1 | .mxe3m2 => 2 | .mxe2m3 => 3 | .mxe2m1 => 4 | .mxint8 => 5 | .bx4 => 6 | .bx6 => 7 | .bx9 => 8

/-- FB (R93). -/
def fbOf : Nat → Option BlockFmt
  | 0 => some .mxe4m3 | 1 => some .mxe5m2 | 2 => some .mxe3m2 | 3 => some .mxe2m3 | 4 => some .mxe2m1 | 5 => some .mxint8
  | 6 => some .bx4 | 7 => some .bx6 | 8 => some .bx9
  | _ => none

def Fmt.code : Fmt → Nat
  | .lane t => t.code
  | .block f => 16 + f.code

/-- FMT (R93). -/
def fmtOf (n : Nat) : Option Fmt :=
  if n < 16 then (tlOf n).map .lane else if n < 32 then (fbOf (n - 16)).map .block else none

def Rm.code : Rm → Nat
  | .rne => 0 | .rtz => 1 | .rdn => 2 | .rup => 3 | .rna => 4 | .sto => 5

/-- RM (R55). -/
def rmOf : Nat → Option Rm
  | 0 => some .rne | 1 => some .rtz | 2 => some .rdn | 3 => some .rup | 4 => some .rna | 5 => some .sto
  | _ => none

def Cc.code : Cc → Nat
  | .eq => 0 | .ne => 1 | .lt => 2 | .le => 3 | .gt => 4 | .ge => 5 | .un => 6 | .ord => 7

/-- CC (R93). -/
def ccOf : Nat → Option Cc
  | 0 => some .eq | 1 => some .ne | 2 => some .lt | 3 => some .le | 4 => some .gt | 5 => some .ge | 6 => some .un | 7 => some .ord
  | _ => none

def AtomTy.code : AtomTy → Nat
  | .i32 => 0 | .n32 => 1 | .i64 => 2 | .n64 => 3 | .f16 => 4 | .b16 => 5 | .f32 => 6

/-- AT (R93). -/
def atOf : Nat → Option AtomTy
  | 0 => some .i32 | 1 => some .n32 | 2 => some .i64 | 3 => some .n64 | 4 => some .f16 | 5 => some .b16 | 6 => some .f32
  | _ => none

def Scope.code : Scope → Nat
  | .element => 0 | .region => 1 | .device => 2 | .domain => 3 | .system => 4

/-- SCOPE (R93). -/
def scopeOf : Nat → Option Scope
  | 0 => some .element | 1 => some .region | 2 => some .device | 3 => some .domain | 4 => some .system
  | _ => none

def FenceKind.code : FenceKind → Nat
  | .rel => 0 | .acq => 1 | .ar => 2

def fenceOf : Nat → Option FenceKind
  | 0 => some .rel | 1 => some .acq | 2 => some .ar
  | _ => none

/-- RF and index (R93). -/
def regOf (rf i : Nat) : Option Reg :=
  match rf, i with
  | 0, i => some (.d i)
  | 1, i => if i < 4 then some (.p i) else none
  | 2, 0 => some .st
  | 2, 1 => some .tm
  | 2, 2 => some .fsw
  | _, _ => none

def Reg.code : Reg → Nat
  | .d i => i
  | .p i => 16 + i
  | .st => 32 | .tm => 33 | .fsw => 34

/-- Operand ports (R80). -/
def portOf : Nat → PortName
  | 0 => .a | 1 => .b | 2 => .c | _ => .p

def PortName.code : PortName → Nat
  | .a => 0 | .b => 1 | .c => 2 | .p => 3

/-! ### Fabric words -/

/-- Kinds an opcode is legal on (R92); none where the value of OP is reserved (R91). -/
def opKinds (op : Nat) : Option (Kind → Bool) :=
  if op < 0x40 then some fun _ => true
  else if op < 0x57 ∨ (0x58 ≤ op ∧ op < 0x5D) ∨ (0x60 ≤ op ∧ op < 0x6B) then some (· == .pe)
  else if 0x80 ≤ op ∧ op < 0xA4 then some (· == .me)
  else if 0xB0 ≤ op ∧ op < 0xB9 then some (· == .mx)
  else if (0xC0 ≤ op ∧ op < 0xC3) ∨ (0xE0 ≤ op ∧ op < 0xE3) then some fun _ => true
  else none

/-- OP 0xC0 to 0xDF bear a literal (R83). -/
def bearsLiteral (op : Nat) : Bool := decide (0xC0 ≤ op) && decide (op < 0xE0)

def intOpOf : Nat → Option IntOp
  | 0x0E => some .iadd | 0x0F => some .isub | 0x10 => some .imul | 0x11 => some .imulh | 0x12 => some .imad
  | 0x13 => some .iand | 0x14 => some .ior | 0x15 => some .ixor | 0x16 => some .inot | 0x17 => some .shl | 0x18 => some .shr
  | 0x19 => some .sar | 0x1A => some .rol | 0x1B => some .imin | 0x1C => some .imax | 0x1D => some .iabs | 0x1E => some .ineg
  | 0x1F => some .clz | 0x20 => some .popc | 0x25 => some .bfx | 0x26 => some .bfi
  | _ => none

def IntOp.code : IntOp → Nat
  | .iadd => 0x0E | .isub => 0x0F | .imul => 0x10 | .imulh => 0x11 | .imad => 0x12 | .iand => 0x13 | .ior => 0x14
  | .ixor => 0x15 | .inot => 0x16 | .shl => 0x17 | .shr => 0x18 | .sar => 0x19 | .rol => 0x1A | .imin => 0x1B | .imax => 0x1C
  | .iabs => 0x1D | .ineg => 0x1E | .clz => 0x1F | .popc => 0x20 | .bfx => 0x25 | .bfi => 0x26

def scaleOpOf : Nat → Option ScaleOp
  | 0x30 => some .smov | 0x31 => some .sadd | 0x32 => some .ssub | 0x33 => some .ssum | 0x34 => some .smax | 0x35 => some .smin
  | 0x36 => some .scmp | 0x37 => some .sfrm | 0x38 => some .sget | 0x39 => some .sset | 0x3A => some .sbnd | 0x3B => some .srel
  | 0x3C => some .sgen | 0x3D => some .szq | 0x3E => some .snq | 0x3F => some .sclr
  | _ => none

def ScaleOp.code : ScaleOp → Nat
  | .smov => 0x30 | .sadd => 0x31 | .ssub => 0x32 | .ssum => 0x33 | .smax => 0x34 | .smin => 0x35 | .scmp => 0x36 | .sfrm => 0x37
  | .sget => 0x38 | .sset => 0x39 | .sbnd => 0x3A | .srel => 0x3B | .sgen => 0x3C | .szq => 0x3D | .snq => 0x3E | .sclr => 0x3F

def fltOpOf : Nat → Option FltOp
  | 0x40 => some .fadd | 0x41 => some .fsub | 0x42 => some .fmul | 0x43 => some .ffma | 0x44 => some .ffms | 0x45 => some .fnma
  | 0x46 => some .fmin | 0x47 => some .fmax | 0x48 => some .fabs | 0x49 => some .fneg | 0x4A => some .fcps
  | 0x4E => some .fdiv | 0x4F => some .fsqt
  | _ => none

def FltOp.code : FltOp → Nat
  | .fadd => 0x40 | .fsub => 0x41 | .fmul => 0x42 | .ffma => 0x43 | .ffms => 0x44 | .fnma => 0x45 | .fmin => 0x46 | .fmax => 0x47
  | .fabs => 0x48 | .fneg => 0x49 | .fcps => 0x4A | .fdiv => 0x4E | .fsqt => 0x4F

def specOpOf : Nat → Option SpecOp
  | 0x50 => some .frcp | 0x51 => some .frsq | 0x52 => some .fex2 | 0x53 => some .flg2 | 0x54 => some .fexe | 0x55 => some .ftnh
  | 0x56 => some .fsig
  | _ => none

def SpecOp.code : SpecOp → Nat
  | .frcp => 0x50 | .frsq => 0x51 | .fex2 => 0x52 | .flg2 => 0x53 | .fexe => 0x54 | .ftnh => 0x55 | .fsig => 0x56

def accOpOf : Nat → Option AccOp
  | 0x80 => some .ld | 0x81 => some .st | 0x82 => some .ldg | 0x83 => some .stg | 0x84 => some .gth | 0x85 => some .sct
  | _ => none

def AccOp.code : AccOp → Nat
  | .ld => 0x80 | .st => 0x81 | .ldg => 0x82 | .stg => 0x83 | .gth => 0x84 | .sct => 0x85

/-- Atomic and reduction opcodes (R201). -/
def atomOpOf : Nat → Option (AtomOp × Bool)
  | 0x86 => some (.add, true) | 0x87 => some (.fadd, true) | 0x88 => some (.min, true) | 0x89 => some (.max, true)
  | 0x8A => some (.fmin, true) | 0x8B => some (.fmax, true) | 0x8C => some (.and, true) | 0x8D => some (.or, true)
  | 0x8E => some (.xor, true) | 0x8F => some (.swap, true) | 0x90 => some (.cas, true) | 0x91 => some (.add, false)
  | 0x92 => some (.fadd, false) | 0x93 => some (.min, false) | 0x94 => some (.max, false) | 0x95 => some (.and, false)
  | 0x96 => some (.or, false) | 0x97 => some (.xor, false)
  | _ => none

def AtomOp.code : AtomOp → Bool → Nat
  | .add, true => 0x86 | .fadd, true => 0x87 | .min, true => 0x88 | .max, true => 0x89 | .fmin, _ => 0x8A | .fmax, _ => 0x8B
  | .and, true => 0x8C | .or, true => 0x8D | .xor, true => 0x8E | .swap, _ => 0x8F | .cas, _ => 0x90
  | .add, false => 0x91 | .fadd, false => 0x92 | .min, false => 0x93 | .max, false => 0x94 | .and, false => 0x95
  | .or, false => 0x96 | .xor, false => 0x97

def redOpOf : Nat → Option RedOp
  | 0x65 => some .rsum | 0x66 => some .rmax | 0x67 => some .rmin | 0x68 => some .ramx
  | _ => none

def RedOp.code : RedOp → Nat
  | .rsum => 0x65 | .rmax => 0x66 | .rmin => 0x67 | .ramx => 0x68

/-- CON1 is the extension field E on these forms (R82). -/
def usesE (op : Nat) : Bool :=
  op == 0x04 || op == 0x05 || op == 0x06 || op == 0x58 || op == 0x59 || op == 0x5A

/-- Keep a value when a limit holds. -/
def guardO {α : Type} (c : Bool) (v : Option α) : Option α := if c then v else none

/-- MOD and E of a form whose opcode is defined (R94, R95). The result is `none` where MOD breaks R94; a form whose E breaks
R95 is reported by `eOk`. -/
def decodeMod (op m e : Nat) : Option FOp :=
  let retag := if bitN e 8 then some (fld e 7 6) else none
  match op with
  | 0x00 => guardO (m == 0) (some .nop)
  | 0x01 => guardO (m < 32) (some (.recv m))
  | 0x02 => guardO (m < 32) (some (.peek m))
  | 0x03 => guardO (m < 32) (some (.drop m))
  | 0x04 => guardO (m < 16) (some (.send m retag (bitN e 5)))
  | 0x05 => guardO (m < 16) (some (.sende m retag (bitN e 5) (fld e 4 2)))
  | 0x06 => guardO (m < 16) (some (.sendp m retag (bitN e 5)))
  | 0x07 => (regOf (fld m 5 4) (fld m 3 0)).map .rdr
  | 0x08 => (regOf (fld m 5 4) (fld m 3 0)).map .wrr
  | 0x09 => guardO (m == 0) (some .fan)
  | 0x0A => guardO (m < 5) (some (.sel m))
  | 0x0B => guardO (m == 0) (some .nul)
  | 0x0C => guardO (m < 32) (if bitN m 4 then guardO (fld m 3 0 == 0) (some (.state none)) else some (.state (some m)))
  | 0x0D => some (.tmsk (bitN m 5) (fld m 4 0))
  | 0x21 => (tiOf (fld m 5 3)).bind fun t => (ccOf (fld m 2 0)).bind fun c => guardO (fld m 2 0 < 6) (some (.icmp t c))
  | 0x22 => (tiOf (fld m 5 3)).bind fun s => (tiOf (fld m 2 0)).bind fun d => guardO (s != d) (some (.isat s d))
  | 0x23 => (tiOf (fld m 5 3)).bind fun t => guardO (t.isIdx && decide (fld m 2 0 < 5)) (some (.aadd t (fld m 2 0)))
  | 0x24 => (tiOf (fld m 5 3)).bind fun t => guardO (t.isIdx && fld m 2 0 == 0) (some (.abnd t))
  | 0x27 => guardO (m == 0) (some .steer)
  | 0x28 => guardO (m == 0) (some .merge)
  | 0x29 => guardO (m == 0) (some .amerge)
  | 0x2A => guardO (1 ≤ m && m < 8) (some (.carry m))
  | 0x2B => guardO (m == 0) (some .gate)
  | 0x2C => guardO (m == 0) (some .join)
  | 0x2D => guardO (m == 0) (some .eosq)
  | 0x2E => guardO (m == 0) (some .tagq)
  | 0x2F => guardO (m == 0) (some .psnq)
  | 0x4B => (tfOf (fld m 5 3)).bind fun t => (ccOf (fld m 2 0)).map fun c => .fcmp t c
  | 0x4C => (tfOf (fld m 5 3)).bind fun t => guardO (fld m 2 0 == 0) (some (.fcls t))
  | 0x4D => (tfOf (fld m 5 3)).bind fun t => (rmOf (fld m 2 0)).map fun r => .frnd t r
  | 0x58 => (tlOf (fld m 5 2)).bind fun d => guardO (fld m 1 0 == 0)
      (some (.cvt d ((tlOf (fld e 8 5)).getD d) ((rmOf (fld e 4 2)).getD .rne)))
  | 0x59 => (fbOf (fld m 5 2)).bind fun f => guardO (fld m 1 0 == 0)
      (some (.qnt f ((tlOf (fld e 8 5)).getD .f32) ((rmOf (fld e 4 2)).getD .rne)))
  | 0x5A => (fbOf (fld m 5 2)).bind fun f => guardO (fld m 1 0 == 0)
      (some (.dqt f ((tlOf (fld e 8 5)).getD .f32) ((rmOf (fld e 4 2)).getD .rne)))
  | 0x5B => (tlOf (fld m 5 2)).bind fun t => guardO (t.isNarrow && fld m 1 0 == 0) (some (.pack t))
  | 0x5C => (tlOf (fld m 5 2)).bind fun t => guardO (t.isNarrow && fld m 1 1 == 0) (some (.unpk t (bitN m 0)))
  | 0x60 => (tlOf (fld m 5 2)).bind fun t => guardO (t != .f64 && fld m 1 0 == 0) (some (.shuf t))
  | 0x61 => (tlOf (fld m 5 2)).bind fun t => guardO (t != .f64 && fld m 1 0 == 0) (some (.bcst t))
  | 0x62 => (tlOf (fld m 5 2)).bind fun t => guardO (t != .f64) (some (.slid t (bitN m 1) (bitN m 0)))
  | 0x63 => (tlOf (fld m 5 2)).bind fun t => guardO (t != .f64 && fld m 1 1 == 0) (some (.zip t (bitN m 0)))
  | 0x64 => (tlOf (fld m 5 2)).bind fun t => guardO (t != .f64 && fld m 1 1 == 0) (some (.uzp t (bitN m 0)))
  | 0x69 => (tlOf (fld m 5 2)).bind fun t => guardO t.isRed
      (match fld m 1 0 with
       | 0 => some (.scan t .sum) | 1 => some (.scan t .max) | 2 => some (.scan t .min) | _ => none)
  | 0x6A => (tlOf (fld m 5 2)).bind fun t =>
      guardO ((t == .i8 || t == .n8 || t == .f16 || t == .b16) && fld m 1 0 == 0) (some (.ldot t))
  | 0x98 => guardO (fld m 2 0 == 0) (some (.ord (fld m 5 3)))
  | 0x99 => guardO (fld m 2 0 == 0) (some (.cmpl (fld m 5 3)))
  | 0x9A => (fenceOf (fld m 5 4)).bind fun k => (scopeOf (fld m 2 0)).bind fun s => guardO (!bitN m 3) (some (.fence k s))
  | 0x9B => (scopeOf (fld m 2 0)).map fun s => .fencef (fld m 5 3) s
  | 0x9C => guardO (m == 0) (some .tlk)
  | 0x9D => guardO (fld m 2 0 == 0) (some (.tfil (fld m 5 3)))
  | 0x9E => guardO (fld m 2 0 == 0) (some (.tevc (fld m 5 3)))
  | 0x9F => guardO (m == 0) (some .tinv)
  | 0xA0 => guardO (m < 8) (some (.strm m))
  | 0xA1 => guardO (m < 8) (some (.strmq m))
  | 0xA2 => guardO (m == 0) (some .pref)
  | 0xA3 => guardO (m == 0) (some .xprb)
  | 0xB0 => (fmtOf (fld m 4 0)).bind fun f => guardO (f.isMx && decide (m < 32)) (some (.mldb f))
  | 0xB1 => (fmtOf (fld m 4 0)).bind fun f => guardO (f.isMx && decide (m < 32)) (some (.mma f))
  | 0xB2 => (fmtOf (fld m 4 0)).bind fun f => guardO (f.isMx && !f.isBx && decide (m < 32)) (some (.mmas f))
  | 0xB3 => guardO (m == 0) (some .mzro)
  | 0xB4 => guardO (m == 0) (some .mdrn)
  | 0xB5 => guardO (m < 2) (some (.mdrc (bitN m 0)))
  | 0xB6 => guardO (m < 4) (some (.mctx m))
  | 0xB7 => guardO (m == 0) (some .mcnt)
  | 0xB8 => guardO (m == 0) (some .mstat)
  | 0xC0 => (tlOf (fld m 5 2)).bind fun t => guardO (decide (fld m 1 0 < 2)) (some (.ldi t (bitN m 0)))
  | 0xC1 => some (.sldi m)
  | 0xC2 => guardO (m == 0) (some .mark)
  | 0xE0 => some (.bkpt m)
  | 0xE1 => some (.trap m)
  | 0xE2 => guardO (m == 0) (some .halt)
  | _ =>
    match intOpOf op with
    | some o => (tiOf (fld m 5 3)).bind fun t =>
        guardO (if o.hasSat then fld m 2 1 == 0 else fld m 2 0 == 0) (some (.int o t (o.hasSat && bitN m 0)))
    | none =>
    match scaleOpOf op with
    | some o => some (.scale o m)
    | none =>
    match fltOpOf op with
    | some o => (tfOf (fld m 5 3)).bind fun t => guardO (fld m 2 0 == 0) (some (.flt o t))
    | none =>
    match specOpOf op with
    | some o => (tfOf (fld m 5 3)).bind fun t => guardO (t.isTf2 && fld m 2 0 == 0) (some (.spec o t))
    | none =>
    match redOpOf op with
    | some o => (tlOf (fld m 5 2)).bind fun t => guardO (t.isRed && fld m 1 0 == 0) (some (.red o t))
    | none =>
    match accOpOf op with
    | some o => guardO (fld m 2 0 < 5 && !((o == .gth || o == .sct) && fld m 2 0 == 4)) (some (.acc o (fld m 5 3) (fld m 2 0)))
    | none =>
    match atomOpOf op with
    | some (o, r) => (atOf (fld m 2 0)).bind fun t => guardO (o.tyOk t) (some (.atom o r (fld m 5 3) t))
    | none => none

/-- E of the forms of R82 (R95). -/
def eOk (op m e : Nat) : Bool :=
  if op == 0x04 || op == 0x06 then (bitN e 8 || fld e 7 6 == 0) && fld e 4 0 == 0
  else if op == 0x05 then (bitN e 8 || fld e 7 6 == 0) && fld e 4 2 != 0 && fld e 1 0 == 0
  else if op == 0x58 then
    match tlOf (fld e 8 5), rmOf (fld e 4 2), tlOf (fld m 5 2) with
    | some s, some r, some d => s != d && (!(s.isInt && d.isInt) || r == .rne) && fld e 1 0 == 0
    | _, _, _ => false
  else if op == 0x59 || op == 0x5A then
    match tlOf (fld e 8 5), rmOf (fld e 4 2) with
    | some s, some _ => s.isTf2 && fld e 1 0 == 0
    | _, _ => false
  else true

/-- A consumer field (R80): none where V = 0; an error where V = 0 and another bit is set. -/
def decodeCon (c : Nat) : Option (Option (Nat × PortName)) :=
  if bitN c 8 then some (some (fld c 5 0, portOf (fld c 7 6)))
  else if c == 0 then some none else none

/-- A form has a result (R111, R112, R181, R197 to R218, R226). -/
def FOp.hasResult : FOp → Bool
  | .recv _ | .peek _ | .rdr _ | .fan | .sel _ | .nul | .int .. | .icmp .. | .isat .. | .aadd .. | .abnd _ | .steer | .amerge
  | .carry _ | .gate | .join | .eosq | .tagq | .psnq | .flt .. | .fcmp .. | .fcls _ | .frnd .. | .spec .. | .cvt .. | .qnt ..
  | .dqt .. | .pack _ | .unpk .. | .shuf _ | .bcst _ | .slid .. | .zip .. | .uzp .. | .red .. | .scan .. | .ldot _ | .tlk
  | .strmq _ | .mstat | .ldi .. => true
  | .scale o _ => match o with
    | .sset | .srel | .sgen | .sclr => false
    | _ => true
  | _ => false

/-- RDR or WRR of a register class that R93 gives, with an index it leaves unused (R98: DET 0x15). -/
def unusedReg (op m : Nat) : Bool :=
  (op == 0x07 || op == 0x08) && (fld m 5 4 == 1 || fld m 5 4 == 2) && (regOf (fld m 5 4) (fld m 3 0)).isNone

/-- The form that a word's OP and MOD name, whatever its E and consumers; RDR or WRR of an unused index stands for that of fsw. -/
def slotForm (k : Kind) (w : W32) : Option FOp :=
  let op := fld w.toNat 31 24
  let m := fld w.toNat 23 18
  match opKinds op with
  | none => none
  | some ok =>
    if !ok k then none
    else if unusedReg op m then some (if op = 0x07 then .rdr .fsw else .wrr .fsw)
    else decodeMod op m (fld w.toNat 17 9)

/-- The consumers that a word's fields name. -/
def wordCons (w : W32) : List (Nat × PortName) :=
  let f (n : Nat) : Option (Nat × PortName) := (decodeCon n).bind id
  ([f (fld w.toNat 8 0), if usesE (fld w.toNat 31 24) then none else f (fld w.toNat 17 9)]).filterMap id

/-- A fabric word on an element kind: the slot, or CODE and DET of the lowest failing check of R98 on the word alone. -/
def decodeSlot (k : Kind) (w : W32) : Except (Nat × Nat) Slot :=
  let n := w.toNat
  let op := fld n 31 24
  let m := fld n 23 18
  let c1 := fld n 17 9
  match opKinds op with
  | none => .error (0x02, 0x01)
  | some ok =>
    if !ok k then .error (0x02, 0x02)
    else match decodeMod op m c1 with
      | none =>
        if !unusedReg op m then .error (0x01, 0x10)
        else match decodeCon (fld n 8 0), decodeCon c1 with
          | some a, some b => .error (0x01, if op = 0x08 && (a.isSome || b.isSome) then 0x12 else 0x15)
          | _, _ => .error (0x01, 0x12)
      | some f =>
        if !eOk op m c1 then .error (0x01, 0x11)
        else match decodeCon (fld n 8 0), (if usesE op then some none else decodeCon c1) with
          | some a, some b =>
            if !f.hasResult && (a.isSome || b.isSome) then .error (0x01, 0x12) else .ok { op := f, con0 := a, con1 := b }
          | _, _ => .error (0x01, 0x12)

/-- Retag and CMK bits of E (R95). -/
def encodeSendE (r : Option Nat) (cmk : Bool) (level : Nat) : Nat :=
  (match r with | some c => put 8 8 1 + put 7 6 c | none => 0) + put 5 5 (b2n cmk) + put 4 2 level

/-- OP, MOD and E of an operation, from the tables of R91, R94 and R95. -/
def encodeOp : FOp → Nat × Nat × Nat
  | .nop => (0x00, 0, 0)
  | .recv c => (0x01, c, 0) | .peek c => (0x02, c, 0) | .drop c => (0x03, c, 0)
  | .send q r k => (0x04, q, encodeSendE r k 0)
  | .sende q r k l => (0x05, q, encodeSendE r k l)
  | .sendp q r k => (0x06, q, encodeSendE r k 0)
  | .rdr r => (0x07, r.code, 0) | .wrr r => (0x08, r.code, 0)
  | .fan => (0x09, 0, 0) | .sel w => (0x0A, w, 0) | .nul => (0x0B, 0, 0)
  | .state (some v) => (0x0C, v, 0) | .state none => (0x0C, 16, 0)
  | .tmsk k t => (0x0D, put 5 5 (b2n k) + t, 0)
  | .int o t s => (o.code, put 5 3 t.code + b2n s, 0)
  | .icmp t c => (0x21, put 5 3 t.code + c.code, 0)
  | .isat s d => (0x22, put 5 3 s.code + d.code, 0)
  | .aadd t s => (0x23, put 5 3 t.code + s, 0)
  | .abnd t => (0x24, put 5 3 t.code, 0)
  | .steer => (0x27, 0, 0) | .merge => (0x28, 0, 0) | .amerge => (0x29, 0, 0) | .carry l => (0x2A, l, 0)
  | .gate => (0x2B, 0, 0) | .join => (0x2C, 0, 0) | .eosq => (0x2D, 0, 0) | .tagq => (0x2E, 0, 0) | .psnq => (0x2F, 0, 0)
  | .scale o k => (o.code, k, 0)
  | .flt o t => (o.code, put 5 3 (t.code - 6), 0)
  | .fcmp t c => (0x4B, put 5 3 (t.code - 6) + c.code, 0)
  | .fcls t => (0x4C, put 5 3 (t.code - 6), 0)
  | .frnd t r => (0x4D, put 5 3 (t.code - 6) + r.code, 0)
  | .spec o t => (o.code, put 5 3 (t.code - 6), 0)
  | .cvt d s r => (0x58, put 5 2 d.code, put 8 5 s.code + put 4 2 r.code)
  | .qnt f s r => (0x59, put 5 2 f.code, put 8 5 s.code + put 4 2 r.code)
  | .dqt f d r => (0x5A, put 5 2 f.code, put 8 5 d.code + put 4 2 r.code)
  | .pack t => (0x5B, put 5 2 t.code, 0) | .unpk t h => (0x5C, put 5 2 t.code + b2n h, 0)
  | .shuf t => (0x60, put 5 2 t.code, 0) | .bcst t => (0x61, put 5 2 t.code, 0)
  | .slid t b u => (0x62, put 5 2 t.code + put 1 1 (b2n b) + b2n u, 0)
  | .zip t h => (0x63, put 5 2 t.code + b2n h, 0) | .uzp t h => (0x64, put 5 2 t.code + b2n h, 0)
  | .red o t => (o.code, put 5 2 t.code, 0)
  | .scan t o => (0x69, put 5 2 t.code + (match o with | .sum => 0 | .max => 1 | .min => 2), 0)
  | .ldot t => (0x6A, put 5 2 t.code, 0)
  | .acc o c w => (o.code, put 5 3 c + w, 0)
  | .atom o r c t => (o.code r, put 5 3 c + t.code, 0)
  | .ord c => (0x98, put 5 3 c, 0) | .cmpl c => (0x99, put 5 3 c, 0)
  | .fence k s => (0x9A, put 5 4 k.code + s.code, 0)
  | .fencef c s => (0x9B, put 5 3 c + s.code, 0)
  | .tlk => (0x9C, 0, 0) | .tfil c => (0x9D, put 5 3 c, 0) | .tevc c => (0x9E, put 5 3 c, 0) | .tinv => (0x9F, 0, 0)
  | .strm s => (0xA0, s, 0) | .strmq s => (0xA1, s, 0) | .pref => (0xA2, 0, 0) | .xprb => (0xA3, 0, 0)
  | .mldb f => (0xB0, f.code, 0) | .mma f => (0xB1, f.code, 0) | .mmas f => (0xB2, f.code, 0)
  | .mzro => (0xB3, 0, 0) | .mdrn => (0xB4, 0, 0) | .mdrc a => (0xB5, b2n a, 0) | .mctx c => (0xB6, c, 0)
  | .mcnt => (0xB7, 0, 0) | .mstat => (0xB8, 0, 0)
  | .ldi t l => (0xC0, put 5 2 t.code + b2n l, 0) | .sldi k => (0xC1, k, 0) | .mark => (0xC2, 0, 0)
  | .bkpt n => (0xE0, n, 0) | .trap n => (0xE1, n, 0) | .halt => (0xE2, 0, 0)

/-- A consumer field's bits (R80). -/
def encodeCon : Option (Nat × PortName) → Nat
  | none => 0
  | some (s, q) => put 8 8 1 + put 7 6 q.code + put 5 0 s

/-- The word of a slot (R79). -/
def encodeSlot (s : Slot) : W32 :=
  let (op, m, e) := encodeOp s.op
  let c1 := if usesE op then e else encodeCon s.con1
  BitVec.ofNat 32 (put 31 24 op + put 23 18 m + put 17 9 c1 + put 8 0 (encodeCon s.con0))

def conOk : Option (Nat × PortName) → Bool
  | none => true
  | some (s, _) => decide (s < 64)

/-- A slot that has a word: its fields are in range, a form without a result has no consumer (R111), and a form whose CON1 is
E names none there (R82). -/
def Slot.wf (s : Slot) : Bool :=
  s.op.wf && conOk s.con0 && conOk s.con1 && (s.op.hasResult || (s.con0.isNone && s.con1.isNone)) &&
    (!usesE (encodeOp s.op).1 || s.con1.isNone)

end Machine

end Sys2Proof
end

