-- ==== Sys2Proof/Config.lean ====
section
/-! DEFINITION. What the spec leaves to the part: free values (opaque, nothing can be proved of them) and the constants that
name a choice of the model (notes/assumptions). -/

namespace Sys2Proof.Config

open Sys2Proof.Machine

/-- The Falcon-1024 check of a signed body (R319, R441, R449): the spec names the algorithm and gives no arithmetic (DESIGN CHOICE, log entry 17). -/
opaque falconVerify : (key : List Byte) → (body : List Byte) → (signature : List Byte) → Bool

/-- The key that checks a Bedrock update (R319). -/
opaque updateKey : List Byte

/-- SHAKE256, as the attestation report of the Hardpan core gives it (R452). -/
opaque shake256 : List Byte → List Byte

/-- The rollback counter that a block handed to the Hardpan core by SVPOL asks the fuses to rise to, where it is such a request (R450): the spec gives its
layout nowhere. -/
opaque fuseRequest : List Byte → Option Nat

/-- A signature with the module's Falcon-1024 identity key (R452). -/
opaque identitySign : List Byte → List Byte

/-- A value the spec leaves open, the n-th the machine draws (DESIGN CHOICE, log entry 16). -/
opaque freeByte : Nat → Byte

/-- The word a Grit-marked, parity-struck or otherwise uncorrectable store holds (R414 gives its poison, not its bits). -/
opaque freeWord : Nat → Word


/-- Energy in mJ that the strips of a partition take in an fc, for one of the views (R428): the part's own. -/
opaque energyMj : (part view fc : Nat) → Nat

/-- Slice length in ns of R336 where no operator has set another: 4 ms. -/
def sliceNs : Nat := 4000000

/-- Strips of a module and columns of a strip (R12). -/
def strips : Nat := 8
def stripCols : Nat := 16

end Sys2Proof.Config
end

