-- ==== Sys2Proof/Machine/State.lean ====
section
/-! DEFINITION. The state of one module as plain data (spec/01, 06 to 17), and the state right after reset.
Everything a region holds is reached by its slot; what an image leaves out is not listed. -/

namespace Sys2Proof.Machine

/-- Why the machine stops. No meaning of this model raises it: faults of the part are modelled as the spec describes them
(fault records, freezes, hart traps), so a step always answers a next state or, for a base-ISA word, a refusal. Safe. -/
inductive Fault where
  /-- Reserved for an access no rule places; raised by nobody. Safe. -/
  | unplaced
  deriving DecidableEq, Repr

/-- Why an instruction has no meaning here. -/
inductive Refusal where
  /-- Raised by an arm of `exec` that has no meaning yet. Safe. -/
  | notModelled (mnemonic : String)
  /-- Raised by `step` when the hart's next word is neither a form of the control-core extension nor a base instruction that the model
  runs (State.baseRun): the spec gives none of the RISC-V words. Safe. -/
  | baseIsa (word : W32)
  deriving DecidableEq, Repr

/-! ### Elements -/

/-- A word in a channel FIFO: the token with the binding it was stamped with, its stale mark (R172) and the fc of arrival (R19). -/
structure FifoTok where
  tok : Token
  stale : Bool := false
  arrived : Nat := 0
  deriving DecidableEq, Repr

/-- A lane transfer held by a lane channel (R224), with the entries of its blocks. -/
structure LaneTok where
  val : LaneVal
  arrived : Nat := 0
  deriving DecidableEq, Repr

/-- The window word of a block-format channel (R174). -/
structure Window where
  alp : Nat := 0
  rlp : Nat := 0
  crd : Nat := 0
  cur : Option (BitVec 6) := none
  deriving DecidableEq, Repr

/-- What has arrived at a channel in the present fc: a token, a scale transfer, or a lane transfer with its scales (R19, R36, R169). -/
inductive Arr where
  | token (t : Token)
  | scale (x : BitVec 9)
  | lane (scales : List (BitVec 9)) (v : LaneVal)
  deriving DecidableEq, Repr

/-- Run-time state of an input channel: FIFO, lane transfers, arrivals of the present fc, residual sticky pops of the head (R20), window
word, entries allocated for a lane transfer that has not arrived (R224), pops since activation (TPOS of R349), last data word popped. -/
structure Chan where
  fifo : List FifoTok := []
  lanes : List LaneTok := []
  pend : List Arr := []
  resid : Nat := 0
  win : Window := {}
  laneEnts : List (BitVec 6) := []
  pops : Nat := 0
  last : Option Word := none
  deriving DecidableEq, Repr

/-- A token in an output-port queue, with the scale its capture gave (R178) and its configuration parity (R355). -/
structure PortItem where
  tok : Token
  scale : Option (BitVec 9) := none
  deriving DecidableEq, Repr

/-- An output port: queue (R21), credits held for its channel (R19, R175), position and binding of the burst it sends (R178). -/
structure OutPort where
  queue : List PortItem := []
  fcred : Nat := 0
  wcred : Nat := 0
  bpos : Nat := 0
  bstag : BitVec 6 := 0
  bgen : BitVec 4 := 0
  deriving DecidableEq, Repr

/-- A register bank (R22). `bad`: registers whose store holds an uncorrectable error (R414): i for d, 16 + i for p. -/
structure Bank where
  d : List Word := List.replicate 16 0
  p : List (BitVec 16) := List.replicate 4 0
  st : BitVec 4 := 0
  tm : W32 := 0
  fsw : BitVec 5 := 0
  bad : List Nat := []
  deriving DecidableEq, Repr

/-- An SRF entry (R167). -/
structure Srf where
  held : Bool := false
  v : Bool := false
  g : BitVec 4 := 0
  e : BitVec 9 := 0
  deriving DecidableEq, Repr

/-- A beat run in progress (R33): transition, bank, next beat index, CTAG of the first beat, fc of the selection or of the
last commit, and whether the next beat is one that was abandoned and is the point of resumption (R346). -/
structure Run where
  tran : Nat
  bank : Nat
  beat : Nat := 0
  ctag : BitVec 2 := 0
  issued : Nat := 0
  again : Bool := false
  deriving DecidableEq, Repr

/-- The cycle record of an element (R425), with its Grit events and commits (R428, R434). -/
structure Cycles where
  cls : List Nat := List.replicate 5 0
  opnd : List Nat := List.replicate 32 0
  port : List Nat := List.replicate 16 0
  grit : Nat := 0
  fires : Nat := 0
  deriving DecidableEq, Repr

/-- A tag-table entry (R208). -/
structure TagEnt where
  v : Bool := false
  d : Bool := false
  fp : Bool := false
  tag : Nat := 0
  slot : Nat := 0
  deriving DecidableEq, Repr

/-- What a chain request does when it is performed (R197 to R210, R218). -/
inductive ReqOp where
  | ld (w : Nat) | st (w mask : Nat) | ldg (w : Nat) | stg (w mask : Nat)
  | gth (w : Nat) (elts : List (Nat × Nat)) | sct (w : Nat) (elts : List (Nat × Nat × Nat))
  | atom (o : AtomOp) (ret : Bool) (t : AtomTy) (b c : Nat)
  | ord | cmpl | fencef
  | tfil (entry slot : Nat) | tevc (slot tag : Nat) (dirty : Bool)
  | xprb | strmDone
  deriving DecidableEq, Repr

/-- How far a request has come (R192, R205): in its chain, at its target, performed, acknowledged by a remote target. -/
inductive ReqSt where
  | queued | sent | performed | acked
  deriving DecidableEq, Repr

/-- A tracked request of an order chain (R191): its operands, the requests and fences it waits for (R204, R206, R207), its
translation with the master ID of the walk, the elements already performed (R195), the slot's lines that a TEVC took, with their poison (R210), and
its reply. -/
structure Req where
  seq : Nat
  op : ReqOp
  addr : Nat := 0
  data : Word := 0
  word : Word := 0
  ctag : BitVec 2 := 0
  paddr : Option Nat := none
  mid : Nat := 0
  pageEnd : Nat := 0
  psn : Bool := false
  dpsn : Bool := false
  after : List (Nat × Nat) := []
  fences : Nat := 0
  scope : Scope := .element
  st : ReqSt := .queued
  remote : Bool := false
  done : List (Nat × Nat) := []
  lines : List (List Byte × Bool) := []
  reply : Option Token := none
  fault : Bool := false
  deriving DecidableEq, Repr

/-- An order chain (R191). -/
structure Chain where
  next : Nat := 0
  reqs : List Req := []
  deriving DecidableEq, Repr

/-- A fence in force (R206): its number, kind and scope, and the earlier requests it still waits for. -/
structure Fence where
  id : Nat
  kind : FenceKind
  scope : Scope
  pre : List (Nat × Nat)
  deriving DecidableEq, Repr

/-- A cached translation (R282): page base and size, leaf entry and ASID, with the master ID that the ASID's entry gave the walk (R277, R287)
and the fc of the walk, which requests that miss in that fc share (R282, R305). -/
structure Trans where
  die : Nat := 0
  asid : Nat
  mid : Nat := 0
  va : Nat
  size : Nat
  leaf : Nat
  fc : Nat := 0
  deriving DecidableEq, Repr

/-- A write that a HOLD store stream keeps (R216): the region virtual address, the bytes, and whether they are poisoned. -/
structure HeldWrite where
  va : Nat
  bytes : List Byte
  psn : Bool
  scale : Bool := false
  deriving DecidableEq, Repr

/-- The running descriptor of a stream (R211 to R216): q0 to q7; units moved; end-of-stream tokens due; words of the current
store burst, its captured scale, and bytes of the current unit already moved; poison seen; whether all units have moved; held
writes and how many of them are being released; kept units and the position at the last mark; the translation entry that a walk has to refill, of its data or (true) its scales; kept units
that a rollback sends again (R417), each end-of-stream token a unit of its own. `markEos`: the end-of-stream token that was due at the last mark. -/
structure SRun where
  q : List W64
  fromCmd : Bool := false
  units : Nat := 0
  eos : Option Nat := none
  burst : List Token := []
  cap : BitVec 9 := 0
  part : List Byte := []
  partPsn : Bool := false
  psn : Bool := false
  ended : Bool := false
  held : List HeldWrite := []
  rel : Nat := 0
  kept : List (List PortItem) := []
  markUnits : Nat := 0
  markEos : Option Nat := none
  refill : Option Bool := none
  replay : List (List PortItem) := []
  deriving DecidableEq, Repr

/-- The values under which a queue's packets are accepted (R321): the VCP's tenant, address space and page, and the shadow of the queue's
privileged words. -/
structure VView where
  tid : Nat := 0
  asid : Nat := 0
  page : Nat := 0
  priv : List W64 := []
  deriving DecidableEq, Repr

/-- The packet that a command or region came from (R312, R315, R333): VCP, queue, accepted record, tag, ring entry, opcode, whether a
completed entry is suppressed, its place in Bedrock's acceptance order (R318), and the values it was accepted under (R321). -/
structure PktRef where
  v : Nat
  q : Nat
  seq : Nat
  tag : Nat := 0
  rix : Nat := 0
  opc : Nat := 0
  ncm : Bool := false
  order : Nat := 0
  view : VView := {}
  deriving DecidableEq, Repr

/-- A completion entry due to a queue (R315): its words without the phase, and the page and ring it goes to. -/
structure DueEntry where
  words : List W64
  view : VView
  deriving DecidableEq, Repr

/-- A command in a queue (R245 to R249): kind, block, ticket sequence, issuing hart (64 for none), tenant, address space and partition, the
packet it came from, the barrier parity recorded at acceptance (R258), what it has done so far, and the control blocks it took
(R264). `fail`: 0, the fault code it failed with, or 256 without a code; `credited`: its barrier has had its credits or its failure;
`paid`: units of a stream command that its barrier has been credited with; `counted`: its completion counter has had its add. -/
structure Cmd where
  kind : Nat
  c : List W64
  seq : Nat
  hart : Nat := 0
  tid : Nat := 0
  asid : Nat := 0
  part : Nat := 0
  pkt : Option PktRef := none
  par : Bool := false
  popped : Bool := false
  issued : Bool := false
  paused : Bool := false
  fail : Nat := 0
  units : Nat := 0
  pos : Nat := 0
  done : Bool := false
  paid : Nat := 0
  credited : Bool := false
  counted : Bool := false
  blocks : List (List W64) := []
  mask : Nat := 0
  deriving DecidableEq, Repr

/-- A command queue of a unit (R244, R247): next sequence number, waiting and running commands oldest first, and the final
state words of the last commands. -/
structure CmdQueue where
  next : Nat := 0
  q : List Cmd := []
  hist : List (Nat × Nat) := []
  deriving DecidableEq, Repr

/-- An AGU stream: the running descriptor, fabric descriptors that wait to start (at most two places in all, R213), its scoreboard
queue, its two translation entries, and whether it has stopped for a drain, with the port of the descriptor that stopped. Of the last descriptor that
started: the port of a load, the mark channel of a load (R216), whether it is a HOLD store. `past`: load descriptors that have ended since the last
mark (R416, R417); `redo`: those that a rollback has put back, which run before any other. -/
structure Stream where
  run : Option SRun := none
  pend : List Nat := []
  cmds : CmdQueue := {}
  teData : Option Trans := none
  teScale : Option Trans := none
  stopped : Bool := false
  lost : Bool := false
  stopPort : Option Nat := none
  lastPort : Option Nat := none
  loads : Option Nat := none
  holds : Bool := false
  past : List SRun := []
  redo : List SRun := []
  deriving DecidableEq, Repr

/-- ME state (R14): scratchpad bytes that are not 0, poisoned lines, tag table and fill pointers, order chains, streams,
fences, PREF requests waiting for a walker, and the banks already swapped after a flip (R355). -/
structure Me where
  spad : List Host.Cell := []
  spoison : List Nat := []
  tags : List (Nat × TagEnt) := []
  fill : List (Nat × Nat) := []
  chains : List Chain := List.replicate 8 {}
  streams : List Stream := List.replicate 8 {}
  fences : List Fence := []
  nfence : Nat := 0
  prefs : List Nat := []
  swapped : Nat := 16
  deriving DecidableEq, Repr

/-- A column-chunk of B (R231). -/
structure Chunk where
  codes : BitVec 1536
  mexp : BitVec 192
  psn : Bool
  scale : List (BitVec 9)
  deriving DecidableEq, Repr

/-- A drain or hand-off of the drain buffer (R235, R236): word positions reached per port and the ports
that take a word at the end of the present fc, or the copy engine's element. -/
structure Drain where
  buf : List W32
  psn : Bool
  isInt : Bool
  mask : Nat := 0
  level : Nat := 0
  ctag : BitVec 2 := 0
  pos : List (Nat × Nat) := []
  due : List Nat := []
  copy : Bool := false
  handed : Bool := false
  add : Bool := false
  recA : Nat := 0
  ctr : Nat := 0
  row0 : Int := 0
  col0 : Int := 0
  elt : Nat := 0
  blk : List W64 := []
  deriving DecidableEq, Repr

/-- An MX context (R221, R229). `cfg` is the configuration word once MCTX has set it. A half's chunks stand in load order. `pend`: arms
of SARM that take effect at the end of the present fc (R230). -/
structure MxCtx where
  cfg : Option W32 := none
  acc : List W32 := List.replicate 256 0
  tdone : Bool := false
  pt : Bool := false
  full0 : Bool := false
  full1 : Bool := false
  h0 : List Chunk := []
  h1 : List Chunk := []
  fh : Bool := false
  fi : Bool := false
  kp : Nat := 0
  rp : Nat := 0
  fc : Nat := 0
  fkp : Nat := 0
  ac : Nat := 0
  ti : Nat := 0
  dwp : Nat := 0
  pend : List Nat := []
  drain : Option Drain := none
  deriving DecidableEq, Repr

/-- An element of a region (R14): configuration from the image, and state. `selFc` is the fc of its last selection, `holdMmas`
holds MMAS transitions until the bank swap (R225), `srfWas` keeps, newest first, what SRF entries held before the scale transfers that a beat
in progress does not see (R169). -/
structure Element where
  elt : Elt
  stage : Nat := 0
  store : List W32 := []
  trans : List (W32 × W32 × W32) := []
  chanCfg : List W64 := []
  chans : List Chan := List.replicate 32 {}
  ports : List OutPort := List.replicate 16 {}
  banks : List Bank := List.replicate 4 {}
  srf : List Srf := List.replicate 64 {}
  srfWas : List (Nat × Srf) := []
  stall : List (Nat × Nat) := List.replicate 32 (9, 0)
  pass : List Nat := List.replicate 32 0
  rng : W32 := 0
  run : Option Run := none
  selFc : Option Nat := none
  flipFc : Option Nat := none
  halted : Bool := false
  psw : W32 := 0
  storeBad : Bool := false
  holdMmas : Bool := false
  cycles : Cycles := {}
  me : Me := {}
  mx : List MxCtx := List.replicate 4 {}
  deriving DecidableEq, Repr

/-- A counter-chain unit (R37, R136, R138): configuration words, run bounds and values while a chain runs, the level whose
end-of-stream token is due, the arm FIFO, credit for its output, and whether it was armed at activation and has finished. -/
structure Ccu where
  words : List W32
  running : Bool := false
  bound : List Int := []
  val : List Int := []
  eos : Option Nat := none
  armq : List FifoTok := []
  fcred : Nat := 0
  out : List Token := []
  ranOnce : Bool := false
  stopped : Bool := false
  emitFc : Option Nat := none
  deriving DecidableEq, Repr

/-- A delay line (R399): depth setting, the tokens it holds, oldest first, each with the scale transfer ahead of it, and a scale transfer
whose burst has yet to enter (R175). -/
structure Delay where
  cfg : W64
  toks : List PortItem := []
  wait : Option (BitVec 9) := none
  deriving DecidableEq, Repr

/-- An item in a switch buffer with its configuration parity (R355, R395). -/
structure BufItem where
  item : Item
  par : Bool := false
  deriving DecidableEq, Repr

/-- A switch of a region at a physical tile: route entries after relocation (R396), input circuit buffers by (SRC, SIX),
delay lines, circuits the Furrow has arrived on, and circuits it has been passed on to (R357). -/
structure Switch where
  col : Nat
  row : Nat
  routes : List W64 := []
  bufs : List ((Nat × Nat) × List BufItem) := []
  delays : List Delay := []
  furIn : List (Nat × Nat) := []
  furOut : List (Nat × Nat) := []
  deriving DecidableEq, Repr

/-- A lane driver (R400): words, scales and micro-exponents it holds for a transfer not yet sent, its credits toward each
accepting channel, and its position in the current block. -/
structure LaneDrv where
  lane : LaneId
  fmt : Nat
  blen : Nat
  lrow : Nat
  lcol : Nat
  rall : Bool
  call : Bool
  words : List Token := []
  scales : List (BitVec 9) := []
  cred : List ((Nat × Nat) × (Nat × Nat)) := []
  furrow : Bool := false
  deriving DecidableEq, Repr

/-- A lane transfer on its way (R40): the lane, the transfer, the scales sent ahead of it, and the MXs it has yet to reach. -/
structure LaneFly where
  lane : LaneId
  val : LaneVal
  scales : List (BitVec 9)
  left : List (Nat × Nat)
  deriving DecidableEq, Repr

/-- A configured edge (R18, R70): what sends and what receives. -/
structure Edge where
  src : SourceId
  dst : DestId
  deriving DecidableEq, Repr

/-- A late token (R359): the token, its channel and the element or CCU (ELT code) that would have received it, and the scale transfer that came ahead
of it (R185). -/
structure LateTok where
  tok : Token
  ch : Nat
  x : Nat
  y : Nat
  elt : Nat
  scale : Option (BitVec 9) := none
  deriving DecidableEq, Repr

/-- A tile of a region (R324): its element and CCU states and its image coordinates. -/
structure Tile where
  x : Nat
  y : Nat
  elts : List Element := []
  ccu : Option Ccu := none
  deriving DecidableEq, Repr

/-! ### Images, faults and regions -/

/-- An element part of an image (R324). -/
structure EltImg where
  stage : Nat
  seed : W32
  st : List (BitVec 4)
  tm : List W32
  chans : List W64
  trans : List (W32 × W32 × W32)
  store : List W32
  deriving DecidableEq, Repr

/-- A tile record of an image (R324). `broken`: it breaks off, with its switch part unread (R99); no region has such a tile. -/
structure TileImg where
  x : Nat
  y : Nat
  elts : List (Elt × EltImg) := []
  ccu : Option (List W32) := none
  sw : Option (List W64 × List W64) := none
  broken : Bool := false
  deriving DecidableEq, Repr

/-- A region image (R322 to R326, R398, R431). `cut`: its tile records break off (R99); no region has such an image. -/
structure Image where
  w : Nat
  h : Nat
  skp : Bool := false
  msk : Nat := 0
  tiles : List TileImg := []
  recs : List (W64 × W64) := []
  relocs : List W64 := []
  nodes : List (W64 × W64 × W64 × W64) := []
  owned : List (W64 × W64) := []
  cut : Bool := false
  deriving DecidableEq, Repr

/-- A fault as it is raised: code, detail, source and the facts of the record of R349. -/
structure FaultRec where
  code : Nat
  det : Nat := 0
  src : Nat := 0
  x : Nat := 0
  y : Nat := 0
  elt : Nat := 0
  slot : Nat := 0
  tran : Nat := 0
  beat : Nat := 0
  xna : Bool := false
  bank : Nat := 0
  more : Nat := 0
  node : Nat := 0xFFFFFFFF
  tpos : Nat := 0
  lidx : Option Nat := none
  f4 : Nat := 0
  info : Nat := 0
  time : Nat := 0
  fc : Nat := 0
  deriving DecidableEq, Repr

/-- The placement of a region (R329, R330). -/
structure Place where
  ocol : Nat
  orow : Nat
  wm1 : Nat
  hm1 : Nat
  skipped : List Nat := []
  d0 : Nat := 0
  cb : List Nat := [0, 0, 0]
  img : Nat := 0
  iva : Bool := false
  iasid : Nat := 0
  deriving DecidableEq, Repr

/-- Region states (R250, R342). -/
inductive RState where
  | loading | resident | draining | frozen | saved | faulted | rolledBack | killed
  deriving DecidableEq, Repr

/-- Why the units of a region are being stopped (R344, R436): for RGNFRZ, a fault, a stop, a drain that went into freeze
mode, a migration, or a rollback. -/
inductive FreezeWhy where
  | form | fault | stop | switch | migrate | rollback
  deriving DecidableEq, Repr

/-- A freeze in progress or held: its reason, the units that have received it, and whether the front has settled (R345); a rollback's place in
Bedrock's acceptance order (R341, R424). -/
structure Freeze where
  why : FreezeWhy
  got : List UnitId := []
  settled : Bool := false
  order : Nat := 0
  deriving DecidableEq, Repr

/-- A switch out of a region (R357 to R361): incoming region, deadline, tiles flipped (physical), freeze mode, the fault that
turned it, late tokens, late scale transfers by channel whose bursts have yet to come, and units that have passed the Furrow. -/
structure SwitchOut where
  incoming : Option Nat := none
  deadline : Nat := 0
  flipped : List (Nat × Nat) := []
  freeze : Bool := false
  overrun : Bool := false
  late : List LateTok := []
  lateScales : List ((Nat × Nat × Nat × Nat) × BitVec 9) := []
  passed : List UnitId := []
  deriving DecidableEq, Repr

/-- An address with the space it was given in (R491): none for local physical, or the ASID of a VA. -/
structure SpaceAddr where
  addr : Nat := 0
  asid : Option Nat := none
  deriving DecidableEq, Repr

/-- A region slot's region (R42, R250 to R253, R343, R491). `fresh`: its channels take initial credits as its tiles flip in; `credDue`:
window credits of this fc's commits, which travel from the next fc on (R189); `waitCmds`:
stream commands accepted while it loads, or held by its save area (R254); `savedAt`:
the area that holds a saved region; `base` and `baseDelays`: its tiles at activation or at the last restore, and the delay lines of
that restore by image tile (R43, R417) (DEDUCED, log entry 88). -/
structure Region where
  gen : Nat
  state : RState := .loading
  run : Bool := false
  tid : Nat := 0
  asid : Nat := 0
  part : Nat := 0
  plc : Nat := 0
  img : SpaceAddr := {}
  save : SpaceAddr := {}
  fq : Nat := 0
  owner : Option PktRef := none
  early : Bool := false
  nowait : Bool := false
  searched : Bool := false
  image : Option Image := none
  place : Option Place := none
  tiles : List Tile := []
  switches : List Switch := []
  drivers : List LaneDrv := []
  fly : List LaneFly := []
  edges : List Edge := []
  credits : List (DestId × Bool) := []
  credDue : List (DestId × Bool) := []
  par : Bool := false
  shadowOf : Option Nat := none
  shadow : Option Nat := none
  emitted : Bool := false
  lastFault : Nat := 0
  reject : Nat := 0
  fault : Option FaultRec := none
  freeze : Option Freeze := none
  switchOut : Option SwitchOut := none
  entered : List (Nat × Nat) := []
  active : Nat := 0
  noProg : Nat := 0
  noProgArmed : Bool := true
  stamp : Nat := 1
  stp : Bool := false
  stopAt : Option (Nat × Nat × Nat × Nat) := none
  dirty : List (Nat × Nat × Nat) := []
  overruns : Nat := 0
  goWhenEmitted : Bool := false
  started : Bool := false
  killWhenDone : Option Nat := none
  migrating : Bool := false
  gritted : Bool := false
  ownedAt : List (Nat × Nat) := []
  fresh : Bool := true
  waitCmds : List ((Nat × Nat × Nat) × Cmd) := []
  savedAt : SpaceAddr := {}
  base : List Tile := []
  baseDelays : List ((Nat × Nat) × List Delay) := []
  deriving DecidableEq, Repr

/-! ### Harts -/

/-- A token of a hart's token FIFO (R260). -/
structure TfTok where
  word : W32
  psn : Bool := false
  tid : Nat := 0
  deriving DecidableEq, Repr

/-- A page of a hart's own address map: the model's stand-in for the RISC-V page tables, which the spec does not give. -/
structure HartMap where
  va : Nat
  pa : Nat
  size : Nat
  r : Bool := true
  w : Bool := true
  x : Bool := true
  deriving DecidableEq, Repr

/-- What a hart waits in: a BWAIT (R259) with its barrier address, parity and rd, until the completion of the phase releases it (R258); or
an RGNFRZ, or an RGNKIL, that retires when the front has settled (R252, R372), with its slot and rd; or another lifecycle form that takes
effect once the front has settled, and is tried again at each turn of its hart; or a hart that boot has released and on which nothing starts (R449),
until an interrupt comes. -/
inductive HartWait where
  | none
  | form
  | parked
  | bwait (addr : Nat) (par : Bool) (rd : BitVec 5)
  | released (addr : Nat) (rd : BitVec 5)
  | settle (slot : Nat) (rd : BitVec 5) (kill : Bool)
  deriving DecidableEq, Repr

/-- A control core (R239 to R243, R260, R266, R278). The trap registers and their use are the RISC-V family's. `irq`: an interrupt is pending, since `irqFc`; `lost`: dirty
lines of its caches that could not be corrected (R414);
`ie`: interrupts are enabled, 0 at reset as the family has it, by log entry 8; `mpie` and `spie` keep it over a trap to M or HS (DESIGN CHOICE, log entry 4). -/
structure Hart where
  on : Bool := false
  mode : Mode := .m
  pc : W64 := 0
  x : List W64 := List.replicate 32 0
  mtvec : W64 := 0
  mepc : W64 := 0
  mcause : W64 := 0
  mtval : W64 := 0
  mpp : Mode := .m
  stvec : W64 := 0
  sepc : W64 := 0
  scause : W64 := 0
  stval : W64 := 0
  htval : W64 := 0
  spp : Mode := .hs
  oxtnt : BitVec 16 := 0
  oxdl : BitVec 16 := 50
  oxmid : BitVec 12 := 0
  tf : List (List TfTok) := List.replicate 8 []
  cb : List (Option Nat) := List.replicate 16 none
  maps : Option (List HartMap) := none
  irq : Bool := false
  irqFc : Nat := 0
  lost : List Nat := []
  ie : Bool := false
  mpie : Bool := false
  spie : Bool := false
  wait : HartWait := .none
  deriving DecidableEq, Repr

/-! ### Engines, front end, registers -/

/-- A copy engine: its queue, the hand-off queue of MDRC tiles (R377), and whose turn it is. -/
structure CopyEngine where
  cmds : CmdQueue := {}
  handoff : List (Nat × Nat × Nat × Nat) := []
  turn : Bool := false
  deriving DecidableEq, Repr

/-- A collective engine's queue and its running command's progress (R379 to R384): the headers that engines of this module have sent it, by twice
the strip of the sender and 1 for one that comes after this rank; whether it has sent its own; headers exchanged; the acknowledgements that have come
from a receiver of this module; whether the hop in and the hop out come from and go to a paused engine of another module; hop units taken and sent, and
those sent and not acknowledged, and the lane group they last went over; the KV step that is received and its bytes so far; units to be passed on; bytes delivered; and the
reference times of the last progress of the hop in and the hop out. -/
structure CollEngine where
  cmds : CmdQueue := {}
  hdrs : List (Nat × CollHdr) := []
  told : Bool := false
  exchanged : Bool := false
  acks : List Nat := []
  inPaused : Bool := false
  outPaused : Bool := false
  nextRecv : Nat := 0
  nextSend : Nat := 0
  unacked : List (Nat × List Byte) := []
  via : Option Nat := none
  step : Nat := 1
  incoming : List Byte := []
  relayed : List (Nat × List Byte) := []
  bytes : Nat := 0
  lastIn : Nat := 0
  lastOut : Nat := 0
  deriving DecidableEq, Repr

/-- A migration on the Dune engine (R385 to R390): ticket sequence, descriptor, issuer and tenant, source region, round, page records still
to copy, whether the policy that it carries has yet to be checked (R392), the save written, the notify add made, the leaves cleared in this round and the requests through them that a copy waits for, units
moved; and in the destination's role (`atDest`) the source module, the page list it was sent, the current pull with the time of its attempt, and the attempts
that have failed. -/
structure Migration where
  seq : Nat
  m : List W64
  hart : Nat := 0
  tid : Nat := 0
  pkt : Option PktRef := none
  slot : Nat := 0
  atDest : Bool := false
  src : Nat := 0
  recs : List (List W64) := []
  todo : List Nat := []
  round : Nat := 1
  ending : Bool := false
  polWait : Bool := false
  saved : Bool := false
  notified : Bool := false
  pull : Option (Nat × Nat) := none
  attempts : Nat := 0
  cleared : List Nat := []
  waits : List (Nat × Nat × Nat × Nat × Nat) := []
  units : Nat := 0
  deriving DecidableEq, Repr

/-- The Dune engine: 16 page streams, next ticket number, final state words; within a step, the ASID and address of a walk that has met a page of a
list which has not moved (R388). -/
structure Dune where
  streams : List (Nat × Migration) := []
  next : Nat := 0
  hist : List (Nat × Nat) := []
  asked : Option (Nat × Nat) := none
  deriving DecidableEq, Repr

/-- A barrier notify registration (R259) at the atomic unit that is the barrier's home. -/
structure Notify where
  addr : Nat
  home : Nat
  hart : Nat
  fifo : Nat
  tid : Nat
  deriving DecidableEq, Repr

/-- A notify token due (R259). -/
structure NotifyPush where
  hart : Nat
  fifo : Nat
  tok : TfTok
  deriving DecidableEq, Repr

/-- A credit or a failure on its way to a barrier's sole writer (R258), with the command's ticket, its issuer's fault queue and its region's handle. -/
structure BarMsg where
  addr : Nat
  par : Bool
  bytes : Nat := 0
  ticket : Nat := 0
  pkt : Option PktRef := none
  fq : Nat := 0
  part : Nat := 0
  tid : Nat := 0
  asid : Nat := 0
  va : Nat := 0
  hdl : Nat := 0
  deriving DecidableEq, Repr

/-- A queue of a VCP as Bedrock holds it (R307, R315 to R321): EN as the last scan read it; shadow of the privileged words, and whether it
is valid for scans; device indices, the next ring entry to be fetched, CHEAD as it was last read, phase and stop cause, values already reported as tampered, completion entries due, fault records
dropped, and an accepted WAIT (barrier, parity). -/
structure VQueue where
  en : Bool := false
  valid : Bool := false
  priv : Option (List W64) := none
  head : Nat := 0
  fetch : Nat := 0
  chead : Nat := 0
  ctail : Nat := 0
  ftail : Nat := 0
  ctotal : Nat := 0
  stop : Option Nat := none
  tampered : List (Nat × Nat) := []
  due : List DueEntry := []
  drops : Nat := 0
  waiting : Option (Nat × Bool × PktRef) := none
  live : List Nat := []
  latest : Option Nat := none
  deriving DecidableEq, Repr

/-- A virtual command processor (R306, R308, R309). -/
structure Vcp where
  vc0 : W64 := 0x0003000000000000
  vc1 : W64 := 0
  shv : Bool := false
  tcnt : Nat := 0
  nseq : Nat := 0
  scan : Nat := 0
  queues : List VQueue := List.replicate 4 {}
  deriving DecidableEq, Repr

/-- A packet that Bedrock has fetched and not yet accepted (R318): VCP, queue, ring entry, words, the values it was fetched under (R321, R341),
and whether a CANCEL has reached it. -/
structure Packet where
  v : Nat
  q : Nat
  rix : Nat
  pw : List W64
  view : VView := {}
  gone : Bool := false
  deriving DecidableEq, Repr

/-- The journal of a partition (R332): records written, oldest held first. -/
structure Journal where
  first : Nat
  count : Nat := 0
  recs : List (List W64) := []
  deriving DecidableEq, Repr

/-- What a flit of this module carries where the model says it: an item for the peer's span of the same number (R398), or the bytes that answer a
request of another module, with their poison (R202). -/
inductive FlitLoad where
  | none_
  | span (n : Nat) (it : Item)
  | answer (bytes : List (BitVec 8)) (psn : Bool)
  deriving DecidableEq, Repr

/-- A flit of this module (R406): its number on its lane group; the lowest group of its sub-link with its number there, which names the
flit on every group that carries a stripe of it; partition, tenant, module, and its type: 0 requests and engine traffic, 1 collective
hops, 2 span tokens, 3 a stripe whose flit has been sent again over another path; what it carries; and, newest first, the groups and numbers
that it went out under before it moved to this path (R410). -/
structure Flit where
  num : Nat := 0
  lead : Nat × Nat := (0, 0)
  part : Nat
  tid : Nat
  mod : Nat
  kind : Nat := 0
  load : FlitLoad := .none_
  orig : List (Nat × Nat) := []
  deriving DecidableEq, Repr

/-- A lane group (R405 to R407): control word, link state, next flit number, flits sent and not acknowledged (the replay buffer), with the
time of the last acknowledgement, flits that wait for its room, receive sequence, replays in a row of the oldest flit, and the flit it refuses. -/
structure LaneGroup where
  cfg : W64 := 0
  gen : Nat := 0
  lst : Nat := 0
  pmod : Nat := 0
  plg : Nat := 0
  tx : Nat := 0
  unacked : List Flit := []
  waiting : List Flit := []
  ackAt : Nat := 0
  rxSeq : Nat := 0
  replays : Nat := 0
  refused : Option Nat := none
  deriving DecidableEq, Repr

/-- A fault-register block of a partition (R352), with the drops counted for its ring (R351). -/
structure FaultRegs where
  wdl : BitVec 16 := 2000
  ifr : Nat := 0
  isz : Nat := 0
  ihead : W32 := 0
  itail : W32 := 0
  men : Bool := false
  madr : Nat := 0
  mdat : W32 := 0
  drops : Nat := 0
  deriving DecidableEq, Repr

/-- A debug block (R435): the breakpoint enables, node breakpoint, readout selector, and the status bits. -/
structure DebugBlk where
  bke : W64 := 0
  dny : Bool := false
  wh : Bool := false
  bkn : Nat := 0
  snode : Nat := 0
  sloc : Nat := 0
  db3 : W64 := 0
  db4 : W64 := 0
  deriving DecidableEq, Repr

/-- A scrub status word, the time its pass began, the lines it has done of how many, and the line whose write-back is due (R420 to R422). -/
structure Scrub where
  start : Nat := 0
  done : Nat := 0
  lines : Nat := 1
  miss : Bool := false
  pass : Nat := 0
  unc : Nat := 0
  cor : Nat := 0
  pending : Option (Nat × List Byte) := none
  deriving DecidableEq, Repr

/-- A counter of a bank (R429, R444, R445): its event name, live and released values, the tenants whose work its scope has held since it
was bound, whether it counts yet, and a clear that waits for the next release instant. -/
structure Counter where
  event : W64 := 0
  live : Nat := 0
  released : Nat := 0
  tids : List Nat := []
  counting : Bool := false
  clear : Bool := false
  deriving DecidableEq, Repr

/-- A bound counter bank (R266, R429, R430): partition and number, the tenant whose view it is (none for the operator), the hart, the
words of R430, and the fc in which it was asked for. `prov`: the operator has asked for it in `fc`, and is granted it when the fc has passed
with no request of a guest. -/
structure CtrBank where
  part : Nat
  bank : Nat
  tid : Option Nat
  hart : Nat
  ctrs : List Counter
  abs : W32 := 0
  mig : Bool := false
  scat : Nat := 0
  fc : Nat := 0
  prov : Bool := false
  deriving DecidableEq, Repr

/-- A region's trace (R433): the block's local physical address and words, the reader's view, the MID and partition of the hart that
started it, TAIL, LOST, the count in the ring's LOST record, records not yet written, and those of the present fc, each with its strip; the fc
of the TRCON (R266, R268), and `prov` as for a counter bank. -/
structure Trace where
  slot : Nat
  hart : Nat
  mid : Nat := 0
  part : Nat := 0
  blk : Nat
  tb : List W64
  op : Bool
  tail : Nat := 0
  lost : Nat := 0
  drops : Nat := 0
  held : List (List W64) := []
  fresh : List (Nat × List W64) := []
  fc : Nat := 0
  prov : Bool := false
  deriving DecidableEq, Repr

/-- A disclosure policy in force (R440, R441): its body words p0 to p3, and the words of one that takes effect at the next
release instant; the installed key; the signed policy itself (R392); the place of each in the order in which policies were installed. -/
structure Policy where
  tid : Nat
  key : List Byte
  signed : List Byte := []
  body : List W64
  pending : Option (List W64) := none
  ord : Nat := 0
  pendOrd : Nat := 0
  deriving DecidableEq, Repr

/-- A translation invalidation accepted and not complete (R287). -/
structure Inval where
  reqs : List (Nat × Nat × Nat × Nat × Nat)
  deriving DecidableEq, Repr

/-- The manifest in flash (R449): whether its signature and key hash hold are facts of the part; the fields it carries are
data. `images`: the SHAKE256 hash of each component image; `hashes`: the defect map matches its own. `bytes`: the manifest as stored (R452); `jtag`: it enables the debug module; `journalAt`: the 4 MiB of each partition's journal, by its
first strip (R332). -/
structure Manifest where
  bytes : List Byte := []
  jtag : Bool := false
  journalAt : List (Nat × Nat) := []
  signed : Bool := true
  hashes : Bool := true
  images : List (List Byte) := []
  rollback : Nat := 0
  mids : List Nat := []
  ilhus : List Nat := []
  parts : List (Nat × Nat) := []
  access : List ((Nat × Nat) × (W64 × W64)) := []
  fieldsOk : Bool := true
  deriving DecidableEq, Repr

/-- The flash (R449, R413): the manifest, or none when it cannot be read, the component images and the field defect map it holds; beside it the facts of the part
that a boot meets: whether the memory trains, and whether Bedrock passes its check. -/
structure Flash where
  manifest : Option Manifest := none
  images : List (List Byte) := []
  trains : Bool := true
  bedrockOk : Bool := true
  defects : List ((Nat × Nat) × Nat) := []
  deriving DecidableEq, Repr

/-- The management block and the clocks of power and temperature (R453, R455, R456). -/
structure Mgmt where
  stage : Nat := 0
  err : Nat := 0
  pnow : Nat := 0
  plim : Nat := 2800
  tcool : Nat := 0
  tj : Nat := 0
  tlvl : Nat := 0
  trip : Bool := false
  deriving DecidableEq, Repr

/-- The translation control block (R285, R286), with the stores that wait because 16 commands are pending: the
hart that made it, its offset and value. -/
structure Xlat where
  base : Nat := 0
  en : Bool := false
  vpg : Nat := 0
  acc : Nat := 0
  done : Nat := 0
  err : Bool := false
  xmod : Nat := 0
  pending : List Inval := []
  held : List (Option Nat × Nat × Nat) := []
  deriving DecidableEq, Repr

/-- Whose turn the environment gives next: an event, a hart, or one fc of the fabric clock with its reference ns. -/
inductive Turn where
  | event (i : Instr)
  | hart (h : Nat)
  | tick (ns : Nat)
  deriving DecidableEq, Repr

/-- The whole module. -/
structure State where
  /-- Turns the environment has put forward, next first (the model's own). -/
  agenda : List Turn := []
  /-- Writes to device registers that accesses of this step have performed, in order: the register's local physical address, the bytes
  written as a mask, and the value; they take effect as the step ends (the model's own). -/
  regOps : List (Nat × Nat × Nat) := []
  /-- The hart that runs when the agenda is empty (the model's own). -/
  cur : Nat := 0
  /-- Free values drawn so far (the model's own). -/
  draws : Nat := 0
  fc : Nat := 0
  ns : Nat := 0
  powered : Bool := true
  mgmt : Mgmt := {}
  flash : Flash := {}
  fuseRollback : Nat := 0
  components : List (List Byte) := []
  strap : Nat := 0
  jtag : Bool := false
  harts : List Hart := List.replicate 64 {}
  mem : List Host.Cell := []
  poison : List Nat := []
  ilhus : List Nat := []
  xlat : Xlat := {}
  tcache : List Trans := []
  access : List ((Nat × Nat) × (W64 × W64)) := []
  partTab : List (Nat × W64) := []
  partBlk : List ((Nat × Nat) × W64) := []
  groups : List (Nat × LaneGroup) := []
  routes : List ((Nat × Nat) × W64) := []
  slices : List (Nat × W64) := []
  msix : List (Nat × Nat) := []
  resv : List (Nat × Nat × Nat) := []
  far : List Nat := []
  faultRegs : List (Nat × FaultRegs) := []
  scrubs : List (Nat × Scrub) := []
  debug : List (Nat × DebugBlk) := []
  defects : List ((Nat × Nat) × Nat) := []
  pointers : List ((Nat × Nat × Nat) × Nat) := []
  vcps : List (Nat × Vcp) := []
  service : List Nat := []
  pipe : List Packet := []
  accepts : Nat := 0
  launches : List Region := []
  bedrock : List Byte := []
  journals : List Journal := []
  regions : List (Nat × Region) := []
  gens : List (Nat × Nat) := []
  copies : List (Nat × CopyEngine) := []
  colls : List (Nat × CollEngine) := []
  dune : Dune := {}
  credits : List BarMsg := []
  fails : List BarMsg := []
  notifies : List Notify := []
  pushes : List NotifyPush := []
  cbcache : List ((Nat × Nat) × List Byte) := []
  banks : List CtrBank := []
  traces : List Trace := []
  policies : List Policy := []
  polWait : List (Nat × Nat) := []
  /-- Reference ns at the start of the present fc (the model's own). -/
  lastNs : Nat := 0
  sliceLens : List (Nat × Nat) := []
  jobEnds : List Nat := []
  orphans : List ((Nat × Nat × Nat × Nat) × Cmd) := []
  deriving DecidableEq, Repr

/-- The module right after reset, before the first boot step (R449): every register at the reset value of its field map,
memory cleared, no region, every control core held in reset, the flash not yet programmed. -/
def State.reset : State := {}

end Sys2Proof.Machine
end

