-- ==== Sys2Proof/Machine/Mem.lean ====
section
/-! DEFINITION. Memory: a canonical list of cells (addresses rising, no cell equal to 0), bytes and little-endian words over
it (00 R4), and the poison markers of its 64-byte lines (15 R415). An unlisted byte reads 0: boot clears memory (17 R449). -/

namespace Sys2Proof.Machine

/-- Memory of one address space. -/
abbrev Memory := List Host.Cell

/-- What an address that is not listed reads as (17 R449, step 4) (DEDUCED, log entry 13). -/
def unlisted : Byte := 0

def memRead : Memory → Nat → Byte
  | [], _ => unlisted
  | (k, b) :: r, a => if k = a then b else memRead r a

/-- Write one byte; writing what an unlisted address reads as removes the cell. -/
def memWrite : Memory → Nat → Byte → Memory
  | [], a, b => if b = unlisted then [] else [(a, b)]
  | (k, c) :: r, a, b =>
    if a < k then (if b = unlisted then (k, c) :: r else (a, b) :: (k, c) :: r)
    else if a = k then (if b = unlisted then r else (a, b) :: r)
    else (k, c) :: memWrite r a b

/-- The canonical form above a bound: addresses strictly rising from it, no cell equal to the unlisted value. -/
def Memory.wfFrom : Nat → Memory → Bool
  | _, [] => true
  | lo, (k, b) :: r => decide (lo ≤ k) && !(b == unlisted) && Memory.wfFrom (k + 1) r

/-- The canonical form. -/
def Memory.wf (m : Memory) : Bool := Memory.wfFrom 0 m

def memReadBytes (m : Memory) (a : Nat) : Nat → List Byte
  | 0 => []
  | n + 1 => memRead m a :: memReadBytes m (a + 1) n

def memWriteBytes (m : Memory) (a : Nat) : List Byte → Memory
  | [] => m
  | b :: bs => memWriteBytes (memWrite m a b) (a + 1) bs

/-- A little-endian number of `n` bytes. -/
def memReadN (m : Memory) (a n : Nat) : Nat := ofBytes (memReadBytes m a n)

def memWriteN (m : Memory) (a n v : Nat) : Memory := memWriteBytes m a (toBytes n v)

/-- A byte-masked write: bit i of `mask` admits byte i. -/
def memWriteMasked (m : Memory) (a mask : Nat) : List Byte → Memory
  | [] => m
  | b :: bs => memWriteMasked (if mask % 2 = 1 then memWrite m a b else m) (a + 1) (mask / 2) bs

/-- Lines of 64 bytes that `n` bytes from `a` touch. -/
def linesOf (a n : Nat) : List Nat := if n = 0 then [] else (List.range ((a + n - 1) / 64 - a / 64 + 1)).map (a / 64 + ·)

/-- Whether the write of `n` bytes at `a` covers all of line `l`. -/
def coversLine (a n l : Nat) : Bool := decide (a ≤ 64 * l) && decide (64 * l + 64 ≤ a + n)

/-- Poison markers after a write of `n` bytes at `a` (R415): poisoned data marks every line it touches; a clean write of a
whole line clears its marker; a partial clean write keeps it (DEDUCED, log entry 42). -/
def poisonAfterWrite (p : List Nat) (a n : Nat) (psn : Bool) : List Nat :=
  if psn then p ++ (linesOf a n).filter (fun l => !p.contains l)
  else p.filter fun l => !coversLine a n l

/-- Whether `n` bytes at `a` touch a marked line. -/
def poisoned (p : List Nat) (a n : Nat) : Bool := (linesOf a n).any fun l => p.contains l

end Sys2Proof.Machine
end

