-- ==== Sys2Proof/Machine/Journal.lean ====
section
/-! DEFINITION. Partitions and tenants (14 R402, R403), the disclosure policy and its granularities (16 R440 to R446), and the
Strata journal (11 R332 to R334). -/

namespace Sys2Proof.Machine

/-! ### Partitions -/

/-- The word of a strip (R402). -/
def State.partWord (s : State) (strip : Nat) : Nat := ((look s.partTab strip).getD 0).toNat

/-- The first strip of the partition that holds a strip, when its word is valid. -/
def State.partOf (s : State) (strip : Nat) : Option Nat :=
  let w := s.partWord strip
  if bitN w 63 then some (fld w 5 3) else none

/-- First and last strip of a partition. -/
def State.partRange (s : State) (p : Nat) : Nat × Nat :=
  let w := s.partWord p
  if bitN w 63 then (fld w 5 3, fld w 2 0) else (p, p)

/-- `p` is the first strip of a partition. -/
def State.isPart (s : State) (p : Nat) : Bool := s.partOf p == some p

/-- A word of a partition's block (R403), by its byte offset divided by 8: 0 to 3 tenants, 4 and 5 lane groups, 6 HQOS. -/
def State.partBlock (s : State) (p i : Nat) : Nat :=
  match look s.partBlk (p, i) with
  | some w => w.toNat
  | none => if i = 6 then 1 else 0

/-- The tenant list of a partition (R403). -/
def State.tenants (s : State) (p : Nat) : List Nat :=
  ((List.range 16).map fun i => fld (s.partBlock p (i / 4)) (16 * (i % 4) + 15) (16 * (i % 4))).filter (· != 0)

/-- Byte i of the lane-group list (R403): the lane group when valid. -/
def State.laneGroupAt (s : State) (p i : Nat) : Option Nat :=
  if 16 ≤ i then none else
  let b := fld (s.partBlock p (4 + i / 8)) (8 * (i % 8) + 7) (8 * (i % 8))
  if bitN b 7 then some (fld b 5 0) else none

/-- The partition whose lane-group list holds a lane group. -/
def State.partOfGroup (s : State) (g : Nat) : Option Nat :=
  (List.range 8).find? fun p => s.isPart p && (List.range 16).any fun i => s.laneGroupAt p i == some g

/-! ### Policies -/

/-- The body words p0 to p3 of a tenant's policy; without a policy SPC, TIM, FLT and TRC are 0, DBG is 1 and no bank is
reserved (R441). -/
def State.policyWord (s : State) (tid i : Nat) : Nat :=
  match s.policies.find? (fun p => p.tid == tid && p.body.length == 4) with
  | some p => (p.body.getD i 0).toNat
  | none => if i = 2 then 2 ^ 16 else 0

def State.spc (s : State) (tid : Nat) : Nat := fld (s.policyWord tid 2) 2 0
def State.tim (s : State) (tid : Nat) : Nat := fld (s.policyWord tid 2) 6 4
def State.flt (s : State) (tid : Nat) : Nat := fld (s.policyWord tid 2) 10 8
def State.trc (s : State) (tid : Nat) : Nat := fld (s.policyWord tid 2) 13 12
def State.dbg (s : State) (tid : Nat) : Bool := bitN (s.policyWord tid 2) 16
def State.rsvBank (s : State) (tid bank : Nat) : Bool := bitN (fld (s.policyWord tid 2) 63 48) bank

/-- The slice of a partition in ns (R336): what its operator has set, or 4 ms (PRESUMED, log entry 33). -/
def State.sliceNs (s : State) (p : Nat) : Nat := (look s.sliceLens p).getD Config.sliceNs

/-- A time as TIM quantizes it, on the slices of its partition, and whether it is withheld (R444). -/
def quantize (slice tim ns : Nat) : Nat × Bool :=
  if tim = 0 then (ns, false)
  else if tim = 1 then (ns / 1000000 * 1000000, false)
  else if tim = 2 then (ns / slice * slice, false)
  else (0, true)

/-! ### The journal -/

/-- A journal with one record more: SEQ is its number; 65,536 are kept. -/
def Journal.push (j : Journal) (r : List W64) : Journal :=
  { j with count := j.count + 1, recs := (j.recs ++ [BitVec.ofNat 64 j.count :: r]).drop (j.recs.length + 1 - 65536) }

/-- Append a record to a partition's journal (R332, R333); the first record of a partition that has been formed since the boot begins its journal. -/
def journalPush (js : List Journal) (p : Nat) (r : List W64) : List Journal :=
  if js.any fun j => j.first == p then js.map fun j => if j.first = p then j.push r else j
  else js ++ [({ first := p } : Journal).push r]

/-- The record number the next record of a partition takes. -/
def State.nextSeq (s : State) (p : Nat) : Nat :=
  match s.journals.find? (·.first == p) with
  | some j => j.count
  | none => 0

/-- Write a record j1 to j7 for tenant `tid`: j1 is the time quantized by the tenant's policy, with WH when withheld (R333,
R444). -/
def State.journal (s : State) (p tid : Nat) (j2 j3 j4 j5 j6 j7 : Nat) : State :=
  let (t, wh) := quantize (s.sliceNs p) (s.tim tid) s.ns
  let body := [t, j2 + put 7 7 (b2n wh), j3, j4, j5, j6, j7].map (BitVec.ofNat 64)
  { s with journals := journalPush s.journals p body }

/-- Word j2 of a record (R333). -/
def j2Word (tid vcp q kind state opc : Nat) : Nat :=
  put 63 48 tid + put 47 40 vcp + put 39 38 q + put 31 24 kind + put 23 16 state + put 15 8 opc

end Sys2Proof.Machine
end

