-- ==== Sys2Proof/Machine/Counting.lean ====
section
/-! DEFINITION. Counter events (16 R427 to R430): where an event happens, which bound counters count it, and the counting. -/

namespace Sys2Proof.Machine

/-- Where an event happens: partition, tenant, and the region, tile and element it belongs to. -/
structure CtrPlace where
  part : Nat
  tid : Nat := 0
  slot : Option Nat := none
  x : Option Nat := none
  y : Option Nat := none
  elt : Option Nat := none
  deriving DecidableEq, Repr

/-- An event name counts what its scope contains (R427, R428). -/
def nameCovers (name part : Nat) (p : CtrPlace) : Bool :=
  let slot := p.slot == some (fld name 8 0)
  let tile := p.x == some (fld name 15 9) && p.y == some (fld name 20 16)
  match fld name 43 41 with
  | 0 => slot && tile && p.elt == some (fld name 23 21)
  | 1 => slot && tile
  | 2 => slot
  | _ => p.part == part

/-- A bank counts for its view (R429): a tenant's view only its own tenant's work. -/
def CtrBank.counts (b : CtrBank) (p : CtrPlace) : Bool :=
  match b.tid with | some t => t == p.tid | none => true

/-- Add `n` events of class `cls` and number `evt` to every counter bound to them. -/
def CtrBank.count (b : CtrBank) (cls evt : Nat) (p : CtrPlace) (n : Nat) : CtrBank :=
  if !b.counts p then b
  else
    { b with ctrs := b.ctrs.mapIdx fun i c =>
        if c.counting && fld c.event.toNat 63 56 == cls && fld c.event.toNat 55 44 == evt && !bitN b.abs.toNat i && nameCovers c.event.toNat b.part p then
          { c with live := (c.live + n) % 2 ^ 64, tids := if c.tids.contains p.tid then c.tids else c.tids ++ [p.tid] }
        else c }

def State.count (s : State) (cls evt : Nat) (p : CtrPlace) (n : Nat) : State :=
  if s.banks.isEmpty then s else { s with banks := s.banks.map fun b => b.count cls evt p n }

end Sys2Proof.Machine
end

