-- ==== Sys2Proof/Machine/Lookup.lean ====
section
/-! DEFINITION. Where the state's parts are found: regions, tiles, elements and switches, control cores, VCPs and partition blocks; the address map
and homes (10 R273, R274, R276), the access tables' entries (10 R288). -/

namespace Sys2Proof.Machine

/-! ### Regions and elements -/

def State.region (s : State) (slot : Nat) : Option Region := look s.regions slot

def State.setRegion (s : State) (slot : Nat) (r : Region) : State := { s with regions := insertKV s.regions slot r }

def State.modRegion (s : State) (slot : Nat) (f : Region → Region) : State :=
  match s.region slot with
  | some r => s.setRegion slot (f r)
  | none => s

def Region.tile (r : Region) (x y : Nat) : Option Tile := r.tiles.find? fun t => t.x == x && t.y == y

def Region.modTile (r : Region) (x y : Nat) (f : Tile → Tile) : Region :=
  { r with tiles := r.tiles.map fun t => if t.x == x && t.y == y then f t else t }

def Tile.elem (t : Tile) (e : Elt) : Option Element := t.elts.find? (·.elt == e)

def Tile.modElem (t : Tile) (e : Elt) (f : Element → Element) : Tile :=
  { t with elts := t.elts.map fun el => if el.elt == e then f el else el }

def Region.elem (r : Region) (x y : Nat) (e : Elt) : Option Element := (r.tile x y).bind (·.elem e)

def Region.modElem (r : Region) (x y : Nat) (e : Elt) (f : Element → Element) : Region := r.modTile x y (·.modElem e f)

def Region.ccu (r : Region) (x y : Nat) : Option Ccu := (r.tile x y).bind (·.ccu)

def Region.modCcu (r : Region) (x y : Nat) (f : Ccu → Ccu) : Region :=
  r.modTile x y fun t => { t with ccu := t.ccu.map f }

def Region.modMe (r : Region) (x y : Nat) (f : Me → Me) : Region := r.modElem x y .me fun e => { e with me := f e.me }

def Region.me (r : Region) (x y : Nat) : Option Me := (r.elem x y .me).map (·.me)

def Region.switch (r : Region) (col row : Nat) : Option Switch := r.switches.find? fun w => w.col == col && w.row == row

def Region.modSwitch (r : Region) (col row : Nat) (f : Switch → Switch) : Region :=
  { r with switches := r.switches.map fun w => if w.col == col && w.row == row then f w else w }

def Region.modDriver (r : Region) (l : LaneId) (f : LaneDrv → LaneDrv) : Region :=
  { r with drivers := r.drivers.map fun d => if d.lane = l then f d else d }

/-- All elements of a region with their image tiles, in (y, x) and then ELT order. -/
def Region.elems (r : Region) : List (Nat × Nat × Element) := r.tiles.flatMap fun t => t.elts.map fun e => (t.x, t.y, e)

/-- The image's part for an element. -/
def Region.eltImg (r : Region) (x y : Nat) (e : Elt) : Option EltImg :=
  r.image.bind fun i => (i.tiles.find? fun t => t.x == x && t.y == y).bind fun t => look t.elts e

/-- A region's handle (R250). -/
def handleOf (slot gen : Nat) : Nat := put 31 16 gen + put 8 0 slot

def State.handle (s : State) (slot : Nat) : Nat :=
  match s.region slot with
  | some r => handleOf slot r.gen
  | none => 0

/-! ### Control cores -/

def State.hart (s : State) (h : Nat) : Hart := s.harts.getD h {}

def State.modHart (s : State) (h : Nat) (f : Hart → Hart) : State := { s with harts := upd s.harts h f }

/-- Strip, die of a hart: 64 harts, eight to a strip (R12, R261). -/
def hartStrip (h : Nat) : Nat := h / 8
def hartDie (h : Nat) : Nat := h / 16

def State.hartPart (s : State) (h : Nat) : Nat := (s.partOf (hartStrip h)).getD (hartStrip h)

/-! ### VCPs, partition blocks, debug blocks, scrub words -/

def State.vcp (s : State) (v : Nat) : Vcp := (look s.vcps v).getD {}
def State.modVcp (s : State) (v : Nat) (f : Vcp → Vcp) : State := { s with vcps := insertKV s.vcps v (f (s.vcp v)) }
def Vcp.queue (c : Vcp) (q : Nat) : VQueue := c.queues.getD q {}
def Vcp.modQueue (c : Vcp) (q : Nat) (f : VQueue → VQueue) : Vcp := { c with queues := upd c.queues q f }
def State.modQueue (s : State) (v q : Nat) (f : VQueue → VQueue) : State := s.modVcp v (·.modQueue q f)

def Vcp.en (c : Vcp) : Bool := bitN c.vc0.toNat 63
def Vcp.prv (c : Vcp) : Bool := bitN c.vc0.toNat 62
def Vcp.mcls (c : Vcp) : Nat := fld c.vc0.toNat 50 48
def Vcp.tid (c : Vcp) : Nat := fld c.vc0.toNat 47 32
def Vcp.asid (c : Vcp) : Nat := fld c.vc0.toNat 31 20
def Vcp.page (c : Vcp) : Nat := fld c.vc1.toNat 51 12 * 4096

def State.frBlock (s : State) (p : Nat) : FaultRegs := (look s.faultRegs p).getD {}

def State.debugBlk (s : State) (slot : Nat) : DebugBlk := (look s.debug slot).getD {}
def State.modDebug (s : State) (slot : Nat) (f : DebugBlk → DebugBlk) : State := { s with debug := insertKV s.debug slot (f (s.debugBlk slot)) }

def State.scrubOf (s : State) (t : Nat) : Scrub := (look s.scrubs t).getD {}
def State.modScrub (s : State) (t : Nat) (f : Scrub → Scrub) : State := { s with scrubs := insertKV s.scrubs t (f (s.scrubOf t)) }

/-- A scrub word exists for the memory targets and for the SRAM of each strip. -/
def scrubWord (t : Nat) : Bool := decide (t < 32) || (decide (64 ≤ t) && decide (t < 72))

/-! ### Homes and targets -/

/-- The target that owns a local physical address (R273, R274, R404). The host window has no access table. -/
def targetOf (a : Nat) : Option Nat :=
  if a < 0x8000000000 then some (fld a 38 36)
  else if 0x10000000000 ≤ a ∧ a < 0x28000000000 then
    let o := a - 0x10000000000
    let st := o / 0x3000000000
    some (8 + 3 * st + (o % 0x3000000000) / 512 % 3)
  else if 0x7F0000000000 ≤ a ∧ a < 0x800000000000 then some 40
  else none

/-- The home of an address of memory: target and pseudo-channel (0 for LPDDR) (R274). Two addresses with one home share a sole
writer (R203). -/
def homeOf (a : Nat) : Option (Nat × Nat) :=
  if a < 0x8000000000 then some (fld a 38 36, fld a 35 9 % 160)
  else (targetOf a).bind fun t => if t < 32 then some (t, 0) else none

/-- The row of an address within its pseudo-channel or port, in 512-byte units (R274). -/
def rowOf (a : Nat) : Option Nat :=
  if a < 0x8000000000 then some (fld a 35 9 / 160)
  else if 0x10000000000 ≤ a ∧ a < 0x28000000000 then some ((a - 0x10000000000) % 0x3000000000 / 512 / 3)
  else none

/-- Rows of 512 bytes that a home holds: HBM pseudo-channels differ by one, and a port holds 64 GiB (R274). -/
def rowsOf (t ch : Nat) : Nat := if t < 8 then (if ch < 128 then 838861 else 838860) else 2 ^ 27

/-- The strip that owns a target (R404). -/
def targetStrip (t : Nat) : Option Nat :=
  if t < 8 then some t else if t < 32 then some ((t - 8) / 3) else if 41 ≤ t ∧ t < 49 then some (t - 41) else none

def inHostWindow (a : Nat) : Bool := decide (0x400000000000 ≤ a) && decide (a < 0x500000000000)

/-- The first byte of device register space (R273). -/
def regSpace : Nat := 0x7F0000000000

/-- The local physical address of a domain address of this module (R276). -/
def State.localOf (s : State) (da : Nat) : Option Nat := if da / 2 ^ 47 % 8192 = s.xlat.xmod then some (da % 2 ^ 47) else none

/-- The key in memory of a local physical address: itself, but for the host window, whose bytes lie in host memory at the address that HBASE of
their slice gives, kept from 2^64 on (R409). -/
def State.localKey (s : State) (a : Nat) : Nat :=
  if inHostWindow a then 2 ^ 64 + fld ((look s.slices (fld a 43 40)).getD 0).toNat 55 32 * 2 ^ 40 + a % 2 ^ 40 else a

@[simp] theorem State.localKey_of_lt {s : State} {a : Nat} (h : a < 0x400000000000) : s.localKey a = a := by
  simp [State.localKey, inHostWindow]; omega

/-- The key in memory of a domain address: this module's by local physical address; another module's beside it (DESIGN CHOICE, log entry 14). -/
def State.memKey (s : State) (da : Nat) : Nat := ((s.localOf da).map s.localKey).getD (2 ^ 60 + da % 2 ^ 60)

/-- The domain address of a local physical address; from 2^60 on, the address stands for the domain address above that. -/
def State.domainOf (s : State) (a : Nat) : Nat := if a < 2 ^ 60 then s.xlat.xmod * 2 ^ 47 + a % 2 ^ 47 else a % 2 ^ 60

/-! ### Access tables -/

/-- One entry of an access table (R288). -/
def State.accessEntry (s : State) (t i : Nat) : Nat × Nat :=
  match look s.access (t, i) with
  | some (a0, a1) => (a0.toNat, a1.toNat)
  | none => (0, 0)

end Sys2Proof.Machine
end

