-- ==== Sys2Proof/Machine/RegRead.lean ====
section
/-! DEFINITION. Device register space (00 R2, R3; 10 R273, R284 to R288; 11 R306, R308, R332; 12 R352; 14 R402 to R409; 15 R422; 16 R428, R435;
17 R453): what a read of a register gives, which master IDs a block admits, and the bytes of this module's address space. -/

namespace Sys2Proof.Machine

/-! ### What registers read -/

/-- The readout that db4 selects, and whether the policy withholds it (R435, R438). -/
def State.debugReadout (s : State) (slot : Nat) : Nat × Bool :=
  match s.region slot with
  | none => (0, false)
  | some r =>
    if s.spc r.tid != 0 then (0, true)
    else
      let d := (s.debugBlk slot).db4.toNat
      let k := fld d 20 16
      match (Elt.ofCode (fld d 14 12)).bind fun e => r.elem (fld d 6 0) (fld d 11 7) e with
      | none => (0, false)
      | some e =>
        (match fld d 23 22 with
         | 0 => (let c := e.stall.getD k (0, 0); put 8 4 c.2 + put 3 0 c.1)
         | 1 => e.cycles.cls.getD k 0
         | 2 => e.cycles.opnd.getD k 0
         | _ => e.cycles.port.getD k 0, false)

/-- What a word of a debug block reads. -/
def State.readDebug (s : State) (slot i : Nat) : Nat :=
  let d := s.debugBlk slot
  let stp := ((s.region slot).map (·.stp)).getD false
  match i with
  | 0 => d.bke.toNat
  | 1 => put 63 63 (b2n stp) + put 62 62 (b2n d.wh) + put 61 61 (b2n d.dny) + put 15 8 d.bkn
  | 2 => put 63 32 d.snode + put 25 0 d.sloc
  | 3 => d.db3.toNat
  | 4 => d.db4.toNat
  | 5 => (s.debugReadout slot).1
  | _ => 0

/-- NSTAT (R308). -/
def Vcp.nstat (c : Vcp) : Nat := packLanes 1 ((List.range 4).map fun q => b2n (c.queue q).stop.isSome) * 2 ^ 32 + c.nseq

/-- Deadline of a scrub target's pass in ns, and the lines of a memory target's (R420). -/
def scrubDeadline (t : Nat) : Nat := if t < 8 then 28800000000000 else if t < 64 then 86400000000000 else 600000000000
def scrubLines (_t : Nat) : Nat := 2 ^ 30

/-- The class is behind: the fraction of its pass that is done is less than that of its deadline that has passed (R420). -/
def Scrub.behind (x : Scrub) (t ns : Nat) : Bool :=
  decide (x.done * scrubDeadline t < (ns - x.start) * (if t < 64 then scrubLines t else x.lines))

/-- Words of the smaller blocks. -/
def State.readXlat (s : State) (off : Nat) : Nat :=
  let x := s.xlat
  match off with
  | 0 => put 46 17 x.base + put 0 0 (b2n x.en)
  | 8 => put 51 16 x.vpg
  | 0x18 => put 63 63 (b2n x.err) + put 62 32 x.done + put 30 0 x.acc
  | 0x20 => x.xmod
  | _ => 0

def Vcp.readWord (c : Vcp) (i : Nat) : Nat :=
  match i with
  | 0 => c.vc0.toNat
  | 1 => c.vc1.toNat
  | 2 => put 63 63 (b2n c.shv) + put 47 32 c.tcnt
  | _ => 0

def FaultRegs.read (r : FaultRegs) (i : Nat) : Nat :=
  match i with
  | 0 => r.wdl.toNat
  | 1 => put 46 12 r.ifr + put 3 0 r.isz
  | 2 => put 63 32 r.ihead.toNat + r.itail.toNat
  | 3 => put 63 63 (b2n r.men) + put 46 2 r.madr
  | 4 => r.mdat.toNat
  | _ => 0

def LaneGroup.read (g : LaneGroup) : Nat := g.cfg.toNat + put 55 54 g.gen + put 53 52 g.lst + put 51 39 g.pmod + put 38 33 g.plg

def Scrub.read (x : Scrub) (t ns : Nat) : Nat := put 63 63 (b2n (x.behind t ns)) + put 62 62 (b2n x.miss) + put 47 32 x.pass + put 31 16 x.unc + put 15 0 x.cor

def Mgmt.read (m : Mgmt) (i : Nat) : Nat :=
  match i with
  | 0 => put 63 56 m.stage + put 55 48 m.err
  | 1 => put 47 32 m.pnow + put 15 0 m.plim
  | 2 => put 39 32 m.tcool + put 23 16 m.tj + put 2 0 m.tlvl
  | 3 => put 63 63 (b2n m.trip)
  | _ => 0

/-- What a read of a 64-bit register of device space gives: write-only and reserved fields read 0 (R2, R3). -/
def State.readReg (s : State) (addr : Nat) : Nat :=
  let off := addr % 0x1000000
  let word := fld addr 23 3
  match addr / 0x1000000 with
  | 0x7F0000 => if 0x10000 ≤ off ∧ off < 0x10028 then s.readXlat (off - 0x10000) else 0
  | 0x7F0001 => if off < 0x100000 ∧ off % 0x1000 = 8 then (s.vcp (off / 0x1000)).nstat else 0
  | 0x7F0002 => if off < 0x2000 then (s.vcp (off / 0x20)).readWord (word % 4) else 0
  | 0x7F0003 =>
    if off < 0x200 ∧ off % 0x40 = 0 then ((s.journals.find? (·.first == off / 0x40)).map (·.count - 1)).getD 0
    else if 0x1000 ≤ off ∧ off < 0x1200 ∧ s.isPart ((off - 0x1000) / 0x40) then (s.frBlock ((off - 0x1000) / 0x40)).read (word % 8)
    else 0
  | 0x7F0004 =>
    if off < 0x40 then s.partWord (off / 8)
    else if 0x1000 ≤ off ∧ off < 0x1800 then s.partBlock ((off - 0x1000) / 0x100) (word % 32)
    else 0
  | 0x7F0005 => if off < 0x200 then ((look s.groups (off / 8)).getD {}).read else 0
  | 0x7F0006 =>
    if off < 0x10000 then ofBytes ((List.range 8).map fun i => BitVec.ofNat 8 (((look s.routes (off / 0x2000, off % 0x2000 + i)).getD 0).toNat)) else 0
  | 0x7F0007 => if off < 0x100 ∧ off % 16 = 0 then ((look s.slices (off / 16)).getD 0).toNat else 0
  | 0x7F0008 =>
    let e := s.accessEntry (off / 0x1000) (off % 0x1000 / 16)
    if off / 0x1000 < 49 then (if off % 16 = 0 then e.1 else e.2) else 0
  | 0x7F0009 => if scrubWord (off / 8) then (s.scrubOf (off / 8)).read (off / 8) s.ns else 0
  | 0x7F000A => if off < 0x8000 then s.readDebug (off / 0x40) (word % 8) else 0
  | 0x7F000B => if off = 0 then 1 else 0
  | 0x7F000C => if off < 0x20 then s.mgmt.read (off / 8) else 0
  | _ => 0

/-! ### Who may access a register -/

/-- MIDs of the Ilhus harts (R306), and of those of a partition (R288). -/
def State.isIlhus (s : State) (mid : Nat) : Bool := s.ilhus.contains mid
def State.isIlhusOf (s : State) (p mid : Nat) : Bool :=
  s.ilhus.contains mid && (List.range 64).any fun h => (s.hart h).oxmid.toNat == mid && s.hartPart h == p

/-- The host functions' master IDs: the physical function, and virtual function v (R408). -/
def hostMid (mid : Nat) : Bool := decide (0xE00 ≤ mid) && decide (mid ≤ 0xF00)

/-- A partition's list holds a lane group of port p (R405). -/
def State.ownsPort (s : State) (part p : Nat) : Bool := (List.range 16).any fun k => (s.laneGroupAt part k).map (· / 8) == some p

/-- Who may write a target's table: MID 0x000, and the Ilhus harts of the partition that owns it (R288): of a link port, of each partition whose
list holds a lane group of it (R483). -/
def State.tableRule (s : State) (t mid : Nat) : Bool :=
  mid == 0 ||
    (if 32 ≤ t ∧ t < 40 then (List.range 8).any fun p => s.isPart p && s.ownsPort p (t - 32) && s.isIlhusOf p mid
     else match (targetStrip t).bind s.partOf with | some p => s.isIlhusOf p mid | none => false)

/-- The block of a register admits a master ID, beside the access table of device register space: writes by the rule of each block, reads of a
partition's block and of JNEW by the partition's Ilhus (R306, R332, R352, R402, R403, R405, R407, R409, R422, R435, R453). -/
def State.regAdmits (s : State) (addr mid : Nat) (write : Bool) : Bool :=
  let off := addr % 0x1000000
  let zero := mid == 0
  let own (p : Nat) : Bool := zero || s.isIlhusOf p mid
  match addr / 0x1000000 with
  | 0x7F0000 | 0x7F0001 => !hostMid mid
  | 0x7F0002 => !write || zero || s.isIlhus mid
  | 0x7F0003 => if off < 0x200 then write || own (off / 0x40) else !write || own ((off - 0x1000) / 0x40)
  | 0x7F0004 => if off < 0x1000 then !write || zero else if write then zero else own ((off - 0x1000) / 0x100)
  | 0x7F0005 | 0x7F0007 | 0x7F0009 => !write || zero
  | 0x7F0006 => !write || own (off / 0x2000)
  | 0x7F0008 => !write || s.tableRule (off / 0x1000) mid
  | 0x7F000A => !write || zero || (((s.region (off / 0x40)).map fun r => s.isIlhusOf r.part mid) == some true)
  | 0x7F000C => !write || zero || s.isIlhus mid || mid == 0xE00
  | _ => true

/-! ### The bytes of this module's address space -/

/-- The bytes of registers from an address on: each byte of the aligned 64-bit register that holds it. -/
def State.regBytes (s : State) (a n : Nat) : List Byte :=
  (List.range n).map fun i => BitVec.ofNat 8 (s.readReg ((a + i) / 8 * 8) / 2 ^ (8 * ((a + i) % 8)))

/-- The bytes at a local physical address or a key of memory: registers of this module, or memory. -/
def State.bytesAt (s : State) (k n : Nat) : List Byte :=
  if regSpace ≤ k ∧ k < 2 ^ 47 then s.regBytes k n else memReadBytes s.mem (s.localKey k) n

/-- A read of `n` bytes sets or clears WH of each debug block whose db5 it covers (R435, R438). -/
def State.readEffect (s : State) (a n : Nat) : State :=
  if a / 0x1000000 = 0x7F000A then
    (List.range (n / 64 + 2)).foldl (fun (z : State) i =>
      let slot := a % 0x1000000 / 0x40 + i
      let db5 := 0x7F000A000000 + 0x40 * slot + 0x28
      if slot < 512 ∧ a < db5 + 8 ∧ db5 < a + n then z.modDebug slot fun d => { d with wh := (s.debugReadout slot).2 } else z) s
  else s

end Sys2Proof.Machine
end

