-- ==== Sys2Proof/Machine/Access.lean ====
section
/-! DEFINITION. The address map and homes (10 R273, R274, R276), access tables and denials (R288 to R291), link routes (14 R407),
the region page walk with its caches (R277 to R283), and reads and writes of memory through them. -/

namespace Sys2Proof.Machine

/-- Who makes an access: its MID, the strip it lies on, the partition and the tenant it works for. -/
structure Who where
  mid : Nat
  strip : Option Nat := none
  part : Option Nat := none
  tid : Nat := 0
  deriving DecidableEq, Repr

/-- A failed access: fault code, DET where the access itself fixes it (R350: 3 for a table entry), and address. -/
structure AccFault where
  code : Nat
  det : Nat := 0
  info : Nat := 0
  deriving DecidableEq, Repr

/-- The DET of a failed access (R350): what the access fixes, or for 0x10 to 0x12 the code of what made it. -/
def AccFault.detOr (f : AccFault) (d : Nat) : Nat :=
  if f.det = 0 ∧ (f.code = 0x10 ∨ f.code = 0x11 ∨ f.code = 0x12) then d else f.det

/-- A failed check, seen from the address that was translated: a lost link keeps its own INFO. -/
def AccFault.atVa (f : AccFault) (va : Nat) : AccFault := if f.code = 0x60 then f else { f with info := va }

/-! ### Links -/

/-- Lane groups that act as one sub-link with `g`, in ascending order (R405, R406): same port and SUB; a generation 1 port is one sub-link. -/
def State.subLink (s : State) (g : Nat) : List Nat :=
  match look s.groups g with
  | none => [g]
  | some lg => ((List.range 8).map fun q => 8 * (g / 8) + q).filter fun h =>
      ((look s.groups h).map fun o => lg.gen == 1 || fld o.cfg.toNat 59 56 == fld lg.cfg.toNat 59 56).getD false

def State.groupUp (s : State) (g : Nat) : Bool :=
  match look s.groups g with
  | some lg => lg.lst == 2
  | none => false

/-- The path of a partition toward a module (R407): none where the route byte has V = 0; else a group of the first entry's sub-link that is up, or
the next entry whose group is up. -/
def State.routeTo (s : State) (p m : Nat) : Option (Option Nat) :=
  let b := ((look s.routes (p, m)).getD 0).toNat
  if bitN b 7 then
    let k := fld b 3 0
    some (((s.laneGroupAt p k).bind fun g => (s.subLink g).find? s.groupUp).orElse fun _ =>
      (List.range 15).findSome? fun d => (s.laneGroupAt p ((k + d + 1) % 16)).filter s.groupUp)
  else none

/-- The first lane group that a partition would use toward a module, up or not (for the DET of 0x60). -/
def State.routeFirst (s : State) (p m : Nat) : Nat :=
  (s.laneGroupAt p (fld ((look s.routes (p, m)).getD 0).toNat 3 0)).getD 0

def State.modGroup (s : State) (g : Nat) (f : LaneGroup → LaneGroup) : State :=
  { s with groups := insertKV s.groups g (f ((look s.groups g).getD {})) }

/-- The groups that carry the stripes of a flit on a sub-link, in ascending order (R405). -/
def State.stripes (s : State) (g : Nat) : List Nat := (s.subLink g).filter s.groupUp

/-- The replay buffer of a lane group holds 512 flits (R406). -/
def LaneGroup.full (lg : LaneGroup) : Bool := decide (512 ≤ lg.unacked.length)

/-- A flit leaves on every group of its sub-link; each keeps it until it is acknowledged (R405, R406). -/
def State.putFlit (s : State) (gs : List Nat) (f : Flit) : State :=
  let s1 := gs.foldl (fun (a : State) g => a.modGroup g fun lg =>
    { lg with tx := (lg.tx + 1) % 65536, unacked := lg.unacked ++ [{ f with num := lg.tx }], ackAt := if lg.unacked.isEmpty then s.ns else lg.ackAt }) s
  s1.count 3 0 { part := f.part, tid := f.tid } 1

/-- A flit of a partition's traffic goes out on the sub-link of a lane group, behind those that wait for room in a replay buffer (R406) (DESIGN CHOICE, log entry 75). -/
def State.sendFlit (s : State) (f : Flit) (g : Nat) : State :=
  match s.stripes g with
  | [] => s
  | g0 :: gs =>
    let lg := (look s.groups g0).getD {}
    if !lg.waiting.isEmpty || (g0 :: gs).any fun h => ((look s.groups h).map LaneGroup.full).getD false then
      s.modGroup g0 fun x => { x with waiting := x.waiting ++ [f] }
    else s.putFlit (g0 :: gs) { f with lead := (g0, lg.tx) }

/-- Bytes of payload in a flit (R406). -/
def LaneGroup.payload (lg : LaneGroup) : Nat := if lg.gen = 1 then 112 else 240

/-- `n` bytes of a partition's traffic go out in flits, the first of which carries what the message brings. -/
def State.sendBytes (s : State) (f : Flit) (g n : Nat) : State :=
  let p := ((look s.groups g).getD {}).payload
  (List.replicate ((n + p - 1) / p - 1) ()).foldl (fun (a : State) _ => a.sendFlit { f with load := .none_ } g) (s.sendFlit f g)

/-- The lane group that leads a partition to a module, when one is up (R407). -/
def State.groupToward (s : State) (part m : Nat) : Option Nat :=
  match s.routeTo part m with
  | some (some g) => some g
  | _ => none

/-- `n` bytes of a partition's traffic go to a module, when a path leads there. -/
def State.sendTo (s : State) (f : Flit) (n : Nat) : State :=
  match s.groupToward f.part f.mod with
  | some g => s.sendBytes f g n
  | none => s

/-! ### Access tables -/

def AKind.dirties : AKind → Bool
  | .write | .atomic => true
  | _ => false

/-- An entry matches (R289). -/
def entryMatches (a0 a1 mid module unit : Nat) (link : Bool) : Bool :=
  bitN a0 63 && decide (fld a0 58 47 ≤ mid) && decide (mid ≤ fld a0 46 35) && decide (fld a1 30 0 ≤ unit) &&
    decide (unit ≤ fld a1 62 32) && (!link || (decide (fld a0 34 22 ≤ module) && decide (module ≤ fld a0 21 9)))

/-- An entry grants a kind (R288). -/
def entryGrants (a0 : Nat) : AKind → Bool
  | .read | .control => bitN a0 62
  | .write => bitN a0 61
  | .atomic => bitN a0 60

/-- The check of R289 over the entries of a list. -/
def checkEntries (mid module unit : Nat) (link : Bool) (k : AKind) : List (Nat × Nat) → Bool
  | [] => false
  | (a0, a1) :: r =>
    if entryMatches a0 a1 mid module unit link then
      (if bitN a0 59 then (if k = .atomic then false else checkEntries mid module unit link k r) else entryGrants a0 k)
    else checkEntries mid module unit link k r

/-- The check of R289 at a target. -/
def State.checkTable (s : State) (t mid module unit : Nat) (k : AKind) : Bool :=
  checkEntries mid module unit (decide (32 ≤ t) && decide (t < 40)) k ((List.range 256).map (s.accessEntry t))

/-- The host window (R409): the slice must be enabled for the agent's partition. -/
def State.hostSliceOk (s : State) (a : Nat) (part : Option Nat) : Bool :=
  let w := ((look s.slices (fld a 43 40)).getD 0).toNat
  bitN w 63 && part == some (fld w 58 56)

/-- Whether an access to a local physical address is permitted (R273, R289, R409); a register's block has its own rule, and MID 0x000 passes
the table of device register space. -/
def State.permits (s : State) (w : Who) (a : Nat) (k : AKind) : Bool :=
  match targetOf a with
  | some t =>
    if t = 40 then (w.mid == 0 || s.checkTable 40 w.mid 0 (fld a 46 16) k) && s.regAdmits a w.mid k.dirties
    else s.checkTable t w.mid 0 (fld a 46 16) k
  | none => inHostWindow a && s.hostSliceOk a w.part

/-- The partition whose journal records a denial at a target (R291). -/
def State.denialPart (s : State) (t : Nat) (w : Who) : Option Nat :=
  match targetStrip t with
  | some st => (s.partOf st).orElse fun _ => w.part
  | none => w.part

/-- Record a denial (R291, R333). -/
def State.recordDenial (s : State) (w : Who) (a : Nat) (k : AKind) : State :=
  match targetOf a with
  | none => s
  | some t =>
    match s.denialPart t w with
    | none => s
    | some p =>
      s.journal p w.tid (j2Word w.tid 0xFF 0 3 0xFF 0) 0 a (put 63 56 0x12) 0
        (k.code + put 19 8 w.mid + put 25 20 t)

/-- Pass the access check of a domain address for `n` bytes (R276, R289, R291), recording a denial. An atomic that cannot be sent as a PCIe
AtomicOp faults at the host window (R291). A remote address needs a route (R276) and a path (R407), and goes out in flits; its home's own
table is that module's, whose denial comes back to it (R291). -/
def State.check (s : State) (w : Who) (da : Nat) (k : AKind) (n : Nat := 1) (atomicOp : Bool := false) : State × Option AccFault :=
  match s.localOf da with
  | some a =>
    if !s.permits w a k then (s.recordDenial w a k, some { code := 0x12, info := da % 2 ^ 60 })
    else if k == .atomic && inHostWindow a && !atomicOp then (s, some { code := 0x11, info := da % 2 ^ 60 })
    else (if k.dirties then s else s.readEffect a n, none)
  | none =>
    let part := w.part.getD 0
    let m := da / 2 ^ 47 % 8192
    match s.routeTo part m with
    | none => (s, some { code := 0x12, info := da % 2 ^ 60 })
    | some none =>
      let g := s.routeFirst part m
      (s, some { code := 0x60, det := put 7 4 (g / 8) + put 3 0 (g % 8), info := 0 })
    | some (some g) =>
      let s1 := s.sendBytes { part := part, tid := w.tid, mod := m } g (if k.dirties then n else 1)
      match s.far.find? fun a => decide (da % 2 ^ 60 ≤ a) && decide (a < da % 2 ^ 60 + n) with
      | some a => ({ s1 with far := s1.far.erase a }, some { code := 0x12, info := da % 2 ^ 60 })
      | none => (s1, none)

/-- The register writes that bytes at an address make: each register touched, its bytes written, and their value; bit i of `mask` admits byte i. -/
def regWrites (a mask : Nat) (bs : List Byte) : List (Nat × Nat × Nat) :=
  ((List.range ((a % 8 + bs.length + 7) / 8)).map fun k =>
    let w := a / 8 * 8 + 8 * k
    let at_ (i : Nat) : Option Byte := if a ≤ w + i ∧ bitN mask (w + i - a) then bs[w + i - a]? else none
    (w, packLanes 1 ((List.range 8).map fun i => b2n (at_ i).isSome), ofBytes ((List.range 8).map fun i => (at_ i).getD 0))).filter fun o => o.2.1 != 0

/-- The reservations of harts (R295's LR and SC) that a write of `n` bytes at a key leaves: those of other bytes. -/
def resvAfterWrite (l : List (Nat × Nat × Nat)) (a n : Nat) : List (Nat × Nat × Nat) :=
  l.filter fun r => decide (a + n ≤ r.2.1) || decide (r.2.1 + r.2.2 ≤ a)

/-- Write bytes at a domain address, with poison (R415); a register of this module takes its bytes at the end of the step (DESIGN CHOICE, log entry 74). -/
def State.memPut (s : State) (da : Nat) (bs : List Byte) (psn : Bool) : State :=
  let a := s.memKey da
  if regSpace ≤ a ∧ a < 2 ^ 47 then { s with regOps := s.regOps ++ regWrites a (2 ^ bs.length - 1) bs }
  else { s with mem := memWriteBytes s.mem a bs, poison := poisonAfterWrite s.poison a bs.length psn, resv := resvAfterWrite s.resv a bs.length }

/-- A byte-masked write. -/
def State.memPutMasked (s : State) (da mask : Nat) (bs : List Byte) (psn : Bool) : State :=
  let a := s.memKey da
  if regSpace ≤ a ∧ a < 2 ^ 47 then
    { s with regOps := s.regOps ++ regWrites a mask bs }
  else { s with mem := memWriteMasked s.mem a mask bs
                poison := if mask % 2 ^ bs.length = 0 then s.poison else poisonAfterWrite s.poison a bs.length psn
                resv := if mask % 2 ^ bs.length = 0 then s.resv else resvAfterWrite s.resv a bs.length }

/-- The 64-byte lines of `n` lines of memory, each with its poison, and writing them back: a marked line arrives marked (R391, R415). -/
def State.memLines (s : State) (da n : Nat) : List (List Byte × Bool) :=
  (List.range n).map fun i => (s.bytesAt (s.memKey (da + 64 * i)) 64, poisoned s.poison (s.memKey (da + 64 * i)) 64)

def State.memPutLines (s : State) (da : Nat) (ls : List (List Byte × Bool)) : State :=
  let z := (ls.zipIdx).foldl (fun (a : State) l => a.memPut (da + 64 * l.2) l.1.1 l.1.2) s
  { s with mem := z.mem, poison := z.poison, regOps := z.regOps, resv := z.resv }

def State.memGet (s : State) (da n : Nat) : List Byte := s.bytesAt (s.memKey da) n

def State.memPsn (s : State) (da n : Nat) : Bool := poisoned s.poison (s.memKey da) n

/-! ### Translation -/

/-- The words e0 to e3 of an ASID entry (R277). -/
def State.asidWord (s : State) (asid i : Nat) : Nat := memReadN s.mem (s.xlat.base * 2 ^ 17 + 32 * asid + 8 * i) 8

def State.asidTid (s : State) (asid : Nat) : Nat := fld (s.asidWord asid 1) 63 48
def State.asidMid (s : State) (asid : Nat) : Nat := fld (s.asidWord asid 1) 43 32

/-- The ASID entry names an address space that is live. -/
def State.asidLive (s : State) (asid : Nat) : Bool := s.xlat.en && asid != 0 && bitN (s.asidWord asid 0) 63

/-- A reserved bit of an ASID entry is set (R277). -/
def State.asidReserved (s : State) (asid : Nat) : Bool :=
  fld (s.asidWord asid 0) 62 47 != 0 || fld (s.asidWord asid 0) 11 0 != 0 || fld (s.asidWord asid 1) 47 44 != 0 ||
    fld (s.asidWord asid 1) 31 8 != 0 || s.asidWord asid 2 != 0 || s.asidWord asid 3 != 0

/-- Page sizes by level (R279). -/
def pageBits : Nat → Nat
  | 0 => 16
  | 1 => 25
  | _ => 34

/-- Rights a kind needs (R281). -/
def leafGrants (e : Nat) : AKind → Bool
  | .read => bitN e 2
  | .write => bitN e 3
  | .atomic => bitN e 3 && bitN e 7
  | .control => bitN e 2 && bitN e 4

/-- The outcome of a translation: the domain address, the page and the leaf as it now stands. -/
structure WalkOk where
  da : Nat
  bits : Nat
  leaf : Nat
  mid : Nat
  deriving DecidableEq, Repr

/-- The levels of a walk, from a table's local physical address down (R281). A quiet walk is XPRB's: it sets no A and no D bit (R218). -/
def State.walkLevels (s : State) (w : Who) (va : Nat) (k : AKind) (quiet : Bool) : List Nat → Nat → State × Except AccFault WalkOk
  | [], _ => (s, .error { code := 0x11, info := va })
  | level :: rest, t =>
    let pa := t + 8 * fld va (24 + 9 * level) (16 + 9 * level)
    match s.check w (s.domainOf pa) .read with
    | (s1, some f) => (s1, .error { f with det := if f.code = 0x12 then 3 else f.det, info := pa })
    | (s1, none) =>
      let p := ofBytes (s1.bytesAt pa 8)
      if !bitN p 0 then (s1, .error { code := 0x10, info := va })
      else
        let leaf := bitN p 1
        let bad := fld p 63 60 != 0 || fld p 11 8 != 0 || (!leaf && level == 0) || (!leaf && (fld p 7 2 != 0 || fld p 59 47 != 0)) ||
          (leaf && (level == 3 || fld p (pageBits level - 1) 12 != 0))
        if bad then (s1, .error { code := 0x11, info := va })
        else if !leaf then State.walkLevels s1 w va k quiet rest (fld p 46 12 * 4096)
        else if !leafGrants p k then (s1, .error { code := 0x11, info := va })
        else
          let p' := p + (if bitN p 5 then 0 else 32) + (if k.dirties && !bitN p 6 then 64 else 0)
          let bits := pageBits level
          let ok : WalkOk := { da := fld p 59 bits * 2 ^ bits + va % 2 ^ bits, bits := bits, leaf := p', mid := w.mid }
          if p' = p ∨ quiet then (s1, .ok ok)
          else match s1.check w (s1.domainOf pa) .atomic 8 with
            | (s2, some f) => (s2, .error { f with det := if f.code = 0x12 then 3 else f.det, info := pa })
            | (s2, none) => (s2.memPut (s2.domainOf pa) (toBytes 8 p') false, .ok ok)

/-- The destination stream and the record of its list whose page, not yet moved, holds an address of an ASID. -/
def State.pullOf (s : State) (asid va : Nat) : Option (Nat × Nat) :=
  s.dune.streams.findSome? fun (k, m) =>
    if m.atDest && fld (m.m.getD 7 0).toNat 11 0 == asid then
      (m.todo.find? fun i => fld ((m.recs.getD i []).getD 0 0).toNat 51 16 == fld va 51 16).map fun i => (k, i)
    else none

/-- A walk that faults with 0x10 on a page of a list is not delivered: its page is asked for of the source module, when no other pull of the
stream is under way (R388). -/
def State.askPull (s : State) (asid va : Nat) : Option State :=
  (s.pullOf asid va).map fun (k, i) =>
    match look s.dune.streams k with
    | none => s
    | some m =>
      if m.pull.isSome then s
      else
        let s1 : State := { s with dune := { s.dune with streams := insertKV s.dune.streams k { m with pull := some (i, s.ns) } } }
        s1.sendTo { part := ((s.regions.find? fun p => p.2.asid == asid && p.2.state != .killed).map (·.2.part)).getD 0, tid := s.asidTid asid, mod := m.src } 1

/-- The step has met a page of a list that has not moved. -/
def State.noteAsk (s : State) (asid va : Nat) : State :=
  if (s.pullOf asid va).isSome then { s with dune := { s.dune with asked := some (asid, va) } } else s

/-- The walk of R281, with the ASID entry's MID. -/
def State.walkOnce (s : State) (strip part : Option Nat) (asid va : Nat) (k : AKind) (quiet : Bool) : State × Except AccFault WalkOk :=
  if !s.asidLive asid then (s, .error { code := 0x10, info := va })
  else
    let e0 := s.asidWord asid 0
    let e1 := s.asidWord asid 1
    let w : Who := { mid := fld e1 43 32, strip := strip, part := part, tid := fld e1 63 48 }
    let outside := match strip with | some st => !bitN (fld e1 7 0) st | none => false
    if s.asidReserved asid || fld e1 43 32 == 0 || outside then (s, .error { code := 0x11, info := va })
    else State.walkLevels s w va k quiet [3, 2, 1, 0] (fld e0 46 12 * 4096)

/-- A walk; one that meets a page of a list which has not moved is noted (R388), but for a quiet one. -/
def State.walk (s : State) (strip part : Option Nat) (asid va : Nat) (k : AKind) (quiet : Bool := false) : State × Except AccFault WalkOk :=
  match s.walkOnce strip part asid va k quiet with
  | (s1, .error f) => (if f.code = 0x10 && !quiet then s1.noteAsk asid va else s1, .error f)
  | (s1, .ok w) => (s1, .ok w)

/-- A cached translation serves a request (R282). -/
def Trans.serves (t : Trans) (asid va : Nat) (k : AKind) : Bool :=
  t.asid == asid && t.va == va / t.size * t.size && leafGrants t.leaf k && (!k.dirties || bitN t.leaf 6)

/-- The address a cached translation gives. -/
def Trans.apply (t : Trans) (va : Nat) : Nat := fld t.leaf 59 (log2N t.size) * t.size + va % t.size

/-- The cache entry of a walk. -/
def Trans.ofWalk (die asid va fc : Nat) (w : WalkOk) : Trans :=
  { die := die, fc := fc, asid := asid, mid := w.mid, va := va / 2 ^ w.bits * 2 ^ w.bits, size := 2 ^ w.bits, leaf := w.leaf }

/-- Put an entry into the die caches, replacing one of the same page (R282: 8,192 entries a die). -/
def fillCache (c : List Trans) (t : Trans) : List Trans :=
  let c' := c.filter fun u => !(u.die == t.die && u.asid == t.asid && u.va == t.va && u.size == t.size)
  let n := (c'.filter (·.die == t.die)).length
  (if 8192 ≤ n then
    match c'.findIdx? (·.die == t.die) with
    | some i => c'.eraseIdx i
    | none => c'
   else c') ++ [t]

/-- The translation entries of the AGU streams (R215). -/
def Me.streamEntries (m : Me) : List Trans := m.streams.flatMap fun x => x.teData.toList ++ x.teScale.toList
def State.streamEntries (s : State) : List Trans := s.regions.flatMap fun p => p.2.tiles.flatMap fun t => t.elts.flatMap fun e => e.me.streamEntries

/-- The walk of this fc that a request which misses on its page shares (R282, R305) (DEDUCED, log entry 114). -/
def State.sharedWalk (s : State) (die asid va : Nat) (k : AKind) : Option Trans :=
  (s.tcache ++ s.streamEntries).find? fun t => t.die == die && t.fc == s.fc && t.serves asid va k

/-- Translate through the die's cache, walking on a miss or sharing a stream's walk (R282). A request without a die walks each time (DEDUCED, log entry 113). -/
def State.translate (s : State) (die strip part : Option Nat) (asid va : Nat) (k : AKind) : State × Except AccFault WalkOk :=
  let hit := match die with
    | some d => s.tcache.find? fun (t : Trans) => t.die == d && t.serves asid va k
    | none => none
  match hit with
  | some t => (s, .ok { da := t.apply va, bits := log2N t.size, leaf := t.leaf, mid := t.mid })
  | none =>
    match die.bind fun d => s.sharedWalk d asid va k with
    | some t => ({ s with tcache := fillCache s.tcache t }, .ok { da := t.apply va, bits := log2N t.size, leaf := t.leaf, mid := t.mid })
    | none =>
      match s.walk strip part asid va k with
      | (s1, .error f) => (s1, .error f)
      | (s1, .ok w) =>
        match die with
        | some d => ({ s1 with tcache := fillCache s1.tcache (Trans.ofWalk d asid va s.fc w) }, .ok w)
        | none => (s1, .ok w)

/-- A request of a die that misses its cache and shares no walk starts one (R282, R428). -/
def State.startsWalk (s : State) (die asid va : Nat) (k : AKind) : Bool :=
  (s.tcache.find? fun (t : Trans) => t.die == die && t.serves asid va k).isNone && (s.sharedWalk die asid va k).isNone

/-! ### Reads and writes -/

/-- Pieces of a range that do not cross a 64 KiB unit (R289), at most `fuel` of them. -/
def pieces : Nat → Nat → Nat → List (Nat × Nat)
  | 0, _, _ => []
  | fuel + 1, a, n =>
    if n = 0 then [] else
    let m := min n (65536 - a % 65536)
    (a, m) :: pieces fuel (a + m) (n - m)

def piecesOf (a n : Nat) : List (Nat × Nat) := pieces (n / 65536 + 2) a n

/-- Read `n` bytes of a physical (domain) address under a MID: the bytes and whether a line is poisoned. -/
def State.physRead (s : State) (w : Who) (k : AKind) : List (Nat × Nat) → State × Except AccFault (List Byte × Bool)
  | [] => (s, .ok ([], false))
  | (a, n) :: r =>
    match s.check w (s.domainOf a) k n with
    | (s1, some f) => (s1, .error (f.atVa a))
    | (s1, none) =>
      match State.physRead s1 w k r with
      | (s2, .ok (bs, p)) => (s2, .ok (s.memGet (s.domainOf a) n ++ bs, s.memPsn (s.domainOf a) n || p))
      | (s2, .error f) => (s2, .error f)

/-- Read a range of an address space (R281), translating each page. -/
def State.vaRead (s : State) (strip part : Option Nat) (asid : Nat) (k : AKind) :
    List (Nat × Nat) → State × Except AccFault (List Byte × Bool)
  | [] => (s, .ok ([], false))
  | (va, n) :: r =>
    match s.walk strip part asid (va % 2 ^ 52) k with
    | (s1, .error f) => (s1, .error f)
    | (s1, .ok w) =>
      match s1.check { mid := w.mid, strip := strip, part := part, tid := s1.asidTid asid } w.da k n with
      | (s2, some f) => (s2, .error (f.atVa va))
      | (s2, none) =>
        match State.vaRead s2 strip part asid k r with
        | (s3, .ok (bs, p)) => (s3, .ok (s2.memGet w.da n ++ bs, s2.memPsn w.da n || p))
        | (s3, .error f) => (s3, .error f)

/-- Write bytes of an address space, page by page; what was written before a fault stays. -/
def State.vaWrite (s : State) (strip part : Option Nat) (asid : Nat) (k : AKind) :
    List (Nat × Nat) → List Byte → State × Option AccFault
  | [], _ => (s, none)
  | (va, n) :: r, bs =>
    match s.walk strip part asid (va % 2 ^ 52) k with
    | (s1, .error f) => (s1, some f)
    | (s1, .ok w) =>
      match s1.check { mid := w.mid, strip := strip, part := part, tid := s1.asidTid asid } w.da k n with
      | (s2, some f) => (s2, some (f.atVa va))
      | (s2, none) => State.vaWrite (s2.memPut w.da (bs.take n) false) strip part asid k r (bs.drop n)

/-- Write bytes of local physical memory under a MID. -/
def State.physWrite (s : State) (w : Who) (k : AKind) : List (Nat × Nat) → List Byte → State × Option AccFault
  | [], _ => (s, none)
  | (a, n) :: r, bs =>
    match s.check w (s.domainOf a) k n with
    | (s1, some f) => (s1, some (f.atVa a))
    | (s1, none) => State.physWrite (s1.memPut (s1.domainOf a) (bs.take n) false) w k r (bs.drop n)

/-- Read an area given as a VA or as a local physical address by Bedrock or the Hardpan core for a partition (R278, R409, R491). -/
def State.areaRead (s : State) (part : Nat) (sp : SpaceAddr) (off n : Nat) (k : AKind) : State × Except AccFault (List Byte × Bool) :=
  match sp.asid with
  | some asid => s.vaRead none (some part) asid k (piecesOf (sp.addr + off) n)
  | none => s.physRead { mid := 0, part := some part } k (piecesOf (sp.addr + off) n)

def State.areaWrite (s : State) (part : Nat) (sp : SpaceAddr) (off : Nat) (bs : List Byte) : State × Option AccFault :=
  match sp.asid with
  | some asid => s.vaWrite none (some part) asid .write (piecesOf (sp.addr + off) bs.length) bs
  | none => s.physWrite { mid := 0, part := some part } .write (piecesOf (sp.addr + off) bs.length) bs

end Sys2Proof.Machine
end

