-- ==== Sys2Proof/Machine/Ops.lean ====
section
/-! DEFINITION. The named operations over the state: regions, tiles, elements, switches, and the control cores (09 R239 to R243):
registers, memory of a hart, refusal words, retiring a form, taking an exception, waiting. -/

namespace Sys2Proof.Machine

/-- Physical columns that a placement does not skip, west to east: image column x is the x-th (R331). -/
def Place.columns (p : Place) : List Nat :=
  ((List.range (p.wm1 + 1 + p.skipped.length)).map (p.ocol + ·)).filter fun c => !p.skipped.contains c

/-- The physical tile of an image tile. -/
def Place.phys (p : Place) (x y : Nat) : Nat × Nat := (p.columns.getD x (p.ocol + x), p.orow + y)

/-- The image tile of a physical tile; none for a pass-through column (R331). -/
def Place.imageOf (p : Place) (col row : Nat) : Option (Nat × Nat) :=
  match p.columns.findIdx? (· == col) with
  | some x => if p.orow ≤ row ∧ row ≤ p.orow + p.hm1 then some (x, row - p.orow) else none
  | none => none

def Region.phys (r : Region) (x y : Nat) : Nat × Nat := match r.place with | some p => p.phys x y | none => (x, y)

def Region.imageOf (r : Region) (col row : Nat) : Option (Nat × Nat) := r.place.bind fun p => p.imageOf col row

/-- The strip and the die of a physical column (R12, R395). -/
def stripOfCol (col : Nat) : Nat := col / 16
def dieOfCol (col : Nat) : Nat := col / 32

def Region.stripAt (r : Region) (x y : Nat) : Nat := stripOfCol (r.phys x y).1
def Region.dieAt (r : Region) (x y : Nat) : Nat := dieOfCol (r.phys x y).1

/-- Who an ME of a region is to the access checks, under the master ID of its translation (R277, R287). -/
def Region.whoAt (r : Region) (x y mid : Nat) : Who :=
  { mid := mid, strip := some (r.stripAt x y), part := some r.part, tid := r.tid }

/-- The region, whatever its state, that a SHDW load waits to replace is found by `shadowOf`; a region that holds tiles. -/
def RState.holdsTiles : RState → Bool
  | .loading | .resident | .draining | .frozen | .faulted | .rolledBack => true
  | .saved | .killed => false

def RState.code : RState → Nat
  | .loading => 0 | .resident => 1 | .draining => 2 | .frozen => 3 | .saved => 4 | .faulted => 5 | .rolledBack => 6 | .killed => 7

/-! ### Control cores -/

/-- Read a register; x0 reads 0. -/
def Hart.reg (c : Hart) (r : BitVec 5) : Nat := if r = 0 then 0 else (c.x.getD r.toNat 0).toNat

/-- Write a register; a write of x0 is discarded. -/
def Hart.setReg (c : Hart) (r : BitVec 5) (v : Nat) : Hart := if r = 0 then c else { c with x := c.x.set r.toNat (.ofNat 64 v) }

def State.xreg (s : State) (r : BitVec 5) : Nat := (s.hart s.cur).reg r

/-- The refusal codes of R240. -/
inductive Refuse where
  | badArg | noHandle | state | busy | denied | stale | empty | full | intr | absent | align | notFound | faulted | area
  deriving DecidableEq, Repr

def Refuse.code : Refuse → Nat
  | .badArg => 0x01 | .noHandle => 0x02 | .state => 0x03 | .busy => 0x04 | .denied => 0x05 | .stale => 0x06 | .empty => 0x07
  | .full => 0x08 | .intr => 0x09 | .absent => 0x0A | .align => 0x0B | .notFound => 0x0C | .faulted => 0x0D | .area => 0x0E

/-- A refusal word (R240): bit 63, the code in [62:56], and the low bits the table names. -/
def refuseWord (c : Refuse) (low : Nat := 0) : Nat := 2 ^ 63 + put 62 56 c.code + low % 2 ^ 56

/-- Exceptions that a form raises (R102, R241), by RISC-V cause number. -/
structure Exc where
  cause : Nat
  tval : Nat := 0
  deriving DecidableEq, Repr

def Exc.illegal (w : Nat) : Exc := { cause := 2, tval := w }
def Exc.virtualInst (w : Nat) : Exc := { cause := 22, tval := w }

/-- An interrupt is pending and enabled: below HS always, in M and HS with their enable. -/
def Hart.irqReady (c : Hart) : Bool := c.irq && (c.ie || !c.mode.high)

/-- An enabled interrupt became pending in an earlier fc (R259, R271). -/
def Hart.irqDue (c : Hart) (fc : Nat) : Bool := c.irqReady && decide (c.irqFc < fc)

/-- The cause of the interrupt that a mode takes: external, at M or at HS. -/
def Exc.interrupt (md : Mode) : Exc := { cause := 2 ^ 63 + if md = .m then 11 else 9 }

/-- Taking an exception or interrupt (R102, R241, R259; the entry itself is the RISC-V family's): the saved pc, cause and value are written, the
mode becomes M from M and HS from every other mode, interrupts are disabled, the pc goes to the trap vector (PRESUMED, log entry 8). -/
def Hart.trap (c : Hart) (e : Exc) : Hart :=
  if c.mode = .m then
    { c with mepc := c.pc, mcause := .ofNat 64 e.cause, mtval := .ofNat 64 e.tval, mpp := c.mode,
             mpie := c.ie, ie := false, pc := .ofNat 64 (c.mtvec.toNat / 4 * 4), wait := .none }
  else
    { c with sepc := c.pc, scause := .ofNat 64 e.cause, stval := .ofNat 64 e.tval,
             htval := if e.cause = 20 ∨ e.cause = 21 ∨ e.cause = 23 then .ofNat 64 (e.tval / 4) else c.htval,
             spp := c.mode, mode := .hs, spie := c.ie, ie := false, pc := .ofNat 64 (c.stvec.toNat / 4 * 4), wait := .none }

/-- Returning from an exception: the mode, the pc and the enable that the entry saved come back. -/
def Hart.trapReturn (c : Hart) : Hart :=
  if c.mode = .m then { c with mode := c.mpp, pc := c.mepc, ie := c.mpie } else { c with mode := c.spp, pc := c.sepc, ie := c.spie }

def State.trap (s : State) (e : Exc) : State := s.modHart s.cur (·.trap e)

/-- Retire a form of a hart: rd is written once, the pc passes the word (R239). -/
def State.retireAt (s : State) (h : Nat) (rd : BitVec 5) (v : Nat) : State :=
  s.modHart h fun c => { (c.setReg rd v) with pc := c.pc + 4, wait := .none }

/-- Retire the current hart's form. -/
def State.retire (s : State) (rd : BitVec 5) (v : Nat) : State := s.retireAt s.cur rd v

/-- How the meaning of a form ends: it retires with a value of rd, raises an exception, or holds the hart where it stands. -/
inductive FormEnd where
  | ret (v : Nat) (s : State)
  | exc (e : Exc)
  | hold (s : State)

/-- End a form begun in `s`. -/
def FormEnd.finish (f : FormEnd) (s : State) (rd : BitVec 5) : State :=
  match f with
  | .ret v s' => s'.retire rd v
  | .exc e => s.trap e
  | .hold s' => s'

/-- A refused form changes nothing but rd (R240). -/
def refuse (s : State) (c : Refuse) (low : Nat := 0) : FormEnd := .ret (refuseWord c low) s

/-- A form waits where it stands: it holds its hart, is tried again at each of its turns, and no interrupt is taken before it retires (R252). -/
def State.holdForm (s : State) : FormEnd := .hold (s.modHart s.cur fun c => { c with wait := .form })

/-- A HS-only form outside M and HS: illegal instruction in U, virtual instruction in VS and VU (R102). -/
def formMode (s : State) (hsOnly : Bool) (word : Nat) : Option Exc :=
  let md := (s.hart s.cur).mode
  if !hsOnly || md.high then none else if md.virt then some (.virtualInst word) else some (.illegal word)

/-! #### Memory of a hart -/

/-- Load, store, fetch, or the atomic operation of a barrier form: which exceptions it raises. -/
inductive HartAcc where
  | load | store | fetch | amo
  deriving DecidableEq, Repr

def HartAcc.accessFault : HartAcc → Nat
  | .load => 5 | .store | .amo => 7 | .fetch => 1

def HartAcc.pageFault (a : HartAcc) (virt : Bool) : Nat :=
  match a with
  | .load => if virt then 21 else 13
  | .store | .amo => if virt then 23 else 15
  | .fetch => if virt then 20 else 12

def HartAcc.akind : HartAcc → AKind
  | .store => .write
  | .amo => .atomic
  | _ => .read

def HartMap.permits (m : HartMap) : HartAcc → Bool
  | .load => m.r
  | .store => m.w
  | .fetch => m.x
  | .amo => m.r && m.w

/-- The physical address of a hart's address: itself in M mode and where the hart has no address map (DESIGN CHOICE, log entry 9). -/
def Hart.physAddr (c : Hart) (a : HartAcc) (va : Nat) : Except Exc Nat :=
  match (if c.mode = .m then none else c.maps) with
  | none => .ok va
  | some ms =>
    match ms.find? fun m => decide (m.va ≤ va) && decide (va < m.va + m.size) with
    | some m => if m.permits a then .ok (m.pa + (va - m.va)) else .error { cause := a.pageFault c.mode.virt, tval := va }
    | none => .error { cause := a.pageFault c.mode.virt, tval := va }

def State.hartWho (s : State) (h : Nat) : Who :=
  { mid := (s.hart h).oxmid.toNat, strip := some (hartStrip h), part := some (s.hartPart h) }

/-- Pass one piece of a hart's access (R241, R276, R289, R414, R415): its local physical address, or the exception. -/
def State.hartPiece (s : State) (h : Nat) (a : HartAcc) (phys : Bool) (va n : Nat) : State × Except Exc Nat :=
  let c := s.hart h
  match (if phys then .ok va else c.physAddr a va) with
  | .error e => (s, .error e)
  | .ok pa =>
    if 2 ^ 47 ≤ pa then (s, .error { cause := a.accessFault, tval := va })
    else
      let w := s.hartWho h
      if !s.permits w pa a.akind || (a == .amo && inHostWindow pa) then
        (if s.permits w pa a.akind then s else s.recordDenial w pa a.akind, .error { cause := a.accessFault, tval := va })
      else if (a != .store && poisoned s.poison (s.localKey pa) n) || poisoned c.lost pa n then (s, .error { cause := a.accessFault, tval := va })
      else (if a == .store then s else s.readEffect pa n, .ok pa)

/-- A hart's read of `n` bytes: the bytes, or the exception of R241. -/
def State.hartRead (s : State) (h : Nat) (a : HartAcc) (phys : Bool) : List (Nat × Nat) → State × Except Exc (List Byte)
  | [] => (s, .ok [])
  | (va, n) :: r =>
    match s.hartPiece h a phys va n with
    | (s1, .error e) => (s1, .error e)
    | (s1, .ok pa) =>
      match State.hartRead s1 h a phys r with
      | (s2, .ok bs) => (s2, .ok (s.bytesAt pa n ++ bs))
      | (s2, .error e) => (s2, .error e)

/-- A hart's store of bytes. -/
def State.hartStore (s : State) (h : Nat) (phys : Bool) : List (Nat × Nat) → List Byte → State × Option Exc
  | [], _ => (s, none)
  | (va, n) :: r, bs =>
    match s.hartPiece h .store phys va n with
    | (s1, .error e) => (s1, some e)
    | (s1, .ok pa) => State.hartStore (s1.memPut (s1.domainOf pa) (bs.take n) false) h phys r (bs.drop n)

/-- Read `n` bytes as a load of the current hart, page by page. -/
def State.formLoad (s : State) (phys : Bool) (va n : Nat) : State × Except Exc (List Byte) :=
  s.hartRead s.cur .load phys (piecesOf va n)

/-- 64-bit words of bytes. -/
def words64 : Nat → List Byte → List W64
  | 0, _ => []
  | n + 1, bs => BitVec.ofNat 64 (ofBytes (bs.take 8)) :: words64 n (bs.drop 8)

def bytesOf64 (ws : List W64) : List Byte := ws.flatMap fun w => toBytes 8 w.toNat

/-- Word `i` of a block as a number. -/
def wd (ws : List W64) (i : Nat) : Nat := (ws.getD i 0).toNat

/-- Streams that a stream barrier names (R255). -/
def Cmd.names (c : Cmd) (i : Nat) : Bool := bitN (wd c.c 3) (15 + i)

/-- The stream that numbers a command of stream `i`: a stream barrier's is the lowest it names. -/
def Cmd.stream (c : Cmd) (i : Nat) : Nat := if c.kind = 2 then ((List.range 8).find? c.names).getD i else i

/-- Of the copies of a stream barrier in its queues, the one that stands for it. -/
def numbered (l : List ((Nat × Nat × Nat) × Cmd)) : List ((Nat × Nat × Nat) × Cmd) := l.filter fun e => e.2.stream e.1.2.2 == e.1.2.2

/-- Run a form of the control-core extension: mode check, then its body. -/
def form (s : State) (hsOnly : Bool) (word : Nat) (rd : BitVec 5) (body : State → FormEnd) : State :=
  match formMode s hsOnly word with
  | some e => s.trap e
  | none => (body s).finish s rd

/-- A denial during a form's load is not undone: the record stays in the journal though the form has no effect. -/
def excIn (s1 : State) (e : Exc) : FormEnd := .hold (s1.trap e)

/-- Run a form whose operand block of `n` bytes is read as a load of the hart (R241): a failing read raises its exception and
the form has no effect (DESIGN CHOICE, log entry 56). -/
def withBlock (s : State) (phys : Bool) (va n : Nat) (k : State → List W64 → FormEnd) : FormEnd :=
  match s.formLoad phys va n with
  | (s1, .ok bs) => k s1 (words64 (n / 8) bs)
  | (s1, .error e) => excIn s1 e

/-! #### Handles and tenants -/

/-- The tenant under which V = 1 forms act (R242); none with HS rights. -/
def State.guestTid (s : State) : Option Nat :=
  let c := s.hart s.cur
  if c.mode.virt then some c.oxtnt.toNat else none

/-- A handle's slot and region (R250, R242): BADARG for a bad bit, NOHANDLE for a stale one or another tenant's. -/
def State.byHandle (s : State) (h : Nat) (tid : Option Nat) : Except Refuse (Nat × Region) :=
  if fld h 63 32 != 0 || fld h 15 9 != 0 then .error .badArg
  else
    let slot := fld h 8 0
    match s.region slot with
    | some r =>
      if r.gen != fld h 31 16 then .error .noHandle
      else match tid with
        | some t => if r.tid = t then .ok (slot, r) else .error .noHandle
        | none => .ok (slot, r)
    | none => .error .noHandle

/-- A region of a form's handle, or the refusal. -/
def withRegion (s : State) (h : Nat) (k : Nat → Region → FormEnd) : FormEnd :=
  match s.byHandle h s.guestTid with
  | .ok (slot, r) => k slot r
  | .error e => refuse s e

end Sys2Proof.Machine
end

