-- ==== Sys2Proof/Machine/Count.lean ====
section
/-! DEFINITION. Counter events at the elements of a region (16 R427, R428). -/

namespace Sys2Proof.Machine

/-- The place of an element of a region. -/
def Region.placeOf (r : Region) (slot x y elt : Nat) : CtrPlace :=
  { part := r.part, tid := r.tid, slot := some slot, x := some x, y := some y, elt := some elt }

/-- Count at an element of a region. -/
def State.countAt (s : State) (slot x y elt cls evt n : Nat) : State :=
  match s.region slot with
  | some r => s.count cls evt (r.placeOf slot x y elt) n
  | none => s

end Sys2Proof.Machine
end

