-- ==== Sys2Proof/Machine/Float.lean ====
section
/-! DEFINITION. Floating-point formats and their arithmetic (02 R52 to R60): codes as exact values, one rounding for every mode,
IEEE 754 operations with their flags, integer and floating-point conversions, and the draw of R56. -/

namespace Sys2Proof.Machine

/-! ### Formats and values -/

/-- A binary format (R52, R61): exponent bits, trailing significand bits, bias; `fin` marks the formats whose all-ones
exponent is finite (E4M3 and the narrow OCP elements), `nan7` E4M3's NaN codes. -/
structure FpTy where
  eb : Nat
  sb : Nat
  bias : Nat
  fin : Bool := false
  nan7 : Bool := false
  deriving DecidableEq, Repr

def fpF64 : FpTy := { eb := 11, sb := 52, bias := 1023 }
def fpF32 : FpTy := { eb := 8, sb := 23, bias := 127 }
def fpF16 : FpTy := { eb := 5, sb := 10, bias := 15 }
def fpB16 : FpTy := { eb := 8, sb := 7, bias := 127 }
def fpE5M2 : FpTy := { eb := 5, sb := 2, bias := 15 }
def fpE4M3 : FpTy := { eb := 4, sb := 3, bias := 7, fin := true, nan7 := true }
def fpE3M2 : FpTy := { eb := 3, sb := 2, bias := 3, fin := true }
def fpE2M3 : FpTy := { eb := 2, sb := 3, bias := 1, fin := true }
def fpE2M1 : FpTy := { eb := 2, sb := 1, bias := 1, fin := true }

def FpTy.width (t : FpTy) : Nat := 1 + t.eb + t.sb

def FpTy.emin (t : FpTy) : Int := 1 - (t.bias : Int)

/-- Magnitude code of the largest finite value. -/
def FpTy.maxMag (t : FpTy) : Nat :=
  if t.fin then (if t.nan7 then 2 ^ (t.eb + t.sb) - 2 else 2 ^ (t.eb + t.sb) - 1) else (2 ^ t.eb - 1) * 2 ^ t.sb - 1

/-- Canonical NaN (R53). -/
def FpTy.canon (t : FpTy) : Nat := if t.nan7 then 0x7F else (2 ^ t.eb - 1) * 2 ^ t.sb + 2 ^ (t.sb - 1)

/-- A value: NaN (signalling or not), infinity, or (−1)^neg × m × 2^e. -/
inductive FpVal where
  | nan (sig : Bool)
  | inf (neg : Bool)
  | num (neg : Bool) (m : Nat) (e : Int)
  deriving DecidableEq, Repr

/-- The value of a code. -/
def FpTy.decode (t : FpTy) (c : Nat) : FpVal :=
  let neg := bitN c (t.eb + t.sb)
  let ex := fld c (t.eb + t.sb - 1) t.sb
  let sg := c % 2 ^ t.sb
  if t.nan7 && c % 2 ^ (t.eb + t.sb) == 2 ^ (t.eb + t.sb) - 1 then .nan false
  else if !t.fin && ex == 2 ^ t.eb - 1 then (if sg = 0 then .inf neg else .nan (!bitN sg (t.sb - 1)))
  else if ex = 0 then .num neg sg (t.emin - t.sb)
  else .num neg (2 ^ t.sb + sg) (ex - t.bias - t.sb)

def FpTy.signBit (t : FpTy) (neg : Bool) : Nat := if neg then 2 ^ (t.eb + t.sb) else 0

def FpTy.infCode (t : FpTy) (neg : Bool) : Nat := t.signBit neg + (2 ^ t.eb - 1) * 2 ^ t.sb

def FpTy.maxCode (t : FpTy) (neg : Bool) : Nat := t.signBit neg + t.maxMag

/-! ### Flags (R54): [4] invalid, [3] division by zero, [2] overflow, [1] underflow, [0] inexact -/

def flInvalid : Nat := 16
def flDivZero : Nat := 8
def flOverflow : Nat := 4
def flUnderflow : Nat := 2
def flInexact : Nat := 1

/-! ### Rounding -/

/-- An exact magnitude m × 2^e, or with `sticky` one strictly between m and m + 1 units. -/
structure Exact where
  neg : Bool
  m : Nat
  e : Int
  sticky : Bool := false
  deriving DecidableEq, Repr

/-- Round m (with sticky) to multiples of 2^k by a mode (R55, R56): the multiple, and whether anything was discarded. `g` is the
draw of STO. -/
def roundAt (rm : Rm) (neg : Bool) (m : Nat) (sticky : Bool) (k : Int) (g : Nat) : Nat × Bool :=
  let k' := if k < 0 then 0 else k.toNat
  let m' := if k < 0 then m * 2 ^ (-k).toNat else m
  let q := m' / 2 ^ k'
  let r := m' % 2 ^ k'
  let ix := r != 0 || sticky
  let up := match rm with
    | .rne => decide (2 ^ k' < 2 * r) || (decide (2 * r = 2 ^ k') && k' != 0 && (sticky || q % 2 == 1))
    | .rtz => false
    | .rdn => neg && ix
    | .rup => !neg && ix
    | .rna => decide (2 ^ k' ≤ 2 * r) && k' != 0
    | .sto => decide (g < r * 2 ^ 32 / 2 ^ k')
  (if up then q + 1 else q, ix)

/-- Compare a × 2^x with b × 2^y. -/
def ltPow (a : Nat) (x : Int) (b : Nat) (y : Int) : Bool :=
  if x ≤ y then decide (a < b * 2 ^ (y - x).toNat) else decide (a * 2 ^ (x - y).toNat < b)

/-- The magnitude code of n × 2^q, which the format holds. -/
def FpTy.magCode (t : FpTy) (n : Nat) (q : Int) : Nat :=
  if n = 0 then 0
  else
    let ex := (log2N n : Int) + q
    if ex < t.emin then n * 2 ^ (q - (t.emin - t.sb)).toNat
    else ((ex + t.bias).toNat) * 2 ^ t.sb + (n * 2 ^ t.sb / 2 ^ log2N n - 2 ^ t.sb)

/-- What an overflow gives (R56, R58): saturation for E4M3, else IEEE 754 by mode; STO gives infinity. -/
def FpTy.overflowCode (t : FpTy) (rm : Rm) (neg : Bool) : Nat :=
  if t.fin then t.maxCode neg
  else match rm with
    | .rtz => t.maxCode neg
    | .rdn => if neg then t.infCode neg else t.maxCode neg
    | .rup => if neg then t.maxCode neg else t.infCode neg
    | _ => t.infCode neg

/-- Round an exact value to a format: code and flags (R53 to R56, R58). Tininess is detected after rounding. -/
def FpTy.round (t : FpTy) (rm : Rm) (g : Nat) (x : Exact) : Nat × Nat :=
  if x.m = 0 then (t.signBit x.neg, 0)
  else
    let top := (log2N x.m : Int) + x.e
    let qu := top - t.sb
    let q := max qu (t.emin - t.sb)
    let (n, ix) := roundAt rm x.neg x.m x.sticky (q - x.e) g
    let (nu, _) := roundAt rm x.neg x.m x.sticky (qu - x.e) g
    let tiny := nu != 0 && decide ((log2N nu : Int) + qu < t.emin)
    let mx := t.decode t.maxMag
    let past := match mx with
      | .num _ mm me => ltPow mm me n q
      | _ => false
    if past then (t.overflowCode rm x.neg, flOverflow + flInexact)
    else (t.signBit x.neg + t.magCode n q, (if ix then flInexact else 0) + (if tiny && ix then flUnderflow else 0))

/-! ### Arithmetic -/

/-- Significand and exponent of a finite value as an exact value. -/
def exactOf (neg : Bool) (m : Nat) (e : Int) : Exact := { neg := neg, m := m, e := e }

/-- Exact sum of two finite values; an exact zero is +0 unless both addends are −0 (R147). -/
def addExact (a b : Exact) : Exact :=
  let e := min a.e b.e
  let x : Int := (a.m * 2 ^ (a.e - e).toNat : Nat)
  let y : Int := (b.m * 2 ^ (b.e - e).toNat : Nat)
  let s := (if a.neg then -x else x) + (if b.neg then -y else y)
  if s = 0 then { neg := a.neg && b.neg && a.m == 0 && b.m == 0, m := 0, e := 0 }
  else { neg := decide (s < 0), m := s.natAbs, e := e }

def mulExact (a b : Exact) : Exact := { neg := a.neg != b.neg, m := a.m * b.m, e := a.e + b.e }

def FpVal.isNan : FpVal → Bool
  | .nan _ => true
  | _ => false

def FpVal.isSnan : FpVal → Bool
  | .nan s => s
  | _ => false

def FpVal.neg : FpVal → FpVal
  | .nan s => .nan s
  | .inf n => .inf (!n)
  | .num n m e => .num (!n) m e

/-- Canonical NaN with invalid. -/
def FpTy.invalid (t : FpTy) : Nat × Nat := (t.canon, flInvalid)

/-- Sum of two values, rounded RNE (R146). -/
def FpTy.addV (t : FpTy) (a b : FpVal) : Nat × Nat :=
  match a, b with
  | .nan s, y => (t.canon, if s || y.isSnan then flInvalid else 0)
  | _, .nan s => (t.canon, if s then flInvalid else 0)
  | .inf x, .inf y => if x = y then (t.infCode x, 0) else t.invalid
  | .inf x, _ => (t.infCode x, 0)
  | _, .inf y => (t.infCode y, 0)
  | .num n m e, .num n' m' e' => t.round .rne 0 (addExact (exactOf n m e) (exactOf n' m' e'))

def FpTy.mulV (t : FpTy) (a b : FpVal) : Nat × Nat :=
  match a, b with
  | .nan s, y => (t.canon, if s || y.isSnan then flInvalid else 0)
  | _, .nan s => (t.canon, if s then flInvalid else 0)
  | .inf x, .inf y => (t.infCode (x != y), 0)
  | .inf x, .num n m _ => if m = 0 then t.invalid else (t.infCode (x != n), 0)
  | .num n m _, .inf x => if m = 0 then t.invalid else (t.infCode (x != n), 0)
  | .num n m e, .num n' m' e' => t.round .rne 0 (mulExact (exactOf n m e) (exactOf n' m' e'))

/-- a × b + c with one rounding (R147). -/
def FpTy.fmaV (t : FpTy) (a b c : FpVal) : Nat × Nat :=
  let snan := a.isSnan || b.isSnan || c.isSnan
  let nan := a.isNan || b.isNan || c.isNan
  let infZero := match a, b with
    | .inf _, .num _ m _ => m == 0
    | .num _ m _, .inf _ => m == 0
    | _, _ => false
  if infZero || snan then t.invalid
  else if nan then (t.canon, 0)
  else
    let infP : Option Bool := match a, b with
      | .inf x, .inf y => some (x != y)
      | .inf x, .num n _ _ => some (x != n)
      | .num n _ _, .inf x => some (x != n)
      | _, _ => none
    match infP, a, b, c with
    | some p, _, _, .inf z => if p = z then (t.infCode p, 0) else t.invalid
    | some p, _, _, _ => (t.infCode p, 0)
    | none, _, _, .inf z => (t.infCode z, 0)
    | none, .num n m e, .num n' m' e', .num n'' m'' e'' =>
      t.round .rne 0 (addExact (mulExact (exactOf n m e) (exactOf n' m' e')) (exactOf n'' m'' e''))
    | none, _, _, _ => (t.canon, 0)

/-- Floor of the square root, by bits from `k` down. -/
def isqrtFrom : Nat → Nat → Nat → Nat
  | 0, n, r => if (r + 1) * (r + 1) ≤ n then r + 1 else r
  | k + 1, n, r => isqrtFrom k n (if (r + 2 ^ (k + 1)) * (r + 2 ^ (k + 1)) ≤ n then r + 2 ^ (k + 1) else r)

def isqrtN (n : Nat) : Nat := isqrtFrom (log2N n / 2 + 1) n 0

/-- Quotient of two magnitudes to at least 70 significant bits, with sticky. -/
def divExact (neg : Bool) (m : Nat) (e : Int) (m' : Nat) (e' : Int) : Exact :=
  let k := 72 + log2N m'
  { neg := neg, m := m * 2 ^ k / m', e := e - e' - k, sticky := m * 2 ^ k % m' != 0 }

def FpTy.divV (t : FpTy) (a b : FpVal) : Nat × Nat :=
  match a, b with
  | .nan s, y => (t.canon, if s || y.isSnan then flInvalid else 0)
  | _, .nan s => (t.canon, if s then flInvalid else 0)
  | .inf _, .inf _ => t.invalid
  | .inf x, .num n _ _ => (t.infCode (x != n), 0)
  | .num n _ _, .inf y => (t.signBit (n != y), 0)
  | .num n m e, .num n' m' e' =>
    if m' = 0 then (if m = 0 then t.invalid else (t.infCode (n != n'), flDivZero))
    else if m = 0 then (t.signBit (n != n'), 0)
    else t.round .rne 0 (divExact (n != n') m e m' e')

/-- Square root of m × 2^e to at least 70 bits, with sticky. -/
def sqrtExact (m : Nat) (e : Int) : Exact :=
  let odd := e % 2 != 0
  let m1 := if odd then 2 * m else m
  let e1 := if odd then e - 1 else e
  let big := m1 * 2 ^ 160
  let r := isqrtN big
  { neg := false, m := r, e := e1 / 2 - 80, sticky := r * r != big }

def FpTy.sqrtV (t : FpTy) (a : FpVal) : Nat × Nat :=
  match a with
  | .nan s => (t.canon, if s then flInvalid else 0)
  | .inf n => if n then t.invalid else (t.infCode false, 0)
  | .num n m e => if m = 0 then (t.signBit n, 0) else if n then t.invalid else t.round .rne 0 (sqrtExact m e)

/-- Total order of two numbers that are not NaN; −0 below +0 (R148). -/
def fpLess (a b : FpVal) : Bool :=
  match a, b with
  | .inf x, .inf y => x && !y
  | .inf x, _ => x
  | _, .inf y => !y
  | .num n m e, .num n' m' e' =>
    if n != n' then n
    else if n then ltPow m' e' m e else ltPow m e m' e'
  | _, _ => false

/-- Values of equal order; ±0 are equal here. -/
def fpEqual (a b : FpVal) : Bool :=
  match a, b with
  | .inf x, .inf y => x == y
  | .num n m e, .num n' m' e' => (m == 0 && m' == 0) || (n == n' && !ltPow m e m' e' && !ltPow m' e' m e)
  | _, _ => false

/-- minimumNumber and maximumNumber (R148) on codes. -/
def FpTy.minMax (t : FpTy) (isMax : Bool) (a b : Nat) : Nat × Nat :=
  let x := t.decode a
  let y := t.decode b
  let fl := if x.isSnan || y.isSnan then flInvalid else 0
  if x.isNan && y.isNan then (t.canon, fl)
  else if x.isNan then (b, fl)
  else if y.isNan then (a, fl)
  else if isMax then (if fpLess x y then b else a, fl) else (if fpLess y x then b else a, fl)

/-! ### Conversions -/

/-- Floating point to floating point (R58). -/
def FpTy.fromFp (t : FpTy) (rm : Rm) (g : Nat) (v : FpVal) : Nat × Nat :=
  match v with
  | .nan s => (t.canon, if s then flInvalid else 0)
  | .inf n => if t.fin then (t.maxCode n, flOverflow + flInexact) else (t.infCode n, 0)
  | .num n m e => t.round rm g (exactOf n m e)

/-- Integer to floating point (R60). -/
def FpTy.fromInt (t : FpTy) (rm : Rm) (g : Nat) (x : Int) : Nat × Nat :=
  t.round rm g { neg := decide (x < 0), m := x.natAbs, e := 0 }

/-- Floating point to an integer of a range (R59): the integer and flags. -/
def intFromFp (lo hi : Int) (rm : Rm) (g : Nat) (v : FpVal) : Int × Nat :=
  match v with
  | .nan _ => (0, flInvalid)
  | .inf n => (if n then lo else hi, flInvalid)
  | .num n m e =>
    let (q, ix) := roundAt rm n m false (-e) g
    let x : Int := if n then -(q : Int) else q
    if x < lo then (lo, flInvalid) else if hi < x then (hi, flInvalid) else (x, if ix then flInexact else 0)

/-- To an integral value of the same format (R151); the result keeps the operand's sign. -/
def FpTy.roundIntegral (t : FpTy) (rm : Rm) (g : Nat) (c : Nat) : Nat × Nat :=
  match t.decode c with
  | .nan s => (t.canon, if s then flInvalid else 0)
  | .inf _ => (c, 0)
  | .num n m e =>
    if 0 ≤ e || m = 0 then (c, 0)
    else
      let (q, ix) := roundAt rm n m false (-e) g
      (t.signBit n + t.magCode q 0, if ix then flInexact else 0)

/-- The class bit of R150. -/
def FpTy.classBit (t : FpTy) (c : Nat) : Nat :=
  match t.decode c with
  | .nan s => if s then 256 else 512
  | .inf n => if n then 1 else 128
  | .num n m _ =>
    if m = 0 then (if n then 8 else 16)
    else if m < 2 ^ t.sb then (if n then 4 else 32) else (if n then 2 else 64)

/-! ### The generator of R56 -/

/-- One draw: the new state, which is also the value drawn. -/
def draw (s : W32) : W32 :=
  let s0 := if s = 0 then 1 else s
  let s1 := s0 ^^^ (s0 <<< 13)
  let s2 := s1 ^^^ (s1 >>> 17)
  s2 ^^^ (s2 <<< 5)

/-! ### Lane types -/

/-- The format of a floating-point lane type. -/
def LaneTy.fp : LaneTy → FpTy
  | .f16 => fpF16 | .b16 => fpB16 | .f64 => fpF64 | .e4m3 => fpE4M3 | .e5m2 => fpE5M2
  | _ => fpF32

/-- Lane width in bits (R49). -/
def LaneTy.width : LaneTy → Nat
  | .i8 | .n8 | .e4m3 | .e5m2 => 8
  | .i16 | .n16 | .f16 | .b16 => 16
  | .i32 | .n32 | .f32 => 32
  | .f64 => 64

/-- Lanes of a word (R49, R50: F64 has one). -/
def LaneTy.lanes : LaneTy → Nat
  | .f64 => 1
  | t => 128 / t.width

def LaneTy.signed : LaneTy → Bool
  | .i8 | .i16 | .i32 => true
  | _ => false

def LaneTy.lo (t : LaneTy) : Int := if t.signed then -(2 ^ (t.width - 1) : Nat) else 0
def LaneTy.hi (t : LaneTy) : Int := if t.signed then (2 ^ (t.width - 1) : Nat) - 1 else (2 ^ t.width : Nat) - 1

/-- The integer a lane holds (R51). -/
def LaneTy.intVal (t : LaneTy) (x : Nat) : Int := if t.signed then toSigned t.width x else (x % 2 ^ t.width : Nat)

def clampInt (lo hi x : Int) : Int := if x < lo then lo else if hi < x then hi else x

/-- Convert one lane (R153, R58 to R60): code of the destination and flags. -/
def convLane (dst src : LaneTy) (rm : Rm) (g : Nat) (x : Nat) : Nat × Nat :=
  if src.isInt then
    (if dst.isInt then (ofInt dst.width (clampInt dst.lo dst.hi (src.intVal x)), 0)
     else dst.fp.fromInt rm g (src.intVal x))
  else if dst.isInt then
    let (v, fl) := intFromFp dst.lo dst.hi rm g (src.fp.decode x)
    (ofInt dst.width v, fl)
  else dst.fp.fromFp rm g (src.fp.decode x)

end Sys2Proof.Machine
end

