-- ==== Sys2Proof/Machine/Operands.lean ====
section
/-! DEFINITION. Values inside a beat (04 R108 to R110): Booleans, lane masks, sidebands of results, and the words that
registers give and take (R117). -/

namespace Sys2Proof.Machine

/-- A value's Boolean reading (R108). -/
def Token.truth (v : Token) : Bool := v.word != 0

/-- Lane-mask bit i of a word: byte i is not 0 (R108). -/
def maskBit (w : Word) (i : Nat) : Bool := lane 8 i w != 0

/-- The mask bit that governs lane i of a width: that of its lowest byte (R108, R22). -/
def laneMask (w : Word) (width i : Nat) : Bool := maskBit w (width * i / 8)

/-- The 16 mask bits of a word (R117, WRR pN). -/
def maskOf (w : Word) : BitVec 16 := .ofNat 16 (packLanes 1 ((List.range 16).map fun i => b2n (maskBit w i)))

/-- The word RDR gives for a predicate (R117). -/
def predWord (p : BitVec 16) : Word := wordOfLanes 8 ((List.range 16).map fun i => if p.getLsbD i then 0xFF else 0)

/-- PSN of a computed result: the OR of its operands' (R109). -/
def anyPsn (vs : List Token) : Bool := vs.any (·.psn)

/-- A computed result (R109): its word, the operands' poison, the trigger head's CTAG, every other field 0. -/
def computed (ctag : BitVec 2) (psn : Bool) (w : Word) : Token := { word := w, psn := psn, ctag := ctag }

/-- An operand, or a token of zeros where the port is not fed. -/
def opnd (v : Option Token) : Token := v.getD {}

/-- Whether result lane i is computed under a mask on P (R110). -/
def laneOn (p : Option Token) (width i : Nat) : Bool :=
  match p with
  | some v => laneMask v.word width i
  | none => true

/-- All lanes of a width, lane 0 first. -/
def lanesOf (width n : Nat) (w : Word) : List Nat := (List.range n).map fun i => lane width i w

end Sys2Proof.Machine
end

