-- ==== Sys2Proof/Machine/Flags.lean ====
section
/-! DEFINITION. Flags of lanes and the exception modes of a channel (05 R142 to R144, 03 R90). -/

namespace Sys2Proof.Machine

/-- Mode of a flag class (R143). -/
inductive XMode where
  | flag | poison | trap
  deriving DecidableEq, Repr

def XMode.ofCode : Nat → XMode
  | 1 => .poison
  | 2 => .trap
  | _ => .flag

/-- The five classes in the order of R144, with their flag bits. -/
def flagClasses : List (Nat × Nat) := [(0, flInvalid), (1, flDivZero), (2, flOverflow), (3, flUnderflow), (4, flInexact)]

/-- The mode of class c: XCLS fields (R90), two bits a class, invalid lowest. -/
def xmodeOf (xcls c : Nat) : XMode := .ofCode (fld xcls (2 * c + 1) (2 * c))

/-- OR of two flag sets of five bits. -/
def orFlags (a b : Nat) : Nat := ((BitVec.ofNat 5 a) ||| (BitVec.ofNat 5 b)).toNat

def allFlags (ls : List Nat) : Nat := ls.foldl orFlags 0

def hasFlag (fl f : Nat) : Bool := fl / f % 2 == 1

/-- A class of the flags in poison mode is raised. -/
def poisonsBy (xcls fl : Nat) : Bool := flagClasses.any fun (c, f) => hasFlag fl f && xmodeOf xcls c == .poison

/-- The first trap-mode class raised, in the order of R144, with the lowest lane that raised it. `ls` lists the flags by lane. -/
def trapsBy (xcls : Nat) (ls : List Nat) : Option (Nat × Nat) :=
  flagClasses.findSome? fun (c, f) =>
    if xmodeOf xcls c == .trap then (ls.findIdx? fun fl => hasFlag fl f).map fun i => (c, i) else none

end Sys2Proof.Machine
end

