-- ==== Sys2Proof/Machine/IntOps.lean ====
section
/-! DEFINITION. The integer and address forms (04 R125 to R130) and the lane choice of SEL (R119), on words. -/

namespace Sys2Proof.Machine

/-- Leading zero bits of a w-bit lane. -/
def clzN (w x : Nat) : Nat := if x % 2 ^ w = 0 then w else w - 1 - log2N (x % 2 ^ w)

/-- One bits of the low w bits. -/
def popcN : Nat → Nat → Nat
  | 0, _ => 0
  | w + 1, x => x % 2 + popcN w (x / 2)

/-- Bitwise operations on lanes. -/
def andN (w a b : Nat) : Nat := (BitVec.ofNat w a &&& BitVec.ofNat w b).toNat
def orN (w a b : Nat) : Nat := (BitVec.ofNat w a ||| BitVec.ofNat w b).toNat
def xorN (w a b : Nat) : Nat := (BitVec.ofNat w a ^^^ BitVec.ofNat w b).toNat
def notN (w a : Nat) : Nat := 2 ^ w - 1 - a % 2 ^ w

/-- Rotate left. -/
def rolN (w a n : Nat) : Nat :=
  let k := n % w
  (a * 2 ^ k) % 2 ^ w + a % 2 ^ w / 2 ^ (w - k)

/-- BFX on one lane: control pos in [7:0], len in [15:8] (R130). -/
def bfxLane (t : LaneTy) (a ctl : Nat) : Nat :=
  let pos := fld ctl 7 0
  let len := fld ctl 15 8
  let ext := t.intVal a
  let f := (ext / (2 ^ pos : Nat)) % (2 ^ len : Nat)
  let f' := if t.signed && len != 0 && decide ((2 ^ len : Nat) ≤ 2 * f) then f - (2 ^ len : Nat) else f
  ofInt t.width f'

/-- BFI on one lane (R130). -/
def bfiLane (w a b ctl : Nat) : Nat :=
  let pos := fld ctl 7 0
  let len := fld ctl 15 8
  let m := (2 ^ len - 1) * 2 ^ pos % 2 ^ w
  orN w (andN w a (notN w m)) (andN w (b * 2 ^ pos) m)

/-- A form's exact result on one lane (R126, R127, R130); the shift forms and the logical forms already reduced to the lane. -/
def intLane (o : IntOp) (t : LaneTy) (ctl : Nat) (a b c : Nat) : Int :=
  let w := t.width
  let x := t.intVal a
  let y := t.intVal b
  match o with
  | .iadd => x + y
  | .isub => x - y
  | .imul => x * y
  | .imad => x * y + t.intVal c
  | .imulh => (x * y) / (2 ^ w : Nat)
  | .iabs => if x < 0 then -x else x
  | .ineg => -x
  | .iand => andN w a b
  | .ior => orN w a b
  | .ixor => xorN w a b
  | .inot => notN w a
  | .imin => if y < x then y else x
  | .imax => if x < y then y else x
  | .clz => clzN w a
  | .popc => popcN w a
  | .shl => if w ≤ b then 0 else (a * 2 ^ b % 2 ^ w : Nat)
  | .shr => if w ≤ b then 0 else (a / 2 ^ b : Nat)
  | .sar => toSigned w a / (2 ^ min b w : Nat)
  | .rol => rolN w a b
  | .bfx => bfxLane t a ctl
  | .bfi => bfiLane w a b ctl

/-- The word of an integer form (R125), with its lane mask (R110). -/
def intWord (o : IntOp) (t : LaneTy) (sat : Bool) (a b c : Word) (p : Option Token) : Word :=
  let w := t.width
  let ctl := match o with
    | .bfi => c.toNat
    | _ => b.toNat
  wordOfLanes w ((List.range t.lanes).map fun i =>
    if !laneOn p w i then lane w i a
    else
      let x := intLane o t ctl (lane w i a) (lane w i b) (lane w i c)
      ofInt w (if sat then clampInt t.lo t.hi x else x))

/-- A comparison of exact values (R128). -/
def ccHolds (cc : Cc) (x y : Int) : Bool :=
  match cc with
  | .eq => x == y
  | .ne => x != y
  | .lt => decide (x < y)
  | .le => decide (x ≤ y)
  | .gt => decide (y < x)
  | .ge => decide (y ≤ x)
  | .un => false
  | .ord => true

def icmpWord (t : LaneTy) (cc : Cc) (a b : Word) (p : Option Token) : Word :=
  let w := t.width
  wordOfLanes w ((List.range t.lanes).map fun i =>
    if laneOn p w i && ccHolds cc (t.intVal (lane w i a)) (t.intVal (lane w i b)) then 2 ^ w - 1 else 0)

/-- ISAT (R128): by destination lanes. -/
def isatWord (src dst : LaneTy) (a : Word) (p : Option Token) : Word :=
  wordOfLanes dst.width ((List.range (min src.lanes dst.lanes)).map fun i =>
    if laneOn p dst.width i then ofInt dst.width (clampInt dst.lo dst.hi (src.intVal (lane src.width i a))) else 0)

/-- AADD (R129), masked by lanes of the index type (R110). -/
def aaddWord (t : LaneTy) (sh : Nat) (a b : Word) (p : Option Token) : Word :=
  let sum := ofInt 64 ((a.toNat % 2 ^ 64 : Nat) + t.intVal (lane 32 0 b) * (2 ^ sh : Nat))
  let r := wordOfLanes 64 [sum, lane 64 1 a]
  wordOfLanes 32 ((List.range 4).map fun i => if laneOn p 32 i then lane 32 i r else lane 32 i a)

/-- ABND (R129). -/
def abndWord (t : LaneTy) (a b : Word) (p : Option Token) : Word :=
  let lo := t.intVal (lane 32 0 b)
  let hi := t.intVal (lane 32 1 b)
  wordOfLanes 32 ((List.range 4).map fun i =>
    let x := t.intVal (lane 32 i a)
    if !laneOn p 32 i then lane 32 i a
    else if hi < lo then ofInt 32 lo
    else ofInt 32 (if (if x < lo then lo else x) > hi then hi else if x < lo then lo else x))

/-- SEL (R119): per lane of 8 × 2^w bits, A where the mask is 1, else B. -/
def selWord (w : Nat) (a b c : Word) : Word :=
  let width := 8 * 2 ^ w
  wordOfLanes width ((List.range (128 / width)).map fun i => if laneMask c width i then lane width i a else lane width i b)

/-- LDI (R116): the literal in every lane or in lane 0; for F64, read as F32 and widened exactly. -/
def ldiWord (t : LaneTy) (l0 : Bool) (lit : W32) : Word :=
  let v := if t = .f64 then (fpF64.fromFp .rne 0 (fpF32.decode lit.toNat)).1 else lit.toNat % 2 ^ t.width
  if l0 || t = .f64 then lane0 t.width v else wordOfLanes t.width (List.replicate t.lanes v)

end Sys2Proof.Machine
end

