-- ==== Sys2Proof/Machine/Special.lean ====
section
/-! DEFINITION. The special functions of 05 R152, correctly rounded with RNE. The transcendental ones are enclosed between two
fixed-point numbers, at rising precision, until both ends round to one code. -/

namespace Sys2Proof.Machine

/-- Sum of the terms x^k / k! in fixed point with `p` fraction bits: a lower bound, within one unit for each term. -/
def expSeries (p x : Nat) : Nat → Nat → Nat → Nat → Nat
  | 0, _, _, acc => acc
  | fuel + 1, k, term, acc =>
    let t := term * x / (k * 2 ^ p)
    if t = 0 then acc else expSeries p x fuel (k + 1) t (acc + t)

/-- e^x for 0 ≤ x < 1 in fixed point. -/
def expFix (p x : Nat) : Nat := expSeries p x 400 1 (2 ^ p) (2 ^ p)

/-- Sum of z^(2k+1) / (2k+1) in fixed point. -/
def atanhSeries (p z2 : Nat) : Nat → Nat → Nat → Nat → Nat
  | 0, _, _, acc => acc
  | fuel + 1, k, pw, acc =>
    if pw = 0 then acc else atanhSeries p z2 fuel (k + 2) (pw * z2 / 2 ^ p) (acc + pw / k)

/-- atanh z for 0 ≤ z ≤ 1/3 in fixed point. -/
def atanhFix (p z : Nat) : Nat := atanhSeries p (z * z / 2 ^ p) 600 1 z 0

/-- ln 2 = 2 atanh (1/3) in fixed point. -/
def ln2Fix (p : Nat) : Nat := 2 * atanhFix p (2 ^ p / 3)

/-- Fixed-point value of m × 2^e with p fraction bits, toward zero. -/
def toFix (p m : Nat) (e : Int) : Nat :=
  let k := e + p
  if 0 ≤ k then m * 2 ^ k.toNat else m / 2 ^ (-k).toNat

/-- An enclosure: (−1)^neg × [lo, hi] × 2^e. -/
structure Encl where
  neg : Bool
  lo : Nat
  hi : Nat
  e : Int
  deriving DecidableEq, Repr

/-- Round an enclosure: the result when both ends give it. -/
def FpTy.roundEncl (t : FpTy) (x : Encl) : Option (Nat × Nat) :=
  let a := t.round .rne 0 { neg := x.neg, m := x.lo, e := x.e, sticky := true }
  let b := t.round .rne 0 { neg := x.neg, m := x.hi, e := x.e, sticky := true }
  if a = b && x.lo != 0 then some a else none

/-- Round by enclosures at rising precision; the last precision's lower end otherwise. -/
def FpTy.roundBy (t : FpTy) (f : Nat → Encl) : List Nat → Nat × Nat
  | [] => t.round .rne 0 { neg := (f 1024).neg, m := (f 1024).lo, e := (f 1024).e, sticky := true }
  | p :: ps => match t.roundEncl (f p) with
    | some r => r
    | none => FpTy.roundBy t f ps

/-- The precisions tried. -/
def precs : List Nat := [120, 200, 400, 800]

/-- Slack of an enclosure, in units of its last place: more than the truncations of the series can lose. -/
def slack : Nat := 8192

/-- 2^y for y = ±x / 2^p: enclosure from the integer and fraction parts. -/
def exp2Encl (p : Nat) (neg : Bool) (x : Nat) : Encl :=
  let k : Int := if neg then -((x + 2 ^ p - 1) / 2 ^ p : Nat) else (x / 2 ^ p : Nat)
  let fr := if neg then (2 ^ p - x % 2 ^ p) % 2 ^ p else x % 2 ^ p
  let r := expFix p (fr * ln2Fix p / 2 ^ p)
  { neg := false, lo := r - slack, hi := r + slack, e := k - p }

/-- e^(±x / 2^p), the argument reduced by ln 2; |x| below 2^12. -/
def expEncl (p : Nat) (neg : Bool) (x : Nat) : Encl :=
  let l := ln2Fix p
  let q := x / l
  let r := x % l
  if neg then
    let y := if r = 0 then 0 else l - r
    let k : Int := if r = 0 then -(q : Int) else -((q + 1 : Nat) : Int)
    let v := expFix p y
    { neg := false, lo := v - slack, hi := v + slack, e := k - p }
  else
    let v := expFix p r
    { neg := false, lo := v - slack, hi := v + slack, e := (q : Int) - p }

/-- Far outside the range of every format: certain overflow, certain underflow. -/
def FpTy.huge (t : FpTy) (neg : Bool) : Nat × Nat := t.round .rne 0 { neg := neg, m := 1, e := 5000 }
def FpTy.minute (t : FpTy) (neg : Bool) : Nat × Nat := t.round .rne 0 { neg := neg, m := 1, e := -5000 }

/-- Just above or just below c × 2^e. -/
def FpTy.near (t : FpTy) (neg : Bool) (c : Nat) (e : Int) (above : Bool) : Nat × Nat :=
  t.round .rne 0 { neg := neg, m := if above then c * 2 ^ 100 else c * 2 ^ 100 - 1, e := e - 100, sticky := true }

/-- Floor of log2 of m × 2^e. -/
def topExp (m : Nat) (e : Int) : Int := (log2N m : Int) + e

/-- 2^a (R152). -/
def FpTy.exp2V (t : FpTy) (n : Bool) (m : Nat) (e : Int) : Nat × Nat :=
  if m = 0 then t.round .rne 0 { neg := false, m := 1, e := 0 }
  else if 13 ≤ topExp m e then (if n then t.minute false else t.huge false)
  else if topExp m e < -90 then t.near false 1 0 (!n)
  else if 0 ≤ e || m % 2 ^ (-e).toNat == 0 then
    let k := if 0 ≤ e then m * 2 ^ e.toNat else m / 2 ^ (-e).toNat
    t.round .rne 0 { neg := false, m := 1, e := if n then -(k : Int) else k }
  else t.roundBy (fun p => exp2Encl (p + 180) n (toFix (p + 180) m e)) precs

/-- e^a (R152). -/
def FpTy.expV (t : FpTy) (n : Bool) (m : Nat) (e : Int) : Nat × Nat :=
  if m = 0 then t.round .rne 0 { neg := false, m := 1, e := 0 }
  else if 13 ≤ topExp m e then (if n then t.minute false else t.huge false)
  else if topExp m e < -90 then t.near false 1 0 (!n)
  else t.roundBy (fun p => expEncl (p + 180) n (toFix (p + 180) m e)) precs

/-- log2 of m × 2^e, m > 0 (R152): exponent plus log2 of the significand, by atanh. -/
def log2Encl (p m : Nat) (e : Int) : Encl :=
  let k := topExp m e
  let f := m * 2 ^ p / 2 ^ log2N m
  let z := (f - 2 ^ p) * 2 ^ p / (f + 2 ^ p)
  let l := 2 * atanhFix p z * 2 ^ p / ln2Fix p
  let v : Int := k * (2 ^ p : Nat) + l
  { neg := decide (v < 0), lo := v.natAbs - slack, hi := v.natAbs + slack, e := -p }

def FpTy.log2V (t : FpTy) (m : Nat) (e : Int) : Nat × Nat :=
  if m = 2 ^ log2N m then
    let k := topExp m e
    t.round .rne 0 { neg := decide (k < 0), m := k.natAbs, e := 0 }
  else t.roundBy (fun p => log2Encl (p + 60) m e) precs

/-- tanh of |a|, from E = e^(−2|a|): (1 − E) / (1 + E). -/
def tanhEncl (p : Nat) (neg : Bool) (x : Nat) : Encl :=
  let ex := expEncl p true (2 * x)
  let sh := (-(ex.e) - p).toNat
  let lo := ex.lo / 2 ^ sh
  let hi := ex.hi / 2 ^ sh + 1
  { neg := neg, lo := (2 ^ p - hi) * 2 ^ p / (2 ^ p + hi), hi := (2 ^ p - lo) * 2 ^ p / (2 ^ p + lo) + 1, e := -p }

def FpTy.tanhV (t : FpTy) (n : Bool) (m : Nat) (e : Int) : Nat × Nat :=
  if m = 0 then (t.signBit n, 0)
  else if topExp m e < -60 then t.near n m e false
  else if 7 ≤ topExp m e then t.near n 1 0 false
  else t.roundBy (fun p => tanhEncl (p + 180) n (toFix (p + 180) m e)) precs

/-- The logistic sigmoid: 1 / (1 + e^−a) (R152). -/
def sigmEncl (p : Nat) (neg : Bool) (x : Nat) : Encl :=
  let ex := expEncl p true x
  let sh := (-(ex.e) - p).toNat
  let lo := ex.lo / 2 ^ sh
  let hi := ex.hi / 2 ^ sh + 1
  if neg then { neg := false, lo := ex.lo * 2 ^ p / (2 ^ p + hi), hi := ex.hi * 2 ^ p / (2 ^ p + lo) + 1, e := ex.e }
  else { neg := false, lo := 2 ^ (2 * p) / (2 ^ p + hi), hi := 2 ^ (2 * p) / (2 ^ p + lo) + 1, e := -p }

def FpTy.sigmV (t : FpTy) (n : Bool) (m : Nat) (e : Int) : Nat × Nat :=
  if m = 0 then t.round .rne 0 { neg := false, m := 1, e := -1 }
  else if topExp m e < -90 then t.near false 1 (-1) (!n)
  else if 13 ≤ topExp m e then (if n then t.minute false else t.near false 1 0 false)
  else t.roundBy (fun p => sigmEncl (p + 180) n (toFix (p + 180) m e)) precs

/-- 1 / √(m × 2^e), m > 0. -/
def rsqrtExact (m : Nat) (e : Int) : Exact :=
  let odd := e % 2 != 0
  let m1 := if odd then 2 * m else m
  let e1 := if odd then e - 1 else e
  let k := 2 * (log2N m1 + 90)
  let r := isqrtN (2 ^ k / m1)
  { neg := false, m := r, e := -(e1 / 2) - (k / 2 : Nat), sticky := r * r * m1 != 2 ^ k }

/-- A special function of a lane: code and flags (R152). -/
def FpTy.special (t : FpTy) (o : SpecOp) (c : Nat) : Nat × Nat :=
  match t.decode c with
  | .nan s => (t.canon, if s then flInvalid else 0)
  | .inf n =>
    match o with
    | .frcp => (t.signBit n, 0)
    | .frsq => if n then t.invalid else (0, 0)
    | .fex2 | .fexe => if n then (0, 0) else (t.infCode false, 0)
    | .flg2 => if n then t.invalid else (t.infCode false, 0)
    | .ftnh => t.round .rne 0 { neg := n, m := 1, e := 0 }
    | .fsig => if n then (0, 0) else t.round .rne 0 { neg := false, m := 1, e := 0 }
  | .num n m e =>
    match o with
    | .frcp => if m = 0 then (t.infCode n, flDivZero) else t.round .rne 0 (divExact n 1 0 m e)
    | .frsq => if m = 0 then (t.infCode n, flDivZero) else if n then t.invalid else t.round .rne 0 (rsqrtExact m e)
    | .fex2 => t.exp2V n m e
    | .flg2 => if m = 0 then (t.infCode true, flDivZero) else if n then t.invalid else t.log2V m e
    | .fexe => t.expV n m e
    | .ftnh => t.tanhV n m e
    | .fsig => t.sigmV n m e

end Sys2Proof.Machine
end

