-- ==== Sys2Proof/Machine/FltOps.lean ====
section
/-! DEFINITION. The PE forms on words: floating-point arithmetic, compare, classify, round, special functions (05 R146 to R152),
conversion (R153 to R155), lane movement (R161, R162), reductions, scan and dot product (R163 to R165). -/

namespace Sys2Proof.Machine

/-- A word with the flags each lane raised (R143) and the generator after its draws (R57). -/
structure Lanes where
  word : Word
  flags : List Nat := []
  rng : W32
  deriving DecidableEq, Repr

/-- Compute lanes in ascending order; under STO each computed lane makes one draw (R57, R142). -/
def drawLanes (rm : Rm) (on : Nat → Bool) (f : Nat → Nat → Nat × Nat) (off : Nat → Nat) :
    List Nat → W32 → List (Nat × Nat) × W32
  | [], s => ([], s)
  | i :: is, s =>
    if on i then
      let s' := if rm = .sto then draw s else s
      let (r, s'') := drawLanes rm on f off is s'
      (f i s'.toNat :: r, s'')
    else
      let (r, s') := drawLanes rm on f off is s
      ((off i, 0) :: r, s')

def lanesResult (w : Nat) (x : List (Nat × Nat) × W32) : Lanes :=
  { word := wordOfLanes w (x.1.map (·.1)), flags := x.1.map (·.2), rng := x.2 }

/-- FADD to FSQT on one lane (R146 to R148). -/
def fltLane (o : FltOp) (t : FpTy) (a b c : Nat) : Nat × Nat :=
  let x := t.decode a
  let y := t.decode b
  let z := t.decode c
  let sign := 2 ^ (t.eb + t.sb)
  match o with
  | .fadd => t.addV x y
  | .fsub => t.addV x y.neg
  | .fmul => t.mulV x y
  | .ffma => t.fmaV x y z
  | .ffms => t.fmaV x y z.neg
  | .fnma => t.fmaV x.neg y z
  | .fmin => t.minMax false a b
  | .fmax => t.minMax true a b
  | .fabs => (a % sign, 0)
  | .fneg => (if sign ≤ a then a - sign else a + sign, 0)
  | .fcps => (a % sign + (if bitN b (t.eb + t.sb) then sign else 0), 0)
  | .fdiv => t.divV x y
  | .fsqt => t.sqrtV x

def fltWord (o : FltOp) (t : LaneTy) (a b c : Word) (p : Option Token) (rng : W32) : Lanes :=
  let w := t.width
  lanesResult w (drawLanes .rne (laneOn p w) (fun i _ => fltLane o t.fp (lane w i a) (lane w i b) (lane w i c))
    (fun i => lane w i a) (List.range t.lanes) rng)

/-- FCMP on one lane (R149): whether the relation holds, and its flag. -/
def fcmpLane (t : FpTy) (cc : Cc) (a b : Nat) : Bool × Nat :=
  let x := t.decode a
  let y := t.decode b
  let un := x.isNan || y.isNan
  let eq := fpEqual x y
  let lt := !eq && fpLess x y
  let fl := if x.isSnan || y.isSnan then flInvalid else 0
  let flq := if un then flInvalid else 0
  match cc with
  | .eq => (!un && eq, fl)
  | .ne => (un || !eq, fl)
  | .lt => (!un && lt, flq)
  | .le => (!un && (lt || eq), flq)
  | .gt => (!un && !lt && !eq, flq)
  | .ge => (!un && !lt, flq)
  | .un => (un, fl)
  | .ord => (!un, fl)

def fcmpWord (t : LaneTy) (cc : Cc) (a b : Word) (p : Option Token) (rng : W32) : Lanes :=
  let w := t.width
  lanesResult w (drawLanes .rne (laneOn p w) (fun i _ =>
    let r := fcmpLane t.fp cc (lane w i a) (lane w i b)
    (if r.1 then 2 ^ w - 1 else 0, r.2)) (fun _ => 0) (List.range t.lanes) rng)

def fclsWord (t : LaneTy) (a : Word) (p : Option Token) (rng : W32) : Lanes :=
  let w := t.width
  lanesResult w (drawLanes .rne (laneOn p w) (fun i _ => (t.fp.classBit (lane w i a), 0)) (fun _ => 0) (List.range t.lanes) rng)

def frndWord (t : LaneTy) (rm : Rm) (a : Word) (p : Option Token) (rng : W32) : Lanes :=
  let w := t.width
  lanesResult w (drawLanes rm (laneOn p w) (fun i g => t.fp.roundIntegral rm g (lane w i a)) (fun i => lane w i a)
    (List.range t.lanes) rng)

def specWord (o : SpecOp) (t : LaneTy) (a : Word) (p : Option Token) (rng : W32) : Lanes :=
  let w := t.width
  lanesResult w (drawLanes .rne (laneOn p w) (fun i _ => t.fp.special o (lane w i a)) (fun i => lane w i a)
    (List.range t.lanes) rng)

/-! ### Conversion -/

def cvtWord (dst src : LaneTy) (rm : Rm) (a : Word) (rng : W32) : Lanes :=
  lanesResult dst.width (drawLanes rm (fun _ => true) (fun i g => convLane dst src rm g (lane src.width i a)) (fun _ => 0)
    (List.range (min src.lanes dst.lanes)) rng)

/-- The wide type of a narrow one (R154). -/
def LaneTy.wide : LaneTy → LaneTy
  | .i8 => .i16 | .i16 => .i32 | .n8 => .n16 | .n16 => .n32 | .e4m3 | .e5m2 => .f16
  | _ => .f32

def packWord (t : LaneTy) (a b : Word) (rng : W32) : Lanes :=
  let wt := t.wide
  let n := t.lanes / 2
  lanesResult t.width (drawLanes .rne (fun _ => true) (fun i _ =>
    convLane t wt .rne 0 (if i < n then lane wt.width i a else lane wt.width (i - n) b)) (fun _ => 0) (List.range t.lanes) rng)

/-- UNPK (R155): E4M3 and E5M2 lanes raise nothing. -/
def unpkWord (t : LaneTy) (hi : Bool) (a : Word) (rng : W32) : Lanes :=
  let wt := t.wide
  let n := t.lanes / 2
  lanesResult wt.width (drawLanes .rne (fun _ => true) (fun i _ =>
    let (v, f) := convLane wt t .rne 0 (lane t.width (if hi then n + i else i) a)
    (v, if t = .e4m3 ∨ t = .e5m2 then 0 else f)) (fun _ => 0) (List.range n) rng)

/-! ### Lane movement -/

def shufWord (t : LaneTy) (a b : Word) : Word :=
  let w := t.width
  let n := t.lanes
  wordOfLanes w ((List.range n).map fun i =>
    let x := lane w i b
    if bitN x (w - 1) then 0 else lane w (x % n) a)

def bcstWord (t : LaneTy) (a b : Word) : Word :=
  wordOfLanes t.width (List.replicate t.lanes (lane t.width (lane 32 0 b % t.lanes) a))

def slidWord (t : LaneTy) (fillB up : Bool) (a b c : Word) : Word :=
  let w := t.width
  let n := t.lanes
  let k := min (lane 32 0 c) n
  wordOfLanes w ((List.range n).map fun i =>
    if up then (if k ≤ i then lane w (i - k) a else if fillB then lane w (n + i - k) b else 0)
    else (if i + k < n then lane w (i + k) a else if fillB then lane w (i + k - n) b else 0))

def zipWord (t : LaneTy) (hi : Bool) (a b : Word) : Word :=
  let w := t.width
  let h := if hi then t.lanes / 2 else 0
  wordOfLanes w ((List.range t.lanes).map fun i => if i % 2 = 0 then lane w (h + i / 2) a else lane w (h + i / 2) b)

def uzpWord (t : LaneTy) (hi : Bool) (a b : Word) : Word :=
  let w := t.width
  let n := t.lanes
  wordOfLanes w ((List.range n).map fun i =>
    let j := 2 * i + b2n hi
    if j < n then lane w j a else lane w (j - n) b)

/-! ### Reductions -/

/-- One level of the tree of R78: adjacent pairs. -/
def pairUp (f : Nat → Nat → Nat × Nat) : List Nat → List Nat × Nat
  | x :: y :: r =>
    let (v, fl) := f x y
    let (vs, fl') := pairUp f r
    (v :: vs, orFlags fl fl')
  | l => (l, 0)

/-- The tree of R78, at most `fuel` levels. -/
def treeFold (f : Nat → Nat → Nat × Nat) : Nat → List Nat → Nat × Nat
  | 0, l => (l.headD 0, 0)
  | n + 1, l =>
    match l with
    | [x] => (x, 0)
    | l =>
      let (l', fl) := pairUp f l
      let (v, fl') := treeFold f n l'
      (v, orFlags fl fl')

def intMax (l : List Int) : Int := l.foldl (fun a b => if a < b then b else a) (l.headD 0)
def intMin (l : List Int) : Int := l.foldl (fun a b => if b < a then b else a) (l.headD 0)

/-- RSUM, RMAX, RMIN, RAMX (R163): the result in lane 0. Flags of the tree, and an invalid of RAMX, stand at lane 0 (DESIGN CHOICE, log entry 101). -/
def redWord (o : RedOp) (t : LaneTy) (a : Word) (rng : W32) : Lanes :=
  let w := t.width
  let ls := lanesOf w t.lanes a
  if t.isInt then
    let xs := ls.map t.intVal
    match o with
    | .rsum => { word := lane0 32 (ofInt 32 (xs.foldl (· + ·) 0)), rng := rng }
    | .rmax => { word := lane0 w (ofInt w (intMax xs)), rng := rng }
    | .rmin => { word := lane0 w (ofInt w (intMin xs)), rng := rng }
    | .ramx => { word := lane0 w (ofInt w (intMax (xs.map fun x => (x.natAbs : Int)))), rng := rng }
  else
    match o with
    | .rsum =>
      let (v, fl) := treeFold (fun x y => t.fp.addV (t.fp.decode x) (t.fp.decode y)) 4 ls
      { word := lane0 w v, flags := [fl], rng := rng }
    | .rmax => let (v, fl) := treeFold (t.fp.minMax true) 4 ls; { word := lane0 w v, flags := [fl], rng := rng }
    | .rmin => let (v, fl) := treeFold (t.fp.minMax false) 4 ls; { word := lane0 w v, flags := [fl], rng := rng }
    | .ramx =>
      let vs := ls.map t.fp.decode
      let fl := if vs.any (·.isSnan) then flInvalid else 0
      let mags := ls.map (· % 2 ^ (w - 1))
      { word := lane0 w (if vs.any (·.isNan) then t.fp.canon else mags.foldl max 0), flags := [fl], rng := rng }

/-- One step of SCAN (R164). -/
def scanStep (t : LaneTy) (o : ScanOp) (x y : Nat) : Nat × Nat :=
  if t.isInt then
    let a := t.intVal x
    let b := t.intVal y
    (ofInt t.width (match o with
      | .sum => a + b
      | .max => if a < b then b else a
      | .min => if b < a then b else a), 0)
  else match o with
    | .sum => t.fp.addV (t.fp.decode x) (t.fp.decode y)
    | .max => t.fp.minMax true x y
    | .min => t.fp.minMax false x y

def scanFrom (t : LaneTy) (o : ScanOp) : Nat → List Nat → List (Nat × Nat)
  | _, [] => []
  | acc, x :: r =>
    let v := scanStep t o acc x
    v :: scanFrom t o v.1 r

def scanWord (t : LaneTy) (o : ScanOp) (a : Word) (rng : W32) : Lanes :=
  match lanesOf t.width t.lanes a with
  | [] => { word := 0, rng := rng }
  | x :: r => lanesResult t.width ((x, 0) :: scanFrom t o x r, rng)

/-- The product of two values as an addend of LDOT: NaN with invalid, an infinity, or exact. -/
inductive Addend where
  | nan (inv : Bool)
  | inf (neg : Bool)
  | num (x : Exact)
  deriving DecidableEq, Repr

def mulAddend (a b : FpVal) : Addend :=
  match a, b with
  | .nan s, y => .nan (s || y.isSnan)
  | _, .nan s => .nan s
  | .inf x, .inf y => .inf (x != y)
  | .inf x, .num n m _ => if m = 0 then .nan true else .inf (x != n)
  | .num n m _, .inf x => if m = 0 then .nan true else .inf (x != n)
  | .num n m e, .num n' m' e' => .num (mulExact (exactOf n m e) (exactOf n' m' e'))

def FpVal.addend : FpVal → Addend
  | .nan s => .nan s
  | .inf n => .inf n
  | .num n m e => .num (exactOf n m e)

/-- Exact sum of addends, rounded once to F32 (R165, R147) (DESIGN CHOICE, log entry 130). -/
def sumAddends (as : List Addend) : Nat × Nat :=
  let inv := as.any fun a => a == .nan true
  let nan := as.any fun a => match a with | .nan _ => true | _ => false
  let ip := as.contains (.inf false)
  let im := as.contains (.inf true)
  if inv || (ip && im && !nan) then fpF32.invalid
  else if nan then (fpF32.canon, 0)
  else if ip then (fpF32.infCode false, 0)
  else if im then (fpF32.infCode true, 0)
  else
    match as.filterMap (fun a => match a with | .num x => some x | _ => none) with
    | [] => (0, 0)
    | x :: r => fpF32.round .rne 0 (r.foldl addExact x)

/-- LDOT (R165). -/
def ldotWord (t : LaneTy) (a b c : Word) (rng : W32) : Lanes :=
  if t.isInt then
    let r : LaneTy := if t.signed then .i32 else .n32
    { word := wordOfLanes 32 ((List.range 4).map fun j =>
        ofInt 32 (clampInt r.lo r.hi ((List.range 4).foldl (fun s k =>
          s + t.intVal (lane 8 (4 * j + k) a) * t.intVal (lane 8 (4 * j + k) b)) (r.intVal (lane 32 j c))))), rng := rng }
  else
    lanesResult 32 ((List.range 4).map (fun j =>
      sumAddends [(fpF32.decode (lane 32 j c)).addend,
        mulAddend (t.fp.decode (lane 16 (2 * j) a)) (t.fp.decode (lane 16 (2 * j) b)),
        mulAddend (t.fp.decode (lane 16 (2 * j + 1) a)) (t.fp.decode (lane 16 (2 * j + 1) b))]), rng)

end Sys2Proof.Machine
end

