-- ==== Sys2Proof/Machine/Quant.lean ====
section
/-! DEFINITION. Block formats (02 R61 to R74), QNT and DQT on their operands (05 R156 to R160), and scales as bytes. -/

namespace Sys2Proof.Machine

def BlockFmt.isBx : BlockFmt → Bool
  | .bx4 | .bx6 | .bx9 => true
  | _ => false

/-- Magnitude bits M of a BX code (R66). -/
def BlockFmt.mbits : BlockFmt → Nat
  | .bx4 => 2
  | .bx6 => 4
  | _ => 7

/-- The element format of an OCP block format (R61). -/
def BlockFmt.fp : BlockFmt → FpTy
  | .mxe5m2 => fpE5M2 | .mxe3m2 => fpE3M2 | .mxe2m3 => fpE2M3 | .mxe2m1 => fpE2M1
  | _ => fpE4M3

/-- emax of an OCP element (R61). -/
def BlockFmt.emax : BlockFmt → Int
  | .mxe4m3 => 8 | .mxe5m2 => 15 | .mxe3m2 => 4 | .mxe2m3 | .mxe2m1 => 2
  | _ => 0

/-- Elements that one fabric word carries for a block length (R63, R68). -/
def BlockFmt.perWord (f : BlockFmt) (l : Nat) : Nat := if f = .mxe2m1 then 32 else if f.isBx && l == 8 then 8 else 16

/-- Words of a burst (R63, R68). -/
def BlockFmt.burst (f : BlockFmt) (l : Nat) : Nat := l / f.perWord l

/-- Bits of an element code in memory (R62, R67). -/
def BlockFmt.codeBits : BlockFmt → Nat
  | .mxe3m2 | .mxe2m3 => 6
  | .mxe2m1 => 4
  | .bx4 => 3 | .bx6 => 5
  | _ => 8

/-- Lane width of a code in a fabric word. -/
def BlockFmt.laneBits (f : BlockFmt) : Nat := if f = .mxe2m1 then 4 else 8

/-- 9-bit scale of a byte (R72). -/
def scaleOfByte (bx : Bool) (b : Nat) : Nat := if b = 255 then 511 else if bx && b == 0 then 0 else b + 128

/-- Byte of a scale, or none where the range of R73 is broken. -/
def byteOfScale (bx : Bool) (e : Nat) : Option Nat :=
  if e = 0 then some 0 else if e = 511 then some 255
  else if (if bx then 129 else 128) ≤ e ∧ e ≤ 382 then some (e - 128) else none

/-- The nearest byte of a scale out of range (R73). -/
def clampByte (bx : Bool) (e : Nat) : Nat := if e < 129 then (if bx then 1 else 0) else 254

/-- Product of two scales (R74). -/
def scaleProduct (a b : Nat) : Nat :=
  if a = 511 ∨ b = 511 then 511
  else if a = 0 ∨ b = 0 then 0
  else if a + b < 256 then 0 else min 510 (a + b - 255)

/-- The value of an element's code without its scale (R160, R61, R64, R66); `mu` is the pair's micro-exponent. -/
def BlockFmt.value (f : BlockFmt) (c : Nat) (mu : Bool) : FpVal :=
  if f.isBx then .num (bitN c 7) (c % 2 ^ f.mbits) (-((b2n mu : Nat) : Int) - (f.mbits - 1 : Nat))
  else match f with
    | .mxint8 =>
      let v := toSigned 8 c
      .num (decide (v < 0)) v.natAbs (-6)
    | _ => f.fp.decode (c % 2 ^ f.fp.width)

/-- A code's value is ±0 (R72). -/
def BlockFmt.zeroCode (f : BlockFmt) (c : Nat) : Bool :=
  match f.value c false with
  | .num _ m _ => m == 0
  | _ => false

/-! ### QNT -/

/-- Floor log2 of the largest magnitude of a block; none when every element is zero. Infinities count as the largest finite
F32 value (R65, R69). -/
def blockTop (xs : List FpVal) : Option Int :=
  (xs.filterMap fun x => match x with
    | .inf _ => some (127 : Int)
    | .num _ m e => if m = 0 then none else some (topExp m e)
    | .nan _ => none).foldl (fun a b => match a with | none => some b | some v => some (max v b)) none

/-- An infinity as the largest finite F32 value. -/
def finite32 (v : FpVal) : FpVal :=
  match v with
  | .inf n => match fpF32.decode (fpF32.maxCode n) with
    | .num _ m e => .num n m e
    | x => x
  | x => x

/-- What QNT finds for a whole block: NaN block, zero block, or the exponent of its scale byte. -/
inductive BlockScale where
  | nan | zero | byte (b : Nat)
  deriving DecidableEq, Repr

def clampNat (lo hi : Nat) (x : Int) : Nat := if x < lo then lo else if (hi : Int) < x then hi else x.toNat

/-- The scale of a block (R65, R69). -/
def blockScale (f : BlockFmt) (xs : List FpVal) : BlockScale :=
  if xs.any (·.isNan) then .nan
  else match blockTop xs with
    | none => .zero
    | some t => .byte (if f.isBx then clampNat 1 254 (t + 127) else clampNat 0 254 (t - f.emax + 127))

/-- The 9-bit entry of a block's scale (R158). -/
def BlockScale.entry : BlockScale → Nat
  | .nan => 511
  | .zero => 0
  | .byte b => b + 128

/-- Micro-exponent of a pair (R69): 1 when both magnitudes lie below 2^(E − 127). -/
def pairMu (b : Nat) (x y : FpVal) : Bool :=
  let below (v : FpVal) : Bool := match v with
    | .num _ m e => m == 0 || decide (topExp m e < (b : Int) - 127)
    | _ => false
  below x && below y

/-- The code of one element under a scale byte (R65, R69), with inexact when its value differs. -/
def quantElem (f : BlockFmt) (b : Nat) (mu : Bool) (rm : Rm) (g : Nat) (x : FpVal) : Nat × Nat :=
  match x with
  | .num n m e =>
    if f.isBx then
      let q : Int := (b : Int) - 127 - (b2n mu : Nat) - (f.mbits - 1 : Nat)
      let (y, ix) := roundAt rm n m false (q - e) g
      let mm := min y (2 ^ f.mbits - 1)
      (put 7 7 (b2n n) + mm, if ix || mm != y then flInexact else 0)
    else
      let ev := e - ((b : Int) - 127)
      match f with
      | .mxint8 =>
        let (y, ix) := roundAt rm n m false (-6 - ev) g
        let mm := min y 127
        (ofInt 8 (if n then -(mm : Int) else mm), if ix || mm != y then flInexact else 0)
      | _ =>
        let t := f.fp
        if m = 0 then (t.signBit n, 0)
        else
          let q := max (topExp m ev - t.sb) (t.emin - t.sb)
          let (y, ix) := roundAt rm n m false (q - ev) g
          let past := match t.decode t.maxMag with
            | .num _ mm me => ltPow mm me y q
            | _ => false
          if past then (t.maxCode n, flInexact)
          else (t.signBit n + t.magCode y q, if ix then flInexact else 0)
  | _ => (0, 0)

/-- The control word of QNT (R156): SWR, L, WIDX, BASE, KENT; none where a limit is broken. `lanes` is the source lane count. -/
def qntControl (f : BlockFmt) (lanes w : Nat) : Option (Bool × Nat × Nat × Nat × Nat) :=
  let l := 8 * 2 ^ fld w 15 14
  let r := l / lanes
  if fld w 31 17 != 0 || fld w 7 6 != 0 then none
  else if !f.isBx && fld w 15 14 != 2 then none
  else if f.burst l ≤ fld w 13 12 then none
  else if 15 < fld w 11 8 + r - 1 then none
  else some (bitN w 16, l, fld w 13 12, fld w 11 8, fld w 5 0)

/-- What QNT gives: the word, MEXP, flags by element of the block, the generator, and the entry of the scale. -/
structure QntOut where
  word : Word
  mexp : BitVec 8
  flags : List Nat
  rng : W32
  entry : Nat
  deriving DecidableEq, Repr

/-- QNT on a block's elements (R157). An infinity anywhere in the block raises overflow, beside a NaN too (DEDUCED, log entry 94). -/
def qnt (f : BlockFmt) (rm : Rm) (swr : Bool) (widx : Nat) (xs : List FpVal) (rng : W32) : QntOut :=
  let sc := blockScale f xs
  let l := xs.length
  let n := f.perWord l
  let es := (List.range n).map fun i => widx * n + i
  let fin := xs.map finite32
  let at_ (i : Nat) : FpVal := fin.getD i (.num false 0 0)
  let mu (i : Nat) : Bool := match sc with
    | .byte b => f.isBx && pairMu b (at_ (i / 2 * 2)) (at_ (i / 2 * 2 + 1))
    | _ => false
  let (codes, rng') := drawLanes rm (fun _ => true) (fun i g =>
    match sc with
    | .byte b => quantElem f b (mu i) rm g (at_ i)
    | _ => (0, 0)) (fun _ => 0) es rng
  let blockFl (x : FpVal) : Nat := if !swr then 0 else if x.isSnan then flInvalid
    else match x with
      | .inf _ => flOverflow
      | _ => 0
  let flags := (List.range l).map fun i =>
    orFlags (blockFl (xs.getD i (.num false 0 0)))
      (if widx * n ≤ i ∧ i < widx * n + n then (codes.getD (i - widx * n) (0, 0)).2 else 0)
  { word := wordOfLanes f.laneBits (codes.map (·.1))
    mexp := if f.isBx then .ofNat 8 (packLanes 1 ((List.range (n / 2)).map fun j => b2n (mu (widx * n + 2 * j)))) else 0
    flags := flags, rng := rng', entry := sc.entry }

/-! ### DQT -/

/-- One lane of DQT (R160). -/
def dqtLane (f : BlockFmt) (dst : FpTy) (rm : Rm) (g s c : Nat) (mu : Bool) : Nat × Nat :=
  let v := f.value c mu
  let neg := match v with
    | .num n _ _ => n
    | .inf n => n
    | .nan _ => bitN c (f.laneBits - 1)
  if s = 511 then (dst.canon, 0)
  else if s = 0 then (dst.signBit neg, 0)
  else match v with
    | .nan _ => (dst.canon, 0)
    | .inf n => (dst.infCode n, 0)
    | .num n m e => dst.round rm g { neg := n, m := m, e := e + (s : Int) - 255 }

/-- DQT of group `grp` of a word (R159, R160); none where the group lies outside the word. -/
def dqtWord (f : BlockFmt) (dst : LaneTy) (rm : Rm) (s grp : Nat) (a : Token) (rng : W32) : Option Lanes :=
  let n := dst.lanes
  let cnt := if f = .mxe2m1 then 32 else 16
  if cnt / n ≤ grp then none
  else some (lanesResult dst.width (drawLanes rm (fun _ => true) (fun i g =>
    let e := grp * n + i
    dqtLane f dst.fp rm g s (lane f.laneBits e a.word) (f.isBx && a.mexp.getLsbD (e / 2))) (fun _ => 0) (List.range n) rng))

end Sys2Proof.Machine
end

