-- ==== Sys2Proof/Machine/Channel.lean ====
section
/-! DEFINITION. Channels of an element (01 R18 to R20; 03 R89, R90): entry fields, heads, pops, arrivals, and the scale register
file with its windows (06 R167 to R176). -/

namespace Sys2Proof.Machine

/-! ### Channel-table entries (R89) -/

def cfgDef (c : W64) : Bool := bitN c.toNat 63
def cfgFmtCode (c : W64) : Nat := fld c.toNat 62 58
def cfgFmt (c : W64) : Option Fmt := fmtOf (cfgFmtCode c)
def cfgBlenCode (c : W64) : Nat := fld c.toNat 57 56
/-- Block length in elements. -/
def cfgBlen (c : W64) : Nat := 8 * 2 ^ cfgBlenCode c
def cfgSwb (c : W64) : Nat := fld c.toNat 55 50
/-- Window depth D. -/
def cfgDepth (c : W64) : Nat := fld c.toNat 49 44 + 1
def cfgStk (c : W64) : Nat := fld c.toNat 43 36
def cfgCtm (c : W64) : Nat := fld c.toNat 35 34
def cfgCtv (c : W64) : Nat := fld c.toNat 33 32
/-- The five modes, class c in bits [2c+1:2c], invalid lowest (R90, R144). -/
def cfgXcls (c : W64) : Nat :=
  fld c.toNat 31 30 + 4 * fld c.toNat 29 28 + 16 * fld c.toNat 27 26 + 64 * fld c.toNat 25 24 + 256 * fld c.toNat 23 22
def cfgSclp (c : W64) : Bool := bitN c.toNat 21
def cfgPsnf (c : W64) : Bool := bitN c.toNat 20
def cfgEosh (c : W64) : Nat := fld c.toNat 19 17
def cfgLsrc (c : W64) : Nat := fld c.toNat 16 15
def cfgBlock (c : W64) : Option BlockFmt :=
  match cfgFmt c with
  | some (.block f) => some f
  | _ => none
def cfgLane (c : W64) : Bool := cfgLsrc c != 0

def Element.cfg (e : Element) (ch : Nat) : W64 := e.chanCfg.getD ch 0
def Element.chan (e : Element) (ch : Nat) : Chan := e.chans.getD ch {}
def Element.modChan (e : Element) (ch : Nat) (f : Chan → Chan) : Element := { e with chans := upd e.chans ch f }
def Element.srfAt (e : Element) (k : Nat) : Srf := e.srf.getD k {}
def Element.modSrf (e : Element) (k : Nat) (f : Srf → Srf) : Element := { e with srf := upd e.srf k f }
def Element.bankAt (e : Element) (b : Nat) : Bank := e.banks.getD b {}
def Element.modBank (e : Element) (b : Nat) (f : Bank → Bank) : Element := { e with banks := upd e.banks b f }
def Element.port (e : Element) (q : Nat) : OutPort := e.ports.getD q {}
def Element.modPort (e : Element) (q : Nat) (f : OutPort → OutPort) : Element := { e with ports := upd e.ports q f }

/-- Words a channel holds that selection sees in `fc` (R19, R224). -/
def Element.words (e : Element) (ch fc : Nat) : Nat :=
  if cfgLane (e.cfg ch) then ((e.chan ch).lanes.filter fun t => decide (t.arrived < fc)).length
  else ((e.chan ch).fifo.filter fun t => decide (t.arrived < fc)).length

/-- The CTAG a channel presents (R90). -/
def presentCtag (cfg : W64) (t : BitVec 2) : BitVec 2 :=
  match cfgCtm cfg with
  | 1 => 0
  | 2 => .ofNat 2 (cfgCtv cfg)
  | _ => t

/-- CTAG of a channel's head, as presented. -/
def Element.headCtag (e : Element) (ch : Nat) : Option (BitVec 2) :=
  (if cfgLane (e.cfg ch) then (e.chan ch).lanes.head?.map (·.val.ctag) else (e.chan ch).fifo.head?.map (·.tok.ctag)).map
    (presentCtag (e.cfg ch))

/-- fc of arrival of a channel's head. -/
def Element.headArrived (e : Element) (ch : Nat) : Nat :=
  if cfgLane (e.cfg ch) then ((e.chan ch).lanes.head?.map (·.arrived)).getD 0
  else ((e.chan ch).fifo.head?.map (·.arrived)).getD 0

/-! ### SRF writes and the use check -/

/-- A write of an entry (R168): G rises by 1 mod 16. -/
def Srf.write (k : Srf) (e : Option Nat) (v : Option Bool) : Srf :=
  { k with g := k.g + 1, e := match e with | some x => .ofNat 9 x | none => k.e, v := v.getD k.v }

/-- The 16-bit entry word of R167. -/
def Srf.word (k : Srf) : Nat := put 15 15 (b2n k.held) + put 14 14 (b2n k.v) + put 12 9 k.g.toNat + put 8 0 k.e.toNat

def Srf.ofWord (n : Nat) : Srf :=
  { held := bitN n 15, v := bitN n 14, g := .ofNat 4 (fld n 12 9), e := .ofNat 9 (fld n 8 0) }

/-- The use check of R171. -/
def Srf.useOk (k : Srf) (gen : BitVec 4) (stale : Bool) : Bool := k.v && k.g == gen && !stale

/-- INFO of fault 0x20 (R350). -/
def staleInfo (j : BitVec 6) (gen : BitVec 4) (k : Srf) (stale : Bool) (port : Nat) : Nat :=
  put 5 0 j.toNat + put 9 6 gen.toNat + put 13 10 k.g.toNat + put 14 14 (b2n k.v) + put 15 15 (b2n stale) + put 19 16 port

/-! ### Windows -/

/-- The channel whose window holds an entry. -/
def Element.windowOf (e : Element) (k : Nat) : Option Nat :=
  (List.range 32).find? fun ch =>
    let c := e.cfg ch
    cfgDef c && (cfgBlock c).isSome && decide (cfgSwb c ≤ k) && decide (k < cfgSwb c + cfgDepth c)

/-- Release the oldest held entry of a channel's window (R176): whether a window credit returns. -/
def Element.release (e : Element) (ch : Nat) : Element × Bool :=
  let c := e.cfg ch
  let w := (e.chan ch).win
  if w.crd < cfgDepth c then
    ((e.modSrf (cfgSwb c + w.rlp) fun k => { k with held := false, v := false }).modChan ch fun x =>
      { x with win := { w with rlp := (w.rlp + 1) % cfgDepth c, crd := w.crd + 1 } }, true)
  else (e, false)

/-- Release `n` entries: how many window credits return. -/
def Element.releaseN (e : Element) (ch : Nat) : Nat → Element × Nat
  | 0 => (e, 0)
  | n + 1 =>
    let (e1, b) := e.release ch
    let (e2, m) := Element.releaseN e1 ch n
    (e2, m + b2n b)

/-- The 32-bit window word of R174. -/
def Window.word (w : Window) : Nat :=
  put 31 26 w.alp + put 25 20 w.rlp + put 19 13 w.crd + put 12 12 (b2n w.cur.isSome) + put 11 6 ((w.cur.map (·.toNat)).getD 0)

def Window.ofWord (n : Nat) : Window :=
  { alp := fld n 31 26, rlp := fld n 25 20, crd := fld n 19 13,
    cur := if bitN n 12 then some (.ofNat 6 (fld n 11 6)) else none }

/-- Mark every word bound to an entry that is being allocated (R172, R175). -/
def Chan.markStale (c : Chan) (j : BitVec 6) : Chan :=
  { c with fifo := c.fifo.map fun t => if t.tok.stag = j then { t with stale := true } else t,
           lanes := c.lanes.map fun l =>
             { l with val := { l.val with binds := l.val.binds.map fun b => if b.stag = j then { b with stale := true } else b } } }

/-- A scale transfer takes effect at a channel (R175): the entry at the allocation pointer is filled and becomes the current one. -/
def Element.scaleEnter (e : Element) (ch : Nat) (x : BitVec 9) : Element :=
  let c := e.cfg ch
  let w := (e.chan ch).win
  let j := cfgSwb c + w.alp
  let e0 : Element := { e with srfWas := (j, e.srfAt j) :: e.srfWas }
  let e1 := e0.modSrf j fun k => { held := true, v := true, g := k.g + 1, e := x }
  let e2 : Element := { e1 with chans := e1.chans.map fun y => y.markStale (BitVec.ofNat 6 j) }
  e2.modChan ch fun y =>
    { y with win := { w with alp := (w.alp + 1) % cfgDepth c, crd := w.crd - 1, cur := some (BitVec.ofNat 6 j) },
             laneEnts := if cfgLane c then y.laneEnts ++ [BitVec.ofNat 6 j] else y.laneEnts }

/-- Words bound to an entry that were not stale before the transfer which refilled it: those of the generation it held. -/
def Chan.unmark (c : Chan) (j : Nat) (g : BitVec 4) : Chan :=
  { c with fifo := c.fifo.map fun t => if t.tok.stag.toNat = j ∧ t.tok.gen = g then { t with stale := false } else t,
           lanes := c.lanes.map fun l =>
             { l with val := { l.val with binds := l.val.binds.map fun b => if b.stag.toNat = j ∧ b.gen = g then { b with stale := false } else b } } }

/-- The element as a beat in progress sees it: without the scale transfers that have arrived since the beat began (R169, R189) (DEDUCED, log entry 127). -/
def Element.atStart (e : Element) : Element :=
  e.srfWas.foldl (fun (a : Element) p =>
    let b := a.modSrf p.1 fun _ => p.2
    if p.2.v then { b with chans := b.chans.map fun c => c.unmark p.1 p.2.g } else b) e

/-! ### Arrivals and pops -/

/-- What a channel holds of an arriving token (R170, R175): a data word of a block-format channel is stamped with the current
entry; every other token presents STAG 0 and GEN 0. -/
def Element.stamp (e : Element) (ch : Nat) (t : Token) : Token :=
  match cfgBlock (e.cfg ch) with
  | some f =>
    let j := if t.eosl = 0 then (e.chan ch).win.cur.getD 0 else 0
    { t with stag := j, gen := if t.eosl = 0 then (e.srfAt j.toNat).g else 0, mexp := if f.isBx then t.mexp else 0 }
  | none => { t with stag := 0, gen := 0, mexp := 0 }

/-- Pop a channel's head once (R20): a sticky word serves s pops, and the residual count is of those it still serves (R479), 0 before
the first. The head's word is kept as the last data word popped. The count says how many FIFO places become free. -/
def Chan.popOnce (c : Chan) (stk : Nat) : Chan × Nat :=
  match c.fifo with
  | [] => (c, 0)
  | h :: r =>
    let c1 := { c with pops := c.pops + 1, last := if h.tok.eosl = 0 then some h.tok.word else c.last }
    let left := if c.resid = 0 then stk else c.resid
    if 2 ≤ stk ∧ 2 ≤ left then ({ c1 with resid := left - 1 }, 0)
    else ({ c1 with fifo := r, resid := 0 }, 1)

/-- EOSH RELEASE (R90): the arriving end-of-stream token pops a sticky data head that has served a pop. -/
def Chan.eosRelease (c : Chan) (stk : Nat) : Chan × Nat :=
  match c.fifo with
  | h :: r => if 2 ≤ stk ∧ h.tok.eosl = 0 ∧ 1 ≤ c.resid then ({ c with fifo := r, resid := 0 }, 1) else (c, 0)
  | [] => (c, 0)

/-- Tokens that have arrived at a channel in the present fc. -/
def Chan.coming (c : Chan) : Nat := (c.pend.filter fun a => match a with | .token _ => true | _ => false).length

/-- Scale transfers that have arrived at a channel in the present fc. -/
def Chan.comingScales (c : Chan) : Nat := (c.pend.filter fun a => match a with | .scale _ => true | _ => false).length

def Element.arrive (e : Element) (ch : Nat) (a : Arr) : Element := e.modChan ch fun x => { x with pend := x.pend ++ [a] }

/-- A token arrives at channel `ch` (R19): a stray (its DET of R350), or the element, which takes it in at the end of the fc. -/
def Element.tokenArrive (e : Element) (ch : Nat) (t : Token) : Except Nat Element :=
  let c := e.cfg ch
  if !cfgDef c then .error 2
  else if !(t.eosl != 0 && cfgEosh c == 1) && decide (8 ≤ (e.chan ch).fifo.length + (e.chan ch).coming) then .error 1
  else .ok (e.arrive ch (.token t))

/-- A token enters its channel at the end of `fc` (R19, R90, R175): the element and the credits that return. Every pop that a beat
committed in the fc has been applied by then. -/
def Element.tokenEnter (e : Element) (ch fc : Nat) (t : Token) : Element × Nat :=
  let c := e.cfg ch
  if t.eosl != 0 && cfgEosh c == 1 then (e, 1)
  else
    let (x, n) := if t.eosl != 0 && cfgEosh c == 2 then (e.chan ch).eosRelease (cfgStk c) else (e.chan ch, 0)
    (e.modChan ch fun _ => { x with fifo := x.fifo ++ [{ tok := e.stamp ch t, arrived := fc }] }, n)

/-- A lane transfer enters a lane channel (R224): block i is stamped with the i-th entry its scale transfers allocated. -/
def Element.laneEnter (e : Element) (ch fc : Nat) (v : LaneVal) : Element :=
  let ents := (e.chan ch).laneEnts
  let binds := ents.map fun j => { stag := j, gen := (e.srfAt j.toNat).g, stale := false }
  e.modChan ch fun x => { x with lanes := x.lanes ++ [{ val := { v with binds := binds }, arrived := fc }], laneEnts := [] }

/-- One arrival takes effect at the end of `fc`: the element and the FIFO credits that return. -/
def Element.enter (e : Element) (ch fc : Nat) : Arr → Element × Nat
  | .token t => e.tokenEnter ch fc t
  | .scale x => (e.scaleEnter ch x, 0)
  | .lane scales v => ((scales.foldl (fun (a : Element) z => a.scaleEnter ch z) e).laneEnter ch fc v, 0)

/-- The arrivals of a channel take effect in their order. -/
def Element.enterAll (e : Element) (ch fc : Nat) : List Arr → Element × Nat
  | [] => (e, 0)
  | a :: r =>
    let (e1, n) := e.enter ch fc a
    let (e2, m) := Element.enterAll e1 ch fc r
    (e2, n + m)

/-- The arrivals of an fc take effect at its end, on the given channels (R36, R169): the element and the credits, by channel. -/
def Element.settleChans (e : Element) (fc : Nat) : List Nat → Element × List (Nat × Nat)
  | [] => (e, [])
  | ch :: r =>
    if (e.chan ch).pend.isEmpty then e.settleChans fc r
    else
      let (e1, n) := (e.modChan ch fun x => { x with pend := [] }).enterAll ch fc (e.chan ch).pend
      let (e2, l) := e1.settleChans fc r
      (e2, (ch, n) :: l)

/-- A beat or a stream pops channel `ch`: the element, FIFO places freed and window credits that return (R20, R176, R224). -/
def Element.popChan (e : Element) (ch : Nat) : Element × Nat × Nat :=
  let c := e.cfg ch
  if cfgLane c then
    match (e.chan ch).lanes with
    | [] => (e, 0, 0)
    | l :: r =>
      let e1 := e.modChan ch fun x => { x with lanes := r, pops := x.pops + 1 }
      let (e2, n) := e1.releaseN ch l.val.binds.length
      (e2, 1, n)
  else
    let (x, n) := (e.chan ch).popOnce (cfgStk c)
    (e.modChan ch fun _ => x, n, 0)

end Sys2Proof.Machine
end

