-- ==== Sys2Proof/Machine/Rings.lean ====
section
/-! DEFINITION. The rings of the front end: VCP pages and their DEV words (11 R306, R307, R317), fault rings with their overflow
record (11 R316, 12 R351), and the Ilhus fault ring with its MSI (12 R351, R352). -/

namespace Sys2Proof.Machine

/-! ### VCPs -/

/-- Privileged fields of a queue's shadow (R307). -/
def VView.pw (w : VView) (i : Nat) : Nat := wd w.priv i
def VView.pcls (w : VView) : Nat := fld (w.pw 0) 59 58
def VView.part (w : VView) : Nat := fld (w.pw 0) 57 55
def VView.rsize (w : VView) : Nat := 2 ^ fld (w.pw 0) 54 51
def VView.fsize (w : VView) : Nat := 2 ^ fld (w.pw 0) 50 47
def VView.ring (w : VView) : Nat := fld (w.pw 1) 51 12 * 4096
def VView.cring (w : VView) : Nat := fld (w.pw 2) 51 12 * 4096
def VView.fqa (w : VView) : Nat := fld (w.pw 3) 51 12 * 4096

def VQueue.pcls (q : VQueue) : Nat := ({ priv := q.priv.getD [] } : VView).pcls
def VQueue.part (q : VQueue) : Nat := ({ priv := q.priv.getD [] } : VView).part

/-- The values a packet of a queue is accepted under now (R321). -/
def Vcp.view (c : Vcp) (q : Nat) : VView := { tid := c.tid, asid := c.asid, page := c.page, priv := (c.queue q).priv.getD [] }
def State.view (s : State) (v q : Nat) : VView := (s.vcp v).view q

/-- The DEV word of a QCB (R307). -/
def VQueue.devWord (q : VQueue) : Nat :=
  put 63 63 (b2n q.stop.isSome) + put 62 56 (q.stop.getD 0) + put 47 32 q.ftail + put 31 16 q.ctail + put 15 0 q.head

/-- A VCP's ASID belongs to another tenant (R306) (DESIGN CHOICE, log entry 89). -/
def State.viewForeign (s : State) (w : VView) : Bool := s.asidLive w.asid && s.asidTid w.asid != w.tid

/-- The partition for which Bedrock reads and writes a VCP's own words: its queue's, or before a queue has been validated the first whose tenant
list holds its tenant. -/
def State.viewPart (s : State) (w : VView) : Option Nat :=
  if w.priv.isEmpty then (List.range 8).find? fun p => s.isPart p && (s.tenants p).contains w.tid else some w.part

/-- An ASID that belongs to another tenant makes every read and write of the VCP fail with 0x11 (R306) (DEDUCED, log entry 69). -/
def State.vcpRead (s : State) (w : VView) (va n : Nat) (k : AKind) : State × Except AccFault (List Byte) :=
  if s.viewForeign w then (s, .error { code := 0x11, info := va })
  else match s.vaRead none (s.viewPart w) w.asid k (piecesOf va n) with
    | (s1, .ok (bs, _)) => (s1, .ok bs)
    | (s1, .error f) => (s1, .error f)

def State.vcpWrite (s : State) (w : VView) (va : Nat) (bs : List Byte) : State × Option AccFault :=
  if s.viewForeign w then (s, some { code := 0x11, info := va })
  else s.vaWrite none (s.viewPart w) w.asid .write (piecesOf va bs.length) bs

/-- Write a queue's DEV word (R307). -/
def State.putDev (s : State) (v q : Nat) (w : VView) : State × Option AccFault :=
  s.vcpWrite w (w.page + 0x40 * q + 0x28) (toBytes 8 ((s.vcp v).queue q).devWord)

/-- Packets of a queue that are fetched and not accepted go back to its ring. -/
def State.unfetch (s : State) (v q : Nat) : State :=
  ({ s with pipe := s.pipe.filter fun p => !(p.v == v && p.q == q) } : State).modQueue v q fun x => { x with fetch := x.head }

/-- Stop a queue (R317): it accepts nothing until vc0 or vc1 is written. -/
def State.stopQueue (s : State) (v q cause : Nat) : State :=
  if ((s.vcp v).queue q).stop.isSome then s
  else
    let s1 := (s.unfetch v q).modQueue v q fun x => { x with stop := some cause }
    (s1.putDev v q (s1.view v q)).1

/-- Write a queue's DEV word; a fault stops the queue with cause 3 (R317). -/
def State.writeDev (s : State) (v q : Nat) (w : VView) : State :=
  match s.putDev v q w with
  | (s1, none) => s1
  | (s1, some _) => s1.stopQueue v q 3

/-- The GUEST word of a queue; a fault stops the queue with cause 3. -/
def State.guestWord (s : State) (v q : Nat) (w : VView) : State × Option Nat :=
  match s.vcpRead w (w.page + 0x40 * q + 0x20) 8 .control with
  | (s1, .ok bs) => (s1, some (ofBytes bs))
  | (s1, .error _) => (s1.stopQueue v q 3, none)

/-! ### Fault rings -/

/-- What a record due to a ring does (R316, R351): it is written; or it is dropped, with the overflow record begun in the last
free slot, or with its count raised. -/
inductive RingAct where
  | write | begin_ | bump
  deriving DecidableEq, Repr

/-- The choice, from the ring's size, indices and the drops counted in the overflow record that stands last. -/
def ringAct (n head tail drops : Nat) : RingAct :=
  let used := (tail % n + n - head % n) % n
  if used + 2 < n then .write else if drops = 0 && used + 1 < n then .begin_ else .bump

/-- The words of an overflow record (R348, R349, R350). -/
def overflowRec (det count hdl tid asid time : Nat) : List W64 :=
  [put 63 56 0x72 + put 55 48 det + put 47 44 9, put 63 32 0xFFFFFFFF, 0, 0, 0, count,
    put 63 32 hdl + put 31 16 tid + put 11 0 asid, time].map (BitVec.ofNat 64)

/-- Where a guest's copy of a record goes (R351): a VCP queue's fault ring, or the block that RGNLD l4 names. -/
inductive RingTo where
  | none
  | vcp (v q : Nat) (w : VView)
  | block (addr : Nat)
  deriving DecidableEq, Repr

/-- MSI-X vector `k` of virtual function `v` goes to the host (R408); a vector once raised stays so (DESIGN CHOICE, log entry 124). -/
def State.raiseVector (s : State) (v k : Nat) : State := if s.msix.contains (v, k) then s else { s with msix := s.msix ++ [(v, k)] }

/-- Write a record into a VCP queue's fault ring (R316), and raise the ring's vector (R408). A fault of the page or ring, or an FHEAD beyond the ring, stops the queue (R317). -/
def State.vcpFault (s : State) (v q : Nat) (w : VView) (part : Nat) (rec : List W64) : State :=
  match s.guestWord v q w with
  | (s1, Option.none) => s1
  | (s1, some g) =>
    let x := (s1.vcp v).queue q
    let n := w.fsize
    let slotAt (i : Nat) : Nat := w.fqa + 64 * (i % n)
    let put_ (s2 : State) (i : Nat) (r : List W64) (f : VQueue → VQueue) : State :=
      match s2.vcpWrite w (slotAt i) (bytesOf64 r) with
      | (s3, Option.none) => ((s3.modQueue v q f).writeDev v q w).raiseVector v (4 + q)
      | (s3, some _) => s3.stopQueue v q 3
    let hdl := fld (wd rec 6) 63 32
    let spill (s2 : State) : State :=
      s2.journal part w.tid (j2Word w.tid v q 5 0xFF 0) 0 hdl (put 63 56 0x72) 0 0
    let asid := fld (wd rec 6) 11 0
    if n ≤ fld g 31 16 then s1.stopQueue v q 2
    else match ringAct n (fld g 31 16) x.ftail x.drops with
    | .write => put_ s1 x.ftail rec fun y => { y with ftail := (y.ftail + 1) % n, drops := 0 }
    | .begin_ =>
      put_ (spill s1) x.ftail (overflowRec 1 1 hdl w.tid asid s1.ns) fun y => { y with ftail := (y.ftail + 1) % n, drops := 1 }
    | .bump =>
      put_ (spill s1) (x.ftail + n - 1) (overflowRec 1 (x.drops + 1) hdl w.tid asid s1.ns) fun y => { y with drops := y.drops + 1 }

/-- Write a record into the fault queue of RGNLD l4: a block of QCB layout in local physical memory whose FQA is local physical
(R251; the layout is the model's reading). Where the block cannot be read (R289), the record is lost to it (PRESUMED, log entry 32). -/
def State.blockFault (s0 : State) (addr part : Nat) (rec : List W64) : State :=
  let w : Who := { mid := 0, part := some part }
  match s0.physRead w .control (piecesOf addr 64) with
  | (s1, .error _) => s1
  | (s1, .ok (bs, _)) =>
    let b := words64 8 bs
    let n := 2 ^ fld (wd b 0) 50 47
    let fqa := fld (wd b 3) 51 12 * 4096
    let head := fld (wd b 4) 31 16
    let dev := wd b 5
    let tail := fld dev 47 32 % n
    let last := fqa + 64 * ((tail + n - 1) % n)
    let (s, lastRec) := match s1.physRead w .read (piecesOf last 64) with
      | (s2, .ok (l, _)) => (s2, words64 8 l)
      | (s2, .error _) => (s2, [])
    let drops := if tail != head % n && fld (wd lastRec 0) 63 56 == 0x72 && fld (wd lastRec 0) 55 48 == 1 then wd lastRec 5 else 0
    let setTail (s2 : State) : State :=
      (s2.physWrite w .write (piecesOf (addr + 0x28) 8) (toBytes 8 (dev - fld dev 47 32 * 2 ^ 32 + (tail + 1) % n * 2 ^ 32))).1
    let write (s2 : State) (a : Nat) (r : List W64) : State := (s2.physWrite w .write (piecesOf a 64) (bytesOf64 r)).1
    let hdl := fld (wd rec 6) 63 32
    let tid := fld (wd rec 6) 31 16
    let asid := fld (wd rec 6) 11 0
    let spill (s2 : State) : State := s2.journal part tid (j2Word tid 0xFF 0 5 0xFF 0) 0 hdl (put 63 56 0x72) 0 0
    match ringAct n head tail drops with
    | .write => setTail (write s (fqa + 64 * tail) rec)
    | .begin_ => setTail (write (spill s) (fqa + 64 * tail) (overflowRec 1 1 hdl tid asid s.ns))
    | .bump => write (spill s) last (overflowRec 1 (drops + 1) hdl tid asid s.ns)

def State.guestFault (s : State) (to_ : RingTo) (part : Nat) (rec : List W64) : State :=
  match to_ with
  | .none => s
  | .vcp v q w => s.vcpFault v q w part rec
  | .block a => s.blockFault a part rec

/-! ### The Ilhus ring -/

/-- Write a record into the partition's Ilhus ring and send its MSI (R351, R352). -/
def State.ilhusFault (s : State) (p : Nat) (rec : List W64) : State :=
  let fr := s.frBlock p
  let n := 2 ^ (fr.isz + 4)
  let w : Who := { mid := 0, part := some p }
  let at_ (i : Nat) : Nat := fr.ifr * 4096 + 64 * (i % n)
  let write (i : Nat) (r : List W64) (f : FaultRegs) : State :=
    let s1 := (s.physWrite w .write (piecesOf (at_ i) 64) (bytesOf64 r)).1
    let s2 : State := { s1 with faultRegs := insertKV s1.faultRegs p f }
    if fr.men then (s2.physWrite w .write (piecesOf (fr.madr * 4) 4) (toBytes 4 fr.mdat.toNat)).1 else s2
  let tail := fr.itail.toNat
  let next : FaultRegs := { fr with itail := BitVec.ofNat 32 ((tail + 1) % n) }
  let hdl := fld (wd rec 6) 63 32
  let tid := fld (wd rec 6) 31 16
  let asid := fld (wd rec 6) 11 0
  match ringAct n fr.ihead.toNat tail fr.drops with
  | .write => write tail rec { next with drops := 0 }
  | .begin_ => write tail (overflowRec 3 1 hdl tid asid s.ns) { next with drops := 1 }
  | .bump => write (tail + n - 1) (overflowRec 3 (fr.drops + 1) hdl tid asid s.ns) { fr with drops := fr.drops + 1 }

end Sys2Proof.Machine
end

