-- ==== Sys2Proof/Machine/Trace.lean ====
section
/-! DEFINITION. Node maps (16 R431), trace records of a region (16 R433, R434, R447), and changes of a region's state (12 R343). -/

namespace Sys2Proof.Machine

/-- The node-map words of an element (R431). -/
def Region.nodeWord (r : Region) (x y elt : Nat) : Option Nat :=
  (r.image.bind fun i => i.nodes.findSome? fun (a, _, _, _) =>
    let n := a.toNat
    if fld n 38 32 = x ∧ fld n 43 39 = y ∧ fld n 46 44 = elt then some n else none)

def Region.node (r : Region) (x y elt : Nat) : Nat := ((r.nodeWord x y elt).map (fld · 31 0)).getD 0xFFFFFFFF

/-- What a trace record says before its words are formed (R434). -/
structure TrcRec where
  kind : Nat
  node : Nat := 0xFFFFFFFF
  xna : Bool := false
  beat : Nat := 0
  trn : Nat := 0
  elt : Nat := 0
  x : Nat := 0
  y : Nat := 0
  pay : Nat := 0

/-- Insertion by a key, earlier items first among equals. -/
def insertBy {α : Type} (key : α → Nat) (a : α) : List α → List α
  | [] => [a]
  | b :: l => if key a ≤ key b then a :: b :: l else b :: insertBy key a l

def sortBy {α : Type} (key : α → Nat) (l : List α) : List α := l.foldr (insertBy key) []

/-- The records of an fc are merged in order of strip number (R433). -/
def Trace.merge (t : Trace) : Trace := { t with held := t.held ++ (sortBy (·.1) t.fresh).map (·.2), fresh := [] }

/-- The strip whose unit makes a record: that of its place, or, for one with no place, the region's westmost (DESIGN CHOICE, log entry 138). -/
def Region.recStrip (r : Region) (rec : TrcRec) : Nat :=
  if rec.xna then ((r.place.map (·.ocol)).getD 0) / 16 else r.stripAt rec.x rec.y

/-- A record kind is enabled for a region's trace (R433). -/
def Trace.wants (t : Trace) (k : Nat) : Bool := !t.prov && bitN (fld (wd t.tb 1) 15 8) (k - 1)

/-- The four words of a record; the operator's view follows TRC, and its time the tenant's TIM (R434, R444, R447). -/
def State.trcWords (s : State) (t : Trace) (hdl tid : Nat) (r : TrcRec) : List W64 :=
  let (time, wh) := if t.op then quantize (s.sliceNs t.part) (s.tim tid) s.ns else (s.ns, false)
  let nodeOnly := t.op && s.trc tid == 1 && r.kind != 6
  let loc := put 26 26 (b2n r.xna) + put 25 20 r.beat + put 19 15 r.trn + put 14 12 r.elt + put 11 7 r.y + put 6 0 r.x
  [put 63 56 r.kind + put 48 48 (b2n (wh || nodeOnly)) + put 31 0 r.node, time,
    put 63 32 hdl + (if nodeOnly then 0 else loc), if nodeOnly then 0 else r.pay].map (BitVec.ofNat 64)

/-- TRC 2 leaves the operator no trace, one begun under an earlier policy no further record (R447) (DEDUCED, log entry 139). -/
def State.untraced (s : State) (t : Trace) (tid : Nat) : Bool := t.op && s.trc tid == 2

/-- Hand a record to the region's trace unit, when one is on and wants it. -/
def State.traceRec (s : State) (slot : Nat) (r : TrcRec) : State :=
  match s.region slot with
  | none => s
  | some g =>
    { s with traces := s.traces.map fun t =>
        if t.slot = slot ∧ t.wants r.kind ∧ !s.untraced t g.tid then
          { t with fresh := t.fresh ++ [(g.recStrip r, s.trcWords t (handleOf slot g.gen) g.tid r)] }
        else t }

/-- Change a region's state, with its STATE record (R343, R434). -/
def State.toState (s : State) (slot : Nat) (st : RState) : State :=
  (s.modRegion slot fun r => { r with state := st }).traceRec slot { kind := 4, xna := true, pay := st.code }

end Sys2Proof.Machine
end

