-- ==== Sys2Proof/Machine/Faults.lean ====
section
/-! DEFINITION. Faults of a region (12 R343, R347 to R351, R353): completing and raising a fault record, its words, the Sieve's
copy (16 R446), its delivery, reports, and the kill of a region. -/

namespace Sys2Proof.Machine

/-! ### Records -/

/-- The eight words of a record (R349). -/
def FaultRec.words (f : FaultRec) (hdl tid asid : Nat) : List W64 :=
  let li := f.lidx.getD 0
  [put 63 56 f.code + put 55 48 f.det + put 47 44 f.src + (if f.xna then 0 else put 43 37 f.x) + put 36 32 f.y + put 31 29 f.elt
      + put 28 23 f.slot + put 22 18 f.tran + put 17 12 f.beat + put 11 11 (b2n f.xna) + put 9 8 f.bank + min f.more 255,
    put 63 32 f.node + put 31 0 f.tpos, fld li 63 0, fld li 127 64, f.f4, f.info,
    put 63 32 hdl + put 31 16 tid + put 11 0 asid, f.time].map (BitVec.ofNat 64)

/-- f4 of a stream fault (R349). -/
def f4Stream (stream upos : Nat) : Nat := put 63 63 1 + put 62 60 stream + put 38 0 upos

/-- f4 of a chain fault. -/
def f4Chain (chain seq : Nat) : Nat := put 59 59 1 + put 58 56 chain + put 55 40 seq

/-- A record of 0x40 with a further bit of INFO (R413): a record of another code, raised first, has its own INFO (R347). -/
def FaultRec.with40 (f : FaultRec) (bit : Nat) : FaultRec := if f.code = 0x40 then { f with info := f.info + bit } else f

/-- The copy that passes the Sieve at granularities FLT and TIM (R351, R444, R446). -/
def sieveRec (flt tim slice : Nat) (ws : List W64) : List W64 :=
  let f0 := wd ws 0
  let code := fld f0 63 56
  let time := (quantize slice tim (wd ws 7)).1
  if flt = 0 then (ws.take 7) ++ [BitVec.ofNat 64 time]
  else
    let det := if flt ≤ 2 then put 55 48 (fld f0 55 48) else 0
    let more := if flt = 1 then fld f0 7 0 else 0
    let node := if flt = 1 then put 63 32 (fld (wd ws 1) 63 32) else 0
    let info := if code = 0x10 ∨ code = 0x11 ∨ code = 0x12 then wd ws 5 / 65536 * 65536 else 0
    [put 63 56 code + det + put 47 44 (fld f0 47 44) + more, node, 0, 0, 0, info, wd ws 6, time].map (BitVec.ofNat 64)

/-- Where a region's guest copy goes: the queue that launched it, or the fault queue of RGNLD (R351). -/
def Region.ringTo (r : Region) : RingTo :=
  match r.owner with
  | some p => .vcp p.v p.q p.view
  | none => if r.fq = 0 then .none else .block r.fq

/-- The VCP, queue and accepted record of a region's LAUNCH, as journal fields. -/
def Region.jOwner (r : Region) : Nat × Nat × Nat :=
  match r.owner with
  | some p => (p.v, p.q, p.seq)
  | none => (0xFF, 0, 0)

/-- Deliver a record of a region to its three places (R351): journal first (R334), guest ring, Ilhus ring. -/
def State.deliver (s : State) (slot : Nat) (f : FaultRec) : State :=
  match s.region slot with
  | none => s
  | some r =>
    let hdl := handleOf slot r.gen
    let ws := f.words hdl r.tid r.asid
    let (v, q, aseq) := r.jOwner
    let full := s.flt r.tid == 0
    let s1 := s.journal r.part r.tid (j2Word r.tid v q 4 0xFF 0 + (if f.code = 0x61 ∧ !full then put 7 7 1 else 0)) 0 hdl
      (put 63 56 f.code) aseq (if f.code = 0x61 ∧ full then f.info else 0)
    let s2 := s1.guestFault r.ringTo r.part ws
    let s3 := s2.ilhusFault r.part (sieveRec (s2.flt r.tid) (s2.tim r.tid) (s2.sliceNs r.part) ws)
    s3.traceRec slot { kind := 3, node := f.node, xna := f.xna, beat := f.beat, trn := f.tran, elt := f.elt, x := f.x, y := f.y,
                       pay := wd ws 0 }

/-- Deliver a record of a command or barrier (R248, R249, R258, R351): HDL names the region it works for, 0 when it works for none. -/
def State.deliverFor (s : State) (hdl : Nat) (to_ : RingTo) (part tid asid : Nat) (f : FaultRec) : State :=
  let ws := ({ f with time := s.ns, xna := true }).words hdl tid asid
  let (v, q) := match to_ with
    | .vcp v q _ => (v, q)
    | _ => (0xFF, 0)
  let s1 := s.journal part tid (j2Word tid v q 4 0xFF 0) 0 f.f4 (put 63 56 f.code) 0 0
  let s2 := s1.guestFault to_ part ws
  s2.ilhusFault part (sieveRec (s2.flt tid) (s2.tim tid) (s2.sliceNs part) ws)

/-- Deliver a record that belongs to no region. -/
def State.deliverTo (s : State) (to_ : RingTo) (part tid asid : Nat) (f : FaultRec) : State := s.deliverFor 0 to_ part tid asid f

/-- The facts a record takes from its element (R349): node, pops of the trigger channel, last index word; none without an image column. -/
def Region.complete (r : Region) (f : FaultRec) : FaultRec :=
  let nw := r.nodeWord f.x f.y f.elt
  let el := (Elt.ofCode f.elt).bind fun e => r.elem f.x f.y e
  let lidx := match nw, el with
    | some n, some e => if bitN n 47 then ((e.chan (fld n 52 48)).last).map (·.toNat) else none
    | _, _ => none
  if f.xna then { f with node := 0xFFFFFFFF }
  else
  { f with node := match nw with | some n => fld n 31 0 | none => 0xFFFFFFFF
           lidx := lidx
           f4 := f.f4 + (if lidx.isSome ∧ f.src ≠ 7 ∧ f.src ≠ 8 then put 39 39 1 else 0) }

/-! ### Raising -/

/-- Record order of R347: earlier fc, then image tile in (y, x), then ELT. -/
def FaultRec.before (a b : FaultRec) : Bool :=
  decide (a.fc < b.fc) || (a.fc == b.fc &&
    (decide (a.y < b.y) || (a.y == b.y && (decide (a.x < b.x) || (a.x == b.x && decide (a.elt < b.elt))))))

/-- The record that stands when a further fault is raised before the front settles (R347). -/
def joinFault (old : Option FaultRec) (f : FaultRec) : FaultRec :=
  match old with
  | none => f
  | some g => if f.before g then { f with more := min 255 (g.more + 1) } else { g with more := min 255 (g.more + 1) }

/-- Start stopping a region's units, or take over the stop in progress (R344, R347). -/
def Region.startFreeze (r : Region) (why : FreezeWhy) : Region :=
  match r.freeze with
  | none => { r with freeze := some { why := why } }
  | some z => if z.why = .rollback ∨ z.settled then r else { r with freeze := some { z with why := why } }

/-- Raise a freezing fault (R343, R344, R347, R361). -/
def State.raiseFault (s : State) (slot : Nat) (f0 : FaultRec) : State :=
  match s.region slot with
  | none => s
  | some r =>
    let f := { r.complete f0 with time := s.ns, fc := s.fc }
    match r.state with
    | .resident =>
      let r1 : Region := { r with fault := some (joinFault r.fault f) }
      if r.stp then
        ((s.setRegion slot { r with fault := some f, lastFault := f.code, run := false, stp := false, stopAt := none }).deliver slot f).toState slot .faulted
      else if r.run then s.setRegion slot (r1.startFreeze .fault)
      else s.deliver slot f
    | .draining =>
      let r1 : Region := { r with fault := some (joinFault r.fault f), switchOut := r.switchOut.map fun w => { w with freeze := true } }
      if (r.freeze.map (·.settled)) = some true then (s.setRegion slot { r1 with lastFault := (r1.fault.getD f).code }).deliver slot f
      else s.setRegion slot (r1.startFreeze .switch)
    | .frozen =>
      ((s.setRegion slot { r with fault := some f, lastFault := f.code }).deliver slot f).toState slot .faulted
    | _ => s

/-- A unit of a region has the freeze request at once: the one that raised the fault (R344). -/
def Region.receive (r : Region) (u : UnitId) : Region :=
  { r with freeze := r.freeze.map fun z => if z.settled || z.got.contains u then z else { z with got := z.got ++ [u] } }

/-- Raise a freezing fault at a unit, which acts no further. -/
def State.raiseAt (s : State) (slot : Nat) (u : UnitId) (f : FaultRec) : State := (s.raiseFault slot f).modRegion slot fun r => r.receive u

/-- Deliver a fault that does not freeze (R351). -/
def State.reportFault (s : State) (slot : Nat) (f0 : FaultRec) : State :=
  match s.region slot with
  | none => s
  | some r => s.deliver slot { r.complete f0 with time := s.ns, fc := s.fc }

/-- A fault of an element's beat (R349, SRC 0 or 1). -/
def beatFault (e : Element) (x y : Nat) (run : Run) (trig slot code det info src : Nat) : FaultRec :=
  { code := code, det := det, src := src, x := x, y := y, elt := e.elt.code, slot := slot, tran := run.tran, beat := run.beat,
    bank := run.bank, tpos := (e.chan trig).pops % 2 ^ 32, info := info }

/-- The stop that ends in a rollback: it takes over the one in progress, and a region that stands at a stop settles anew (R413). -/
def Region.startRollback (r : Region) (order : Nat) : Region :=
  match r.freeze with
  | none => { r with freeze := some { why := .rollback, order := order } }
  | some z => if z.why = .rollback then r else { r with freeze := some { z with why := .rollback, settled := false, order := order } }

/-- The second mismatch of a Grit comparison (R413, R418), and what counts as one (R414): the defect mark, and the stop that ends in rollback or kill. -/
def State.gritFail (s : State) (e : EltAt) (f : FaultRec) : State :=
  match s.region e.slot with
  | none => s
  | some r =>
    let p := r.phys e.x e.y
    let old := (look s.defects p).getD 0
    let s1 : State := { s with defects := insertKV s.defects p (if bitN old e.elt.code then old else old + 2 ^ e.elt.code) }
    let f1 := { r.complete f with time := s.ns, fc := s.fc }
    let r1 : Region := { r with fault := some (joinFault r.fault f1), gritted := true }
    let turned : Region := { r1 with switchOut := r1.switchOut.map fun w => { w with freeze := true } }
    let r2 : Region := match r.state with
      | .resident => r1.startRollback s.accepts
      | .draining => turned.startFreeze .switch
      | _ => r1
    s1.setRegion e.slot ((r2.receive (.elt e.x e.y e.elt)).modElem e.x e.y e.elt fun el => { el with run := el.run.map fun u => { u with again := true } })

/-! ### Poison sinks (R353) -/

/-- Count `n` sinks of a beat, the first in slot `slot` of transition `tran`. -/
def sinkPsw (psw : W32) (n slot tran : Nat) : W32 :=
  if n = 0 then psw
  else
    let cnt := min 0xFFFF (fld psw.toNat 31 16 + n)
    let low := if bitN psw.toNat 4 then fld psw.toNat 15 0 else put 15 10 slot + put 9 5 tran + 16
    BitVec.ofNat 32 (put 31 16 cnt + low)

/-- The records that a region's end delivers, one for each element that has sunk poison (R353). -/
def State.reportPsw (s : State) (slot : Nat) : State :=
  match s.region slot with
  | none => s
  | some r => r.elems.foldl (fun (t : State) (p : Nat × Nat × Element) =>
      let (x, y, e) := p
      if fld e.psw.toNat 31 16 = 0 then t
      else t.reportFault slot { code := 0x31, det := 1, src := 0, x := x, y := y, elt := e.elt.code, slot := fld e.psw.toNat 15 10,
                                tran := fld e.psw.toNat 9 5, info := put 31 16 (fld e.psw.toNat 31 16) }) s

end Sys2Proof.Machine
end

