-- ==== Sys2Proof/Machine/Me.lean ====
section
/-! DEFINITION. The ME inside a beat and at its commit (07 R190 to R210, R490): chains and their requests, address checks,
orders, fences, the tag table, and the form STRMQ takes of a stream. -/

namespace Sys2Proof.Machine

/-! ### Chains -/

def Me.chain (m : Me) (c : Nat) : Chain := m.chains.getD c {}
def Me.modChain (m : Me) (c : Nat) (f : Chain → Chain) : Me := { m with chains := upd m.chains c f }
def Me.stream (m : Me) (i : Nat) : Stream := m.streams.getD i {}
def Me.modStream (m : Me) (i : Nat) (f : Stream → Stream) : Me := { m with streams := upd m.streams i f }

/-- A request returns a reply or a completion token (R197, R201, R205, R210, R213, R218). -/
def ReqOp.replies : ReqOp → Bool
  | .ld _ | .ldg _ | .gth .. | .cmpl | .tfil .. | .tevc .. | .xprb | .strmDone => true
  | .atom _ ret _ _ _ => ret
  | .st .. | .stg .. | .sct .. | .ord | .fencef => false

/-- Reads whose value an ACQ fence waits for (R206). -/
def ReqOp.reads : ReqOp → Bool
  | .ld _ | .ldg _ | .gth .. | .tfil .. => true
  | .atom _ ret _ _ _ => ret
  | _ => false

/-- A request reaches translation and a target of the region's address space. -/
def ReqOp.isGlobal : ReqOp → Bool
  | .ldg _ | .stg .. | .gth .. | .sct .. | .atom .. | .fencef | .tfil .. => true
  | .tevc _ _ dirty => dirty
  | _ => false

def ReqSt.isDone : ReqSt → Bool
  | .performed | .acked => true
  | _ => false

/-- A request holds its tracking entry (R191): with a reply until the reply has left, without one until it is performed. -/
def Req.inUse (r : Req) : Bool := r.reply.isSome || !r.st.isDone

def Chain.inUse (c : Chain) : Nat := (c.reqs.filter (·.inUse)).length

/-- Space of a chain for R26 (R190): two free entries in the reply port's queue and two free tracking entries. -/
def Element.chainSpace (e : Element) (c : Nat) : Bool :=
  decide ((e.port (8 + c)).queue.length ≤ 2) && decide ((e.me.chain c).inUse ≤ 30)

/-- A gather or scatter: its elements are sent and performed one after another, so it is sent when its last element is (R200). -/
def ReqOp.byElement : ReqOp → Bool
  | .gth .. | .sct .. => true
  | _ => false

/-- A request counts as complete at a scope (R296, R207). -/
def Req.doneAt (r : Req) : Scope → Bool
  | .element => if r.op.isGlobal && !r.op.byElement then r.st != .queued else r.st.isDone
  | .region | .device => if r.remote && !r.op.byElement then r.st != .queued else r.st.isDone
  | .domain | .system => if r.remote then r.st == .acked else r.st.isDone

def Me.findReq (m : Me) (c seq : Nat) : Option Req := (m.chain c).reqs.find? (·.seq == seq)

/-- A request named by chain and number is performed; one no longer tracked is. -/
def Me.reqPerformed (m : Me) (k : Nat × Nat) : Bool :=
  match m.findReq k.1 k.2 with
  | some r => r.st.isDone
  | none => true

def Me.reqDoneAt (m : Me) (sc : Scope) (k : Nat × Nat) : Bool :=
  match m.findReq k.1 k.2 with
  | some r => r.doneAt sc
  | none => true

/-- Every tracked request of the chains named, with the numbers they were given. -/
def Me.tracked (m : Me) (ok : Nat → Bool) (p : Req → Bool) : List (Nat × Nat) :=
  (List.range 8).flatMap fun c => if ok c then ((m.chain c).reqs.filter p).map fun r => (c, r.seq) else []

/-- A request no longer keeps a fence of a kind and scope in force (R206): the release half waits for its completion at the scope, the acquire
half for the value of a read. -/
def Req.passes (r : Req) (k : FenceKind) (sc : Scope) : Bool :=
  (k == .acq || r.doneAt sc) && (k == .rel || !r.op.reads || r.st.isDone)

/-- A fence no longer holds anything back (R206). -/
def Me.fenceMet (m : Me) (f : Fence) : Bool :=
  f.pre.all fun k => match m.findReq k.1 k.2 with
    | some r => r.passes f.kind f.scope
    | none => true

/-- Fences numbered below `n` that still hold requests back. -/
def Me.fencesMet (m : Me) (n : Nat) : Bool := (m.fences.filter fun f => decide (f.id < n)).all m.fenceMet

/-- Hand a request to its chain (R191, R204, R207): it takes the chain's next number, and what it must wait for. -/
def Me.issue (m : Me) (c : Nat) (r : Req) (mask : Nat) : Me :=
  let pending (x : Req) : Bool := !x.st.isDone || (x.remote && x.st != .acked)
  let after := match r.op with
    | .ord => m.tracked (fun k => bitN mask k) pending
    | .fencef => m.tracked (fun _ => true) pending
    | _ => []
  let r1 := { r with seq := (m.chain c).next, after := after, fences := m.nfence }
  m.modChain c fun x => { next := (x.next + 1) % 2 ^ 16, reqs := x.reqs ++ [r1] }

/-- FENCE (R206). -/
def Me.fence (m : Me) (k : FenceKind) (sc : Scope) : Me :=
  let pre := m.tracked (fun _ => true) fun r => (!r.st.isDone || (r.remote && r.st != .acked)) && (k != .acq || r.op.reads)
  { m with fences := m.fences ++ [{ id := m.nfence, kind := k, scope := sc, pre := pre }], nfence := m.nfence + 1 }

/-! ### Address checks (R194) -/

/-- DET of the first limit an address of a region virtual access breaks. -/
def vaCheck (va w : Nat) : Option Nat := if fld va 63 52 != 0 then some 7 else if va % w != 0 then some 6 else none

/-- DET of the first limit a scratchpad access breaks: the offset, then the alignment. Of two limits broken at once the spec names no
order; here and in `vaCheck` the range, or the high bits, come before the alignment (DESIGN CHOICE, log entry 102). -/
def spadCheck (a w : Nat) : Option Nat := if 0x60000 ≤ a then some 5 else if a % w != 0 then some 6 else none

/-- Bytes of an access width code. -/
def wBytes (w : Nat) : Nat := 2 ^ w

/-- Bytes of an atomic type (R201). -/
def AtomTy.bytes : AtomTy → Nat
  | .i32 | .n32 | .f32 => 4
  | .i64 | .n64 => 8
  | .f16 | .b16 => 2

/-- Element addresses of GTH and SCT (R200): index i with its address, the masked elements left out. R197 says of GTH's P that it gates and
that it is an element mask; it is taken as the mask of R200 (DEDUCED, log entry 103). -/
def gatherAddrs (w : Nat) (a b : Word) (p : Option Word) : List (Nat × Nat) :=
  ((List.range (if w < 3 then 4 else 2)).filter fun i =>
    match p with
    | some x => maskBit x (4 * i)
    | none => true).map fun i => (i, ofInt 64 ((lane 64 0 a : Nat) + toSigned 32 (lane 32 i b) * (wBytes w : Nat)))

/-! ### The tag table (R208 to R210) -/

def Me.tag (m : Me) (k : Nat) : TagEnt := (look m.tags k).getD {}

def Me.setTag (m : Me) (k : Nat) (t : TagEnt) : Me :=
  { m with tags := if t = {} then eraseKV m.tags k else insertKV m.tags k t }

def Me.fillPtr (m : Me) (set_ : Nat) : Nat := (look m.fill set_).getD 0

/-- An entry's 64-bit word (R208). -/
def TagEnt.word (t : TagEnt) : Nat :=
  put 63 63 (b2n t.v) + put 62 62 (b2n t.d) + put 61 61 (b2n t.fp) + put 60 18 t.tag + put 9 0 t.slot

def TagEnt.ofWord (n : Nat) : TagEnt :=
  { v := bitN n 63, d := bitN n 62, fp := bitN n 61, tag := fld n 60 18, slot := fld n 9 0 }

/-- The hit of an address in its set. -/
def Me.tagHit (m : Me) (va : Nat) : Option Nat :=
  ((List.range 8).map fun w => fld va 14 9 * 8 + w).find? fun k => (m.tag k).v && (m.tag k).tag == fld va 51 9

/-- The victim of a miss (R209). -/
def Me.tagVictim (m : Me) (va : Nat) : Nat :=
  let ways := (List.range 8).map fun w => fld va 14 9 * 8 + w
  (ways.find? fun k => !(m.tag k).v).getD (fld va 14 9 * 8 + m.fillPtr (fld va 14 9))

/-- TLK's word (R209). -/
def Me.tlk (m : Me) (va : Nat) : Word :=
  match m.tagHit va with
  | some k =>
    let t := m.tag k
    n32x4 (t.slot * 512 + fld va 8 0) k 0xFFFFFFFF (b2n t.fp + 2 * b2n t.d)
  | none => n32x4 0 (m.tagVictim va) 0 0

/-- TFIL at commit (R210). -/
def Me.tagFill (m : Me) (va entry slot : Nat) : Me :=
  let ways := (List.range 8).map fun w => entry / 8 * 8 + w
  let m1 := ways.foldl (fun (x : Me) k =>
    if k != entry && (x.tag k).v && (x.tag k).tag == fld va 51 9 then x.setTag k { x.tag k with v := false } else x) m
  let m2 := m1.setTag entry { v := true, d := false, fp := true, tag := fld va 51 9, slot := slot }
  { m2 with fill := insertKV m2.fill (entry / 8) ((entry % 8 + 1) % 8) }

/-- TINV at commit (R210). -/
def Me.tagInval (m : Me) (n : Nat) : Me :=
  (if n = 0xFFFFFFFF then List.range 512 else [n]).foldl (fun (x : Me) k =>
    x.setTag k { x.tag k with v := false, d := false, fp := false }) m

/-! ### The scratchpad -/

def Me.spadRead (m : Me) (a n : Nat) : List Byte := memReadBytes m.spad a n
def Me.spadPsn (m : Me) (a n : Nat) : Bool := poisoned m.spoison a n
def Me.spadWrite (m : Me) (a : Nat) (bs : List Byte) (psn : Bool) : Me :=
  { m with spad := memWriteBytes m.spad a bs, spoison := poisonAfterWrite m.spoison a bs.length psn }

/-- Lines of the scratchpad with their poison, and writing them. -/
def Me.spadLines (m : Me) (a n : Nat) : List (List Byte × Bool) :=
  (List.range n).map fun i => (m.spadRead (a + 64 * i) 64, m.spadPsn (a + 64 * i) 64)

def Me.spadPutLines (m : Me) (a : Nat) (ls : List (List Byte × Bool)) : Me :=
  (ls.zipIdx).foldl (fun (x : Me) l => x.spadWrite (a + 64 * l.2) l.1.1 l.1.2) m

/-! ### Streams as STRMQ sees them -/

/-- Bytes a stream holds in the stream buffer: held writes, and kept units (16 bytes a word). -/
def SRun.buffered (r : SRun) : Nat :=
  (r.held.map (·.bytes.length)).foldl (· + ·) 0 + ((r.kept ++ r.replay).map fun u => 16 * u.length).foldl (· + ·) 0

/-- Bytes that a stream holds in the stream buffer, those of the descriptors of its replay window with them (R216). -/
def Stream.buffered (x : Stream) : Nat := ((x.past ++ x.run.toList ++ x.redo).map SRun.buffered).foldl (· + ·) 0

/-- STRMQ's word (R217). -/
def Stream.query (s : Stream) (frozen : Bool) : Word :=
  match s.run with
  | none => n32x4 0 0 s.buffered (b2n (!s.pend.isEmpty))
  | some r => n32x4 (if frozen then 3 else if r.refill.isSome then 2 else 1) r.units s.buffered (b2n (!s.pend.isEmpty) + 2 * b2n r.fromCmd)

/-- A commit-marked word of channel `ch` was popped: each load stream that names it forgets what it kept (R216). -/
def Stream.mark (x : Stream) (ch : Nat) : Stream :=
  if x.loads = some ch then
    { x with run := x.run.map fun r => { r with kept := [], markUnits := r.units, markEos := r.eos }, past := [], lost := false }
  else x

/-- Load streams of an ME whose mark channel is `ch`. -/
def Me.marked (m : Me) (ch : Nat) : List Nat :=
  (List.range 8).filter fun i => (m.stream i).loads == some ch

/-- Free places for fabric STRMs (R213). -/
def Stream.free (s : Stream) : Nat := 2 - b2n (s.run.isSome || !s.redo.isEmpty) - s.pend.length

end Sys2Proof.Machine
end

