-- ==== Sys2Proof/Machine/Scale.lean ====
section
/-! DEFINITION. The arithmetic of the scale forms (06 R180 to R183). -/

namespace Sys2Proof.Machine

/-- clip9 (R180): value and flags. -/
def clip9 (x : Int) : Nat × Nat :=
  if x < 1 then (0, flUnderflow + flInexact) else if 510 < x then (510, flOverflow + flInexact) else (x.toNat, 0)

/-- The exponent SFRM takes of an F32 value (R182). -/
def sfrm (a : Nat) (d : Int) : Nat × Nat :=
  match fpF32.decode a with
  | .nan s => (511, if s then flInvalid else 0)
  | .inf _ =>
    let (e, f) := clip9 (127 - d + 255)
    (e, orFlags f flOverflow)
  | .num _ m e => if m = 0 then (0, 0) else clip9 (topExp m e - d + 255)

/-- SADD to SFRM (R182): the new scale and its flags. `a` and `b` are lane 0 of the operands. -/
def scaleArith (o : ScaleOp) (a b : Nat) : Nat × Nat :=
  let x := fld a 8 0
  let y := fld b 8 0
  let d := toSigned 32 b
  match o with
  | .sadd => if x = 0 ∨ x = 511 then (x, 0) else clip9 (x + d)
  | .ssub =>
    if x = 511 ∨ y = 511 then (511, 0) else if y = 0 then (511, flDivZero) else if x = 0 then (0, 0)
    else clip9 ((x : Int) - y + 255)
  | .ssum => if x = 511 ∨ y = 511 then (511, 0) else if x = 0 ∨ y = 0 then (0, 0) else clip9 ((x : Int) + y - 255)
  | .smax => (if x = 511 ∨ y = 511 then 511 else max x y, 0)
  | .smin => (if x = 511 ∨ y = 511 then 511 else min x y, 0)
  | .sfrm => sfrm a d
  | _ => (x, 0)

/-- SCMP (R182). -/
def scmpCode (c a : Nat) : Nat := if c = 511 ∨ a = 511 then 3 else if c = a then 0 else if c < a then 1 else 2

end Sys2Proof.Machine
end

