-- ==== Sys2Proof/Machine/Mx.lean ====
section
/-! DEFINITION. The MX contexts: payloads, chunk sums (02 R74 to R77) and the forms on a context (08 R221 to R236). -/

namespace Sys2Proof.Machine

/-! ### Formats -/

/-- Element width in bits of an MX format (R222). -/
def Fmt.mxBits : Fmt → Nat
  | .lane t => t.width
  | .block .mxe2m1 | .block .bx4 => 4
  | .block .mxe3m2 | .block .mxe2m3 | .block .bx6 => 6
  | .block _ => 8

def Fmt.isInt8 : Fmt → Bool
  | .lane t => t == .i8 || t == .n8
  | .block _ => false

/-- Elements Kc of a chunk (R222). -/
def Fmt.chunk (f : Fmt) : Nat := 1536 / f.mxBits

def Fmt.isBlock : Fmt → Bool
  | .block _ => true
  | .lane _ => false

/-- The lane code of a payload slot: BX codes s:m sit in the slot's low M + 1 bits (R223, R68). -/
def Fmt.payloadCode (f : Fmt) (x : Nat) : Nat :=
  match f with
  | .block b => if b.isBx then put 7 7 (b2n (bitN x b.mbits)) + x % 2 ^ b.mbits else x
  | .lane _ => x

/-- Element k of a payload as a value (R223). -/
def Fmt.element (f : Fmt) (codes mexp k : Nat) : FpVal :=
  let c := f.payloadCode (codes / 2 ^ (f.mxBits * k) % 2 ^ f.mxBits)
  match f with
  | .lane t => t.fp.decode c
  | .block b => b.value c (bitN mexp (k / 2))

/-- Element k of an integer payload. -/
def Fmt.intElement (f : Fmt) (codes k : Nat) : Int :=
  match f with
  | .lane t => t.intVal (codes / 2 ^ (8 * k) % 256)
  | .block _ => 0

/-! ### Chunk sums -/

/-- Truncate an exact product to the window that ends at weight 2^w, as a count of that weight (R75). -/
def truncAt (w : Int) (x : Exact) : Int :=
  let m : Int := if x.e < w then ((x.m / 2 ^ (w - x.e).toNat : Nat) : Int) else ((x.m * 2 ^ (x.e - w).toNat : Nat) : Int)
  if x.neg then -m else m

/-- The chunk sum of R75 and R76 as an F32 code with its flags. -/
def chunkSum (ps : List Addend) : Nat × Nat :=
  let ip := ps.contains (.inf false)
  let im := ps.contains (.inf true)
  if ps.any (fun a => match a with | .nan _ => true | _ => false) || (ip && im) then fpF32.invalid
  else if ip then (fpF32.infCode false, 0)
  else if im then (fpF32.infCode true, 0)
  else
    let xs := (ps.filterMap fun a => match a with | .num x => some x | _ => none).filter fun x => x.m != 0
    match xs with
    | [] => (0, 0)
    | x :: r =>
      let top := r.foldl (fun b y => max b (topExp y.m y.e)) (topExp x.m x.e)
      let w := top - 51
      let s := xs.foldl (fun b y => b + truncAt w y) (0 : Int)
      fpF32.round .rne 0 { neg := decide (s < 0), m := s.natAbs, e := w }

/-- A row-chunk of A or a column-chunk of B: format, codes, micro-exponents, scale per block (none for lane formats). -/
structure ChunkVal where
  fmt : Fmt
  codes : Nat
  mexp : Nat
  scale : List Nat

def ChunkVal.scaleOf (c : ChunkVal) (k : Nat) : Nat :=
  if c.scale.isEmpty then 255 else c.scale.getD (k / (c.fmt.chunk / c.scale.length)) 255

/-- The products of one column (R184, R232): pairs of blocks with product scale 0 are skipped, NaN scales give NaN. -/
def chunkProducts (a b : ChunkVal) : List Addend :=
  (List.range a.fmt.chunk).filterMap fun k =>
    let ps := scaleProduct (a.scaleOf k) (b.scaleOf k)
    if ps = 0 then none
    else if ps = 511 then some (.nan true)
    else match mulAddend (a.fmt.element a.codes a.mexp k) (b.fmt.element b.codes b.mexp k) with
      | .num x => some (.num { x with e := x.e + (ps : Int) - 255 })
      | y => some y

/-- One accumulator column: the new value and the flags of steps 4 and 5 (R232, R77). -/
def accumulate (acc : Nat) (a b : ChunkVal) : Nat × Nat :=
  if a.fmt.isInt8 then
    let s := (List.range a.fmt.chunk).foldl (fun t k => t + a.fmt.intElement a.codes k * b.fmt.intElement b.codes k) (0 : Int)
    (ofInt 32 (clampInt (-(2 ^ 31)) (2 ^ 31 - 1) (toSigned 32 acc + s)), 0)
  else
    let (s, f) := chunkSum (chunkProducts a b)
    let (r, f') := fpF32.addV (fpF32.decode acc) (fpF32.decode s)
    (r, orFlags f f')

/-! ### Contexts -/

def MxCtx.ktot (c : MxCtx) : Nat := fld ((c.cfg.getD 0).toNat) 20 13 + 1
def MxCtx.nk (c : MxCtx) : Nat := fld ((c.cfg.getD 0).toNat) 12 10 + 1
def MxCtx.bfmt (c : MxCtx) : Nat := fld ((c.cfg.getD 0).toNat) 9 5
def MxCtx.afmt (c : MxCtx) : Nat := fld ((c.cfg.getD 0).toNat) 4 0

def MxCtx.half (c : MxCtx) (h : Bool) : List Chunk := if h then c.h1 else c.h0
def MxCtx.full (c : MxCtx) (h : Bool) : Bool := if h then c.full1 else c.full0

def MxCtx.setHalf (c : MxCtx) (h : Bool) (l : List Chunk) (full : Bool) : MxCtx :=
  if h then { c with h1 := l, full1 := full } else { c with h0 := l, full0 := full }

/-- State of a half, as the status word codes it (R221). -/
def MxCtx.halfCode (c : MxCtx) (h : Bool) : Nat := if c.full h then 2 else if (c.half h).isEmpty then 0 else 1

/-- The gates of R225. -/
def MxCtx.gateMma (c : MxCtx) : Bool := c.cfg.isSome && !c.tdone && decide (0 < c.ac) && c.full c.fh
def MxCtx.gateMldb (c : MxCtx) : Bool := c.cfg.isSome && !c.full c.fi
def MxCtx.gateDrain (c : MxCtx) : Bool := c.tdone && c.drain.isNone

/-- The status word (R221). -/
def MxCtx.status (c : MxCtx) : Nat :=
  put 31 31 (b2n c.cfg.isSome) + put 30 30 (b2n c.tdone) + put 29 29 (b2n c.pt) + put 28 28 (b2n c.drain.isSome)
    + put 27 26 (c.halfCode true) + put 25 24 (c.halfCode false) + put 23 23 (b2n c.fh) + put 22 22 (b2n c.fi)
    + put 21 14 c.kp + put 13 9 c.rp + put 8 2 c.fc

/-- Both halves empty, the tile zeroed, the cursors at 0 (R228, R234). -/
def MxCtx.zero (c : MxCtx) : MxCtx :=
  { c with acc := List.replicate 256 0, h0 := [], h1 := [], full0 := false, full1 := false, fh := false, fi := false,
           kp := 0, rp := 0, fc := 0, fkp := 0, tdone := false, pt := false }

/-- Whether a configuration word keeps the limits of R228; its reserved bits are ignored (R3). -/
def mctxOk (w : Nat) : Bool :=
  match fmtOf (fld w 4 0), fmtOf (fld w 9 5) with
    | some a, some b => a.isMx && b.isMx && a.mxBits == b.mxBits && a.isInt8 == b.isInt8
    | _, _ => false

/-- MCTX (R228). -/
def MxCtx.configure (c : MxCtx) (w : Nat) : MxCtx := { c.zero with cfg := some (.ofNat 32 (fld w 20 0)), ti := 0 }

/-- An arm of n tiles (R230). -/
def MxCtx.arm (c : MxCtx) (n : Nat) : MxCtx :=
  { c with ac := min (c.ac + n) (2 ^ 32 - 1), ti := if c.ac = 0 ∧ 0 < n then 0 else c.ti }

/-- The arms of SARM take effect at the end of their fc, after any commit of it (R230, R238). -/
def MxCtx.settleArms (c : MxCtx) : MxCtx := c.pend.foldl MxCtx.arm { c with pend := [] }

/-- MLDB (R231). -/
def MxCtx.load (c : MxCtx) (k : Chunk) : MxCtx :=
  let nk := min c.nk (c.ktot - c.fkp)
  let c1 := c.setHalf c.fi (c.half c.fi ++ [k]) false
  if c.fc + 1 = 8 * nk then
    { (c1.setHalf c.fi (c1.half c.fi) true) with fc := 0, fi := !c.fi, fkp := if c.fkp + nk = c.ktot then 0 else c.fkp + nk }
  else { c1 with fc := c.fc + 1 }

/-- The column-chunks that the next row-chunk meets (R232). -/
def MxCtx.columns (c : MxCtx) : List Chunk := ((c.half c.fh).drop (8 * (c.kp % c.nk))).take 8

/-- MMA and MMAS (R232): the context, and the flags by column. -/
def MxCtx.multiply (c : MxCtx) (a : ChunkVal) (apsn : Bool) : MxCtx × List Nat :=
  let bf := (fmtOf c.bfmt).getD (.lane .i8)
  let cols := c.columns
  let rs := cols.mapIdx fun j b =>
    accumulate ((c.acc.getD (8 * c.rp + j) 0).toNat) a
      { fmt := bf, codes := b.codes.toNat, mexp := b.mexp.toNat, scale := b.scale.map (·.toNat) }
  let acc := c.acc.mapIdx fun i v =>
    if i / 8 = c.rp then (match rs[i % 8]? with | some r => BitVec.ofNat 32 r.1 | none => v) else v
  let c1 := { c with acc := acc, pt := c.pt || apsn || cols.any (·.psn) }
  let flags := rs.map (·.2)
  if c.rp + 1 < 32 then ({ c1 with rp := c.rp + 1 }, flags)
  else
    let kp := c.kp + 1
    let c2 := { c1 with rp := 0, kp := kp }
    let c3 := if kp % c.nk = 0 ∨ kp = c.ktot then { (c2.setHalf c.fh [] false) with fh := !c.fh } else c2
    (if kp = c.ktot then { c3 with kp := 0, tdone := true, ac := c.ac - 1, ti := (c.ti + 1) % 2 ^ 32 } else c3, flags)

/-- Take the finished tile out (R235): acc and PT to the drain buffer. -/
def MxCtx.takeTile (c : MxCtx) (d : Option Drain) : MxCtx :=
  { c with acc := List.replicate 256 0, tdone := false, pt := false, drain := d, dwp := 0 }

/-! ### The operand of MMAS -/

/-- The scratchpad pieces and scale bytes that an MMAS reads (R233). -/
structure MmasPlan where
  pieces : List Nat
  scaleAt : Nat
  nb : Nat

/-- Bank rotation of an address (R233, R198). -/
def rotate (o n : Nat) : Nat := o - fld o 8 5 * 32 + (fld o 8 5 + n) % 16 * 32

def mmasPlan (c : MxCtx) (f : Fmt) (a b : Word) : MmasPlan :=
  let nb := if f.isBlock then f.chunk / 32 else 0
  let lin := lane 32 0 a + c.ti * lane 32 2 a + c.rp * lane 32 1 a + c.kp * 192
  { pieces := (List.range 6).map fun p => rotate (lin + 32 * p) (c.rp * fld (lane 32 3 a) 3 0)
    scaleAt := lane 32 0 b + c.ti * lane 32 2 b + c.rp * lane 32 1 b + c.kp * nb
    nb := nb }

/-- The limits of R233: fault code, DET and INFO of the first one broken. -/
def mmasCheck (c : MxCtx) (f : Fmt) (a b : Word) : Option (Nat × Nat × Nat) :=
  let p := mmasPlan c f a b
  if fld (lane 32 3 a) 31 4 != 0 then some (1, 4, lane 32 3 a)
  else if lane 32 3 b != 0 then some (1, 4, lane 32 3 b)
  else match [lane 32 0 a, lane 32 1 a, lane 32 2 a].find? (fun x => x % 32 != 0) with
    | some x => some (0x11, 6, x)
    | none =>
      match p.pieces.find? (fun x => decide (0x60000 < x + 32)) with
      | some x => some (0x11, 5, x)
      | none => if p.nb ≠ 0 ∧ 0x60000 < p.scaleAt + p.nb then some (0x11, 5, p.scaleAt) else none

end Sys2Proof.Machine
end

