-- ==== Sys2Proof/Machine/BeatEval.lean ====
section
/-! DEFINITION. The evaluation of one beat (01 R30 to R32; 04 R108 to R135; 05 R142 to R165; 06 R181, R182; 07 R194 to R218;
08 R226 to R236): slots in index order, since every edge goes to a higher slot (03 R81), values and nulls on edges, and the
effects that a commit applies together. -/

namespace Sys2Proof.Machine

/-- A value on a consumer edge (R108, R224): null, a token with its stale mark (R172), or a lane value. -/
inductive BVal where
  | null
  | tok (t : Token) (stale : Bool)
  | lane (v : LaneVal)
  deriving DecidableEq, Repr

/-- What a slot does at commit (R32). -/
inductive Eff where
  | pop (ch : Nat)
  | reg (r : Reg) (w : Word)
  | st (v : Nat)
  | tm (t : Nat) (mask : Bool)
  | srf (k : Nat) (e : Option Nat) (v : Option Bool)
  | srel (k : Nat)
  | send (q : Nat) (t : Token) (stale : Bool)
  | sink
  | req (chain mask : Nat) (r : Req)
  | fence (k : FenceKind) (sc : Scope)
  | tagDirty (entry : Nat)
  | tagFill (va entry slot : Nat)
  | tagClean (entry : Nat)
  | tagInval (n : Nat)
  | strm (s off : Nat)
  | pref (va : Nat)
  | mark (lit : Nat)
  | bkpt (n : Nat)
  | halt
  deriving DecidableEq, Repr

/-- A fault of a slot that abandons the beat (R144, R171, R178, R194, R227). -/
structure BFault where
  slot : Nat
  code : Nat
  det : Nat
  info : Nat
  src : Nat := 0
  deriving DecidableEq, Repr

/-- What a beat sees, all of it as at its start (R23, R169). `edge q` is the block format and length of port q's channel,
`conn` the ports that .port connects, `written` the SRF entries that the beat's own writes name, `me` the tile's ME, `stops` its streams
that a freeze has reached. -/
structure BeatEnv where
  el : Element
  bank : Nat
  trig : Nat
  ctag : BitVec 2
  xcls : Nat
  edge : List (Option (BlockFmt × Nat)) := []
  conn : List Bool := []
  written : List Nat := []
  me : Option Me := none
  stops : List Nat := []

/-- A beat in evaluation. -/
structure BeatAcc where
  vals : List ((Nat × PortName) × BVal) := []
  effs : List (Nat × Eff) := []
  rng : W32
  flags : Nat := 0
  faults : List BFault := []
  mx : List MxCtx

/-- What a slot gives: values for its two consumers. -/
abbrev SlotOut := BeatAcc × BVal × BVal

def BeatAcc.eff (a : BeatAcc) (slot : Nat) (e : Eff) : BeatAcc := { a with effs := a.effs ++ [(slot, e)] }

def BeatAcc.bad (a : BeatAcc) (slot code det info : Nat) : BeatAcc :=
  { a with faults := a.faults ++ [{ slot := slot, code := code, det := det, info := info }] }

/-- Raise the flags of a slot, by lane (R143, R144): its fsw bits, its poison, or a trap. -/
def BeatAcc.raise (a : BeatAcc) (env : BeatEnv) (slot : Nat) (fl : List Nat) : BeatAcc × Bool :=
  let a1 := { a with flags := orFlags a.flags (allFlags fl) }
  (match trapsBy env.xcls fl with
   | some (c, lane) => a1.bad slot 0x30 c lane
   | none => a1, poisonsBy env.xcls (allFlags fl))

/-- Operands of a slot: the tokens on its ports. -/
structure Operands where
  a : Option Token := none
  b : Option Token := none
  c : Option Token := none
  p : Option Token := none
  stale : Bool := false
  lane : Option LaneVal := none

def Operands.psn (o : Operands) : Bool :=
  anyPsn ([o.a, o.b, o.c, o.p].filterMap id) || (o.lane.map (·.psn)).getD false
def Operands.aw (o : Operands) : Word := (opnd o.a).word
def Operands.bw (o : Operands) : Word := (opnd o.b).word
def Operands.cw (o : Operands) : Word := (opnd o.c).word

/-- The operands standing on a slot's ports, or none where an edge into it carries a null (R31). -/
def operandsOf (vals : List ((Nat × PortName) × BVal)) (slot : Nat) : Option Operands :=
  let here := vals.filter fun v => v.1.1 == slot
  if here.any fun v => v.2 == .null then none
  else
    let tokAt (port : PortName) : Option (Token × Bool) := here.findSome? fun v =>
      if v.1.2 = port then (match v.2 with | .tok t s => some (t, s) | _ => none) else none
    some
      { a := (tokAt .a).map (·.1), b := (tokAt .b).map (·.1), c := (tokAt .c).map (·.1), p := (tokAt .p).map (·.1)
        stale := ((tokAt .a).map (·.2)).getD false
        lane := here.findSome? fun v => match v.2 with | .lane l => some l | _ => none }

/-! ### Results -/

def same (a : BeatAcc) (v : BVal) : SlotOut := (a, v, v)
def noOut (a : BeatAcc) : SlotOut := (a, .null, .null)

/-- A computed result without flags (R109). -/
def compOut (a : BeatAcc) (env : BeatEnv) (o : Operands) (w : Word) : SlotOut :=
  same a (.tok (computed env.ctag o.psn w) false)

/-- A computed result with the flags its lanes raise, and the generator after its draws. -/
def laneOut (a : BeatAcc) (env : BeatEnv) (slot : Nat) (o : Operands) (l : Lanes) : SlotOut :=
  let (a1, psn) := ({ a with rng := l.rng }).raise env slot l.flags
  same a1 (.tok (computed env.ctag (o.psn || psn) l.word) false)

/-- A channel's head as a beat sees it (R90, R108, R113, R224). -/
def headValue (e : Element) (ch : Nat) : BVal :=
  let c := e.cfg ch
  if cfgLane c then
    match (e.chan ch).lanes with
    | l :: _ => .lane { l.val with ctag := presentCtag c l.val.ctag }
    | [] => .null
  else
    match (e.chan ch).fifo with
    | t :: _ => .tok { t.tok with ctag := presentCtag c t.tok.ctag } t.stale
    | [] => .null

/-- The token that SEND, SENDE and SENDP build (R114). -/
def sendToken (t : Token) (env : BeatEnv) (retag : Option Nat) (cmk psn : Bool) (level : Option Nat) : Token :=
  { t with ctag := match retag with | some n => .ofNat 2 n | none => env.ctag
           cmk := cmk || t.cmk
           psn := psn || t.psn
           eosl := match level with | some l => .ofNat 3 l | none => t.eosl }

/-- GEN of an entry once the beat has committed (R157, R169). -/
def BeatEnv.genAfter (env : BeatEnv) (k : Nat) : BitVec 4 :=
  (env.el.srfAt k).g + (if env.written.contains k then 1 else 0)

/-- RDR's word (R117). -/
def rdrWord (b : Bank) : Reg → Word
  | .d i => b.d.getD i 0
  | .p i => predWord (b.p.getD i 0)
  | .st => BitVec.ofNat 128 b.st.toNat
  | .tm => BitVec.ofNat 128 b.tm.toNat
  | .fsw => BitVec.ofNat 128 b.fsw.toNat

/-- A register whose value carries PSN = 1 (R414). -/
def Bank.struck (b : Bank) : Reg → Bool
  | .d i => b.bad.contains i
  | .p i => b.bad.contains (16 + i)
  | _ => false

/-- A write of an SRF entry by a form, with the sink of a poisoned operand (R168, R183). -/
def BeatAcc.writeSrf (a : BeatAcc) (slot k : Nat) (e : Option Nat) (v : Option Bool) (psn : Bool) : BeatAcc :=
  let a1 := a.eff slot (.srf k e v)
  if psn then a1.eff slot .sink else a1

/-! ### Scale forms (R182) -/

/-- The scale forms: each reads the SRF as it stood at the start of the beat (R169, R182) (DEDUCED, log entry 91). -/
def evalScale (env : BeatEnv) (a : BeatAcc) (slot : Nat) (f : ScaleOp) (k : Nat) (o : Operands) : SlotOut :=
  let x := opnd o.a
  let ent := env.el.srfAt k
  let rebound := BVal.tok { x with stag := .ofNat 6 k, gen := env.genAfter k, psn := o.psn } false
  match f with
  | .smov =>
    let j := env.el.srfAt x.stag.toNat
    if j.useOk x.gen o.stale then same (a.writeSrf slot k (some j.e.toNat) (some true) o.psn) rebound
    else same (a.bad slot 0x20 1 (staleInfo x.stag x.gen j o.stale 0)) rebound
  | .sbnd => same a rebound
  | .scmp => compOut a env o (n32x4 (scmpCode ent.e.toNat (fld x.word.toNat 8 0)) 0 0 0)
  | .sget => compOut a env o (n32x4 ent.e.toNat ent.g.toNat (b2n ent.v) (b2n ent.held))
  | .szq => compOut a env o (n32x4 (if ent.e = 0 then 0xFFFFFFFF else 0) 0 0 0)
  | .snq => compOut a env o (n32x4 (if ent.e = 511 then 0xFFFFFFFF else 0) 0 0 0)
  | .sset => noOut (a.writeSrf slot k (some (fld x.word.toNat 8 0)) (some true) o.psn)
  | .sgen => noOut (a.writeSrf slot k (some ent.e.toNat) (some ent.v) o.psn)
  | .sclr => noOut (a.writeSrf slot k (some 0) (some false) o.psn)
  | .srel => noOut (a.eff slot (.srel k))
  | .sadd | .ssub | .ssum | .smax | .smin | .sfrm =>
    let (e, fl) := scaleArith f (lane 32 0 x.word) (lane 32 0 o.bw)
    let (a1, psn) := a.raise env slot [fl]
    same (a1.writeSrf slot k (some e) (some true) o.psn) (.tok (computed env.ctag (o.psn || psn) (BitVec.ofNat 128 e)) false)

/-! ### QNT and DQT -/

def evalQnt (env : BeatEnv) (a : BeatAcc) (slot : Nat) (f : BlockFmt) (src : LaneTy) (rm : Rm) (o : Operands) : SlotOut :=
  let ctl := lane 32 0 o.aw
  let zero := BVal.tok (computed env.ctag o.psn 0) false
  match qntControl f src.lanes ctl with
  | none => same (a.bad slot 0x01 1 ctl) zero
  | some (swr, l, widx, base, kent) =>
    if swr && (env.el.windowOf kent).isSome then same (a.bad slot 0x01 1 ctl) zero
    else
      let bank := env.el.bankAt env.bank
      let struck := (List.range l).any fun e => bank.bad.contains (base + e / src.lanes)
      let xs := (List.range l).map fun e => src.fp.decode (lane src.width (e % src.lanes) (bank.d.getD (base + e / src.lanes) 0))
      let q := qnt f rm swr widx xs a.rng
      let (a1, psn) := ({ a with rng := q.rng }).raise env slot q.flags
      let a2 := if swr then a1.writeSrf slot kent (some q.entry) (some true) (o.psn || struck) else a1
      same a2 (.tok { computed env.ctag (o.psn || psn || struck) q.word with
        mexp := q.mexp, stag := .ofNat 6 kent, gen := env.genAfter kent } false)

def evalDqt (env : BeatEnv) (a : BeatAcc) (slot : Nat) (f : BlockFmt) (dst : LaneTy) (rm : Rm) (o : Operands) : SlotOut :=
  let x := opnd o.a
  let j := env.el.srfAt x.stag.toNat
  let zero := BVal.tok (computed env.ctag o.psn 0) false
  let g := lane 32 0 o.bw
  if 8 ≤ g then same (a.bad slot 0x01 1 g) zero
  else if !j.useOk x.gen o.stale then same (a.bad slot 0x20 1 (staleInfo x.stag x.gen j o.stale 0)) zero
  else match dqtWord f dst rm j.e.toNat g x a.rng with
    | none => same (a.bad slot 0x01 1 g) zero
    | some l => laneOut a env slot o l

/-! ### ME forms -/

/-- Hand a request over at commit: a poisoned address keeps it from being sent, and is recorded as at a sink (R196). -/
def BeatAcc.request (a : BeatAcc) (env : BeatEnv) (slot chain mask : Nat) (apsn : Bool) (r : Req) : BeatAcc :=
  let a1 := a.eff slot (.req chain mask { r with psn := apsn, ctag := env.ctag })
  if apsn then a1.eff slot .sink else a1

/-- A fault 0x11 of an address check (R194, R350). -/
def BeatAcc.badAddr (a : BeatAcc) (slot det va : Nat) : BeatAcc := a.bad slot 0x11 det (va % 2 ^ 60)

def evalAcc (env : BeatEnv) (a : BeatAcc) (slot : Nat) (f : AccOp) (chain w : Nat) (o : Operands) : BeatAcc :=
  let x := opnd o.a
  let va := lane 64 0 x.word
  let n := wBytes w
  let dpsn := (opnd o.b).psn
  let mask := match o.p with | some p => (maskOf p.word).toNat % 2 ^ n | none => 2 ^ n - 1
  let gathered := gatherAddrs w x.word o.bw (o.p.map (·.word))
  let firstBad := gathered.findSome? fun (_, va) => (vaCheck va n).map fun d => (d, va)
  match f with
  | .ld => match spadCheck va n with
    | some d => a.badAddr slot d va
    | none => a.request env slot chain 0 x.psn { seq := 0, op := .ld n, addr := va }
  | .st => match spadCheck va n with
    | some d => a.badAddr slot d va
    | none => a.request env slot chain 0 x.psn { seq := 0, op := .st n mask, addr := va, data := o.bw, dpsn := dpsn }
  | .ldg => match vaCheck va n with
    | some d => a.badAddr slot d va
    | none => a.request env slot chain 0 x.psn { seq := 0, op := .ldg n, addr := va }
  | .stg => match vaCheck va n with
    | some d => a.badAddr slot d va
    | none => a.request env slot chain 0 x.psn { seq := 0, op := .stg n mask, addr := va, data := o.bw, dpsn := dpsn }
  | .gth => match firstBad with
    | some (d, v) => a.badAddr slot d v
    | none => a.request env slot chain 0 (x.psn || dpsn) { seq := 0, op := .gth n gathered, addr := va }
  | .sct => match firstBad with
    | some (d, v) => a.badAddr slot d v
    | none => a.request env slot chain 0 (x.psn || dpsn)
        { seq := 0, op := .sct n (gathered.map fun (i, v) => (i, v, lane (8 * n) i o.cw)), addr := va, dpsn := (opnd o.c).psn }

/-- The first lane from `i` on whose bits are not 0, or 0: bits beyond the lanes that a form's word gives a meaning (R210). -/
def beyond (i : Nat) (w : Word) : Nat := ((List.range 4).drop i).foldl (fun a k => if a = 0 then lane 32 k w else a) 0

/-- The forms of an ME (R191 to R213). A poisoned A of TEVC, an entry number, withholds nothing (DEDUCED, log entry 116) (DESIGN CHOICE, log entry 131) (DESIGN CHOICE, log entry 132) (DEDUCED, log entry 134). -/
def evalMe (env : BeatEnv) (a : BeatAcc) (slot : Nat) (op : FOp) (o : Operands) : SlotOut :=
  let x := opnd o.a
  let va := lane 64 0 x.word
  let l0 := lane 32 0 x.word
  let me := env.el.me
  match op with
  | .acc f chain w => noOut (evalAcc env a slot f chain w o)
  | .atom f ret chain t =>
    match vaCheck va t.bytes with
    | some d => noOut (a.badAddr slot d va)
    | none => noOut (a.request env slot chain 0 x.psn
        { seq := 0, op := .atom f ret t (lane (8 * t.bytes) 0 o.bw) (lane (8 * t.bytes) 0 o.cw), addr := va,
          dpsn := (opnd o.b).psn || (opnd o.c).psn })
  | .ord chain =>
    if fld l0 31 8 != 0 then noOut (a.bad slot 0x01 1 l0)
    else noOut (a.request env slot chain (fld l0 7 0) false { seq := 0, op := .ord })
  | .cmpl chain => noOut (a.request env slot chain 0 false { seq := 0, op := .cmpl, word := x.word, dpsn := x.psn })
  | .fence k sc => noOut (a.eff slot (.fence k sc))
  | .fencef chain sc =>
    match vaCheck va 8 with
    | some d => noOut (a.badAddr slot d va)
    | none => noOut (a.request env slot chain 0 x.psn
        { seq := 0, op := .fencef, addr := va, data := o.bw, dpsn := (opnd o.b).psn, scope := sc })
  | .tlk =>
    let a1 := match me.tagHit va with
      | some k => if bitN (lane 32 0 o.bw) 0 then a.eff slot (.tagDirty k) else a
      | none => a
    compOut a1 env o (me.tlk va)
  | .tfil chain =>
    let n := lane 32 0 o.bw
    let sl := lane 32 1 o.bw
    match vaCheck va 1 with
    | some d => noOut (a.badAddr slot d va)
    | none =>
      if 511 < n then noOut (a.bad slot 0x01 1 n)
      else if 767 < sl then noOut (a.bad slot 0x01 1 sl)
      else if n / 8 != fld va 14 9 then noOut (a.bad slot 0x01 1 n)
      else if beyond 2 o.bw ≠ 0 then noOut (a.bad slot 0x01 1 (beyond 2 o.bw))
      else noOut ((a.eff slot (.tagFill va n sl)).request env slot chain 0 x.psn
        { seq := 0, op := .tfil n sl, addr := va / 512 * 512, word := x.word })
  | .tevc chain =>
    if 511 < l0 then noOut (a.bad slot 0x01 1 l0)
    else if beyond 1 x.word ≠ 0 then noOut (a.bad slot 0x01 1 (beyond 1 x.word))
    else
      let t := me.tag l0
      noOut ((a.eff slot (.tagClean l0)).request env slot chain 0 false
        { seq := 0, op := .tevc t.slot t.tag t.d, addr := t.tag * 512, word := x.word, dpsn := x.psn })
  | .tinv =>
    if 511 < l0 ∧ l0 ≠ 0xFFFFFFFF then noOut (a.bad slot 0x01 1 l0)
    else if beyond 1 x.word ≠ 0 then noOut (a.bad slot 0x01 1 (beyond 1 x.word))
    else noOut (a.eff slot (.tagInval l0))
  | .strm s =>
    match spadCheck l0 64 with
    | some d => noOut (a.badAddr slot d l0)
    | none => noOut (a.eff slot (.strm s l0))
  | .strmq s => compOut a env o ((me.stream s).query (env.stops.contains s))
  | .pref =>
    if x.psn then noOut (a.eff slot .sink) else if (vaCheck va 1).isSome then noOut a else noOut (a.eff slot (.pref va))
  | .xprb => noOut (a.request env slot 0 0 x.psn { seq := 0, op := .xprb, addr := va })
  | _ => noOut a

/-! ### MX forms -/

def BeatAcc.ctx (a : BeatAcc) (i : Nat) : MxCtx := a.mx.getD i {}
def BeatAcc.setCtx (a : BeatAcc) (i : Nat) (c : MxCtx) : BeatAcc := { a with mx := a.mx.set i c }

/-- The scales of a lane value's bindings, or the first binding that fails its use check (R184, R231). -/
def laneScales (env : BeatEnv) (v : LaneVal) : Except Binding (List Nat) :=
  match v.binds.find? fun b => !(env.el.srfAt b.stag.toNat).useOk b.gen b.stale with
  | some b => .error b
  | none => .ok (v.binds.map fun b => (env.el.srfAt b.stag.toNat).e.toNat)

def BeatAcc.badBind (a : BeatAcc) (env : BeatEnv) (slot : Nat) (b : Binding) : BeatAcc :=
  a.bad slot 0x20 1 (staleInfo b.stag b.gen (env.el.srfAt b.stag.toNat) b.stale 0)

/-- The multiplication of a row-chunk, with its flags and the tile's poison (R232). -/
def BeatAcc.multiply (a : BeatAcc) (env : BeatEnv) (slot : Nat) (v : ChunkVal) (psn : Bool) : BeatAcc :=
  let c := a.ctx env.bank
  let (c1, fl) := c.multiply v psn
  let (a1, ppsn) := a.raise env slot fl
  let a2 := a1.setCtx env.bank { c1 with pt := c1.pt || ppsn }
  if psn || c.columns.any (·.psn) then a2.eff slot .sink else a2

/-- Read the operand of an MMAS from the tile's scratchpad (R233). -/
def mmasOperand (me : Me) (c : MxCtx) (f : Fmt) (x y : Word) : ChunkVal × Bool :=
  let p := mmasPlan c f x y
  let data := p.pieces.flatMap fun o => me.spadRead o 32
  ({ fmt := f, codes := ofBytes data, mexp := 0,
     scale := (me.spadRead p.scaleAt p.nb).map fun b => scaleOfByte false b.toNat },
   p.pieces.any (fun o => me.spadPsn o 32) || me.spadPsn p.scaleAt p.nb)

def evalMx (env : BeatEnv) (a : BeatAcc) (slot : Nat) (op : FOp) (o : Operands) : SlotOut :=
  let c := a.ctx env.bank
  let v := o.lane.getD {}
  let l0 := lane 32 0 o.aw
  let l1 := lane 32 1 o.aw
  let gate (ok : Bool) (r : BeatAcc) : SlotOut := if ok then noOut r else noOut (a.bad slot 0x01 4 0)
  match op with
  | .mldb f => gate c.gateMldb
      (if f.code != c.bfmt then a.bad slot 0x01 4 f.code
       else match laneScales env v with
         | .error b => a.badBind env slot b
         | .ok sc => a.setCtx env.bank (c.load
             { codes := v.payload, mexp := v.mexp, psn := v.psn, scale := sc.map (BitVec.ofNat 9) }))
  | .mma f => gate c.gateMma
      (if f.code != c.afmt then a.bad slot 0x01 4 f.code
       else match laneScales env v with
         | .error b => a.badBind env slot b
         | .ok sc => a.multiply env slot { fmt := f, codes := v.payload.toNat, mexp := v.mexp.toNat, scale := sc } v.psn)
  | .mmas f => gate c.gateMma
      (if f.code != c.afmt then a.bad slot 0x01 4 f.code
       else match mmasCheck c f o.aw o.bw, env.me with
         | some (code, det, info), _ => a.bad slot code det info
         | none, some me =>
           let (x, psn) := mmasOperand me c f o.aw o.bw
           a.multiply env slot x (psn || (opnd o.a).psn || (opnd o.b).psn)
         | none, none => a.bad slot 0x01 4 0)
  | .mzro => noOut (a.setCtx env.bank c.zero)
  | .mdrn => gate c.gateDrain
      (if fld l0 31 13 != 0 then a.bad slot 0x01 4 l0
       else if fld l1 31 3 != 0 then a.bad slot 0x01 4 l1
       else if (List.range 13).any (fun q => bitN l0 q && !env.conn.getD q false) then a.bad slot 0x01 4 l0
       else a.setCtx env.bank (c.takeTile (if l0 = 0 then none else some
         { buf := c.acc, psn := c.pt, isInt := ((fmtOf c.afmt).map (·.isInt8)).getD false, mask := l0, level := l1,
           ctag := env.ctag, pos := ((List.range 13).filter (bitN l0)).map fun q => (q, 0) })))
  | .mdrc add => gate c.gateDrain
      (a.setCtx env.bank (c.takeTile (some
         { buf := c.acc, psn := c.pt, isInt := ((fmtOf c.afmt).map (·.isInt8)).getD false, copy := true, add := add,
           recA := lane 64 0 o.aw, ctr := lane 64 0 o.bw, row0 := toSigned 32 (lane 32 2 o.aw),
           col0 := toSigned 32 (lane 32 3 o.aw) })))
  | .mctx n => if mctxOk l0 then noOut (a.setCtx n ((a.ctx n).configure l0)) else noOut (a.bad slot 0x01 4 l0)
  | .mcnt => if (opnd o.a).psn then noOut (a.bad slot 0x31 3 env.trig) else noOut (a.setCtx env.bank (c.arm l0))
  | .mstat =>
    let s := env.el.mx.getD env.bank {}
    compOut a env o (n32x4 s.status s.ac s.ti (put 7 0 s.fkp + put 14 8 s.dwp))
  | _ => noOut a

/-! ### One slot -/

/-- The effect of one form on its operands (R112 to R135, R146 to R165, R181 to R183, R197 to R218, R226). -/
def evalOp (env : BeatEnv) (a : BeatAcc) (slot : Nat) (op : FOp) (lit : W32) (o : Operands) : SlotOut :=
  let x := opnd o.a
  let y := opnd o.b
  let bank := env.el.bankAt env.bank
  let r (w : Word) : SlotOut := compOut a env o w
  let pass (t : Token) : BVal := .tok t o.stale
  match op with
  | .nop => noOut a
  | .recv ch => same (a.eff slot (.pop ch)) (headValue env.el ch)
  | .peek ch => same a (headValue env.el ch)
  | .drop ch => noOut (a.eff slot (.pop ch))
  | .send q rt cmk => noOut (a.eff slot (.send q (sendToken x env rt cmk false none) o.stale))
  | .sende q rt cmk l => noOut (a.eff slot (.send q (sendToken x env rt cmk false (some l)) o.stale))
  | .sendp q rt cmk => noOut (a.eff slot (.send q (sendToken x env rt cmk true none) o.stale))
  | .rdr g => compOut a env (if bank.struck g then { o with c := some { psn := true } } else o) (rdrWord bank g)
  | .wrr g =>
    let a1 := match g with
      | .st => a.eff slot (.st (fld x.word.toNat 3 0))
      | _ => a.eff slot (.reg g x.word)
    noOut (if x.psn then a1.eff slot .sink else a1)
  | .fan => same a (pass x)
  | .sel w => r (selWord w o.aw o.bw o.cw)
  | .nul => noOut a
  | .state (some v) => noOut (a.eff slot (.st v))
  | .state none =>
    let a1 := a.eff slot (.st (fld x.word.toNat 3 0))
    noOut (if x.psn then a1.eff slot .sink else a1)
  | .tmsk m t => noOut (a.eff slot (.tm t m))
  | .int f t sat => r (intWord f t sat o.aw o.bw o.cw o.p)
  | .icmp t cc => r (icmpWord t cc o.aw o.bw o.p)
  | .isat s d => r (isatWord s d o.aw o.p)
  | .aadd t sh => r (aaddWord t sh o.aw o.bw o.p)
  | .abnd t => r (abndWord t o.aw o.bw o.p)
  | .steer => (a, if y.truth then pass x else .null, if y.truth then .null else pass x)
  | .gate => same a (if y.truth then pass x else .null)
  | .join => same a (pass { x with psn := x.psn || y.psn })
  | .merge => noOut (a.eff slot (.st (put 3 2 (fld bank.st.toNat 3 2) + (if x.truth then 1 else 2))))
  | .amerge => (a, pass x, .tok (computed env.ctag o.psn (n32x4 env.trig 0 0 0)) false)
  | .carry l => same (a.eff slot (.st (fld bank.st.toNat 2 0 + (if l ≤ y.eosl.toNat then 0 else 8)))) (pass x)
  | .eosq => r (n32x4 x.eosl.toNat 0 0 0)
  | .tagq => r (n32x4 x.ctag.toNat x.stag.toNat x.gen.toNat (b2n x.cmk))
  | .psnq => r (n32x4 (b2n x.psn) 0 0 0)
  | .scale f k => evalScale env a slot f k o
  | .flt f t => laneOut a env slot o (fltWord f t o.aw o.bw o.cw o.p a.rng)
  | .fcmp t cc => laneOut a env slot o (fcmpWord t cc o.aw o.bw o.p a.rng)
  | .fcls t => laneOut a env slot o (fclsWord t o.aw o.p a.rng)
  | .frnd t rm => laneOut a env slot o (frndWord t rm o.aw o.p a.rng)
  | .spec f t => laneOut a env slot o (specWord f t o.aw o.p a.rng)
  | .cvt d s rm => laneOut a env slot o (cvtWord d s rm o.aw a.rng)
  | .qnt f s rm => evalQnt env a slot f s rm o
  | .dqt f d rm => evalDqt env a slot f d rm o
  | .pack t => laneOut a env slot o (packWord t o.aw o.bw a.rng)
  | .unpk t hi => laneOut a env slot o (unpkWord t hi o.aw a.rng)
  | .shuf t => r (shufWord t o.aw o.bw)
  | .bcst t => r (bcstWord t o.aw o.bw)
  | .slid t fb up => r (slidWord t fb up o.aw o.bw o.cw)
  | .zip t hi => r (zipWord t hi o.aw o.bw)
  | .uzp t hi => r (uzpWord t hi o.aw o.bw)
  | .red f t => laneOut a env slot o (redWord f t o.aw a.rng)
  | .scan t f => laneOut a env slot o (scanWord t f o.aw a.rng)
  | .ldot t => laneOut a env slot o (ldotWord t o.aw o.bw o.cw a.rng)
  | .acc .. | .atom .. | .ord _ | .cmpl _ | .fence .. | .fencef .. | .tlk | .tfil _ | .tevc _ | .tinv | .strm _ | .strmq _
  | .pref | .xprb => evalMe env a slot op o
  | .mldb _ | .mma _ | .mmas _ | .mzro | .mdrn | .mdrc _ | .mctx _ | .mcnt | .mstat => evalMx env a slot op o
  | .ldi t l0 => r (ldiWord t l0 lit)
  | .sldi k => noOut (a.writeSrf slot k (some (fld lit.toNat 8 0)) (some true) o.psn)
  | .mark => noOut (a.eff slot (.mark lit.toNat))
  | .bkpt n => noOut (a.eff slot (.bkpt n))
  | .trap n => noOut (a.bad slot 0x30 0x10 n)
  | .halt => noOut (a.eff slot .halt)

/-- Put a value on a consumer edge. -/
def feed (vals : List ((Nat × PortName) × BVal)) (con : Option (Nat × PortName)) (v : BVal) :
    List ((Nat × PortName) × BVal) :=
  match con with
  | some c => vals ++ [(c, v)]
  | none => vals

/-- Evaluate one decoded slot; a null on any port nulls it (R31). -/
def evalSlot (env : BeatEnv) (a : BeatAcc) (slot : Nat) (s : Slot) (lit : W32) : BeatAcc :=
  let (a1, v0, v1) := match operandsOf a.vals slot with
    | none => (a, BVal.null, BVal.null)
    | some o => evalOp env a slot s.op lit o
  { a1 with vals := feed (feed a1.vals s.con0 v0) s.con1 v1 }

/-- Whether a form bears a literal (R83). -/
def FOp.hasLit : FOp → Bool
  | .ldi .. | .sldi _ | .mark => true
  | _ => false

/-- The slots of a bundle from its store words, with their literals; a word that does not decode gives its store address (R100). -/
def bundleSlots (k : Kind) : Nat → List W32 → List (Nat × Except Nat (Slot × W32))
  | _, [] => []
  | i, w :: r =>
    match decodeSlot k w with
    | .error _ => [(i, .error w.toNat)]
    | .ok s =>
      if s.op.hasLit then
        match r with
        | l :: r' => (i, .ok (s, l)) :: bundleSlots k (i + 2) r'
        | [] => [(i, .error w.toNat)]
      else (i, .ok (s, 0)) :: bundleSlots k (i + 1) r

/-- The slots of the bundle at a store address (R84, R86). -/
def Element.bundle (e : Element) (addr : Nat) : List (Nat × Except Nat (Slot × W32)) :=
  let n := fld ((e.store.getD addr 0).toNat) 31 26 + 1
  bundleSlots e.elt.kind 0 ((e.store.drop (addr + 1)).take n)

/-- Evaluate the slots of a bundle. -/
def evalSlots (env : BeatEnv) : List (Nat × Except Nat (Slot × W32)) → BeatAcc → BeatAcc
  | [], a => a
  | (i, .ok (s, l)) :: r, a => evalSlots env r (evalSlot env a i s l)
  | (i, .error w) :: _, a => a.bad i 0x01 3 w

/-! ### Captures at ports (R178) -/

/-- SRF entry `k` as a capture reads it: as at the start of the beat, or as the beat's writes leave it. SREL does not show. -/
def captureEntry (env : BeatEnv) (effs : List (Nat × Eff)) (k : Nat) : Srf :=
  let k0 := env.el.srfAt k
  match effs.filterMap (fun e => match e.2 with | .srf j x v => if j = k then some (x, v) else none | _ => none) with
  | [] => k0
  | ws => match ws.getLast? with
    | some (x, v) => k0.write x v
    | none => k0

/-- A port as the sends of a beat find it: burst position and binding. -/
structure PortScan where
  bpos : Nat
  stag : BitVec 6
  gen : BitVec 4

/-- One send to a block-format port: what enters its queue, or the fault. -/
def captureSend (env : BeatEnv) (effs : List (Nat × Eff)) (f : BlockFmt) (l q : Nat) (p : PortScan) (t : Token) (stale : Bool) :
    Except (Nat × Nat) (PortItem × PortScan) :=
  let k := captureEntry env effs t.stag.toNat
  let info := staleInfo t.stag t.gen k stale q
  if t.eosl != 0 then (if p.bpos = 0 then .ok ({ tok := t }, p) else .error (3, info))
  else if p.bpos = 0 then
    if k.useOk t.gen stale then .ok ({ tok := t, scale := some k.e }, { bpos := 1 % f.burst l, stag := t.stag, gen := t.gen })
    else .error (4, info)
  else if t.stag = p.stag ∧ t.gen = p.gen then .ok ({ tok := t }, { p with bpos := (p.bpos + 1) % f.burst l })
  else .error (2, info)

/-- All sends of a beat in slot order, port by port (R115): what enters each queue, the ports' burst state, and the faults. -/
def captureAll (env : BeatEnv) (effs : List (Nat × Eff)) :
    List (Nat × Eff) → List (Nat × PortScan) → List (Nat × PortItem) × List (Nat × PortScan) × List BFault
  | [], ps => ([], ps, [])
  | (slot, .send q t stale) :: r, ps =>
    let here := (look ps q).getD
      { bpos := (env.el.port q).bpos, stag := (env.el.port q).bstag, gen := (env.el.port q).bgen }
    match env.edge.getD q none with
    | none =>
      let (its, ps', fs) := captureAll env effs r ps
      ((q, { tok := t }) :: its, ps', fs)
    | some (f, l) =>
      match captureSend env effs f l q here t stale with
      | .ok (it, p') =>
        let (its, ps', fs) := captureAll env effs r (insertKV ps q p')
        ((q, it) :: its, ps', fs)
      | .error (det, info) =>
        let (its, ps', fs) := captureAll env effs r ps
        (its, ps', { slot := slot, code := 0x20, det := det, info := info, src := 1 } :: fs)
  | _ :: r, ps => captureAll env effs r ps

/-- The STRM places a beat's STRMs find (R213): the fault of the first that finds none, its slot and how many fail. -/
def strmFault (el : Element) (effs : List (Nat × Eff)) : Option BFault :=
  (List.range 8).findSome? fun s =>
    let mine := effs.filterMap fun e => match e.2 with | .strm i _ => if i = s then some e.1 else none | _ => none
    let free := (el.me.stream s).free
    if free < mine.length then
      some { slot := mine.getD free 0, code := 0x72, det := 2, info := mine.length - free }
    else none

/-- The outcome of a beat: abandoned with the fault of the lowest slot (R144), or what commits. -/
inductive BeatOut where
  | abandon (f : BFault)
  | commit (effs : List (Nat × Eff)) (sends : List (Nat × PortItem)) (ports : List (Nat × PortScan)) (rng : W32) (flags : Nat)
      (mx : List MxCtx)

/-- The fault of the lowest slot; of one slot, the first found (DESIGN CHOICE, log entry 20). -/
def lowestFault : List BFault → Option BFault
  | [] => none
  | f :: r => match lowestFault r with
    | some g => if g.slot < f.slot then some g else some f
    | none => some f

/-- The SRF entries that a beat's effects write. -/
def writtenBy (effs : List (Nat × Eff)) : List Nat := effs.filterMap fun e => match e.2 with | .srf k _ _ => some k | _ => none

/-- Evaluate a bundle until the entries it writes are those that its GENs were taken for (R157, R169): a GEN that a slot tests may gate
the write of a higher slot. Where no such set exists the last evaluation stands. -/
def evalBundle (env : BeatEnv) (slots : List (Nat × Except Nat (Slot × W32))) (start : BeatAcc) : Nat → BeatEnv × BeatAcc
  | 0 => (env, evalSlots env slots start)
  | fuel + 1 =>
    let a := evalSlots env slots start
    if writtenBy a.effs = env.written then (env, a) else evalBundle { env with written := writtenBy a.effs } slots start fuel

/-- One firing of a bundle (DEDUCED, log entry 93). -/
def fireBeat (env : BeatEnv) (addr : Nat) : BeatOut :=
  let start : BeatAcc := { rng := env.el.rng, mx := env.el.mx }
  let (env2, a) := evalBundle env (env.el.bundle addr) start 64
  let (sends, ports, cf) := captureAll env2 a.effs a.effs []
  match lowestFault (a.faults ++ cf ++ (strmFault env.el a.effs).toList) with
  | some f => .abandon f
  | none => .commit a.effs sends ports a.rng a.flags a.mx

end Sys2Proof.Machine
end

