-- ==== Sys2Proof/Machine/Select.lean ====
section
/-! DEFINITION. Which units of a region act (12 R342, R344, R355, R358), its edges (01 R18), and an element's selection: transition
entries (03 R87), the conditions of R26, the stall record (R27), the choice (R28) and pass counts (R29). -/

namespace Sys2Proof.Machine

/-! ### Which units act -/

/-- A unit has received the freeze request (R344). -/
def Region.stopped (r : Region) (u : UnitId) : Bool :=
  match r.freeze with
  | some z => z.settled || z.got.contains u
  | none => false

/-- A tile of the region holds its configuration: emitted or flipped in, and not flipped out (R355, R358). -/
def Region.holds (r : Region) (x y : Nat) : Bool :=
  r.entered.contains (r.phys x y) && !((r.switchOut.map fun w => w.flipped.contains (r.phys x y)).getD false)

/-- The units of a tile act: resident with RUN = 1 and not stopped, or draining (R342, R436). -/
def Region.live (r : Region) (x y : Nat) : Bool :=
  ((r.state == .resident && r.run && !r.stp) || r.state == .draining) && r.holds x y

def Region.acts (r : Region) (x y : Nat) (u : UnitId) : Bool := r.live x y && !r.stopped u

/-- The units of the region move tokens: running, draining or settling (R342, R344). -/
def Region.moving (r : Region) : Bool := (r.state == .resident && r.run && !r.stp) || r.state == .draining

/-! ### Edges -/

def Region.destOf (r : Region) (src : SourceId) : Option DestId := (r.edges.find? (·.src == src)).map (·.dst)
def Region.sourceOf (r : Region) (dst : DestId) : Option SourceId := (r.edges.find? (·.dst == dst)).map (·.src)

def Region.driver (r : Region) (l : LaneId) : Option LaneDrv := r.drivers.find? (·.lane == l)

/-- The block format and block length of a port's edge (R70): those of its channel, or of the lane it drives (DESIGN CHOICE, log entry 128). -/
def Region.portEdge (r : Region) (x y : Nat) (e : Elt) (q : Nat) : Option (BlockFmt × Nat) :=
  match r.destOf (.port x y e q) with
  | some (.chan cx cy ce ch) =>
    (r.elem cx cy ce).bind fun d => (cfgBlock (d.cfg ch)).map fun f => (f, cfgBlen (d.cfg ch))
  | some (.lane l) => (r.driver l).bind fun d =>
      match fmtOf d.fmt with
      | some (.block f) => some (f, 8 * 2 ^ d.blen)
      | _ => none
  | _ => none

/-! ### Transition entries (R87) -/

/-- A transition entry's fields. -/
structure TranF where
  w0 : Nat
  w1 : Nat
  req : Nat

def Element.tran (e : Element) (j : Nat) : TranF :=
  let (a, b, c) := e.trans.getD j (0, 0, 0)
  { w0 := a.toNat, w1 := b.toNat, req := c.toNat }

def TranF.en (t : TranF) : Bool := bitN t.w0 31
def TranF.pri (t : TranF) : Nat := fld t.w0 30 28
def TranF.trig (t : TranF) : Nat := fld t.w0 27 23
def TranF.n (t : TranF) : Nat := fld t.w0 22 17 + 1
def TranF.fixed (t : TranF) : Bool := bitN t.w0 16
def TranF.bnk (t : TranF) : Nat := fld t.w0 15 14
def TranF.badr (t : TranF) : Nat := fld t.w0 9 0
def TranF.sval (t : TranF) : Nat := fld t.w1 31 28
def TranF.smsk (t : TranF) : Nat := fld t.w1 27 24
def TranF.preg (t : TranF) : Nat := fld t.w1 23 22
def TranF.ptst (t : TranF) : Nat := fld t.w1 21 20
def TranF.ospc (t : TranF) : Nat := fld t.w1 15 0

/-- The predicate test of R25. -/
def predTest (code p : Nat) : Bool :=
  match code with
  | 0 => true
  | 1 => p != 0
  | 2 => p == 0xFFFF
  | _ => p == 0

/-! ### Ports with space (R21, R190, R225) -/

/-- A transition's bundle holds an MMAS (R225). -/
def Element.holdsMmas (e : Element) (addr : Nat) : Bool :=
  (e.bundle addr).any fun s => match s.2 with | .ok ({ op := .mmas _, .. }, _) => true | _ => false

/-- A run whose first beat has been selected and has not yet been evaluated: a beat in progress (R36). -/
def Run.inProgress (u : Run) : Bool := u.beat == 0 && !u.again

/-- Entries of a port's queue, or of an ME port's chain, that a beat in progress was selected for (R26, R190). -/
def Element.kept (e : Element) (q : Nat) : Nat :=
  match e.run with
  | some u => if u.inProgress && bitN (e.tran u.tran).ospc q then 2 else 0
  | none => 0

/-- Free entries of a port's queue, less the two that a beat in progress was selected for (R190). -/
def Element.portRoom (e : Element) (q : Nat) : Nat :=
  4 - ((e.port q).queue.length + if e.elt.kind == .me && decide (8 ≤ q) then 0 else e.kept q)

/-- Free tracking entries of a chain, less the two that a beat in progress was selected for (R190, R191). -/
def Element.chainRoom (e : Element) (c : Nat) : Nat := 32 - ((e.me.chain c).inUse + e.kept (8 + c))

/-- Port `q` has space for a transition that runs in bank `bank`. -/
def Element.portSpace (e : Element) (bank : Nat) (t : TranF) (q : Nat) : Bool :=
  let c := e.mx.getD bank {}
  match e.elt.kind with
  | .mx =>
    if q = 13 then c.gateMma && !(e.holdMmas && e.holdsMmas t.badr)
    else if q = 14 then c.gateMldb
    else if q = 15 then c.gateDrain
    else decide ((e.port q).queue.length ≤ 2)
  | .me => if 8 ≤ q then e.chainSpace (q - 8) else decide ((e.port q).queue.length ≤ 2)
  | .pe => decide ((e.port q).queue.length ≤ 2)

/-! ### Conditions (R26) -/

/-- The first required channel without a head that is visible in `fc`. -/
def Element.reqMissing (e : Element) (t : TranF) (fc : Nat) : Option Nat :=
  (List.range 32).find? fun c => bitN t.req c && e.words c fc == 0

/-- The first port of the output-space mask without space. -/
def Element.portFull (e : Element) (bank : Nat) (t : TranF) : Option Nat :=
  (List.range 16).find? fun q => bitN t.ospc q && !e.portSpace bank t q

/-- The bank a transition would use, and the CTAG of its trigger head: bank 0 under TAG while the trigger is empty. -/
def Element.tranBank (e : Element) (t : TranF) (fc : Nat) : Nat × BitVec 2 :=
  let tag := if e.words t.trig fc = 0 then 0 else (e.headCtag t.trig).getD 0
  (if t.fixed then t.bnk else tag.toNat, tag)

/-- The first condition of R26 that fails, as its stall code with its channel or port, the lowest-numbered of several;
none when the transition is runnable (DESIGN CHOICE, log entry 126). -/
def Element.stallOf (e : Element) (j fc : Nat) : Option (Nat × Nat) :=
  let t := e.tran j
  let (b, tag) := e.tranBank t fc
  let bank := e.bankAt b
  if !t.en then some (1, 0)
  else if !bitN bank.tm.toNat j then some (2, 0)
  else if ((List.range 4).any fun i => bitN t.smsk i && bitN bank.st.toNat i != bitN t.sval i) then some (3, 0)
  else if e.words t.trig fc < min t.n 8 then some (4, t.trig)
  else match e.reqMissing t fc with
    | some c => some (5, c)
    | none =>
      match (if t.fixed then none else (List.range 32).find? fun c => bitN t.req c && e.headCtag c != some tag) with
      | some c => some (6, c)
      | none =>
        match e.portFull b t with
        | some q => some (7, q)
        | none => if predTest t.ptst (bank.p.getD t.preg 0).toNat then none else some (8, 0)

/-! ### The choice (R28, R29) -/

/-- The lexicographic key of rules 2 to 4: effective priority, arrival fc of the trigger head, index. -/
def Element.choiceKey (e : Element) (j : Nat) : Nat × Nat × Nat :=
  ((e.tran j).pri - e.pass.getD j 0 / 64, e.headArrived (e.tran j).trig, j)

def keyLt (a b : Nat × Nat × Nat) : Bool :=
  decide (a.1 < b.1) || (a.1 == b.1 && (decide (a.2.1 < b.2.1) || (a.2.1 == b.2.1 && decide (a.2.2 < b.2.2))))

/-- The transition that selection picks of the runnable ones. -/
def Element.choose (e : Element) (runnable : List Nat) : Option Nat :=
  match runnable.find? fun j => decide (512 ≤ e.pass.getD j 0) with
  | some j => some j
  | none =>
    match runnable with
    | [] => none
    | j :: r => some (r.foldl (fun b k => if keyLt (e.choiceKey k) (e.choiceKey b) then k else b) j)

/-- The next trigger head that `fc` sees carries another CTAG than the first beat of a TAG run: the run is over (R33). A selection sees it
in the first fc after the last commit in which the head is visible (DEDUCED, log entry 95). -/
def Element.runOver (e : Element) (run : Run) (fc : Nat) : Bool :=
  let t := e.tran run.tran
  !t.fixed && decide (0 < run.beat) && decide (run.issued ≤ fc) && decide (0 < e.words t.trig fc) && e.headCtag t.trig != some run.ctag

/-- A transition masked in the bank it would use (R29); a TAG transition with an empty trigger would use none. -/
def Element.maskedNow (e : Element) (j fc : Nat) : Bool := (e.tran j).fixed || decide (0 < e.words (e.tran j).trig fc)

/-- One selection in `fc` (R26 to R29, R33) (DESIGN CHOICE, log entry 19). -/
def Element.select (e : Element) (fc : Nat) : Element :=
  let codes := (List.range 32).map fun j => e.stallOf j fc
  let runnable := (List.range 32).filter fun j => (codes.getD j (some (1, 0))).isNone
  let pick := e.choose runnable
  let pass := e.pass.mapIdx fun j n =>
    match codes.getD j none with
    | some (1, _) => 0
    | some (2, _) => if e.maskedNow j fc then 0 else n
    | some _ => n
    | none => if pick = some j then 0 else min 512 (n + 1)
  let e1 : Element := { e with stall := codes.map fun c => c.getD (0, 0), pass := pass, selFc := some fc, run := none }
  match pick with
  | none => e1
  | some j =>
    let (b, tag) := e.tranBank (e.tran j) fc
    { e1 with run := some { tran := j, bank := b, ctag := tag, issued := fc } }

/-- SELECTION (R28): an element that acts, is in no run that goes on, is not halted and has not selected in this fc makes a selection (DESIGN CHOICE, log entry 2). -/
def execSelection (e : EltAt) (s : State) : Host.Outcome State Fault Refusal :=
  .next (s.modRegion e.slot fun r =>
    if r.acts e.x e.y (.elt e.x e.y e.elt) then
      r.modElem e.x e.y e.elt fun el =>
        if (el.run.map fun u => !el.runOver u s.fc).getD false || el.halted || el.selFc == some s.fc then el else el.select s.fc
    else r)

end Sys2Proof.Machine
end

