-- ==== Sys2Proof/Machine/Chains.lean ====
section
/-! DEFINITION. Order chains at work (07 R191 to R207, R210, R218; 10 R289, R292, R296): sending, performing, the atomic units,
remote acknowledgements and replies. -/

namespace Sys2Proof.Machine

/-! ### Atomic operations (R201, R202) -/

def AtomTy.signed : AtomTy → Bool
  | .i32 | .i64 => true
  | _ => false

def AtomTy.fpTy : AtomTy → FpTy
  | .f16 => fpF16
  | .b16 => fpB16
  | _ => fpF32

/-- The new value of a location: `old`, and lane 0 of B and C, all of the AT width. -/
def atomNew (o : AtomOp) (t : AtomTy) (old b c : Nat) : Nat :=
  let w := 8 * t.bytes
  let bits (f : Bool → Bool → Bool) : Nat := packLanes 1 ((List.range w).map fun i => b2n (f (bitN old i) (bitN b i)))
  let less : Bool := if t.signed then decide (toSigned w old < toSigned w b) else decide (old % 2 ^ w < b % 2 ^ w)
  match o with
  | .add => (old + b) % 2 ^ w
  | .fadd => (t.fpTy.addV (t.fpTy.decode old) (t.fpTy.decode b)).1
  | .min => if less then old else b
  | .max => if less then b else old
  | .fmin => (t.fpTy.minMax false old b).1
  | .fmax => (t.fpTy.minMax true old b).1
  | .and => bits (· && ·)
  | .or => bits (· || ·)
  | .xor => bits (fun x y => x != y)
  | .swap => b
  | .cas => if old % 2 ^ w = b % 2 ^ w then c else old

/-- Apply an operation at the sole writer of a location (R202): the old value and its poison. -/
def State.atomicAt (s : State) (da : Nat) (o : AtomOp) (t : AtomTy) (b c : Nat) (psn : Bool) : State × Nat × Bool :=
  let old := ofBytes (s.memGet da t.bytes)
  (s.memPut da (toBytes t.bytes (atomNew o t old b c)) psn, old, s.memPsn da t.bytes)

/-- Atomics that a host window takes (R291): fetch-and-add, swap and compare-and-swap of 4 or 8 bytes. -/
def hostAtomicOk (o : AtomOp) (ret : Bool) (t : AtomTy) : Bool :=
  ret && t.isInt && (o == .add || o == .swap || o == .cas)

/-! ### Requests -/

/-- The access kind of a global request (R281). -/
def ReqOp.akind : ReqOp → AKind
  | .stg .. | .sct .. | .fencef | .tevc .. => .write
  | .atom .. => .atomic
  | _ => .read

/-- The address a request accesses next: of a gather or scatter, its first element not yet performed. -/
def Req.nextAddr (q : Req) : Nat :=
  match q.op with
  | .gth _ es => ((es.find? fun e => (look q.done e.1).isNone).map (·.2)).getD q.addr
  | .sct _ es => ((es.find? fun e => (look q.done e.1).isNone).map (·.2.1)).getD q.addr
  | _ => q.addr

/-- A gather or scatter whose elements are all skipped: it accesses and checks nothing (R200). -/
def ReqOp.noElts : ReqOp → Bool
  | .gth _ es => es.isEmpty
  | .sct _ es => es.isEmpty
  | _ => false

/-- A request reaches translation: a global one that accesses something. -/
def ReqOp.translates (o : ReqOp) : Bool := o.isGlobal && !o.noElts

/-- A request that still needs a translation (R195, R281). -/
def Req.needsWalk (q : Req) : Bool := q.op.translates && !q.psn && !q.st.isDone && q.paddr.isNone

def Region.modChain (r : Region) (x y c : Nat) (f : Chain → Chain) : Region := r.modMe x y fun m => m.modChain c f

/-- Change the request of a chain with a sequence number. -/
def Region.modReq (r : Region) (x y c seq : Nat) (f : Req → Req) : Region :=
  r.modChain x y c fun ch => { ch with reqs := ch.reqs.map fun q => if q.seq = seq then f q else q }

/-- Requests that need no tracking any more are dropped: without a reply, performed and, when remote, acknowledged. -/
def Chain.sweep (c : Chain) : Chain :=
  { c with reqs := c.reqs.filter fun q => q.inUse || (q.remote && q.st != .acked) }

/-- The cached translation of the tile's die for an address of the region, with its master ID (R282). -/
def State.cached (s : State) (r : Region) (x y va : Nat) (k : AKind) : Option (Nat × Nat) :=
  (s.tcache.find? fun (t : Trans) => t.die == r.dieAt x y && t.serves r.asid va k).map fun t => (t.apply va, t.mid)

/-- The translation that a request holds, or that its die's cache gives it. -/
def State.reqPage (s : State) (r : Region) (x y : Nat) (q : Req) : Option (Nat × Nat) :=
  (q.paddr.map fun a => (a, q.mid)).orElse fun _ => s.cached r x y q.nextAddr q.op.akind

/-- Targets, as requests of one chain see them (R192): a scratchpad bank, a home of this module, the host, another module. -/
def State.targetKey (s : State) (q : Req) : Nat × Nat :=
  match q.op with
  | .ld _ | .st .. => (100, fld q.addr 8 5)
  | .gth .. | .sct .. => (101, q.seq)
  | _ =>
    match q.paddr with
    | none => (102, q.seq)
    | some da =>
      match s.localOf da with
      | some a => (homeOf a).getD (103, 0)
      | none => (1000 + da / 2 ^ 47 % 8192, 0)

/-- The reply token of a request (R193). -/
def Req.replyTok (q : Req) (w : Word) (psn : Bool) : Token := { word := w, psn := psn, ctag := q.ctag }

/-- A request is performed, with its reply. -/
def Req.perform (q : Req) (w : Word) (psn : Bool) : Req :=
  { q with st := .performed, reply := if q.op.replies then some (q.replyTok w psn) else none }

/-- Whether the next request of a chain may be sent (R192, R204, R206, R207, R355). -/
def State.maySend (s : State) (m : Me) (c : Nat) (q : Req) : Bool :=
  let earlier := (m.chain c).reqs.takeWhile fun p => p.seq != q.seq
  let open_ := earlier.filter fun p => !p.st.isDone
  m.fencesMet q.fences &&
    (open_.all fun p => s.targetKey p == s.targetKey q) &&
    (match q.op with
     | .fencef => q.after.all (m.reqDoneAt q.scope)
     | .ord => q.after.all m.reqPerformed
     | _ => true)

/-- The scratchpad banks a request touches have been swapped in (R355). -/
def Me.banksIn (m : Me) (q : Req) : Bool :=
  match q.op with
  | .ld _ | .st .. => decide (fld q.addr 8 5 < m.swapped)
  | .tfil .. | .tevc .. => decide (16 ≤ m.swapped)
  | _ => true

/-- REQUEST_SEND (R192, R195, R204, R210): the first request of a chain that has not been sent goes to its target once its order allows
and its address is translated; ORD and CMPL, and a request with a poisoned address (R196), are settled in the chain. A TEVC takes its slot's lines as it
is sent: there it stands at the head of its chain. -/
def execRequestSend (t : TileAt) (chain : Nat) (s : State) : Host.Outcome State Fault Refusal :=
  .next (s.modRegion t.slot fun r =>
    match r.me t.x t.y with
    | none => r
    | some m =>
      match (m.chain chain).reqs.find? fun q => q.st == .queued with
      | none => r
      | some q =>
        let pa := s.reqPage r t.x t.y q
        let q1 := { q with paddr := if q.op.translates then pa.map (·.1) else none, mid := (pa.map (·.2)).getD q.mid }
        if !r.acts t.x t.y (.chain t.x t.y chain) || !s.maySend m chain q1 || !m.banksIn q then r
        else
          let settle (f : Req → Req) : Region := (r.modReq t.x t.y chain q.seq f).modChain t.x t.y chain Chain.sweep
          match q.op with
          | .ord => settle fun p => p.perform 0 false
          | .cmpl => settle fun p => p.perform p.word p.dpsn
          | .tevc _ _ false => settle fun p => p.perform p.word p.dpsn
          | _ =>
            if q.psn then settle fun p => p.perform 0 true
            else if q.op.translates && pa.isNone then r
            else r.modReq t.x t.y chain q.seq fun p =>
              { p with lines := match p.op with | .tevc slot _ _ => m.spadLines (slot * 512) 8 | _ => []
                       paddr := q1.paddr, mid := q1.mid, st := .sent, remote := p.remote || (q1.paddr.map fun da => (s.localOf da).isNone).getD false })

/-! ### Performing -/

/-- The fault of a request at its target, with its chain and number (R195). -/
def State.chainFault (s : State) (t : TileAt) (chain : Nat) (q : Req) (f : AccFault) : State :=
  (s.modRegion t.slot fun r => r.modReq t.x t.y chain q.seq fun p => { p with st := .queued, paddr := none }).raiseAt t.slot
    (.chain t.x t.y chain)
    { code := f.code, det := f.detOr 1, src := 2, x := t.x, y := t.y, elt := 2, f4 := f4Chain chain q.seq,
      info := f.info % 2 ^ 60 }

/-- The streams whose next marks decide whether the region is replayable: HOLD stores and load streams, ended ones too (R416) (DEDUCED, log entry 29). -/
def Region.markStreams (r : Region) : List (Nat × Nat × Nat) :=
  r.tiles.flatMap fun t => match t.elem .me with
    | none => []
    | some e => ((List.range 8).filter fun i => (e.me.stream i).holds || (e.me.stream i).loads.isSome).map fun i => (t.x, t.y, i)

/-- A write that a rollback cannot undo has been performed (R416). -/
def Region.dirtied (r : Region) : Region := { r with dirty := r.markStreams }

def ReqOp.dirties : ReqOp → Bool
  | .stg .. | .sct .. | .fencef | .tevc .. | .atom .. => true
  | _ => false

/-- Bytes that a request reads, and bytes that it writes (16 R428). -/
def ReqOp.bytes : ReqOp → Nat × Nat
  | .ld n | .ldg n => (n, 0)
  | .st n m | .stg n m => (0, ((List.range n).filter (bitN m ·)).length)
  | .gth n es => (n * es.length, 0)
  | .sct n es => (0, n * es.length)
  | .fencef => (0, 8)
  | .tfil .. => (512, 0)
  | .tevc _ _ dirty => (0, if dirty then 512 else 0)
  | _ => (0, 0)

/-- Count a performed request in the memory events of its ME (16 R428). -/
def State.countReq (s : State) (t : TileAt) (o : ReqOp) : State :=
  match o with
  | .atom .. => s.countAt t.slot t.x t.y 2 2 2 1
  | _ => (s.countAt t.slot t.x t.y 2 2 0 o.bytes.1).countAt t.slot t.x t.y 2 2 1 o.bytes.2

/-- Finish a performed request in its chain. -/
def State.donePerform (s : State) (t : TileAt) (chain : Nat) (q : Req) (remote : Bool) (w : Word) (psn : Bool) : State :=
  (s.countReq t q.op).modRegion t.slot fun r =>
    let r1 := (r.modReq t.x t.y chain q.seq fun p => { (p.perform w psn) with remote := p.remote || remote }).modChain t.x t.y chain Chain.sweep
    if q.op.dirties then r1.dirtied else r1

/-- One element of a gather or scatter, once translated (R200) (DESIGN CHOICE, log entry 86). -/
def State.performElement (s : State) (t : TileAt) (chain : Nat) (r : Region) (q : Req) (da mid : Nat) : State :=
  match s.check (r.whoAt t.x t.y mid) da q.op.akind with
  | (s1, some f) => s1.chainFault t chain q (f.atVa q.nextAddr)
  | (s1, none) =>
    let remote := (s1.localOf da).isNone
    let step (i v n : Nat) (psn last : Bool) (total : List (Nat × Nat)) (s2 : State) : State :=
      let done := q.done ++ [(i, v)]
      let s3 := s2.modRegion t.slot fun g => g.modReq t.x t.y chain q.seq fun p =>
        { p with done := done, paddr := none, dpsn := p.dpsn || psn, remote := p.remote || remote }
      if last then
        s3.donePerform t chain q (q.remote || remote)
          (wordOfLanes (8 * n) ((List.range 4).map fun k => (look (total ++ [(i, v)]) k).getD 0)) (q.dpsn || psn)
      else s3
    match q.op with
    | .gth n es =>
      match es.find? fun e => (look q.done e.1).isNone with
      | some (i, _) => step i (ofBytes (s1.memGet da n)) n (s1.memPsn da n) (q.done.length + 1 == es.length) q.done s1
      | none => s1
    | .sct n es =>
      match es.find? fun e => (look q.done e.1).isNone with
      | some (i, _, v) =>
        step i v n false (q.done.length + 1 == es.length) [] ((s1.memPut da (toBytes n v) q.dpsn).modRegion t.slot fun g => g.dirtied)
      | none => s1
    | _ => s1

/-- XPRB's reply (R218): a walk that leaves nothing behind, then the check of a read (DEDUCED, log entry 28). -/
def State.probe (s : State) (r : Region) (x y va : Nat) : Word :=
  if fld va 63 52 != 0 then n32x4 0 0 0 4
  else match (s.walk (some (r.stripAt x y)) (some r.part) r.asid va .read true).2 with
    | .error f => n32x4 0 0 0 (if f.code = 0x10 then 1 else if f.code = 0x11 then 2 else 3)
    | .ok w =>
      let rights := put 0 0 (b2n (bitN w.leaf 2)) + put 1 1 (b2n (bitN w.leaf 3)) + put 2 2 (b2n (bitN w.leaf 4))
        + put 3 3 (b2n (bitN w.leaf 7))
      let ok := (s.check (r.whoAt x y w.mid) w.da .read).2.isNone
      n32x4 (fld w.da 31 0) (fld w.da 59 32) rights (if ok then 0 else 3)

/-- The first request of a chain that has been sent and is not performed. One that a fault put back in the chain holds back none that
were sent behind it (R195, R220). -/
def Me.atTarget (m : Me) (c : Nat) : Option Req := (m.chain c).reqs.find? fun q => q.st == .sent

/-- REQUEST_PERFORM (R192, R197 to R200, R207, R210, R289): the target applies the chain's first request that is not performed (DESIGN CHOICE, log entry 133). -/
def execRequestPerform (t : TileAt) (chain : Nat) (s : State) : Host.Outcome State Fault Refusal :=
  .next (match s.region t.slot with
    | none => s
    | some r =>
      match r.me t.x t.y with
      | none => s
      | some m =>
        match m.atTarget chain with
        | none => s
        | some q =>
          if !r.moving then s
          else
            let fin (s1 : State) (remote : Bool) (w : Word) (psn : Bool) : State := s1.donePerform t chain q remote w psn
            let modMe (f : Me → Me) : State := s.modRegion t.slot fun g => g.modMe t.x t.y f
            let global (k : State → Nat → Bool → State) : State :=
              match q.paddr with
              | none => s
              | some da =>
                match s.check (r.whoAt t.x t.y q.mid) da q.op.akind q.op.bytes.2 with
                | (s1, some f) => s1.chainFault t chain q (f.atVa q.addr)
                | (s1, none) => k s1 da (s1.localOf da).isNone
            match q.op with
            | .ld n => fin s false (.ofNat 128 (ofBytes (m.spadRead q.addr n))) (m.spadPsn q.addr n)
            | .st n mask =>
              fin (modMe fun m => { m with spad := memWriteMasked m.spad q.addr mask (toBytes n q.data.toNat)
                                           spoison := if mask % 2 ^ n = 0 then m.spoison
                                                      else poisonAfterWrite m.spoison q.addr n q.dpsn }) false 0 false
            | .ldg n => global fun s1 da rm => fin s1 rm (.ofNat 128 (ofBytes (s1.memGet da n))) (s1.memPsn da n)
            | .stg n mask => global fun s1 da rm =>
                fin (s1.memPutMasked da mask (toBytes n q.data.toNat) q.dpsn) rm 0 false
            | .gth _ es | .sct _ es =>
              if es.isEmpty then fin s false 0 false
              else match s.reqPage r t.x t.y q with
                | none => s
                | some (da, mid) => s.performElement t chain r q da mid
            | .fencef => global fun s1 da rm => fin (s1.memPut da (toBytes 8 (lane 64 0 q.data)) q.dpsn) rm 0 false
            | .tfil entry slot => global fun s1 da rm =>
                let s2 := s1.modRegion t.slot fun g => g.modMe t.x t.y fun m =>
                  let m1 := m.spadPutLines (slot * 512) (s1.memLines da 8)
                  m1.setTag entry { m1.tag entry with fp := false }
                fin s2 rm q.word false
            | .tevc .. => global fun s1 da rm => fin (s1.memPutLines da q.lines) rm q.word q.dpsn
            | .xprb => fin s false (s.probe r t.x t.y q.addr) false
            | .ord | .cmpl | .strmDone | .atom .. => s)

/-- ATOMIC_APPLY (R202, R203, R291): the sole writer of the location applies the chain's atomic or reduction. -/
def execAtomicApply (t : TileAt) (chain : Nat) (s : State) : Host.Outcome State Fault Refusal :=
  .next (match s.region t.slot with
    | none => s
    | some r =>
      match (r.me t.x t.y).bind fun m => m.atTarget chain with
      | some q =>
        match q.op, q.paddr with
        | .atom o ret ty b c, some da =>
          if !r.moving then s
          else match s.check (r.whoAt t.x t.y q.mid) da .atomic ty.bytes (hostAtomicOk o ret ty) with
            | (s1, some f) => s1.chainFault t chain q (f.atVa q.addr)
            | (s1, none) =>
              let (s2, old, psn) := s1.atomicAt da o ty b c q.dpsn
              s2.donePerform t chain q (s1.localOf da).isNone (lane0 (8 * ty.bytes) old) psn
        | _, _ => s
      | none => s)

/-- REMOTE_ACK (R205, R207, R296): the acknowledgement of a request that another module applied reaches its chain. -/
def execRemoteAck (t : TileAt) (chain seq : Nat) (s : State) : Host.Outcome State Fault Refusal :=
  .next (s.modRegion t.slot fun r =>
    (r.modReq t.x t.y chain seq fun q => if q.remote && q.st == .performed then { q with st := .acked } else q).modChain t.x t.y chain
      Chain.sweep)

/-! ### Replies -/

/-- A reply may enter the port: it is there, and a CMPL's or a stream's token follows every earlier request of its chain,
performed and acknowledged (R205, R213). -/
def Chain.replyReady (c : Chain) (q : Req) : Bool :=
  let earlier := c.reqs.takeWhile fun p => p.seq != q.seq
  q.st.isDone && q.reply.isSome &&
    (match q.op with
     | .cmpl | .strmDone | .tevc _ _ false => earlier.all fun p => p.st.isDone && (!p.remote || p.st == .acked)
     | _ => true)

/-- REPLY_DELIVERY (R191, R193): the oldest reply of a chain enters the reply port's queue, and its tracking entry is free. -/
def execReplyDelivery (t : TileAt) (chain : Nat) (s : State) : Host.Outcome State Fault Refusal :=
  .next (s.modRegion t.slot fun r =>
    match r.elem t.x t.y .me with
    | none => r
    | some e =>
      let c := e.me.chain chain
      match c.reqs.find? fun q => q.op.replies && q.inUse with
      | none => r
      | some q =>
        match q.reply with
        | none => r
        | some tok =>
          if !r.acts t.x t.y (.chain t.x t.y chain) || !c.replyReady q || 4 ≤ (e.port (8 + chain)).queue.length then r
          else
            (r.modElem t.x t.y .me fun e => e.modPort (8 + chain) fun p => { p with queue := p.queue ++ [{ tok := tok }] }).modChain
              t.x t.y chain fun c =>
                { c with reqs := c.reqs.filterMap fun p =>
                    if p.seq = q.seq then (if p.remote && p.st != .acked && !p.op.reads then some { p with reply := none } else none)
                    else some p })

end Sys2Proof.Machine
end

