-- ==== Sys2Proof/Machine/Beat.lean ====
section
/-! DEFINITION. BEAT: what a commit does (01 R23, R32, R33, R36; 04 R112 to R124; 06 R168, R176; 07 R191), breakpoints and stops
(16 R435, R436), trace records of a beat (R434), and the Grit comparison (15 R411, R413). -/

namespace Sys2Proof.Machine

/-! ### Commit of one beat -/

/-- One effect on the bank of a beat, on top of those of lower slots (R23, R117, R120): a TMSK changes its bit of what they leave (DEDUCED, log entry 96). -/
def Bank.apply (b : Bank) : Eff → Bank
  | .reg (.d i) w => { b with d := b.d.set i w, bad := b.bad.filter (· != i) }
  | .reg (.p i) w => { b with p := b.p.set i (maskOf w), bad := b.bad.filter (· != 16 + i) }
  | .reg .st w => { b with st := .ofNat 4 w.toNat }
  | .reg .tm w => { b with tm := .ofNat 32 w.toNat }
  | .reg .fsw w => { b with fsw := .ofNat 5 w.toNat }
  | .st v => { b with st := .ofNat 4 v }
  | .tm t mask =>
    { b with tm := .ofNat 32 (if mask then b.tm.toNat - (if bitN b.tm.toNat t then 2 ^ t else 0)
                              else b.tm.toNat + (if bitN b.tm.toNat t then 0 else 2 ^ t)) }
  | _ => b

/-- The bank after a beat: its writes in slot order, then the flags raised (R23, R117). -/
def Bank.commit (b : Bank) (effs : List (Nat × Eff)) (flags : Nat) : Bank :=
  let b1 := effs.foldl (fun x e => x.apply e.2) b
  { b1 with fsw := .ofNat 5 (orFlags b1.fsw.toNat flags) }

/-- One effect on the SRF (R168, R176): the element, the entries already raised in this beat, the channels whose windows gave an
entry back. -/
def srfEffect (a : Element × List Nat × List Nat) : Eff → Element × List Nat × List Nat
  | .srf k e v =>
    let (el, ws, cs) := a
    if ws.contains k then
      (el.modSrf k fun x => { (x.write e v) with g := x.g }, ws, cs)
    else (el.modSrf k fun x => x.write e v, k :: ws, cs)
  | .srel k =>
    let (el, ws, cs) := a
    match el.windowOf k with
    | some ch =>
      let (el1, gave) := el.release ch
      (el1, ws, if gave then cs ++ [ch] else cs)
    | none => (el.modSrf k fun x => { x with v := false }, ws, cs)
  | _ => a

/-- The ME's share of a commit, in slot order (R191, R206, R209, R210, R213, R218). -/
def Me.effect (m : Me) : Eff → Me
  | .req c mask r => m.issue c r mask
  | .fence k sc => m.fence k sc
  | .tagDirty k => m.setTag k { m.tag k with d := true }
  | .tagFill va k sl => m.tagFill va k sl
  | .tagClean k => m.setTag k { m.tag k with v := false, d := false }
  | .tagInval n => m.tagInval n
  | .strm i off => m.modStream i fun x => { x with pend := x.pend ++ [off] }
  | .pref va => { m with prefs := m.prefs ++ [va] }
  | _ => m

/-- Channels that a beat pops: its trigger, and those its RECVs and DROPs name (R32, R113). -/
def popSet (trig : Nat) (effs : List (Nat × Eff)) : List Nat :=
  (List.range 32).filter fun c => c == trig || effs.any fun e => e.2 == .pop c

/-- A popped head was poisoned. -/
def Element.headPsn (e : Element) (ch : Nat) : Bool :=
  if cfgLane (e.cfg ch) then ((e.chan ch).lanes.head?.map (·.val.psn)).getD false
  else ((e.chan ch).fifo.head?.map (·.tok.psn)).getD false

def Element.headCmk (e : Element) (ch : Nat) : Bool := ((e.chan ch).fifo.head?.map (·.tok.cmk)).getD false

/-- Pop the channels of a beat: the element and the credits that return, by channel and kind. -/
def Element.popAll (e : Element) : List Nat → Element × List (Nat × Bool)
  | [] => (e, [])
  | c :: r =>
    let (e1, n, m) := e.popChan c
    let (e2, cs) := Element.popAll e1 r
    (e2, List.replicate n (c, false) ++ List.replicate m (c, true) ++ cs)

/-- Put the sends of a beat into the port queues and set the burst positions (R115, R178). -/
def Element.sendAll (e : Element) (sends : List (Nat × PortItem)) (ports : List (Nat × PortScan)) : Element :=
  let e1 := sends.foldl (fun (x : Element) i => x.modPort i.1 fun y => { y with queue := y.queue ++ [i.2] }) e
  ports.foldl (fun (x : Element) i => x.modPort i.1 fun y => { y with bpos := i.2.bpos, bstag := i.2.stag, bgen := i.2.gen }) e1

/-- The run after a committed beat (R33). -/
def Run.after (run : Run) (n fc : Nat) (halted : Bool) : Option Run :=
  if halted || n ≤ run.beat + 1 then none else some { run with beat := run.beat + 1, issued := fc + 1, again := false }

/-- All effects of a committed beat on its element, with the credits that return. -/
def Element.commit (e : Element) (run : Run) (effs : List (Nat × Eff)) (sends : List (Nat × PortItem))
    (ports : List (Nat × PortScan)) (rng : W32) (flags : Nat) (mx : List MxCtx) (fc : Nat) : Element × List (Nat × Bool) :=
  let t := e.tran run.tran
  let pops := popSet t.trig effs
  let cmks := pops.filter e.headCmk
  let e1 : Element := { e with rng := rng, mx := mx }
  let (e2, _, rels) := effs.foldl (fun a x => srfEffect a x.2) (e1.modBank run.bank fun b => b.commit effs flags, [], [])
  let (e3, creds) := e2.popAll pops
  let e4 := e3.sendAll sends ports
  let me1 := effs.foldl (fun (m : Me) x => m.effect x.2) e4.me
  let me2 : Me := { me1 with streams := me1.streams.map fun x => cmks.foldl Stream.mark x }
  let halt := effs.any fun x => x.2 == .halt
  let sinks := effs.filter fun x => x.2 == .sink
  let psw := match sinks with
    | [] => e.psw
    | (i, _) :: _ => sinkPsw e.psw sinks.length i run.tran
  ({ e4 with me := me2, psw := psw, halted := e.halted || halt, run := run.after t.n fc halt, selFc := some fc,
             stall := e.stall.set run.tran (0, 0), cycles := { e.cycles with fires := e.cycles.fires + 1 } },
   rels.map (fun c => (c, true)) ++ creds)

/-! ### Stops (R436) -/

/-- The location word of a beat (R434, tr2[25:0]). -/
def locWord (x y elt tran beat : Nat) : Nat :=
  put 25 20 beat + put 19 15 tran + put 14 12 elt + put 11 7 y + put 6 0 x

/-- Whether one stop location comes before another: (Y, X), then ELT. -/
def locBefore (a b : Nat) : Bool :=
  keyLt (fld a 11 7, fld a 6 0, fld a 14 12) (fld b 11 7, fld b 6 0, fld b 14 12)

/-- Raise a stop of a region (R436): the first raised is kept; of one fc, the first location (DEDUCED, log entry 22). -/
def State.requestStop (s : State) (slot cause node loc : Nat) : State :=
  s.modRegion slot fun r =>
    if r.state != .resident || !r.run || r.stp then r
    else match r.freeze, r.stopAt with
      | none, _ => { (r.startFreeze .stop) with stopAt := some (cause, node, loc, s.fc) }
      | some z, some (_, _, l0, f0) =>
        if z.why = .stop ∧ f0 = s.fc ∧ locBefore loc l0 then { r with stopAt := some (cause, node, loc, s.fc) } else r
      | some _, none => r

/-- A stop that a committed beat raises: its element has the request at once and stops at that beat boundary (R122, R436). -/
def State.stopAtBeat (s : State) (slot : Nat) (u : UnitId) (cause node loc : Nat) : State :=
  (s.requestStop slot cause node loc).modRegion slot fun r => if r.freeze.isSome then r.receive u else r

/-- A FIRE record for the commit (R433, R434). -/
def State.traceFire (s : State) (slot fires : Nat) (rec : TrcRec) : State :=
  match s.region slot with
  | none => s
  | some g =>
    { s with traces := s.traces.map fun t =>
        if t.slot = slot ∧ t.wants 2 ∧ !s.untraced t g.tid ∧ fires % 2 ^ fld (wd t.tb 1) 20 16 = 0
            ∧ (!bitN (wd t.tb 2) 63 || fld (wd t.tb 2) 31 0 == rec.node) then
          { t with fresh := t.fresh ++ [(g.recStrip rec, s.trcWords t (handleOf slot g.gen) g.tid rec)] }
        else t }

/-- Breakpoints and marks of a committed beat (R121, R122, R436). -/
def State.afterBeat (s : State) (slot x y : Nat) (elt : Elt) (run : Run) (pops fires : Nat) (effs : List (Nat × Eff)) : State :=
  match s.region slot with
  | none => s
  | some r =>
    let node := r.node x y elt.code
    let rec0 : TrcRec := { kind := 2, node := node, beat := run.beat, trn := run.tran, elt := elt.code, x := x, y := y }
    let s1 := s.traceFire slot fires { rec0 with pay := pops }
    let s2 := effs.foldl (fun (t : State) e => match e.2 with
      | .mark l => t.traceRec slot { rec0 with kind := 1, pay := l }
      | _ => t) s1
    let db := (look s.debug slot).getD {}
    let loc := locWord x y elt.code run.tran run.beat
    let n3 := db.db3.toNat
    let s3 := effs.foldl (fun (t : State) e => match e.2 with
      | .bkpt n => if bitN db.bke.toNat n then t.stopAtBeat slot (.elt x y elt) n node loc else t
      | _ => t) s2
    if bitN n3 63 && (r.nodeWord x y elt.code).isSome && fld n3 31 0 == node && (!bitN n3 62 || fld n3 36 32 == run.tran) then
      s3.stopAtBeat slot (.elt x y elt) 0xFF node loc
    else s3

/-! ### The beat -/

/-- What a beat of an element sees (R23, R169, R233). -/
def Region.beatEnv (r : Region) (x y : Nat) (e : Element) (run : Run) : BeatEnv :=
  let t := e.tran run.tran
  { el := e
    bank := run.bank
    trig := t.trig
    ctag := (e.headCtag t.trig).getD 0
    xcls := cfgXcls (e.cfg t.trig)
    edge := (List.range 16).map fun q => r.portEdge x y e.elt q
    conn := (List.range 16).map fun q => (r.destOf (.port x y e.elt q)).isSome
    me := if e.elt = .me then some e.me else r.me x y
    stops := (List.range 8).filter fun i => r.stopped (.stream x y i) }

/-- What a run waits on before a later beat, or before one that was abandoned (R33): nothing, or the stall code with its channel or port. -/
def Element.beatWaits (e : Element) (run : Run) (fc : Nat) : Option (Nat × Nat) :=
  let t := e.tran run.tran
  if e.words t.trig (fc - 1) = 0 then some (4, t.trig)
  else match e.reqMissing t (fc - 1) with
    | some c => some (5, c)
    | none => (e.portFull run.bank t).map fun q => (7, q)

/-- The region's edges and an element's shares of a commit. A window credit reaches its source no earlier than the next fc (R189). -/
def Region.applyCommit (r : Region) (x y : Nat) (elt : Elt) (e : Element) (creds : List (Nat × Bool)) (cmks : List Nat) : Region :=
  let r1 := r.modElem x y elt fun _ => e
  { r1 with credits := r1.credits ++ (creds.filter (!·.2)).map fun c => (.chan x y elt c.1, c.2)
            credDue := r1.credDue ++ (creds.filter (·.2)).map fun c => (.chan x y elt c.1, c.2)
            noProg := 0
            noProgArmed := true
            dirty := r1.dirty.filter fun d => !(d.1 == x && d.2.1 == y && cmks.contains d.2.2) }

/-- An abandoned beat: the run stands as the point of resumption, and the region is asked to freeze (R36, R346). The element
that raised the fault has the request at once. -/
def State.abandonBeat (s : State) (e : EltAt) (run : Run) (f : FaultRec) : State :=
  (s.modRegion e.slot fun r => r.modElem e.x e.y e.elt fun el => { el with run := some { run with again := true } }).raiseAt e.slot
    (.elt e.x e.y e.elt) f

/-- Commit a beat in the state. -/
def State.commitBeat (s : State) (e : EltAt) (r : Region) (el : Element) (run : Run) (effs : List (Nat × Eff))
    (sends : List (Nat × PortItem)) (ports : List (Nat × PortScan)) (rng : W32) (flags : Nat) (mx : List MxCtx) : State :=
  let t := el.tran run.tran
  let popped := popSet t.trig effs
  let poisonedPop := popped.find? fun c => cfgPsnf (el.cfg c) && el.headPsn c
  let cmks := (popped.filter el.headCmk).flatMap el.me.marked
  let (el1, creds) := el.commit run effs sends ports rng flags mx s.fc
  let s1 := s.setRegion e.slot (r.applyCommit e.x e.y e.elt el1 creds cmks)
  let s2 := s1.afterBeat e.slot e.x e.y e.elt run (el1.chan t.trig).pops el1.cycles.fires effs
  match poisonedPop with
  | some c => s2.raiseFault e.slot { beatFault el1 e.x e.y run t.trig 0 0x31 2 c 0 with elt := e.elt.code }
  | none => s2

/-- Run the next beat of an element's run, once what it waits on is there (DEDUCED, log entry 21). -/
def State.runBeat (s : State) (e : EltAt) (g : Grit) (r : Region) (el : Element) (run : Run) : State :=
  let t := el.tran run.tran
  if s.fc ≤ run.issued then s
  else if el.runOver run (s.fc - 1) then s.setRegion e.slot (r.modElem e.x e.y e.elt fun x => { x with run := none })
  else if el.storeBad then
    s.abandonBeat e run (beatFault el e.x e.y run t.trig 0 0x01 3 (el.store.getD t.badr 0).toNat 0)
  else match (if run.inProgress then none else el.beatWaits run s.fc) with
    | some c => s.setRegion e.slot (r.modElem e.x e.y e.elt fun x => { x with stall := x.stall.set run.tran c })
    | none =>
      match g, e.elt with
      | .fail residue lane, .pe0 | .fail residue lane, .pe1 | .fail residue lane, .mx =>
        s.gritFail e (beatFault el e.x e.y run t.trig 0 0x40 0 (put 8 8 (b2n residue) + put 7 0 lane) 0)
      | _, _ =>
        let hit := g == .refire && e.elt != .me
        let el0 : Element := if hit then { el with cycles := { el.cycles with grit := el.cycles.grit + 1 } } else el
        match fireBeat (r.beatEnv e.x e.y el0.atStart run) t.badr with
        | .abandon f =>
          (((if hit then s.countAt e.slot e.x e.y e.elt.code 5 0 1 else s).setRegion e.slot (r.modElem e.x e.y e.elt fun _ => el0)).abandonBeat e run
            (beatFault el0 e.x e.y run t.trig f.slot f.code f.det f.info f.src))
        | .commit effs sends ports rng flags mx =>
          (if hit then s.countAt e.slot e.x e.y e.elt.code 5 0 1 else s).commitBeat e r el0 run effs sends ports rng flags mx

/-- BEAT (R32): the next beat of an element's run is evaluated and commits or is abandoned. A beat in progress completes though the
freeze request has reached its element (R36). An element whose instruction store
holds an uncorrectable word freezes the region (R100, R414) (DEDUCED, log entry 3). -/
def execBeat (e : EltAt) (g : Grit) (s : State) : Host.Outcome State Fault Refusal :=
  .next (match s.region e.slot with
    | none => s
    | some r =>
      match r.elem e.x e.y e.elt with
      | none => s
      | some el =>
        match el.run with
        | none => s
        | some run =>
          if r.acts e.x e.y (.elt e.x e.y e.elt) || (run.inProgress && r.live e.x e.y) then s.runBeat e g r el run else s)

end Sys2Proof.Machine
end

