-- ==== Sys2Proof/Machine/RegAccess.lean ====
section
/-! DEFINITION. Writes to device registers (00 R2; 10 R273, R288, R289, R291; 14 R404): who writes, with which MID, and what each block admits. -/

namespace Sys2Proof.Machine

/-- The MID of a writer (R278, R408). -/
def State.midOf (s : State) : Master → Nat
  | .hart h => (s.hart h).oxmid.toNat
  | .hardpan => 0
  | .pf => 0xE00
  | .vf v => 0xE01 + v

/-- A writer as a requester of device register space: a host virtual function for the partition of its VCP (R291, R409). -/
def State.regWho (s : State) (m : Master) : Who :=
  match m with
  | .hart h => s.hartWho h
  | .hardpan => { mid := 0 }
  | .pf => { mid := 0xE00 }
  | .vf v => { mid := 0xE01 + v, part := ((s.vcp v).queues.find? fun x => x.en && x.priv.isSome).map (·.part), tid := (s.vcp v).tid }

/-- A host function reaches its BAR alone: the physical function the management block, virtual function v the doorbell page of VCP v (R408, R453). -/
def inBar (m : Master) (addr : Nat) : Bool :=
  match m with
  | .pf => decide (0x7F000C000000 ≤ addr) && decide (addr < 0x7F000C001000)
  | .vf v => decide (v < 256) && addr / 0x1000 == 0x7F0001000 + v
  | _ => false

/-- Run a write to a register of device space, which after a thermal trip is the management block alone (R456): the block's own rule on MIDs and, but for MID 0x000 and the host functions' BARs, the
access table of device register space (R404) must admit it; a denied write is not performed and is recorded, and a host function's is aborted
by the completer (R291) (DEDUCED, log entry 73) (DESIGN CHOICE, log entry 115). -/
def State.regWrite (s : State) (m : Master) (addr : Nat) (f : State → State) : State :=
  let mid := s.midOf m
  let pass := match m with
    | .pf => inBar m addr && s.regAdmits addr mid true
    | .vf _ => inBar m addr
    | _ => s.permits (s.regWho m) addr .write
  if !s.powered && !(s.mgmt.trip && addr / 0x1000 == 0x7F000C000) then s
  else if pass then f s
  else s.recordDenial (s.regWho m) addr .write

end Sys2Proof.Machine
end

