-- ==== Sys2Proof/Machine/Boot.lean ====
section
/-! DEFINITION. Boot, resets and the loss of power (11 R332, R334; 14 R402; 17 R449 to R451, R456, R457). -/

namespace Sys2Proof.Machine

/-! ### What a reset leaves -/

/-- Memory that is not this module's: the host's and other modules', which no reset of this module touches. -/
def outerMem (m : Memory) : Memory := m.filter fun c => decide (2 ^ 60 ≤ c.1)

/-- Every register at its reset value, no region, memory cleared; what belongs to the part or lies outside it, and the model's own turn-taking, stays. -/
def State.blank (s : State) : State :=
  { State.reset with
    agenda := s.agenda, cur := s.cur, draws := s.draws, fc := s.fc, flash := s.flash, fuseRollback := s.fuseRollback, strap := s.strap
    mem := outerMem s.mem, poison := s.poison.filter (fun l => decide (2 ^ 54 ≤ l)), far := s.far
    xlat := { xmod := s.strap } }

/-- What a warm reset does not reset (R451): the journal's memory and JNEW, and the reference-time counter (DEDUCED, log entry 46). -/
def State.warmBase (s : State) : State := { s.blank with journals := s.journals, ns := s.ns }

/-- A boot that stops: STAGE and ERR. -/
def State.bootStop (s : State) (stage err : Nat) : State := { s with mgmt := { s.mgmt with stage := stage, err := err } }

/-! ### The steps (R449) -/

/-- The partition words of the manifest: each strip of a range names its range. -/
def partWords (ps : List (Nat × Nat)) : List (Nat × W64) :=
  ps.flatMap fun (f, l) => ((List.range 8).filter fun k => decide (f ≤ k) && decide (k ≤ l)).map fun k =>
    (k, BitVec.ofNat 64 (put 63 63 1 + put 5 3 f + put 2 0 l))

/-- A manifest's MIDs in the harts, in reset or released; Ilhus starts on hart 0 of each partition, and the others wait (R449) (DEDUCED, log entry 121). -/
def bootHarts (m : Manifest) (on : Bool) : List Hart :=
  (List.range 64).map fun h =>
    { on := on, oxmid := .ofNat 12 (m.mids.getD h 0), wait := if on ∧ (m.parts.all fun p => h != 8 * p.1) then .parked else .none }

/-- Each component image matches its hash in the manifest (R449, step 3). -/
def Flash.imagesOk (f : Flash) (m : Manifest) : Bool :=
  m.hashes && f.images.length == m.images.length && ((f.images.zip m.images).all fun p => Config.shake256 p.1 == p.2)

/-- The entries of the LPDDR tables of a partition's first strip that close its journal's 4 MiB to every MID but 0x000 (R332), each the first after
the owned-window entries (DESIGN CHOICE, log entry 87). -/
def Manifest.journalEntries (m : Manifest) : List ((Nat × Nat) × (W64 × W64)) :=
  m.journalAt.flatMap fun (f, a) => (List.range 3).map fun k =>
    ((8 + 3 * f + k, 64), (BitVec.ofNat 64 (put 63 63 1 + put 58 47 1 + put 46 35 0xFFF), BitVec.ofNat 64 (put 62 32 (fld (a + 0x3FFFFF) 46 16) + put 30 0 (fld a 46 16))))

/-- Step 6: the fields of the manifest. A partition whose journal a warm reset has kept goes on with it. -/
def State.bootFields (s : State) (m : Manifest) : State :=
  { s with
    harts := bootHarts m false
    ilhus := m.ilhus
    access := m.journalEntries.foldl (fun a e => insertKV a e.1 e.2) m.access
    partTab := partWords m.parts
    journals := m.parts.map fun p => (s.journals.find? (·.first == p.1)).getD { first := p.1 } }

/-- The boot sequence from a reset module: it ends complete, or at the step that fails (PRESUMED, log entry 5). -/
def State.boot (s : State) : State :=
  match s.flash.manifest with
  | none => s.bootStop 1 1
  | some m =>
    if !m.signed || m.rollback < s.fuseRollback then s.bootStop 2 2
    else if !s.flash.imagesOk m then s.bootStop 3 3
    else
      let s3 : State := { s with defects := s.flash.defects, jtag := m.jtag, components := s.flash.images }
      if !s.flash.trains then s3.bootStop 4 4
      else if !s.flash.bedrockOk then s3.bootStop 5 5
      else if !m.fieldsOk then s3.bootStop 6 6
      else
        let s6 := s3.bootFields m
        ({ s6 with harts := bootHarts m true } : State).bootStop 8 0

/-- What the attestation report carries (R452): the SHAKE256 hash of the manifest and of each installed tenant key. -/
def State.attested (s : State) : List Byte :=
  Config.shake256 ((s.flash.manifest.map (·.bytes)).getD []) ++ s.policies.flatMap fun p => Config.shake256 p.key

/-- The attestation report that Ilhus obtains from the Hardpan core, signed with the module's identity key (R452) (DESIGN CHOICE, log entry 112). -/
def State.attestation (s : State) : List Byte := s.attested ++ Config.identitySign s.attested

/-- What the JTAG port reaches (R452): boundary scan and IDCODE at all times, the Hardpan core's debug module when the signed manifest enables it. -/
def State.jtagReaches (s : State) (debugModule : Bool) : Bool := !debugModule || s.jtag

/-! ### The events -/

/-- A warm reset: reset but for what R451 keeps, then the boot steps. -/
def State.warm (s : State) : State := s.warmBase.boot

/-- The management block's address (R453). -/
def mgmtBase : Nat := 0x7F000C000000

/-- WARM_RESET (R451, R453): a write of WRST, or a hot reset of the physical function. -/
def execWarmReset (m : Master) (s : State) : Host.Outcome State Fault Refusal :=
  .next (s.regWrite m mgmtBase fun z => if z.powered then z.warm else z)

/-- COLD_RESET (R449, R451, R456): the module starts again from power-up. -/
def execColdReset (s : State) : Host.Outcome State Fault Refusal := .next s.blank.boot

/-- LOSS_OF_POWER (R451): nothing survives but the flash, the fuses and the straps. -/
def execLossOfPower (s : State) : Host.Outcome State Fault Refusal := .next { s.blank with powered := false }

/-- The module cuts its power but for the management rail, sets TRIP and stays in cold reset (R456). -/
def State.tripped (s : State) (tj : Nat) : State := { s.blank with powered := false, mgmt := { tj := tj % 256, trip := true } }

/-- THERMAL_TRIP (R456): at 115 °C the module trips. -/
def execThermalTrip (tj : Nat) (s : State) : Host.Outcome State Fault Refusal :=
  .next (if s.powered && decide (115 ≤ tj) then s.tripped tj else s)

/-- THROTTLE_EVALUATION (R455): the throttle level follows the power and the temperature; a junction at 115 °C trips the module (R456). -/
def execThrottleEvaluation (pnow tj tcool : Nat) (s : State) : Host.Outcome State Fault Refusal :=
  .next (
    if !s.powered then s
    else if 115 ≤ tj then s.tripped tj
    else
      let m := s.mgmt
      let t := m.tlvl
      let lvl :=
        if 105 ≤ tj then 7
        else if m.plim < pnow ∨ 100 < tj then min 7 (t + 1)
        else if 100 * pnow < 95 * m.plim ∧ tj < 95 then t - 1
        else t
      { s with mgmt := { m with pnow := pnow % 65536, tj := tj % 256, tcool := tcool % 256, tlvl := lvl } })

end Sys2Proof.Machine
end

