-- ==== Sys2Proof/Machine/Kill.lean ====
section
/-! DEFINITION. Final states of packets (11 R315, R334), owned-window entries (10 R290), and the end of a region by completion,
RGNKIL or a fatal fault (12 R343; 09 R252, R271). -/

namespace Sys2Proof.Machine

/-- A command enters a state (R315, R333, R334): its record is written, and then, unless `quiet`, its completion entry is due: cw0 without its
phase, cw1 to cw3. A final state ends the packet's life. -/
def State.due (s : State) (p : PktRef) (st fc res sts obj : Nat) (quiet : Bool) : State :=
  let w := p.view
  let s1 := s.journal w.part w.tid (j2Word w.tid p.v p.q 1 st p.opc) (put 63 32 p.tag + put 31 16 p.rix) obj
    (if fc = 0 then sts else put 63 56 fc) p.seq 0
  s1.modQueue p.v p.q fun x =>
    { x with due := if quiet then x.due
                    else x.due ++ [{ words := [put 55 48 st + put 47 40 p.opc + put 39 32 fc + put 31 0 p.tag, p.seq, res, sts].map (BitVec.ofNat 64)
                                     view := w }]
             live := if st < 3 then x.live else x.live.filter (· != p.seq) }

/-- A final state of a packet; NCM suppresses the entry of a completed one (R312, R315). -/
def State.finish (s : State) (p : PktRef) (st fc res sts obj : Nat) : State := s.due p st fc res sts obj (p.ncm && st == 3)

/-- Clear the owned-window entries a region holds (R290) (DEDUCED, log entry 26). -/
def State.clearOwned (s : State) (slot : Nat) : State :=
  match s.region slot with
  | none => s
  | some r =>
    ({ s with access := r.ownedAt.foldl (fun a k => eraseKV a k) s.access } : State).modRegion slot fun x => { x with ownedAt := [] }

/-- Stream commands of a region's streams that have not retired, in (y, x), stream and queue order. -/
def Region.streamCmds (r : Region) : List ((Nat × Nat × Nat) × Cmd) :=
  r.tiles.flatMap fun t => t.elts.flatMap fun e =>
    (List.range 8).flatMap fun i => ((e.me.stream i).cmds.q).map fun c => ((t.x, t.y, i), c)

/-- Free a region's tiles: nothing of its configuration or front stays (R124, R252). -/
def Region.freeTiles (r : Region) : Region :=
  { r with tiles := [], switches := [], drivers := [], fly := [], edges := [], credits := [], entered := [], freeze := none,
           switchOut := none, run := false, stp := false, emitted := false, dirty := [] }

/-- The forms that wait for this region to settle retire: an RGNFRZ with `v`, an RGNKIL with 0 (R252). -/
def State.releaseSettle (s : State) (slot : Nat) (v : Nat) : State :=
  { s with harts := s.harts.map fun c => match c.wait with
      | .settle k rd kill => if k = slot then { (c.setReg rd (if kill then 0 else v)) with pc := c.pc + 4, wait := .none } else c
      | _ => c }

/-- A ticket of class 4 (R244), and the ASID of a migrating region at its destination (R385). -/
def migTicket (seq : Nat) : Nat := put 51 48 4 + put 31 0 seq
def Migration.dasid (m : Migration) : Nat := fld (wd m.m 7) 11 0

/-- A migration ends: its stream is free, its ticket, which is the source module's, keeps its final state, its packet is completed or faulted, and its source region is
no longer migrating (R263, R269, R390). -/
def State.endMigration (s : State) (k : Nat) (m : Migration) (fail : Nat) : State :=
  let w := (if fail = 0 then 4 else 5) + put 15 8 fail + put 62 16 m.units + m.tid * 2 ^ 64
  let s1 : State := { s with dune := { s.dune with streams := eraseKV s.dune.streams k
                                                   hist := if m.atDest then s.dune.hist else (s.dune.hist ++ [(m.seq, w)]).drop (s.dune.hist.length + 1 - 4096) } }
  let s2 := if m.atDest then s1 else s1.modRegion m.slot fun x => { x with migrating := false }
  match m.pkt with
  | some p => s2.finish p (if fail = 0 then 3 else 4) (fail % 256) (migTicket m.seq) 0 (migTicket m.seq)
  | none => s2

/-- The migrations of a region that ends fail, and their pulls stop (R393). -/
def State.stopMigrations (s : State) (slot asid : Nat) : State :=
  s.dune.streams.foldl (fun (a : State) p =>
    if (if p.2.atDest then p.2.dasid == asid else p.2.slot == slot) then a.endMigration p.1 p.2 256 else a) s

/-- End one region (R343): sink reports, the state, its LAUNCH's completion; its stream commands are left to retire as failed
(R271), and those that have ended keep how they ended (R248) (DESIGN CHOICE, log entry 27). -/
def State.endOne (s : State) (slot : Nat) (st code : Nat) : State :=
  match s.region slot with
  | none => s
  | some r =>
    if r.state = .killed then s
    else
      let cmds := (numbered (r.streamCmds ++ r.waitCmds)).map fun ((x, y, i), c) => ((slot, x, y, i), if c.done then c else { c with fail := if code = 0 then 256 else code, done := true, issued := true })
      let s1 := (((s.reportPsw slot).clearOwned slot).stopMigrations slot r.asid).toState slot .killed
      let s2 := s1.modRegion slot fun x => { x.freeTiles with lastFault := code, fault := none, shadow := none, shadowOf := none, waitCmds := [], base := [] }
      let s3 : State := { s2 with orphans := s2.orphans ++ cmds, jobEnds := if s2.jobEnds.contains r.tid then s2.jobEnds else s2.jobEnds ++ [r.tid] }
      let s4 := match r.owner with
        | some p => s3.finish p st (if st = 4 then code else 0) (handleOf slot r.gen) r.reject (handleOf slot r.gen)
        | none => s3
      s4.releaseSettle slot (refuseWord .state RState.killed.code)

/-- End a region and, with it, the shadow it holds, with the same code at a completion, and else with its own last fault (R343); an occupant
whose shadow ends no longer holds one. -/
def State.endRegion (s : State) (slot : Nat) (st code : Nat) : State :=
  match s.region slot with
  | none => s
  | some r =>
    let s1 := s.endOne slot st code
    let s2 := match r.shadow with
      | some k => s1.endOne k st (if st = 3 then code else ((s1.region k).map (·.lastFault)).getD 0)
      | none => s1
    match r.shadowOf with
    | some k => s2.modRegion k fun x =>
      { x with shadow := none, switchOut := x.switchOut.map fun o => if o.incoming = some slot then { o with incoming := none } else o }
    | none => s2

/-- A kill by a fault: the LAUNCH becomes faulted with the code (R343). -/
def State.faultKill (s : State) (slot code : Nat) : State := s.endRegion slot 4 code

end Sys2Proof.Machine
end

