-- ==== Sys2Proof/Machine/Freeze.lean ====
section
/-! DEFINITION. Freezes and stops (12 R344 to R347, R369 to R372; 15 R413, R416; 16 R436): the units a request reaches, the
settled front and what follows it, the watchdog and the no-progress report. -/

namespace Sys2Proof.Machine

/-! ### Units (R344) -/

def Tile.units (t : Tile) : List UnitId :=
  t.elts.map (fun e => .elt t.x t.y e.elt) ++
  (if (t.elem .me).isSome then (List.range 8).map (.stream t.x t.y ·) ++ (List.range 8).map (.chain t.x t.y ·) else []) ++
  (if (t.elem .mx).isSome then (List.range 4).map (.drain t.x t.y ·) else []) ++
  (if t.ccu.isSome then [.ccu t.x t.y] else [])

/-- Every unit of a region whose tile holds its configuration. -/
def Region.units (r : Region) : List UnitId :=
  (r.tiles.filter fun t => r.holds t.x t.y).flatMap Tile.units ++
  ((r.switches.filter fun w => r.entered.contains (w.col, w.row) &&
      !((r.switchOut.map fun o => o.flipped.contains (w.col, w.row)).getD false)).map fun w => .switch w.col w.row)

/-- FREEZE_RECEIPT (R344): the request reaches a unit, which acts no further but for a beat in progress (R36). -/
def execFreezeReceipt (slot : Nat) (u : UnitId) (s : State) : Host.Outcome State Fault Refusal :=
  .next (s.modRegion slot fun r =>
    match r.freeze with
    | some z =>
      if z.settled || z.got.contains u || !r.units.contains u then r
      else { r with freeze := some { z with got := z.got ++ [u] } }
    | none => r)

/-! ### The settled front (R345) -/

/-- A request of a chain holds back settling: sent and not performed, or remote and not acknowledged. -/
def Req.inFlight (q : Req) : Bool := q.st == .sent || (q.remote && q.st == .performed)

/-- Nothing of the present fc is still to take effect at an element: a beat in progress, an arrival, a drain's word (R36, R44). -/
def Element.still (e : Element) : Bool :=
  !((e.run.map Run.inProgress).getD false) && (e.chans.all fun c => c.pend.isEmpty) &&
    e.mx.all fun m => (m.drain.map fun d => d.due.isEmpty).getD true

/-- Every unit has acted, every sent request has its reply, and nothing is on its way between a port and a channel. -/
def Region.settledNow (r : Region) (z : Freeze) : Bool :=
  r.units.all z.got.contains && r.shadowOf.isNone &&
    r.credDue.isEmpty && (r.tiles.all fun t => t.elts.all Element.still) &&
    (r.tiles.all fun t => t.elts.all fun e => e.me.chains.all fun c => c.reqs.all fun q => !q.inFlight) &&
    (r.switches.all fun w => w.bufs.all fun b => b.2.all fun i => i.item == .furrow) && r.fly.isEmpty

/-- A region cannot be replayed (R416). -/
def Region.nonReplayable (r : Region) : Bool :=
  !r.dirty.isEmpty || r.tiles.any fun t => t.elts.any fun e => e.me.streams.any (·.lost)

/-- The fault a region has raised is delivered, and its code stays with the region (R351). -/
def State.deliverFault (s : State) (slot : Nat) (f : FaultRec) : State :=
  (s.modRegion slot fun r => { r with lastFault := f.code }).deliver slot f

/-- The STOP record of a stop (R434, R436). -/
def State.traceStop (s : State) (slot : Nat) (at_ : Nat × Nat × Nat × Nat) : State :=
  let (bkn, node, loc, _) := at_
  s.traceRec slot { kind := 7, node := node, xna := bkn == 0xFE, beat := fld loc 25 20, trn := fld loc 19 15, elt := fld loc 14 12
                    y := fld loc 11 7, x := fld loc 6 0, pay := bkn }

/-- A second Grit mismatch with the front settled (R343, R413, R416): a region that cannot be replayed is killed, with INFO[62]; the
others wait for their ROLLBACK. -/
def State.settleRollback (s : State) (slot : Nat) (r : Region) : State :=
  if r.nonReplayable then
    (s.deliverFault slot ((r.fault.getD { code := 0x40 }).with40 (2 ^ 62))).faultKill slot 0x40
  else s

/-- What the settling of a front brings about (R343, R345, R347, R372, R436). -/
def State.settle (s : State) (slot : Nat) (r : Region) (z : Freeze) : State :=
  let s1 := s.setRegion slot { r with freeze := some { z with settled := true } }
  match r.killWhenDone, z.why, r.fault with
  | some st, w, _ =>
    if w = .switch ∧ (r.switchOut.map fun o => !o.flipped.isEmpty) = some true then s1
    else (s1.releaseSettle slot 0).endRegion slot st r.lastFault
  | none, .rollback, _ => s1.settleRollback slot r
  | none, .switch, some f => if r.gritted then s1 else s1.deliverFault slot f
  | none, .switch, none => s1
  | none, _, some f =>
    (((s1.deliverFault slot f).modRegion slot fun x => { x with run := false, stp := false, stopAt := none }).toState slot
      .faulted).releaseSettle slot 0
  | none, .stop, none =>
    let s2 := s1.modRegion slot fun x => { x with stp := true }
    match r.stopAt with
    | some a => (s2.modDebug slot fun d => { d with bkn := a.1, snode := a.2.1, sloc := a.2.2.1 }).traceStop slot a
    | none => s2
  | none, _, none =>
    ((s1.modRegion slot fun x => { x with run := false, stp := false, stopAt := none }).toState slot .frozen).releaseSettle slot 0

/-- FRONT_SETTLE (R345). -/
def execFrontSettle (slot : Nat) (s : State) : Host.Outcome State Fault Refusal :=
  .next (match s.region slot with
    | none => s
    | some r =>
      match r.freeze with
      | some z => if !z.settled && r.settledNow z then s.settle slot r z else s
      | none => s)

/-! ### Watchdog and no-progress detector (R369 to R371) -/

/-- WATCHDOG_EXPIRY (R370, R372): a running region whose active time has reached WDL freezes with 0x52, DET 1. -/
def execWatchdogExpiry (slot : Nat) (s : State) : Host.Outcome State Fault Refusal :=
  .next (match s.region slot with
    | none => s
    | some r =>
      let wdl := (s.frBlock r.part).wdl.toNat
      if r.state == .resident && r.run && !r.stp && (match r.freeze with | some z => z.why != .fault && z.why != .rollback | none => true)
          && wdl != 0 && decide (wdl * 1000000 ≤ r.active) then
        s.raiseFault slot { code := 0x52, det := 1, src := 10, xna := true, info := r.active }
      else s)

/-- NO_PROGRESS_REPORT (R371): 2^24 fc without a commit are reported once, and the region keeps running. -/
def execNoProgressReport (slot : Nat) (s : State) : Host.Outcome State Fault Refusal :=
  .next (match s.region slot with
    | none => s
    | some r =>
      if r.state == .resident && r.run && !r.stp && r.noProgArmed && decide (2 ^ 24 ≤ r.noProg) then
        (s.reportFault slot { code := 0x52, det := 2, src := 10, xna := true, info := r.noProg }).modRegion slot
          fun x => { x with noProgArmed := false }
      else s)

end Sys2Proof.Machine
end

