-- ==== Sys2Proof/Machine/Transport.lean ====
section
/-! DEFINITION. Circuits (14 R394 to R399), arrivals at channels (01 R19; 06 R175), credits, lanes and their drivers (01 R40;
08 R224; 14 R400), and late tokens of a switch (12 R356, R359). -/

namespace Sys2Proof.Machine

/-! ### Route entries (R396) -/

def rtV (w : W64) : Bool := bitN w.toNat 63
def rtSrc (w : W64) : Nat := fld w.toNat 62 59
def rtSix (w : W64) : Nat := fld w.toNat 58 52
def rtDst (w : W64) : Nat := fld w.toNat 51 48
def rtDix (w : W64) : Nat := fld w.toNat 47 41
def rtDle (w : W64) : Bool := bitN w.toNat 40
def rtDln (w : W64) : Nat := fld w.toNat 39 38
def rtLrow (w : W64) : Nat := fld w.toNat 37 33
def rtLcol (w : W64) : Nat := fld w.toNat 32 26
def rtRall (w : W64) : Bool := bitN w.toNat 25
def rtCall (w : W64) : Bool := bitN w.toNat 24

/-- The entry that takes an input. -/
def Switch.route (w : Switch) (src six : Nat) : Option W64 := w.routes.find? fun e => rtV e && rtSrc e == src && rtSix e == six

/-- The neighbour in a direction: 5 N, 6 E, 7 S, 8 W (R9). -/
def neighbour (col row dir : Nat) : Option (Nat × Nat) :=
  match dir with
  | 5 => if row = 0 then none else some (col, row - 1)
  | 6 => some (col + 1, row)
  | 7 => some (col, row + 1)
  | 8 => if col = 0 then none else some (col - 1, row)
  | _ => none

def opposite : Nat → Nat
  | 5 => 7 | 6 => 8 | 7 => 5 | _ => 6

def Switch.buf (w : Switch) (k : Nat × Nat) : List BufItem := (look w.bufs k).getD []
def Switch.setBuf (w : Switch) (k : Nat × Nat) (l : List BufItem) : Switch :=
  { w with bufs := if l.isEmpty then eraseKV w.bufs k else insertKV w.bufs k l }

/-! ### Inputs -/

/-- A port spends credit for its channel, for a CCU arm input or for a span (R19); a lane driver takes what reaches it. -/
def Region.spends (r : Region) (src : SourceId) : Bool :=
  match r.destOf src with
  | some (.lane _) => false
  | _ => true

/-- What stands at the head of a switch input and may leave it (R19, R175, R177, R344) (DEDUCED, log entry 117). -/
def Region.inputHead (r : Region) (i : InAt) : Option Item :=
  match r.switch i.col i.row with
  | none => none
  | some w =>
    if 5 ≤ i.src then (w.buf (i.src, i.six)).head?.map (·.item)
    else if r.stopped (.switch i.col i.row) then none
    else match r.imageOf i.col i.row with
      | none => none
      | some (x, y) =>
        let fur := if w.furOut.contains (i.src, i.six) then some Item.furrow else none
        match Elt.ofCode i.src with
        | some e =>
          match r.elem x y e with
          | none => none
          | some el =>
            let p := el.port i.six
            let need := r.spends (.port x y e i.six)
            match p.queue with
            | [] => fur
            | { scale := some x9, .. } :: _ => if !need || (0 < p.wcred && 0 < p.fcred) then some (.scale x9) else none
            | t :: _ => if !need || decide (0 < p.fcred) then some (.token t.tok) else none
        | none =>
          match (r.ccu x y).bind fun c => c.out.head? with
          | some t => some (.token t)
          | none => fur

/-- Take that head away. -/
def Region.takeInput (r : Region) (i : InAt) : Region :=
  if 5 ≤ i.src then r.modSwitch i.col i.row fun w => w.setBuf (i.src, i.six) (w.buf (i.src, i.six)).tail
  else match r.imageOf i.col i.row with
    | none => r
    | some (x, y) =>
      let dropFur := r.modSwitch i.col i.row fun w => { w with furOut := w.furOut.filter (· != (i.src, i.six)) }
      match Elt.ofCode i.src with
      | some e =>
        match (r.elem x y e).map fun el => (el.port i.six).queue with
        | some (t :: rest) =>
          r.modElem x y e fun el => el.modPort i.six fun p =>
            if t.scale.isSome then { p with queue := { t with scale := none } :: rest, wcred := p.wcred - 1 }
            else { p with queue := rest, fcred := p.fcred - 1 }
        | _ => dropFur
      | none =>
        match (r.ccu x y).map (·.out) with
        | some (_ :: rest) => r.modCcu x y fun c => { c with out := rest }
        | _ => dropFur

/-- The parity of an input's head: that of the buffer item, or of the region. -/
def Region.inputPar (r : Region) (i : InAt) : Bool :=
  if 5 ≤ i.src then
    (((r.switch i.col i.row).bind fun w => (w.buf (i.src, i.six)).head?).map (·.par)).getD r.par
  else r.par

/-- The delay line that a route entry passes its tokens through. -/
def Region.delayLine (r : Region) (col row : Nat) (e : W64) : Delay :=
  ((r.switch col row).map fun w => w.delays.getD (rtDln e) { cfg := 0 }).getD { cfg := 0 }

def Region.modDelay (r : Region) (col row : Nat) (e : W64) (f : Delay → Delay) : Region :=
  r.modSwitch col row fun w => { w with delays := upd w.delays (rtDln e) f }

/-- The item at the head of an input goes on through its route entry: the region, and the item that leaves (R399). A token that enters a
delay line pushes out the line's oldest; a scale transfer stays ahead of its burst (R175): it waits for the burst's first word to enter, and
leaves before it, the entering token waiting at its input meanwhile (DEDUCED, log entry 23). -/
def Region.passOn (r : Region) (i : InAt) (e : W64) (it : Item) : Region × Option Item :=
  if !rtDle e then (r.takeInput i, some it)
  else
    let d := r.delayLine i.col i.row e
    match it, d.toks with
    | .scale x, _ :: _ => ((r.takeInput i).modDelay i.col i.row e fun d => { d with wait := some x }, none)
    | .token t, o :: rest =>
      match o.scale with
      | some z => (r.modDelay i.col i.row e fun d => { d with toks := { o with scale := none } :: rest }, some (.scale z))
      | none => ((r.takeInput i).modDelay i.col i.row e fun d => { d with toks := rest ++ [{ tok := t, scale := d.wait }], wait := none }, some (.token o.tok))
    | _, _ => (r.takeInput i, some it)

/-- Where the circuit from an input ends in the image, following entries from switch to switch. -/
def Region.traceTo (r : Region) : Nat → InAt → Option (W64 × Nat × Nat)
  | 0, _ => none
  | fuel + 1, i =>
    match (r.switch i.col i.row).bind fun w => w.route i.src i.six with
    | none => none
    | some e =>
      if 5 ≤ rtDst e ∧ rtDst e ≤ 8 then
        match neighbour i.col i.row (rtDst e) with
        | some (c, w) => Region.traceTo r fuel { i with col := c, row := w, src := opposite (rtDst e), six := rtDix e }
        | none => none
      else some (e, i.col, i.row)

/-- The late token that a stray of a drain becomes (R359): of a channel or an arm input; or of a lane driver, which is no element and stands
there as the switch, with channel 0 for the row lane and 1 for the column lane (DESIGN CHOICE, log entry 106). -/
def Region.lateTok (r : Region) (i : InAt) (t : Token) : Option LateTok :=
  (r.traceTo 4096 i).bind fun (e, c, w) => (r.imageOf c w).map fun (x, y) =>
    { tok := t, ch := if rtDst e = 4 ∨ rtDst e = 9 then 0 else if rtDst e = 10 then 1 else rtDix e, x := x, y := y, elt := min (rtDst e) 5 }

/-- INFO of a stray (R350). -/
def strayInfo (ch : Nat) (t : Token) : Nat := put 4 0 ch + put 29 5 t.side

/-- The channel that a late token would have entered. -/
def LateTok.key (l : LateTok) : Nat × Nat × Nat × Nat := (l.x, l.y, l.elt, l.ch)

/-- A late token goes into the section of its switch, with the scale transfer that came ahead of it, and is reported (R185, R359). -/
def State.lateAt (s : State) (slot : Nat) (l : LateTok) : State :=
  (s.modRegion slot fun r => { r with switchOut := r.switchOut.map fun w =>
      { w with late := w.late ++ [{ l with scale := look w.lateScales l.key }], lateScales := eraseKV w.lateScales l.key } }).reportFault slot
    { code := 0x50, det := 3, src := 6, x := l.x, y := l.y, elt := l.elt, info := strayInfo l.ch l.tok }

/-- A scale transfer that reaches a flipped tile is kept for the late token behind it (R185) (DEDUCED, log entry 137). -/
def State.keepScale (s : State) (slot : Nat) (k : Nat × Nat × Nat × Nat) (z : BitVec 9) : State :=
  s.modRegion slot fun r => { r with switchOut := r.switchOut.map fun w => { w with lateScales := insertKV w.lateScales k z } }

def State.captureScale (s : State) (slot : Nat) (i : InAt) (z : BitVec 9) : State :=
  match (s.region slot).bind fun r => r.lateTok i {} with
  | none => s
  | some l => s.keepScale slot l.key z

/-- Write a stray of a drain into the late-token section and report it (R359). -/
def State.captureLate (s : State) (slot : Nat) (i : InAt) (t : Token) : State :=
  match (s.region slot).bind fun r => r.lateTok i t with
  | none => s
  | some l => s.lateAt slot l

/-! ### Hops -/

/-- Another configuration of the two that share these tiles holds items in a buffer (R395, R355). -/
def State.otherHolds (s : State) (r : Region) (col row : Nat) (k : Nat × Nat) : Bool :=
  ([r.shadow, r.shadowOf].filterMap id).any fun o =>
    (((s.region o).bind fun q => q.switch col row).map fun w => !(w.buf k).isEmpty).getD false

/-- The inputs of a switch that have an item for a direction and room beyond, by circuit number (R395). -/
def State.readyHops (s : State) (slot : Nat) (r : Region) (col row dir : Nat) : List (Nat × InAt × W64) :=
  match r.switch col row, neighbour col row dir with
  | some w, some (c2, w2) =>
    (List.range 128).filterMap fun n =>
      (w.routes.find? fun e => rtV e && rtDst e == dir && rtDix e == n).bind fun e =>
        let i : InAt := { slot := slot, col := col, row := row, src := rtSrc e, six := rtSix e }
        let k := (opposite dir, n)
        let room := match r.switch c2 w2 with
          | some w' => decide ((w'.buf k).length < 2) && (!(w'.buf k).any fun b => b.par != r.inputPar i) && !s.otherHolds r c2 w2 k
          | none => false
        if (r.inputHead i).isSome && room then some (n, i, e) else none
  | _, _ => []

/-- Whether a tile of an outgoing region has flipped (R355). -/
def Region.flipped (r : Region) (col row : Nat) : Bool := (r.switchOut.map fun w => w.flipped.contains (col, row)).getD false

/-- A tile's configuration is in place at a physical tile: entered and not flipped out. -/
def Region.holdsAt (r : Region) (col row : Nat) : Bool := r.entered.contains (col, row) && !r.flipped col row

/-- The Furrow has come along an input of a switch (R357). -/
def Region.furrowIn (r : Region) (col row : Nat) (k : Nat × Nat) : Region :=
  r.modSwitch col row fun w => { w with furIn := if w.furIn.contains k then w.furIn else w.furIn ++ [k] }

/-- TOKEN_HOP (R394, R395, R399): the link in direction `dir` of a switch carries one item of the ready circuit that its
round-robin pointer reaches first. A token of an outgoing region that reaches a flipped tile is a late token (R359). -/
def execTokenHop (slot col row dir : Nat) (s : State) : Host.Outcome State Fault Refusal :=
  .next (match s.region slot with
    | none => s
    | some r =>
      if !r.moving || !r.holdsAt col row then s
      else
        let ready := s.readyHops slot r col row dir
        let after := (look s.pointers (col, row, dir)).getD 127
        match (ready.find? fun h => decide (after < h.1)).orElse fun _ => ready.head? with
        | none => s
        | some (n, i, e) =>
          match r.inputHead i, neighbour col row dir with
          | some it, some (c2, w2) =>
            let par := r.inputPar i
            let (r1, out) := r.passOn i e it
            let s1 : State := { s with pointers := insertKV s.pointers (col, row, dir) n }
            let r1 := if out == some .furrow then r1.furrowIn col row (i.src, i.six) else r1
            let j : InAt := { slot := slot, col := c2, row := w2, src := opposite dir, six := n }
            match out, r.flipped c2 w2 with
            | some (.token t), true => (s1.setRegion slot r1).captureLate slot j t
            | some (.scale z), true => (s1.setRegion slot r1).captureScale slot j z
            | _, true | none, _ => s1.setRegion slot r1
            | some it1, false =>
              s1.setRegion slot (r1.modSwitch c2 w2 fun w => w.setBuf (opposite dir, n) (w.buf (opposite dir, n) ++ [{ item := it1, par := par }]))
          | _, _ => s)

/-! ### Arrivals -/

def Region.addCredits (r : Region) (d : DestId) (n m : Nat) : Region :=
  { r with credits := r.credits ++ List.replicate n (d, false) ++ List.replicate m (d, true) }

/-- A token reaches a channel (R19): it enters at the end of the fc, or the region freezes with a stray (R360). -/
def State.tokenAt (s : State) (slot x y : Nat) (e : Elt) (ch : Nat) (t : Token) : State :=
  match (s.region slot).bind fun r => r.elem x y e with
  | none => s
  | some el =>
    match el.tokenArrive ch t with
    | .ok el1 => s.modRegion slot fun r => r.modElem x y e fun _ => el1
    | .error det => s.raiseFault slot { code := 0x50, det := det, src := 6, x := x, y := y, elt := e.code, info := strayInfo ch t }

/-- A token reaches a CCU's arm input, a channel of depth 2 (R138). -/
def State.armAt (s : State) (slot x y : Nat) (t : Token) : State :=
  match (s.region slot).bind fun r => r.ccu x y with
  | none => s
  | some c =>
    if 2 ≤ c.armq.length then
      s.raiseFault slot { code := 0x50, det := 1, src := 6, x := x, y := y, elt := 4, info := strayInfo 0 t }
    else s.modRegion slot fun r => r.modCcu x y fun c => { c with armq := c.armq ++ [{ tok := t, arrived := s.fc }] }

/-- A scale transfer reaches a block-format channel (R175), where it takes effect at the end of the fc (R169); one for which no window credit was outstanding is a stray (DEDUCED, log entry 24). -/
def State.scaleAt (s : State) (slot x y : Nat) (e : Elt) (ch : Nat) (x9 : BitVec 9) : State :=
  match (s.region slot).bind fun r => r.elem x y e with
  | none => s
  | some el =>
    if !cfgDef (el.cfg ch) || (cfgBlock (el.cfg ch)).isNone then
      s.raiseFault slot { code := 0x50, det := 2, src := 6, x := x, y := y, elt := e.code, info := put 4 0 ch }
    else if (el.chan ch).win.crd ≤ (el.chan ch).comingScales then
      s.raiseFault slot { code := 0x50, det := 1, src := 6, x := x, y := y, elt := e.code, info := put 4 0 ch }
    else s.modRegion slot fun r => r.modElem x y e fun el => el.arrive ch (.scale x9)

/-- The local end of a switch input's circuit. -/
def Region.localRoute (r : Region) (i : InAt) : Option W64 := (r.switch i.col i.row).bind fun w => w.route i.src i.six

/-- A span port's edge (R398). -/
def Region.spanPort (r : Region) (i : InAt) : Bool :=
  match r.imageOf i.col i.row, Elt.ofCode i.src with
  | some (x, y), some e => (match r.destOf (.port x y e i.six) with | some (.span _) => true | _ => false)
  | _, _ => false

/-- Span records (R398). -/
def Image.spans (i : Image) : List (Nat × Nat × W64) :=
  (i.recs.filter fun (a, b) => fld a.toNat 15 12 == 3 && rtV b).map fun (a, b) => (fld a.toNat 6 0, fld a.toNat 11 7, b)

def spanOut (b : W64) : Bool := !bitN b.toNat 62
def spanNo (b : W64) : Nat := fld b.toNat 55 44
def spanElt (b : W64) : Nat := fld b.toNat 43 40
def spanIx (b : W64) : Nat := fld b.toNat 39 35

/-- The lane group of a span port: the group at its record's index of the partition's list (R327, R398). -/
def State.spanGroup (s : State) (r : Region) (i : InAt) : Option Nat :=
  match r.image, r.imageOf i.col i.row with
  | some m, some (x, y) =>
    (m.spans.find? fun (sx, sy, b) => spanOut b && sx == x && sy == y && spanElt b == i.src && spanIx b == i.six).bind fun (_, _, b) =>
      s.laneGroupAt r.part (fld b.toNat 61 56)
  | _, _ => none

/-- The number of an outgoing span of a port (R398). -/
def Region.spanOf (r : Region) (i : InAt) : Nat :=
  match r.imageOf i.col i.row, Elt.ofCode i.src with
  | some (x, y), some e => (match r.destOf (.port x y e i.six) with | some (.span n) => n | _ => 0)
  | _, _ => 0

/-- What stands at a span port leaves the module in a flit of its lane group, for the span of its number at the peer, once the group is up (R398, R406). -/
def State.spanLeave (s : State) (slot : Nat) (r : Region) (i : InAt) : State :=
  match s.spanGroup r i with
  | none => s
  | some g =>
    if s.groupUp g then
      let load := ((r.inputHead i).map fun it => FlitLoad.span (r.spanOf i) it).getD .none_
      (s.setRegion slot (r.takeInput i)).sendFlit { part := r.part, tid := r.tid, mod := ((look s.groups g).map (·.pmod)).getD 0, kind := 2, load := load } g
    else s

/-- Where a span circuit ends (R398). -/
def Region.spanDest (r : Region) (n : Nat) : Option DestId := r.destOf (.span n)

/-- An item from a span circuit reaches its channel; a token that reaches a flipped tile is a late token (R359). -/
def State.spanArrive (s : State) (slot n : Nat) (it : Item) : State :=
  match s.region slot with
  | none => s
  | some r =>
    if !r.moving then s
    else match r.spanDest n, it with
      | some (.chan x y e ch), .token t =>
        if r.holds x y then s.tokenAt slot x y e ch t
        else if r.flipped (r.phys x y).1 (r.phys x y).2 then s.lateAt slot { tok := t, ch := ch, x := x, y := y, elt := e.code }
        else s
      | some (.chan x y e ch), .scale x9 =>
        if r.holds x y then s.scaleAt slot x y e ch x9
        else if r.flipped (r.phys x y).1 (r.phys x y).2 then s.keepScale slot (x, y, e.code, ch) x9
        else s
      | _, _ => s

/-- A transfer to an element that 16 resends have not brought counts as a second Grit mismatch of the element (R414) (DEDUCED, log entry 120). -/
def State.transferFailed (s : State) (e : EltAt) : State :=
  match s.region e.slot with
  | none => s
  | some r =>
    if r.moving && (r.elem e.x e.y e.elt).isSome then s.gritFail e { code := 0x40, x := e.x, y := e.y, elt := e.elt.code, xna := true } else s

/-- TOKEN_ARRIVAL (R19, R138): the token at the head of an input whose circuit ends here enters its channel or arm input; the
token of a span port leaves the module. -/
def execTokenArrival (a : ArriveFrom) (s : State) : Host.Outcome State Fault Refusal :=
  .next (match a with
    | .span slot n (.token t) => s.spanArrive slot n (.token t)
    | .span _ _ _ => s
    | .failed e => s.transferFailed e
    | .input i =>
      match s.region i.slot with
      | none => s
      | some r =>
        if !r.moving || !r.holdsAt i.col i.row then s
        else match r.inputHead i with
          | some (.token t) =>
            if r.spanPort i then s.spanLeave i.slot r i
            else match r.localRoute i, r.imageOf i.col i.row with
              | some e, some (x, y) =>
                if rtDst e ≤ 4 then
                  let (r1, out) := r.passOn i e (.token t)
                  let s1 := s.setRegion i.slot r1
                  match out, Elt.ofCode (rtDst e) with
                  | some (.token o), some el => s1.tokenAt i.slot x y el (rtDix e) o
                  | some (.token o), none => s1.armAt i.slot x y o
                  | some (.scale z), some el => s1.scaleAt i.slot x y el (rtDix e) z
                  | _, _ => s1
                else s
              | _, _ => s
          | _ => s)

/-- A scale transfer waits in its lane's driver (R400). -/
def Region.driverScale (r : Region) (l : LaneId) (x : BitVec 9) : Region := r.modDriver l fun d => { d with scales := d.scales ++ [x] }

/-- SCALE_TRANSFER_ARRIVAL (R175): the scale at the head of an input fills the next entry of its channel's window, or waits in
its lane driver. -/
def execScaleTransferArrival (a : ArriveFrom) (s : State) : Host.Outcome State Fault Refusal :=
  .next (match a with
    | .span slot n (.scale x) => s.spanArrive slot n (.scale x)
    | .span _ _ _ => s
    | .failed e => s.transferFailed e
    | .input i =>
      match s.region i.slot with
      | none => s
      | some r =>
        if !r.moving || !r.holdsAt i.col i.row then s
        else match r.inputHead i with
          | some (.scale x9) =>
            if r.spanPort i then s.spanLeave i.slot r i
            else match r.localRoute i, r.imageOf i.col i.row with
              | some e, some (x, y) =>
                let (r1, out) := r.passOn i e (.scale x9)
                match out, rtDst e, Elt.ofCode (rtDst e) with
                | some _, 9, _ => s.setRegion i.slot (r1.driverScale (.row y) x9)
                | some _, 10, _ => s.setRegion i.slot (r1.driverScale (.col x) x9)
                | some _, _, some el => (s.setRegion i.slot r1).scaleAt i.slot x y el (rtDix e) x9
                | some _, _, none => s
                | none, _, _ => s.setRegion i.slot r1
              | _, _ => s
          | _ => s)

/-! ### Credits -/

/-- One credit reaches a source. -/
def Region.giveCredit (r : Region) (src : SourceId) (dst : DestId) (window : Bool) : Region :=
  match src, dst with
  | .port x y e q, _ =>
    r.modElem x y e fun el => el.modPort q fun p => if window then { p with wcred := p.wcred + 1 } else { p with fcred := p.fcred + 1 }
  | .ccu x y, _ => if window then r else r.modCcu x y fun c => { c with fcred := c.fcred + 1 }
  | .lane l, .chan x y _ _ =>
    r.modDriver l fun d => { d with cred := d.cred.map fun (k, f, m) =>
      if k = (x, y) then (k, if window then (f, m + 1) else (f + 1, m)) else (k, f, m) }
  | _, _ => r

/-- Take the first matching element out of a list. -/
def takeFirst {α : Type} [DecidableEq α] (l : List α) (a : α) : Option (List α) :=
  if l.contains a then some (l.erase a) else none

/-- A credit on its way to a destination's source arrives there; a span's credit comes from the peer module. -/
def State.creditReturn (s : State) (slot : Nat) (dst : DestId) (window : Bool) : State :=
  s.modRegion slot fun r =>
    match dst with
    | .span _ => (match r.sourceOf dst with | some src => r.giveCredit src dst window | none => r)
    | _ =>
      match takeFirst r.credits (dst, window), r.sourceOf dst with
      | some cs, some src => ({ r with credits := cs } : Region).giveCredit src dst window
      | some cs, none => { r with credits := cs }
      | none, _ => r

/-- CREDIT_RETURN (R19): a FIFO credit of a channel reaches its source. -/
def execCreditReturn (slot : Nat) (dst : DestId) (s : State) : Host.Outcome State Fault Refusal :=
  .next (s.creditReturn slot dst false)

/-- WINDOW_CREDIT_RETURN (R176): a window credit of a channel reaches its source. -/
def execWindowCreditReturn (slot : Nat) (dst : DestId) (s : State) : Host.Outcome State Fault Refusal :=
  .next (s.creditReturn slot dst true)

/-! ### Lanes -/

/-- The codes that one word carries for its lane slots (R63, R68, R223), as slot contents of the payload. -/
def laneCodes (f : Fmt) (blen : Nat) (w : Word) : List Nat :=
  match f with
  | .lane t => lanesOf t.width t.lanes w
  | .block .mxe2m1 => lanesOf 4 32 w
  | .block b =>
    let n := if b.isBx && blen == 0 then 8 else 16
    (lanesOf 8 n w).map fun c => if b.isBx then b2n (bitN c 7) * 2 ^ b.mbits + c % 2 ^ b.mbits else c

/-- Elements that one word carries (R400). -/
def laneElems (f : Fmt) (blen : Nat) : Nat := (laneCodes f blen 0).length

/-- Words of a whole transfer (R400). -/
def laneWords (f : Fmt) (blen : Nat) : Nat := f.chunk / laneElems f blen

/-- Blocks of a transfer (R223). -/
def laneBlocks (f : Fmt) (blen : Nat) : Nat := if f.isBlock then f.chunk / (8 * 2 ^ blen) else 0

/-- The transfer that a driver's words form; what they do not fill is zero codes (R400) (DESIGN CHOICE, log entry 25). -/
def LaneDrv.transfer (d : LaneDrv) (f : Fmt) : LaneVal :=
  let n := laneElems f d.blen
  { payload := .ofNat 1536 (packLanes (f.mxBits * n) (d.words.map fun t => packLanes f.mxBits (laneCodes f d.blen t.word)))
    mexp := .ofNat 192 (packLanes (n / 2) (d.words.map (·.mexp.toNat)))
    psn := d.words.any (·.psn)
    cmk := d.words.any (·.cmk)
    ctag := (d.words.head?.map (·.ctag)).getD 0 }

/-- The accepting channels hold credit for a whole transfer (R40, R175, R224). -/
def LaneDrv.credited (d : LaneDrv) (nb : Nat) : Bool := d.cred.all fun (_, f, m) => decide (0 < f) && decide (nb ≤ m)

/-- Send the transfer in progress (R400): its scale transfers, the unfilled blocks with scale 0, then the payload. -/
def Region.laneSend (r : Region) (d : LaneDrv) (f : Fmt) : Region :=
  let nb := laneBlocks f d.blen
  let scales := d.scales ++ List.replicate (nb - d.scales.length) 0
  let r1 := r.modDriver d.lane fun _ =>
    { d with words := [], scales := [], cred := d.cred.map fun (k, a, m) => (k, a - 1, m - nb) }
  if d.cred.isEmpty then r1
  else { r1 with fly := r1.fly ++ [{ lane := d.lane, val := d.transfer f, scales := scales, left := d.cred.map (·.1) }] }

/-- The driver takes one word or end-of-stream token; none when it has to wait for credit (R400). -/
def Region.driverTakes (r : Region) (d : LaneDrv) (f : Fmt) (t : Token) : Option Region :=
  let nb := laneBlocks f d.blen
  if t.eosl != 0 then
    if d.words.isEmpty then some r
    else if d.credited nb then some (r.laneSend d f) else none
  else
    let d1 := { d with words := d.words ++ [t] }
    if d1.words.length < laneWords f d.blen then some (r.modDriver d.lane fun _ => d1)
    else if d.credited nb then some (r.laneSend d1 f) else none

/-- LANE_DRIVER_INPUT (R400): the driver of the input's lane takes the token at its head. -/
def execLaneDriverInput (i : InAt) (s : State) : Host.Outcome State Fault Refusal :=
  .next (s.modRegion i.slot fun r =>
    if !r.moving || !r.holdsAt i.col i.row then r
    else match r.inputHead i, r.localRoute i, r.imageOf i.col i.row with
      | some (.token t), some e, some (x, y) =>
        let l : Option LaneId := if rtDst e = 9 then some (.row y) else if rtDst e = 10 then some (.col x) else none
        match l.bind r.driver with
        | none => r
        | some d =>
          match fmtOf d.fmt with
          | none => r
          | some f =>
            let (r1, out) := r.passOn i e (.token t)
            match out with
            | some (.token o) => (match r1.driverTakes d f o with | some r2 => r2 | none => r)
            | some (.scale z) => r1.driverScale d.lane z
            | _ => r
      | _, _, _ => r)

/-- The lane channel of an MX for a lane (R224). -/
def Element.laneChan (e : Element) (l : LaneId) : Option Nat :=
  (List.range 32).find? fun c => cfgDef (e.cfg c) && cfgLsrc (e.cfg c) == (match l with | .row _ => 1 | .col _ => 2)

/-- LANE_TRANSFER_ARRIVAL (R40, R224): the oldest transfer of a lane that an MX has yet to receive reaches its lane channel, its
scale transfers first; they take effect at the end of the fc. -/
def execLaneTransferArrival (slot : Nat) (l : LaneId) (x y : Nat) (s : State) : Host.Outcome State Fault Refusal :=
  .next (s.modRegion slot fun r =>
    match r.fly.find? fun f => f.lane == l && f.left.contains (x, y) with
    | none => r
    | some f =>
      if !r.moving || !r.holds x y then r
      else match (r.elem x y .mx).bind fun e => (e.laneChan l).map fun c => (e, c) with
        | none => r
        | some (e, c) =>
          let e1 := e.arrive c (.lane f.scales f.val)
          let fly := (upd r.fly (r.fly.findIdx (· == f)) fun g => { g with left := g.left.filter (· != (x, y)) }).filter fun g => !g.left.isEmpty
          { (r.modElem x y .mx fun _ => e1) with fly := fly })

end Sys2Proof.Machine
end

