-- ==== Sys2Proof/Machine/CcuUnit.lean ====
section
/-! DEFINITION. Counter-chain units (01 R37 to R39; 04 R136 to R139): the order of a chain, CCU_EMIT and CCU_ARM. -/

namespace Sys2Proof.Machine

def Ccu.word (c : Ccu) (i : Nat) : Nat := (c.words.getD i 0).toNat
def Ccu.en (c : Ccu) : Bool := bitN (c.word 12) 31
def Ccu.armed (c : Ccu) : Bool := bitN (c.word 12) 30
def Ccu.ovm (c : Ccu) (i : Nat) : Bool := bitN (c.word 12) (26 + i)
def Ccu.start (c : Ccu) (i : Nat) : Int := toSigned 32 (c.word (3 * i))
def Ccu.stepOf (c : Ccu) (i : Nat) : Int := toSigned 32 (c.word (3 * i + 1))
def Ccu.bounds (c : Ccu) : List Int := (List.range 4).map fun i => toSigned 32 (c.word (3 * i + 2))

/-- Counter `i` may hold `v` (R37): its test holds and the value is representable. -/
def Ccu.inRange (c : Ccu) (bound : List Int) (i : Nat) (v : Int) : Bool :=
  decide (-(2 ^ 31) ≤ v) && decide (v < 2 ^ 31) &&
    (if 0 < c.stepOf i then decide (v < bound.getD i 1) else decide (bound.getD i 1 < v))

/-- Counters 0 to `k` have completed together: the first outer counter that goes on names the end-of-stream level (R38). -/
def Ccu.complete (c : Ccu) (bound : List Int) (k : Nat) (vals : List Int) : List Int × Option Nat :=
  match ((List.range 4).filter fun j => decide (k < j)).find? fun j => c.inRange bound j (vals.getD j 0 + c.stepOf j) with
  | some j => (vals.set j (vals.getD j 0 + c.stepOf j), some j)
  | none => (vals, some 4)

/-- Counters `k` down to 0 start over: what stands next is an index, or the end of a level with no trips (R37, R38). -/
def Ccu.enter (c : Ccu) (bound : List Int) : Nat → List Int → List Int × Option Nat
  | 0, vals => (vals, none)
  | k + 1, vals =>
    let v := vals.set k (c.start k)
    if c.inRange bound k (c.start k) then Ccu.enter c bound k v else c.complete bound k v

/-- Begin a chain with its bounds (R138). -/
def Ccu.begin_ (c : Ccu) (bound : List Int) : Ccu :=
  let (v, e) := c.enter bound 4 [0, 0, 0, 0]
  { c with running := true, bound := bound, val := v, eos := e }

/-- The index token of R38. -/
def indexToken (vals : List Int) : Token :=
  { word := n32x4 (ofInt 32 (vals.getD 0 0)) (ofInt 32 (vals.getD 1 0)) (ofInt 32 (vals.getD 2 0)) (ofInt 32 (vals.getD 3 0)) }

/-- The token that stands next, and the unit after it (R38). -/
def Ccu.emit (c : Ccu) : Token × Ccu :=
  match c.eos with
  | some l =>
    if 4 ≤ l then ({ eosl := 4 }, { c with running := false, ranOnce := true, eos := none })
    else
      let (v, e) := c.enter c.bound l c.val
      ({ eosl := .ofNat 3 l }, { c with val := v, eos := e })
  | none =>
    let v0 := c.val.getD 0 0 + c.stepOf 0
    let (v, e) := if c.inRange c.bound 0 v0 then (c.val.set 0 v0, none) else c.complete c.bound 0 c.val
    (indexToken c.val, { c with val := v, eos := e })

/-- CCU_EMIT (R38, R357): a running chain with credit sends its next token, at most one in an fc; while its region drains, a
chain stops after an end-of-stream token of level 2 or more. -/
def execCcuEmit (t : TileAt) (s : State) : Host.Outcome State Fault Refusal :=
  .next (s.modRegion t.slot fun r =>
    match r.ccu t.x t.y with
    | none => r
    | some c =>
      if !r.acts t.x t.y (.ccu t.x t.y) || !c.running || c.stopped || c.fcred = 0 || c.emitFc == some s.fc then r
      else
        let (tok, c1) := c.emit
        r.modCcu t.x t.y fun _ =>
          { c1 with fcred := c.fcred - 1, out := c.out ++ [tok], emitFc := some s.fc
                    stopped := r.state == .draining && decide (2 ≤ tok.eosl.toNat) })

/-- CCU_ARM (R138): an idle unit takes the arm token at its head: poison freezes the region, an end-of-stream token is discarded,
any other starts a chain. -/
def execCcuArm (t : TileAt) (s : State) : Host.Outcome State Fault Refusal :=
  .next (match s.region t.slot with
    | none => s
    | some r =>
      match r.ccu t.x t.y with
      | none => s
      | some c =>
        match c.armq with
        | [] => s
        | a :: rest =>
          if !r.acts t.x t.y (.ccu t.x t.y) || c.running || c.stopped || s.fc ≤ a.arrived then s
          else
            let c1 := { c with armq := rest }
            let s1 := s.setRegion t.slot ((r.modCcu t.x t.y fun _ => c1).addCredits (.arm t.x t.y) 1 0)
            if a.tok.psn then
              s1.raiseFault t.slot { code := 0x31, det := 3, src := 5, x := t.x, y := t.y, elt := 4, info := 0 }
            else if a.tok.eosl != 0 then s1
            else
              let b := c.bounds.mapIdx fun i v => if c.ovm i then toSigned 32 (lane 32 i a.tok.word) else v
              s1.modRegion t.slot fun r => r.modCcu t.x t.y fun _ => { c1.begin_ b with emitFc := some s.fc })

end Sys2Proof.Machine
end

