-- ==== Sys2Proof/Machine/Forms.lean ====
section
/-! DEFINITION. What a fabric form asks of the bundle around it: its operand ports (04 R110, R112, R126 to R135; 05 R142, R146 to R165;
06 R181; 07 R197 to R218, R490; 08 R226), the output port it counts as a write to (R21, R190, R225), and the header flags it sets
(03 R84, R85). -/

namespace Sys2Proof.Machine

/-- Ports that a form requires. -/
def FOp.needs : FOp → List PortName
  | .nop | .recv _ | .peek _ | .drop _ | .rdr _ | .nul | .tmsk .. | .ldi .. | .sldi _ | .mark | .bkpt _ | .trap _ | .halt
  | .fence .. | .strmq _ | .mzro | .mstat | .state (some _) => []
  | .cmpl _ | .state none | .send .. | .sende .. | .sendp .. | .wrr _ | .fan | .merge | .amerge | .eosq | .tagq | .psnq | .isat .. | .fcls _
  | .frnd .. | .spec .. | .cvt .. | .qnt .. | .unpk .. | .red .. | .scan .. | .ord _ | .tevc _ | .tinv | .strm _ | .pref | .xprb
  | .mldb _ | .mma _ | .mdrn | .mctx _ | .mcnt => [.a]
  | .sel _ | .slid .. | .ldot _ => [.a, .b, .c]
  | .icmp .. | .aadd .. | .abnd _ | .steer | .gate | .join | .carry _ | .fcmp .. | .dqt .. | .pack _ | .shuf _ | .bcst _ | .zip ..
  | .uzp .. | .tlk | .tfil _ | .fencef .. | .mmas _ | .mdrc _ => [.a, .b]
  | .int o _ _ => match o with
    | .inot | .iabs | .ineg | .clz | .popc => [.a]
    | .imad | .bfi => [.a, .b, .c]
    | _ => [.a, .b]
  | .flt o _ => match o with
    | .fabs | .fneg | .fsqt => [.a]
    | .ffma | .ffms | .fnma => [.a, .b, .c]
    | _ => [.a, .b]
  | .scale o _ => match o with
    | .smov | .scmp | .sset | .sbnd => [.a]
    | .sget | .srel | .sgen | .szq | .snq | .sclr => []
    | _ => [.a, .b]
  | .acc o _ _ => match o with
    | .ld | .ldg => [.a]
    | .sct => [.a, .b, .c]
    | _ => [.a, .b]
  | .atom o _ _ _ => if o = .cas then [.a, .b, .c] else [.a, .b]

/-- Forms that take an optional port P. -/
def FOp.takesP : FOp → Bool
  | .recv _ | .peek _ | .drop _ | .state _ | .tmsk .. | .mark | .bkpt _ | .trap _ | .halt => true
  | .int .. | .icmp .. | .isat .. | .aadd .. | .abnd _ => true
  | .scale .. | .sldi _ => true
  | .flt .. | .fcmp .. | .fcls _ | .frnd .. | .spec .. => true
  | .acc .. | .atom .. | .ord _ | .cmpl _ | .fence .. | .fencef .. | .tlk | .tfil _ | .tevc _ | .tinv | .strm _ | .strmq _ | .pref | .xprb => true
  | .mldb _ | .mma _ | .mmas _ | .mzro | .mdrn | .mdrc _ | .mctx _ | .mcnt | .mstat => true
  | _ => false

/-- The output port that a form counts as a write to. -/
def FOp.outPort : FOp → Option Nat
  | .send q _ _ | .sende q _ _ _ | .sendp q _ _ => some q
  | .acc _ c _ | .atom _ _ c _ | .ord c | .cmpl c | .fencef c _ | .tfil c | .tevc c => some (8 + c)
  | .xprb => some 8
  | .mma _ | .mmas _ => some 13
  | .mldb _ => some 14
  | .mdrn | .mdrc _ => some 15
  | _ => none

/-- A gate form of the MX: at most one of each gate in a beat (R225). -/
def FOp.isGate : FOp → Bool
  | .mma _ | .mmas _ | .mldb _ | .mdrn | .mdrc _ => true
  | _ => false

/-- A form that returns a value or a completion token on its chain (R190). -/
def FOp.returns : FOp → Bool
  | .acc o _ _ => o == .ld || o == .ldg || o == .gth
  | .atom _ ret _ _ => ret
  | .cmpl _ | .tfil _ | .tevc _ | .xprb => true
  | _ => false

/-- A lane type that is F64. -/
def LaneTy.is64 (t : LaneTy) : Bool := t == .f64

/-- Flags [4:0] of the header that a form sets (R84): STW, MEQ, SRW and F64; LIT is the bundle's. -/
def FOp.flags : FOp → Nat
  | .state _ | .tmsk .. => 8
  | .wrr r => if r = .st ∨ r = .tm then 8 else 0
  | .acc .. | .atom .. | .ord _ | .cmpl _ | .fence .. | .fencef .. | .tlk | .tfil _ | .tevc _ | .tinv | .strm _ | .strmq _ | .pref | .xprb => 4
  | .scale .. | .sldi _ | .qnt .. => 2
  | .flt _ t | .fcmp t _ | .fcls t | .frnd t _ | .ldi t _ => b2n t.is64
  | .cvt d s _ => b2n (d.is64 || s.is64)
  | _ => 0

/-- Flags that a word's OP alone sets (R84): STATE and TMSK, the ME request forms, the scale forms and QNT. -/
def opFlags (op : Nat) : Nat :=
  if op = 0x0C ∨ op = 0x0D then 8
  else if 0x80 ≤ op ∧ op < 0xA4 then 4
  else if (0x30 ≤ op ∧ op < 0x40) ∨ op = 0xC1 ∨ op = 0x59 then 2
  else 0

/-- Writing forms of R168 other than QNT, with the entry they name. -/
def FOp.writesSrf : FOp → Option Nat
  | .scale o k => match o with
    | .scmp | .sget | .sbnd | .srel | .szq | .snq => none
    | _ => some k
  | .sldi k => some k
  | _ => none

/-- A literal that its form does not admit (R116, R183). -/
def FOp.badLiteral (o : FOp) (l : W32) : Bool :=
  match o with
  | .ldi t _ => decide (t.width < 32) && decide (2 ^ t.width ≤ l.toNat)
  | .sldi _ => decide (512 ≤ l.toNat)
  | _ => false

end Sys2Proof.Machine
end

