-- ==== Sys2Proof/Machine/Image.lean ====
section
/-! DEFINITION. Region images (11 R322 to R326; 14 R398; 16 R431): their bytes read into tiles, route records, relocations, node
entries and owned windows; a header or record that cannot be read gives the status of R97. -/

namespace Sys2Proof.Machine

/-- A failing item of an image, in the order in which Bedrock checks (R99): the header and section table first, then tiles in image order,
ELT, STR, index and DET, then the other sections. -/
structure Fail where
  grp : Nat := 1
  y : Nat := 0
  x : Nat := 0
  elt : Nat := 7
  str : Nat := 5
  idx : Nat := 0
  det : Nat
  code : Nat := 1
  /-- The tile (y, x) behind which Bedrock meets a record that is out of order. -/
  after : Option (Nat × Nat) := none
  deriving DecidableEq, Repr

def Fail.key (f : Fail) : Nat :=
  let (y, x) := f.after.getD (f.y, f.x)
  ((((((f.grp * 32 + y) * 128 + x) * 8 + f.elt) * 8 + f.str) * 1024 + f.idx) * 256 + f.det) * 4 + f.code

/-- The rejection status of R97. -/
def Fail.status (f : Fail) : Nat :=
  put 63 56 f.code + put 55 48 f.det + put 47 41 f.x + put 40 36 f.y + put 35 33 f.elt + put 32 30 f.str + put 29 20 f.idx

/-- The failure that Bedrock reports. -/
def firstFail (l : List Fail) : Option Fail :=
  match l with
  | [] => none
  | f :: r => some (r.foldl (fun a b => if b.key < a.key then b else a) f)

/-- A header or section-table error (R322). -/
def headerFail : Fail := { grp := 0, det := 0x20 }

/-- Number of `n` bytes at an offset. -/
def rd (bs : List Byte) (o n : Nat) : Nat := ofBytes ((bs.drop o).take n)

def rd64 (bs : List Byte) (o : Nat) : W64 := .ofNat 64 (rd bs o 8)
def rd32 (bs : List Byte) (o : Nat) : W32 := .ofNat 32 (rd bs o 4)

/-- Words of 4 or 8 bytes from an offset on. -/
def rds32 (bs : List Byte) (o n : Nat) : List W32 := (List.range n).map fun i => rd32 bs (o + 4 * i)
def rds64 (bs : List Byte) (o n : Nat) : List W64 := (List.range n).map fun i => rd64 bs (o + 8 * i)

def pad16 (n : Nat) : Nat := (n + 15) / 16 * 16

/-- Bytes of a range are all zero. -/
def zeroBytes (bs : List Byte) (o n : Nat) : Bool := ((bs.drop o).take n).all (· == 0)

/-! ### Tile records (R324) -/

/-- Length of an element part. -/
def eltPartLen (n : Nat) : Nat := pad16 (32 + 256 + 384 + 4 * n)

/-- An element part at an offset, with its length and whether its bits that must be 0 are; none when it passes the section's end. -/
def readElt (bs : List Byte) (o end_ : Nat) : Option (EltImg × Nat × Bool) :=
  let h0 := rd bs o 8
  let h1 := rd bs (o + 8) 8
  let n := fld h0 14 4
  let len := eltPartLen n
  if end_ < o + 32 || end_ < o + len || 1024 < n then none
  else
    some ({ stage := fld h0 3 0, seed := .ofNat 32 (fld h0 63 32)
            st := (List.range 4).map fun i => .ofNat 4 (fld h1 (4 * i + 3) (4 * i))
            tm := rds32 bs (o + 16) 4
            chans := rds64 bs (o + 32) 32
            trans := (List.range 32).map fun j => (rd32 bs (o + 288 + 12 * j), rd32 bs (o + 292 + 12 * j), rd32 bs (o + 296 + 12 * j))
            store := rds32 bs (o + 672) n }, len,
          fld h0 31 15 == 0 && fld h1 63 16 == 0 && zeroBytes bs (o + 672 + 4 * n) (len - 672 - 4 * n))

/-- A switch part: entry count, route entries, four delay-line settings. -/
def readSwitch (bs : List Byte) (o end_ : Nat) : Option ((List W64 × List W64) × Nat × Bool) :=
  let h := rd bs o 8
  let n := h % 256
  let len := pad16 (8 + 8 * n + 32)
  if end_ < o + 8 || end_ < o + len || 128 < n then none
  else some ((rds64 bs (o + 8) n, rds64 bs (o + 8 + 8 * n) 4), len, h == n && zeroBytes bs (o + 40 + 8 * n) (len - 40 - 8 * n))

/-- The parts of a tile record, in ELT order, with the ELT codes of those whose bits break R324; or what could be read before the part at which the
section ends. -/
def readParts (bs : List Byte) (end_ mask : Nat) : List Nat → Nat → TileImg → List Nat → Except (Nat × TileImg × List Nat) (TileImg × Nat × List Nat)
  | [], o, t, bad => .ok (t, o, bad)
  | k :: ks, o, t, bad =>
    let bad_ (ok : Bool) : List Nat := if ok then bad else bad ++ [k]
    if !bitN mask k then readParts bs end_ mask ks o t bad
    else match Elt.ofCode k with
      | some e =>
        match readElt bs o end_ with
        | some (p, len, ok) => readParts bs end_ mask ks (o + len) { t with elts := t.elts ++ [(e, p)] } (bad_ ok)
        | none => .error (k, t, bad)
      | none =>
        if k = 4 then
          if end_ < o + 64 then .error (4, t, bad)
          else readParts bs end_ mask ks (o + 64) { t with ccu := some (rds32 bs o 13) } (bad_ (zeroBytes bs (o + 52) 12))
        else match readSwitch bs o end_ with
          | some (p, len, ok) => readParts bs end_ mask ks (o + len) { t with sw := some p } (bad_ ok)
          | none => .error (5, t, bad)

/-- A failure of a tile record (R324). -/
def recordFail (x y elt : Nat) : Fail := { y := y, x := x, elt := elt, det := 0x20 }

/-- The tile records of a section, in ascending (y, x): those read, their failures, and whether they break off. A record or part with a bit that must
be 0 is read on, for the words before that bit are checked before it (R99). More records than tiles cannot ascend. -/
def readTiles (bs : List Byte) (end_ w h : Nat) : Nat → Nat → List TileImg → List Fail → List TileImg × List Fail × Bool
  | fuel, o, acc, fs =>
    let last := (acc.getLast?.map fun t => (t.x, t.y)).getD (0, 0)
    if end_ ≤ o then (acc, fs, false)
    else if end_ < o + 16 then (acc, fs ++ [recordFail last.1 last.2 7], true)
    else
      let h0 := rd bs o 8
      let x := fld h0 6 0
      let y := fld h0 11 7
      let order := match acc.getLast? with
        | some t => decide (t.y < y) || (t.y == y && decide (t.x < x))
        | none => true
      if w ≤ x || h ≤ y || !order then
        (acc, fs ++ [{ recordFail x y 7 with after := if order then none else some (last.2, last.1) }], true)
      else
        let fs1 := if fld h0 63 18 != 0 || rd bs (o + 8) 8 != 0 then fs ++ [recordFail x y 7] else fs
        match readParts bs end_ (fld h0 17 12) [0, 1, 2, 3, 4, 5] (o + 16) { x := x, y := y } [] with
        | .error (k, t, bad) => (acc ++ [{ t with broken := true }], fs1 ++ (bad ++ [k]).map (recordFail x y), true)
        | .ok (t, o', bad) =>
          match fuel with
          | 0 => (acc ++ [t], fs1 ++ bad.map (recordFail x y), false)
          | n + 1 => readTiles bs end_ w h n o' (acc ++ [t]) (fs1 ++ bad.map (recordFail x y))

/-! ### Sections (R323) -/

/-- Sections of an image: type, offset, length. -/
def readSections (bs : List Byte) (n : Nat) : List (Nat × Nat × Nat) :=
  (List.range n).map fun i => (rd bs (64 + 16 * i) 8, rd bs (72 + 16 * i) 4, rd bs (76 + 16 * i) 4)

/-- The section table keeps its rules. -/
def sectionsOk (secs : List (Nat × Nat × Nat)) (len : Nat) : Bool :=
  let head := 64 + 16 * secs.length
  secs.all (fun (t, o, n) => decide (1 ≤ t) && decide (t ≤ 6) && o % 16 == 0 && n % 16 == 0 && decide (head ≤ o) && decide (o + n ≤ len)) &&
    (secs.filter (·.1 == 1)).length == 1 &&
    ([2, 3, 4, 5, 6].all fun k => decide ((secs.filter (·.1 == k)).length ≤ 1)) &&
    (secs.mapIdx fun i a => (secs.drop (i + 1)).all fun b =>
      decide (a.2.1 + a.2.2 ≤ b.2.1) || decide (b.2.1 + b.2.2 ≤ a.2.1) || a.2.2 == 0 || b.2.2 == 0).all id

def sectionAt (secs : List (Nat × Nat × Nat)) (k : Nat) : Nat × Nat := ((secs.find? (·.1 == k)).map (·.2)).getD (0, 0)

/-- The header's words keep their rules (R322). -/
def headerOk (bs : List Byte) : Bool :=
  let h1 := rd bs 8 8
  let h2 := rd bs 16 8
  rd bs 0 8 == 0x4F58494D + 2 * 2 ^ 32 && fld h1 63 20 == 0 && fld h1 15 12 == 0 && decide (fld h1 19 17 ≤ 4) &&
    (bitN h1 16 || fld h1 19 17 == 0) && fld h2 63 40 == 0 && decide (1 ≤ fld h2 39 32) && decide (fld h2 39 32 ≤ 16) &&
    decide (64 + 16 * fld h2 39 32 ≤ fld h2 31 0) && zeroBytes bs 24 40

/-- Node entries (R431): the count word and the entries. -/
def readNodes (bs : List Byte) (o n : Nat) : Option (List (W64 × W64 × W64 × W64)) :=
  if n = 0 then some []
  else
    let c := rd bs o 8
    if 4096 < c || rd bs (o + 8) 8 != 0 || n < 16 + 32 * c then none
    else some ((List.range c).map fun i =>
      (rd64 bs (o + 16 + 32 * i), rd64 bs (o + 24 + 32 * i), rd64 bs (o + 32 + 32 * i), rd64 bs (o + 40 + 32 * i)))

/-- Read an image: what could be read of it, and the failures of its sections' own form. An image whose tile records break off is `cut`:
what lies behind them is not known. -/
def readImage (bs : List Byte) : Except Fail (Image × List Fail) :=
  if bs.length < 64 || !headerOk bs then .error headerFail
  else
    let h1 := rd bs 8 8
    let h2 := rd bs 16 8
    let len := fld h2 31 0
    let secs := readSections bs (fld h2 39 32)
    if bs.length < len || !sectionsOk secs len then .error headerFail
    else
      let w := fld h1 6 0 + 1
      let h := fld h1 11 7 + 1
      let (to_, tn) := sectionAt secs 1
      let (ro, rn) := sectionAt secs 2
      let (lo, ln) := sectionAt secs 3
      let (no, nn) := sectionAt secs 4
      let (wo, wn) := sectionAt secs 5
      let (ts, bad, cut) := readTiles bs (to_ + tn) w h 4097 to_ [] []
      let nodes := readNodes bs no nn
      if 256 < wn then .error headerFail
      else .ok ({ w := w, h := h, skp := bitN h1 16, msk := fld h1 19 17, tiles := ts, nodes := nodes.getD [], cut := cut
                  recs := (List.range (rn / 16)).map fun i => (rd64 bs (ro + 16 * i), rd64 bs (ro + 16 * i + 8))
                  relocs := rds64 bs lo (ln / 8)
                  owned := (List.range (wn / 16)).map fun i => (rd64 bs (wo + 16 * i), rd64 bs (wo + 16 * i + 8)) },
                bad ++ (if nodes.isNone then [{ grp := 2, det := 0x20 }] else []))

def Image.tile (i : Image) (x y : Nat) : Option TileImg := i.tiles.find? fun t => t.x == x && t.y == y
def TileImg.elt (t : TileImg) (e : Elt) : Option EltImg := look t.elts e

/-- The element as its image configures it (R22, R324). -/
def EltImg.elem (p : EltImg) (e : Elt) : Element :=
  { elt := e, stage := p.stage, store := p.store, trans := p.trans, chanCfg := p.chans, rng := p.seed
    banks := (List.range 4).map fun i => { st := p.st.getD i 0, tm := p.tm.getD i 0 } }

end Sys2Proof.Machine
end

