-- ==== Sys2Proof/Machine/Validate.lean ====
section
/-! DEFINITION. Bedrock's validation of a whole image (03 R96 to R99; 01 R18, R21, R37, R41; 02 R70; 04 R113, R116, R134, R137; 06 R173;
07 R190; 08 R224 to R226, R233; 14 R397 to R399; 16 R432), and the edges that its routes form. -/

namespace Sys2Proof.Machine

/-! ### Circuits of an image -/

/-- Route entries of an image tile: those of its switch part, then the die-crossing ones of the route section (R398). -/
def Image.entries (i : Image) (x y : Nat) : List W64 :=
  (((i.tile x y).bind (·.sw)).map (·.1)).getD [] ++
  (i.recs.filter fun (a, _) => fld a.toNat 15 12 == 1 && fld a.toNat 6 0 == x && fld a.toNat 11 7 == y).map (·.2)

/-- Image tiles that have a switch entry. -/
def Image.switchTiles (i : Image) : List (Nat × Nat) :=
  let a := i.tiles.map fun t => (t.x, t.y)
  let b := (i.recs.filter fun (w, _) => fld w.toNat 15 12 == 1).map fun (w, _) => (fld w.toNat 6 0, fld w.toNat 11 7)
  (a ++ b).eraseDups

def Image.entryAt (i : Image) (x y src six : Nat) : Option W64 :=
  (i.entries x y).find? fun e => rtV e && rtSrc e == src && rtSix e == six

/-- Where the circuit that leaves an image switch by an entry ends: tile and last entry; none when it breaks off. -/
def Image.follow (i : Image) : Nat → Nat → Nat → W64 → Option (Nat × Nat × W64)
  | 0, _, _, _ => none
  | fuel + 1, x, y, e =>
    if 5 ≤ rtDst e && rtDst e ≤ 8 then
      match neighbour x y (rtDst e) with
      | some (c, w) => (i.entryAt c w (opposite (rtDst e)) (rtDix e)).bind fun e' => Image.follow i fuel c w e'
      | none => none
    else some (x, y, e)

/-- A circuit of an image from its source: tile, SRC and SIX, to its last entry and that entry's tile. -/
structure Circuit where
  x : Nat
  y : Nat
  src : Nat
  six : Nat
  ex : Nat
  ey : Nat
  last : W64
  deriving DecidableEq, Repr

def Image.circuits (i : Image) : List Circuit :=
  let n := (i.switchTiles.map fun (x, y) => (i.entries x y).length).foldl (· + ·) 1
  i.switchTiles.flatMap fun (x, y) => (i.entries x y).filterMap fun e =>
    if rtV e && rtSrc e ≤ 4 then
      (i.follow n x y e).map fun (ex, ey, l) => { x := x, y := y, src := rtSrc e, six := rtSix e, ex := ex, ey := ey, last := l }
    else none

/-- A tile whose switch part has not been read, because the tile records break off at it or before it (R99). -/
def Image.unseen (i : Image) (x y : Nat) : Bool :=
  i.cut && (match i.tiles.getLast? with
    | none => true
    | some t => decide (t.y < y) || (t.y == y && (decide (t.x < x) || (t.x == x && t.broken))))

/-- Ports and CCU outputs that a route or a span connects; those of a tile whose switch part was not read may be. -/
def Image.connected (i : Image) (x y src six : Nat) : Bool :=
  i.unseen x y || (i.entryAt x y src six).isSome || (i.spans.any fun (sx, sy, b) => spanOut b && sx == x && sy == y && spanElt b == src && spanIx b == six)

def sourceOf (x y src six : Nat) : SourceId :=
  match Elt.ofCode src with
  | some e => .port x y e six
  | none => .ccu x y

/-- The destination of a circuit that ends with an entry at a tile. -/
def destOf (x y : Nat) (e : W64) : DestId :=
  match Elt.ofCode (rtDst e) with
  | some k => .chan x y k (rtDix e)
  | none => if rtDst e = 4 then .arm x y else if rtDst e = 9 then .lane (.row y) else .lane (.col x)

/-- Lanes with their entry: where the driver is, and the entry. -/
def Image.lanes (i : Image) : List (LaneId × W64) :=
  i.switchTiles.flatMap fun (x, y) => (i.entries x y).filterMap fun e =>
    if rtV e && rtDst e == 9 then some (.row y, e) else if rtV e && rtDst e == 10 then some (.col x, e) else none

/-- The lane channel of an image's MX for a lane (R224). -/
def Image.laneChan (i : Image) (x y : Nat) (l : LaneId) : Option Nat :=
  ((i.tile x y).bind (·.elt .mx)).bind fun p => (List.range 32).find? fun c =>
    cfgDef (p.chans.getD c 0) && cfgLsrc (p.chans.getD c 0) == (match l with | .row _ => 1 | .col _ => 2)

/-- The MX tiles that accept a lane's transfers (R40). -/
def Image.laneTiles (i : Image) (l : LaneId) (e : W64) : List (Nat × Nat) :=
  (i.tiles.filter fun t =>
    (match l with | .row y => t.y == y | .col x => t.x == x) && (rtRall e || rtLrow e == t.y) && (rtCall e || rtLcol e == t.x) &&
      (i.laneChan t.x t.y l).isSome).map fun t => (t.x, t.y)

/-- Every edge of an image (R18): circuits, lanes to their channels, spans. -/
def Image.edges (i : Image) : List Edge :=
  (i.circuits.map fun c => { src := sourceOf c.x c.y c.src c.six, dst := destOf c.ex c.ey c.last }) ++
  (i.lanes.flatMap fun (l, e) => (i.laneTiles l e).filterMap fun (x, y) =>
    (i.laneChan x y l).map fun c => { src := .lane l, dst := .chan x y .mx c }) ++
  (i.spans.filterMap fun (x, y, b) => (Elt.ofCode (spanElt b)).map fun e =>
    if spanOut b then { src := .port x y e (spanIx b), dst := .span (spanNo b) }
    else { src := .span (spanNo b), dst := .chan x y e (spanIx b) })

/-! ### Elements -/

/-- A slot of a bundle as validation reads it: its index, word, what it decodes to, the form its OP and MOD name, and its literal. -/
structure VSlot where
  ix : Nat
  word : W32
  res : Except (Nat × Nat) Slot
  form : Option FOp
  lit : Option W32 := none
  lacks : Bool := false

/-- The slots of a bundle (R83). -/
def vslots (k : Kind) : Nat → List W32 → List VSlot
  | _, [] => []
  | i, [w] => [{ ix := i, word := w, res := decodeSlot k w, form := slotForm k w, lacks := bearsLiteral (fld w.toNat 31 24) }]
  | i, w :: l :: r =>
    if bearsLiteral (fld w.toNat 31 24) then { ix := i, word := w, res := decodeSlot k w, form := slotForm k w, lit := some l } :: vslots k (i + 2) r
    else { ix := i, word := w, res := decodeSlot k w, form := slotForm k w } :: vslots k (i + 1) (l :: r)

def VSlot.slot (v : VSlot) : Option Slot := match v.res with | .ok s => some s | .error _ => none
def VSlot.op (v : VSlot) : Option FOp := v.slot.map (·.op)

/-- An element of an image, with where it stands. -/
structure EltIn where
  img : Image
  x : Nat
  y : Nat
  e : Elt
  p : EltImg

def EltIn.cfg (z : EltIn) (c : Nat) : W64 := z.p.chans.getD c 0
def EltIn.word (z : EltIn) (a : Nat) : Nat := (z.p.store.getD a 0).toNat
def EltIn.el (z : EltIn) : Element := z.p.elem z.e

/-- A failure at an element. -/
def EltIn.fail (z : EltIn) (str idx det : Nat) (code : Nat := 1) : Fail :=
  { y := z.y, x := z.x, elt := z.e.code, str := str, idx := idx, det := det, code := code }

/-- Failures that hold when a condition does. -/
def failIf (c : Bool) (f : Fail) : List Fail := if c then [f] else []

/-- Bundle addresses that enabled transitions name, ascending. -/
def EltIn.heads (z : EltIn) : List Nat :=
  (List.range 1024).filter fun a => (List.range 32).any fun j => (z.el.tran j).en && (z.el.tran j).badr == a

/-- The store words of a bundle. -/
def EltIn.range (z : EltIn) (a : Nat) : Nat × Nat := (a, a + fld (z.word a) 31 26 + 1)

def EltIn.slots (z : EltIn) (a : Nat) : List VSlot :=
  vslots z.e.kind 0 ((List.range (fld (z.word a) 31 26 + 1)).map fun i => z.p.store.getD (a + 1 + i) 0)

/-- Transitions that name a bundle. -/
def EltIn.named (z : EltIn) (a : Nat) : List Nat := (List.range 32).filter fun j => (z.el.tran j).en && (z.el.tran j).badr == a

/-- The windows of an element: channel, first and last entry (R173). -/
def EltIn.windows (z : EltIn) : List (Nat × Nat × Nat) :=
  (List.range 32).filterMap fun c =>
    if cfgDef (z.cfg c) && bitN (cfgFmtCode (z.cfg c)) 4 then some (c, cfgSwb (z.cfg c), cfgSwb (z.cfg c) + cfgDepth (z.cfg c) - 1) else none

/-- Store words outside bundles, and bundles that overlap or leave the store (R86). -/
def EltIn.storeFails (z : EltIn) : List Fail :=
  let hs := z.heads
  (hs.mapIdx fun i a =>
    failIf (decide (1023 < (z.range a).2) || (hs.take i).any fun b => decide (a ≤ (z.range b).2)) (z.fail 0 a 0x20)).flatten ++
  ((List.range z.p.store.length).flatMap fun w =>
    failIf (z.word w != 0 && !hs.any fun a => decide (a ≤ w) && decide (w ≤ (z.range a).2)) (z.fail 0 w 0x20))

/-- The header of a bundle (R84, R85); a word that fails a check of its own counts by its OP, and by the form its OP and MOD name. -/
def EltIn.headerFails (z : EltIn) (a : Nat) : List Fail :=
  let h := z.word a
  let ss := z.slots a
  let fl := ss.foldl (fun (n : Nat) v => n ||| opFlags (fld v.word.toNat 31 24) ||| (v.form.map FOp.flags).getD 0) (if ss.any (·.lit.isSome) then 16 else 0)
  failIf (fld h 9 5 != 0 || fld h 4 0 != fl) (z.fail 0 a 0x20)

/-- Channels that a slot reads. -/
def FOp.channel : FOp → Option Nat
  | .recv c | .peek c | .drop c => some c
  | _ => none

/-- Whether a target index is a slot that executes. -/
def isSlot (ss : List VSlot) (t : Nat) : Bool := ss.any (·.ix == t)

/-- The port rules of a form (R21, R85, R113, R190, R225). Every form that names a port counts as a write to it, though nulls or a STEER may
keep two of them from one beat (DESIGN CHOICE, log entry 98). -/
def EltIn.portFails (z : EltIn) (opm : Nat) (ss : List VSlot) (v : VSlot) (o : FOp) (w : Nat) : List Fail :=
  let sendBad := match o with
    | .send q _ _ | .sende q _ _ _ | .sendp q _ _ => (z.e == .me && 8 ≤ q) || (z.e == .mx && 13 ≤ q)
    | _ => false
  match o.outPort with
  | none => []
  | some q =>
    let before := (ss.filter fun u => u.ix ≤ v.ix && (u.form.bind FOp.outPort) == some q).length
    failIf (sendBad || decide ((if o.isGate then 1 else 2) < before) || !bitN opm q) (z.fail 0 w 0x21) ++
    (match o with
     | .send .. | .sende .. | .sendp .. => failIf (!sendBad && !z.img.connected z.x z.y z.e.code q) (z.fail 0 w 0x15)
     | _ => failIf (o.returns && !z.img.connected z.x z.y z.e.code q) (z.fail 0 w 0x15))

/-- A word checked by itself and in its bundle (R81, R113, R114, R116, R173, R190, R225, R233), in every check that the form its OP and MOD
name is open to. Where the
spec names no word, a literal that its form does not admit fails at the literal-bearing word, and a RECV, PEEK or DROP of a channel outside
trigger and REQ at the transition entry (DESIGN CHOICE, log entry 97). -/
def EltIn.slotFails (z : EltIn) (a : Nat) (ss : List VSlot) (v : VSlot) : List Fail :=
  let w := a + 1 + v.ix
  (match v.res with | .error (code, det) => [z.fail 0 w det code] | .ok _ => []) ++ failIf v.lacks (z.fail 0 w 0x14) ++
  match v.form with
  | none => []
  | some o =>
    let names := z.named a
    let cons := wordCons v.word
    failIf (cons.any fun c => decide (c.1 ≤ v.ix) || !isSlot ss c.1) (z.fail 0 w 0x12) ++
    failIf ((v.lit.map o.badLiteral).getD false) (z.fail 0 w 0x10) ++
    failIf ((o.writesSrf.map fun k => z.windows.any fun (_, lo, hi) => decide (lo ≤ k) && decide (k ≤ hi)).getD false) (z.fail 0 w 0x10) ++
    (match o.channel with
     | some c =>
       failIf (!cfgDef (z.cfg c)) (z.fail 0 w 0x15) ++
       names.flatMap fun j => failIf (c != (z.el.tran j).trig && !bitN (z.el.tran j).req c) (z.fail 1 j 0x30)
     | none => []) ++
    z.portFails (fld (z.word a) 25 10) ss v o w ++
    (match o with
     | .mmas f => failIf ((z.img.tile z.x z.y).all fun t => (t.elt .me).isNone) (z.fail 0 w 0x15) ++ failIf f.isBx (z.fail 0 w 0x10)
     | _ => []) ++
    (match o, o.channel with
     | .recv _, some c | .peek _, some c =>
       if cfgLsrc (z.cfg c) = 0 then []
       else cons.flatMap fun (t, pn) =>
         match (ss.find? (·.ix == t)).bind (·.form) with
         | some (.mldb f) | some (.mma f) =>
           failIf (pn != .a) (z.fail 0 (a + 1 + t) 0x13) ++ failIf (pn == .a && cfgFmtCode (z.cfg c) != f.code) (z.fail 0 (a + 1 + t) 0x41)
         | _ => [z.fail 0 (a + 1 + t) 0x13]
     | _, _ => [])

/-- Edges into each slot's ports (R81, R99): fed twice, required and unfed, or absent. -/
def EltIn.edgeFails (z : EltIn) (a : Nat) (ss : List VSlot) : List Fail :=
  let edges := ss.flatMap fun v => (wordCons v.word).filter fun c => decide (v.ix < c.1) && isSlot ss c.1
  ss.flatMap fun v =>
    match v.form with
    | none => []
    | some o =>
      let into := (edges.filter (·.1 == v.ix)).map (·.2)
      failIf (([PortName.a, .b, .c, .p].any fun pn => decide (1 < (into.filter (· == pn)).length)) ||
        (o.needs.any fun pn => !into.contains pn) ||
        (into.any fun pn => !o.needs.contains pn && !(pn == .p && o.takesP))) (z.fail 0 (a + 1 + v.ix) 0x13)

/-- Transition entries (R85, R87, R88). A store word that the image holds and an entry names is a bundle's header, be it the zero word of a
bundle of one NOP; an address past the image's store words is none. An OPM outside OSPC fails at the transition entry. -/
def EltIn.tranFails (z : EltIn) : List Fail :=
  (List.range 32).flatMap fun j =>
    let t := z.el.tran j
    if !t.en then failIf (t.w0 != 0 || t.w1 != 0 || t.req != 0) (z.fail 1 j 0x30)
    else
      failIf (fld t.w0 13 10 != 0 || fld t.w1 19 16 != 0 || z.p.store.length ≤ t.badr || !cfgDef (z.cfg t.trig) ||
        ((List.range 32).any fun c => bitN t.req c && !cfgDef (z.cfg c)) || bitN t.req t.trig || (!t.fixed && t.bnk != 0) ||
        (t.ptst == 0 && t.preg != 0)) (z.fail 1 j 0x30) ++
      failIf ((List.range 16).any fun q => bitN (fld (z.word t.badr) 25 10) q && !bitN t.ospc q) (z.fail 1 j 0x21)

/-- Blocks of one lane payload (R223). -/
def laneNb (c : W64) : Nat := match cfgFmt c with | some f => laneBlocks f (cfgBlenCode c) | none => 0

/-- Channel entries (R70, R89, R90, R173, R224). -/
def EltIn.chanFails (z : EltIn) : List Fail :=
  (List.range 32).flatMap fun i =>
    let c := z.cfg i
    let n := c.toNat
    if !cfgDef c then failIf (n != 0) (z.fail 2 i 0x31)
    else
      let lane := cfgLsrc c == 1 || cfgLsrc c == 2
      let lid : LaneId := if cfgLsrc c == 1 then .row z.y else .col z.x
      let modes := [fld n 31 30, fld n 29 28, fld n 27 26, fld n 25 24, fld n 23 22]
      let common := fld n 14 0 == 0 && cfgCtm c != 3 && (cfgCtm c == 2 || cfgCtv c == 0) && decide (cfgEosh c ≤ 2) && !modes.contains 3 &&
        cfgLsrc c != 3 && (cfgLsrc c == 0 || z.e == .mx)
      let far := if cfgLsrc c = 1 then z.img.unseen (z.img.w - 1) z.y else z.img.unseen z.x (z.img.h - 1)
      let laneOk := !lane || (((List.range i).all fun k => !(cfgDef (z.cfg k) && cfgLsrc (z.cfg k) == cfgLsrc c)) &&
        (far || z.img.lanes.any fun l => l.1 == lid) && cfgStk c == 0)
      let fmtOk := match cfgFmt c with
        | none => false
        | some (.lane _) => cfgBlenCode c == 0 && cfgSwb c == 0 && cfgDepth c == 1
        | some (.block f) =>
          (f.isBx || cfgBlenCode c == 2) && decide (cfgSwb c + cfgDepth c ≤ 64) &&
            ((z.windows.filter fun (k, _, _) => decide (k < i)).all fun (_, lo, hi) =>
              decide (hi < cfgSwb c) || decide (cfgSwb c + cfgDepth c ≤ lo)) &&
            (!lane || decide (laneNb c ≤ cfgDepth c))
      failIf (!(common && laneOk && fmtOk)) (z.fail 2 i 0x31)

def EltIn.fails (z : EltIn) : List Fail :=
  z.storeFails ++ (z.heads.flatMap fun a =>
    let ss := z.slots a
    z.headerFails a ++ (ss.flatMap (z.slotFails a ss)) ++ z.edgeFails a ss) ++ z.tranFails ++ z.chanFails

/-! ### CCUs and switches -/

/-- CCU configuration (R37, R137). Where the tile records break off, a circuit that may go on behind them counts as whole. -/
def Image.ccuFails (i : Image) (t : TileImg) (ws : List W32) : List Fail :=
  let w (k : Nat) : Nat := (ws.getD k 0).toNat
  let f (k : Nat) : Fail := { y := t.y, x := t.x, elt := 4, str := 3, idx := k, det := 0x43 }
  let es := (i.entries t.x t.y).filter rtV
  let out := (i.circuits.any fun c => c.x == t.x && c.y == t.y && c.src == 4 && rtDst c.last ≤ 4) ||
    i.unseen t.x t.y || (i.cut && es.any fun e => rtSrc e == 4 && (i.follow (128 * i.w * i.h + 1) t.x t.y e).isNone)
  let arm := (i.circuits.any fun c => c.ex == t.x && c.ey == t.y && rtDst c.last == 4) ||
    i.unseen t.x t.y || (i.cut && es.any fun e => rtDst e == 4)
  if !bitN (w 12) 31 then
    (List.range 13).flatMap fun k => failIf (w k != (if k = 12 then 0 else if k % 3 = 0 then 0 else 1)) (f k)
  else
    ((List.range 4).flatMap fun k => failIf (w (3 * k + 1) == 0) (f (3 * k + 1))) ++
    failIf (fld (w 12) 25 0 != 0 || (!bitN (w 12) 30 && fld (w 12) 29 26 != 0) ||
      !out || (bitN (w 12) 30 && !arm)) (f 12)

/-- The index of a route entry's circuit is in range (R395): [6:5] is 0, or in the route section a boundary, which an east or west link alone
crosses. -/
def circuitOk (section_ : Bool) (side c : Nat) : Bool := decide (c % 32 < 24) && (decide (c < 24) || (section_ && (side == 6 || side == 8) && decide (c < 96)))

/-- One route entry (R396, R397). -/
def Image.routeFails (i : Image) (t : Nat × Nat) (es : List W64) (own : Nat) (k : Nat) (e : W64) : List Fail :=
  let f (det : Nat) : Fail := { y := t.2, x := t.1, elt := 5, str := 4, idx := k, det := det }
  if !rtV e then failIf (e != 0) (f 0x44)
  else
    let sec := decide (own ≤ k)
    let lanef := rtLrow e != 0 || rtLcol e != 0 || rtRall e || rtCall e
    let before := (es.take k).filter rtV
    let mesh := decide (5 ≤ rtDst e) && decide (rtDst e ≤ 8)
    let next := (neighbour t.1 t.2 (rtDst e)).map fun (c, r) =>
      decide (c < i.w) && decide (r < i.h) && (i.unseen c r || (i.entryAt c r (opposite (rtDst e)) (rtDix e)).isSome)
    let lane := rtDst e == 9 || rtDst e == 10
    let ok := fld e.toNat 23 0 == 0 && decide (rtSrc e ≤ 8) && decide (rtDst e ≤ 10) &&
      (if rtSrc e < 4 then decide (rtSix e < 16) else if rtSrc e = 4 then rtSix e == 0 else circuitOk sec (rtSrc e) (rtSix e)) &&
      (if rtDst e < 4 then decide (rtDix e < 32) else if mesh then circuitOk sec (rtDst e) (rtDix e) else rtDix e == 0) &&
      (rtDle e || rtDln e == 0) && (lane || !lanef) && !(rtRall e && rtLrow e != 0) && !(rtCall e && rtLcol e != 0) &&
      (before.all fun b => !(rtSrc b == rtSrc e && rtSix b == rtSix e)) &&
      (!mesh || before.all fun b => !(rtDst b == rtDst e && rtDix b == rtDix e)) &&
      (!rtDle e || before.all fun b => !(rtDle b && rtDln b == rtDln e)) &&
      (!mesh || next == some true) &&
      (!lane || (i.lanes.filter fun l => l.1 == (if rtDst e = 9 then .row t.2 else .col t.1)).length == 1)
    let undef := match Elt.ofCode (rtDst e) with
      | some d => ((i.tile t.1 t.2).bind (·.elt d)).all fun p => !cfgDef (p.chans.getD (rtDix e) 0)
      | none => rtDst e == 4 && ((i.tile t.1 t.2).bind (·.ccu)).all fun c => !bitN (c.getD 12 0).toNat 31
    failIf (!ok) (f 0x44) ++ failIf (rtSrc e == 3 && decide (13 ≤ rtSix e) && decide (rtSix e < 16)) (f 0x21) ++ failIf undef (f 0x15)

/-- A switch's entries and delay-line settings (R399). -/
def Image.switchFails (i : Image) (t : Nat × Nat) : List Fail :=
  let es := i.entries t.1 t.2
  let sw := (i.tile t.1 t.2).bind (·.sw)
  let own := (sw.map fun s => s.1.length).getD 0
  (es.mapIdx fun k e => i.routeFails t es own k e).flatten ++
  failIf (decide (128 < es.length)) { y := t.2, x := t.1, elt := 5, str := 4, idx := 127, det := 0x44 } ++
  (((sw.map (·.2)).getD []).mapIdx fun k d =>
    failIf ((!bitN d.toNat 63 && d != 0) || fld d.toNat 54 0 != 0) { y := t.2, x := t.1, elt := 5, str := 4, idx := 128 + k, det := 0x44 }).flatten

/-! ### Edges, lanes, nodes -/

/-- A channel whose RECV feeds port A of a CARRY, in a transition whose state match requires st[3] = 1 (R134). -/
def EltIn.backEdge (z : EltIn) (c : Nat) : Bool :=
  z.heads.any fun a =>
    ((z.named a).any fun j => bitN (z.el.tran j).smsk 3 && bitN (z.el.tran j).sval 3) &&
    (let ss := z.slots a
     ss.any fun v => match v.slot with
       | some { op := .recv k, con0 := c0, con1 := c1 } =>
         k == c && [c0, c1].any fun t => match t with
           | some (i, .a) => (match (ss.find? (·.ix == i)).bind VSlot.op with | some (.carry _) => true | _ => false)
           | _ => false
       | _ => false)

def Image.eltIn (i : Image) (x y : Nat) (e : Elt) : Option EltIn :=
  ((i.tile x y).bind (·.elt e)).map fun p => { img := i, x := x, y := y, e := e, p := p }

/-- The stage of a source: its element's; a CCU has none. -/
def Image.stageOf (i : Image) : SourceId → Option Nat
  | .port x y e _ => (i.eltIn x y e).map (·.p.stage)
  | _ => none

/-- Failures of a channel's edges: sources (R18), format (R70) and stage (R41); each fails at the fed channel's table entry. -/
def Image.edgeFails (i : Image) (es : List Edge) : List Fail :=
  es.flatMap fun ed => match ed.dst with
    | .chan x y e c =>
      match i.eltIn x y e with
      | none => []
      | some z =>
        let f (det : Nat) : Fail := z.fail 2 c det
        let lane := match ed.src with | .lane _ => true | _ => false
        let stage := match ed.src with
          | .lane l => (i.circuits.filter fun (k : Circuit) => destOf k.ex k.ey k.last == DestId.lane l).head?.bind fun (k : Circuit) => i.stageOf (sourceOf k.x k.y k.src k.six)
          | s => i.stageOf s
        failIf (decide (1 < (es.filter fun d => d.dst == ed.dst).length) || (!lane && cfgLsrc (z.cfg c) != 0)) (f 0x40) ++
        (match ed.src with
         | .ccu _ _ => failIf (cfgFmtCode (z.cfg c) != 2 && cfgFmtCode (z.cfg c) != 5) (f 0x41)
         | .lane l =>
           let first := (es.find? fun d => d.src == .lane l).bind fun d => match d.dst with
             | .chan fx fy fe fc => (i.eltIn fx fy fe).map fun g => (cfgFmtCode (g.cfg fc), cfgBlenCode (g.cfg fc))
             | _ => none
           failIf (first != some (cfgFmtCode (z.cfg c), cfgBlenCode (z.cfg c))) (f 0x41)
         | _ => []) ++
        failIf ((stage.map fun s => decide (z.p.stage < s) && !z.backEdge c).getD false) (f 0x42)
    | .arm x y => failIf (decide (1 < (es.filter fun d => d.dst == ed.dst).length)) { y := y, x := x, elt := 4, str := 3, idx := 12, det := 0x40 }
    | _ => []

/-- Node entries (R432). -/
def Image.nodeFails (i : Image) : List Fail :=
  let key (n : Nat) : Nat := fld n 43 39 * 1024 + fld n 38 32 * 8 + fld n 46 44
  let bad : Bool := (i.nodes.mapIdx fun k (a, b, _, _) =>
    let n := a.toNat
    let z := (Elt.ofCode (fld n 46 44)).bind fun e => i.eltIn (fld n 38 32) (fld n 43 39) e
    fld n 63 53 != 0 || b != 0 || z.isNone || fld n 31 0 == 0xFFFFFFFF ||
      (bitN n 47 && (z.map fun w => !cfgDef (w.cfg (fld n 52 48))).getD true) ||
      (decide (0 < k) && decide (key n ≤ key ((i.nodes.getD (k - 1) (0, 0, 0, 0)).1.toNat)))).any id
  failIf bad { grp := 2, det := 0x20 }

/-- Records of the route section, relocation entries and owned windows (R325, R326, R398) (DESIGN CHOICE, log entry 129). -/
def Image.sectionFails (i : Image) : List Fail :=
  let f : Fail := { grp := 2, det := 0x44 }
  (i.recs.flatMap fun (a, b) =>
    let t := fld a.toNat 15 12
    failIf (fld a.toNat 63 16 != 0 || !(t == 1 || t == 2 || t == 3) || i.w ≤ fld a.toNat 6 0 || i.h ≤ fld a.toNat 11 7 ||
      (t == 2 && (fld b.toNat 54 52 != 0 || fld b.toNat 47 0 != 0 || (rtV b && fld b.toNat 51 48 == 0) || (!rtV b && b != 0))) ||
      (t == 1 && rtV b && !(rtSrc b == 6 || rtSrc b == 8 || rtDst b == 6 || rtDst b == 8)) ||
      (t == 3 && (fld b.toNat 34 0 != 0 || (rtV b && 3 < spanElt b) || (!rtV b && b != 0) || (rtV b && spanOut b && 15 < spanIx b)))) f ++
    failIf (t == 3 && rtV b && spanOut b && spanElt b == 3 && decide (13 ≤ spanIx b)) { f with det := 0x21 }) ++
  (i.relocs.flatMap fun w =>
    let n := w.toNat
    let kind := fld n 63 60
    let off := fld n 55 24
    let wid := fld n 15 8
    failIf (!(decide (1 ≤ kind) && decide (kind ≤ 4)) || off % 16 != 8 || i.recs.length ≤ off / 16 || fld n 59 56 != 0 || fld n 7 0 != 0 ||
      wid == 0 || 16 < wid || 64 < fld n 23 16 + wid) f) ++
  (i.owned.flatMap fun (a, b) =>
    failIf (fld a.toNat 15 0 != 0 || fld a.toNat 63 52 != 0 || fld b.toNat 63 48 != 0 || fld b.toNat 31 12 != 0 ||
      ((i.tile (fld b.toNat 6 0) (fld b.toNat 11 7)).bind (·.elt .me)).isNone) { grp := 2, det := 0x20 })

/-- Every failure of an image that can be read (R96). -/
def Image.fails (i : Image) : List Fail :=
  (i.tiles.flatMap fun t =>
    (t.elts.flatMap fun (e, p) => ({ img := i, x := t.x, y := t.y, e := e, p := p } : EltIn).fails) ++
    (match t.ccu with | some ws => i.ccuFails t ws | none => [])) ++
  i.switchTiles.flatMap i.switchFails ++ i.edgeFails i.edges ++ i.nodeFails ++ i.sectionFails

/-- IMAGE_VALIDATION (R96): the image, or the status of the first failure. -/
def validateImage (bs : List Byte) : Except Nat Image :=
  match readImage bs with
  | .error f => .error f.status
  | .ok (i, own) =>
    match firstFail (own ++ i.fails) with
    | some f => .error f.status
    | none => .ok i

end Sys2Proof.Machine
end

