-- ==== Sys2Proof/Machine/Place.lean ====
section
/-! DEFINITION. Placement and configuration of a region (11 R326 to R331; 14 R398, R399, R401; 07 R203; 10 R290): relocation, the search, owned
windows, and the tiles, switches, drivers and credits that an image gives its region. -/

namespace Sys2Proof.Machine

/-! ### Occupancy and defects (R328) -/

/-- A region holds a physical tile of its own: a shadow holds none (R251). -/
def Region.heldAt (r : Region) (col row : Nat) : Bool :=
  r.state.holdsTiles && r.shadowOf.isNone && match r.place with
    | some p => decide (p.ocol ≤ col) && decide (col ≤ p.ocol + p.wm1 + p.skipped.length) && decide (p.orow ≤ row) && decide (row ≤ p.orow + p.hm1)
    | none => false

/-- Whose tiles a placement may take: free ones, its own when it moves (`self`), or those of the occupant of a shadow. -/
structure Tenancy where
  self : Option Nat := none
  occupant : Option Nat := none

def State.tileFree (s : State) (w : Tenancy) (col row : Nat) : Bool :=
  match w.occupant with
  | some k => ((s.region k).map fun r => r.heldAt col row).getD false
  | none => s.regions.all fun p => some p.1 == w.self || !p.2.heldAt col row

def State.defectAt (s : State) (col row : Nat) : Nat := (look s.defects (col, row)).getD 0

/-- Units that an image tile configures, as bits of the defect map. -/
def TileImg.uses (t : TileImg) : List Nat := t.elts.map (fun e => e.1.code) ++ (if t.ccu.isSome then [4] else [])

/-- A physical column serves an image column at an origin row (R328). -/
def State.serves (s : State) (w : Tenancy) (i : Image) (orow c x : Nat) : Bool :=
  (List.range i.h).all fun y =>
    s.tileFree w c (orow + y) && !bitN (s.defectAt c (orow + y)) 5 &&
      (((i.tile x y).map TileImg.uses).getD []).all fun k => !bitN (s.defectAt c (orow + y)) k

/-- A physical column may be skipped (R328). -/
def State.skippable (s : State) (w : Tenancy) (i : Image) (orow c : Nat) : Bool :=
  (List.range i.h).all fun y => s.tileFree w c (orow + y) && !bitN (s.defectAt c (orow + y)) 5

/-- Columns of an origin: the skipped ones, once every image column is served (R329). -/
def State.fit (s : State) (w : Tenancy) (i : Image) (orow east : Nat) : Nat → Nat → Nat → List Nat → Option (List Nat)
  | 0, _, x, sk => if i.w ≤ x then some sk else none
  | fuel + 1, c, x, sk =>
    if i.w ≤ x then some sk
    else if east ≤ c then none
    else if s.serves w i orow c x then State.fit s w i orow east fuel (c + 1) (x + 1) sk
    else if i.skp && sk.length < i.msk && s.skippable w i orow c then State.fit s w i orow east fuel (c + 1) x (sk ++ [c])
    else none

/-! ### Relocation (R326, R327) -/

/-- Circuits of an image at its boundary `b`: the highest number used, plus 1. -/
def Image.blockSize (i : Image) (b : Nat) : Nat :=
  ((i.relocs.filter fun w => fld w.toNat 63 60 == 1).map fun w =>
    let n := w.toNat
    let v := ((i.recs.getD (fld n 55 24 / 16) (0, 0)).2.toNat / 2 ^ fld n 23 16) % 2 ^ fld n 15 8
    if fld v 6 5 = b then fld v 4 0 + 1 else 0).foldl max 0

/-- The circuit block a region's occupant or shadow holds at a die boundary: base and size (R395). -/
def Region.blockAt (r : Region) (d : Nat) : Nat × Nat :=
  match r.place, r.image with
  | some p, some i => if p.d0 ≤ d then (p.cb.getD (d - p.d0) 0, i.blockSize (d - p.d0)) else (0, 0)
  | _, _ => (0, 0)

/-- Circuit bases: 0, or past the occupant's block when the region is its shadow. -/
def State.circuitBases (s : State) (w : Tenancy) (i : Image) (d0 : Nat) : List Nat :=
  (List.range 3).map fun b =>
    match w.occupant.bind s.region with
    | some o =>
      let (base, n) := o.blockAt (d0 + b)
      if n = 0 || i.blockSize b ≤ base then 0 else base + n
    | none => 0

/-- Die boundaries that a placed region crosses. -/
def Place.crossings (p : Place) : Nat := dieOfCol (p.ocol + p.wm1 + p.skipped.length) - p.d0

/-- The physical value of a relocated field; none when it is out of range (R327). An image boundary that the region does not cross at its
place gives none. -/
def State.relocValue (s : State) (part : Nat) (p : Place) (kind v col : Nat) : Option Nat :=
  match kind with
  | 1 =>
    let b := fld v 6 5
    let c := p.cb.getD b 0 + fld v 4 0
    if 2 < b || 23 < c || p.crossings ≤ b || 127 < v then none else some (32 * (b + p.d0) + c)
  | 2 => if 2 < v then none else some (v + 3 * stripOfCol col)
  | 3 => if 9 < v then none else some (v + 10 * stripOfCol col)
  | _ => (s.laneGroupAt part v).filter fun g => ((look s.groups g).map (·.gen)) != some 1

/-- Relocate one record of the route section. -/
def State.relocOne (s : State) (part : Nat) (p : Place) (recs : List (W64 × W64)) (w : W64) : Option (List (W64 × W64)) :=
  let n := w.toNat
  let k := fld n 55 24 / 16
  let lo := fld n 23 16
  let wid := fld n 15 8
  match recs[k]? with
  | none => none
  | some (a, b) =>
    let v := b.toNat / 2 ^ lo % 2 ^ wid
    match s.relocValue part p (fld n 63 60) v ((p.columns).getD (fld a.toNat 6 0) p.ocol) with
    | some v' => if v' < 2 ^ wid then some (recs.set k (a, .ofNat 64 (b.toNat - v * 2 ^ lo + v' * 2 ^ lo))) else none
    | none => none

def State.relocate (s : State) (part : Nat) (p : Place) (i : Image) : Option Image :=
  (i.relocs.foldl (fun (a : Option (List (W64 × W64))) w => a.bind fun r => s.relocOne part p r w) (some i.recs)).map
    fun r => { i with recs := r }

/-- The circuit number that a link carries, by the column west of it (R395). -/
def linkOk (col n : Nat) : Bool := if col % 32 = 31 then n / 32 == col / 32 && decide (n % 32 < 24) else decide (n < 24)

/-- Physical links, by their western column, between an image column and its eastern neighbour. -/
def Place.linksEast (p : Place) (x : Nat) : List Nat :=
  let a := p.columns.getD x 0
  let b := p.columns.getD (x + 1) 0
  (List.range (b - a)).map (a + ·)

/-- Physical links that a horizontal side of an image tile leads over: 6 east, 8 west. -/
def Place.linksOf (p : Place) (x dir : Nat) : List Nat := if dir = 6 then p.linksEast x else if dir = 8 then (if x = 0 then [] else p.linksEast (x - 1)) else []

/-- The circuit numbers that a route entry names, each with the side it lies on. -/
def rtSides (e : W64) : List (Nat × Nat) := [(rtSrc e, rtSix e), (rtDst e, rtDix e)].filter fun s => s.1 == 6 || s.1 == 8

/-- The entries of a tile's own record. -/
def Image.ownCount (i : Image) (x y : Nat) : Nat := (((i.tile x y).bind (·.sw)).map fun s => s.1.length).getD 0

/-- What R397 and R398 ask of the entries once they are relocated: each number is one of the link that carries it, a die-crossing number that
of the boundary its link crosses; the entries that cross a boundary are those of the route section; and the entry across a link takes the same
number (DEDUCED, log entry 99). -/
def placedFails (p : Place) (i : Image) : List Fail :=
  i.switchTiles.flatMap fun (x, y) => ((i.entries x y).mapIdx fun k e =>
    let boundOk := (rtSides e).all fun (dir, n) => (p.linksOf x dir).all fun c => linkOk c n
    let crosses := (rtSides e).any fun (dir, _) => (p.linksOf x dir).any fun c => c % 32 == 31
    let sec := decide (i.ownCount x y ≤ k)
    let next := (neighbour x y (rtDst e)).map fun (c, r) => (i.entryAt c r (opposite (rtDst e)) (rtDix e)).isSome
    failIf (rtV e && (!boundOk || sec != crosses || (sec && (rtDst e == 6 || rtDst e == 8) && next != some true)))
      { y := y, x := x, elt := 5, str := 4, idx := k, det := 0x44 }).flatten

/-- Shares of request slots that a relocated image reserves: group or port, index, share (R398). -/
def Image.shares (i : Image) : List ((Bool × Nat) × Nat) :=
  (i.recs.filter fun (a, b) => fld a.toNat 15 12 == 2 && rtV b).map fun (_, b) => ((bitN b.toNat 55, fld b.toNat 62 56), fld b.toNat 51 48)

def sharesOf (l : List ((Bool × Nat) × Nat)) (k : Bool × Nat) : Nat := ((l.filter (·.1 == k)).map (·.2)).foldl (· + ·) 0

/-- Shares of the regions in place, other than the one that is being placed. -/
def State.sharesHeld (s : State) (self : Option Nat) : List ((Bool × Nat) × Nat) :=
  s.regions.flatMap fun p =>
    if some p.1 == self || !p.2.state.holdsTiles then []
    else match p.2.image, p.2.place with
      | some i, some pl => ((s.relocate p.2.part pl i).map Image.shares).getD []
      | _, _ => []

/-! ### Owned windows (R203, R290, R325) -/

/-- Targets that a 64 KiB unit of local physical memory reaches. -/
def unitTargets (u : Nat) : List Nat := ((List.range 3).filterMap fun k => targetOf (u * 65536 + 512 * k)).eraseDups

/-- Translate the pages of a window: the local units, in order. -/
def State.windowUnits (s : State) (part asid : Nat) : Nat → Nat → State × Except AccFault (List Nat)
  | 0, _ => (s, .ok [])
  | n + 1, va =>
    match s.walk none (some part) asid va .atomic with
    | (s1, .error f) => (s1, .error f)
    | (s1, .ok w) =>
      match State.windowUnits s1 part asid n (va + 65536) with
      | (s2, .ok us) => (s2, .ok (((s1.localOf w.da).map fun a => [a / 65536]).getD [] ++ us))
      | (s2, .error f) => (s2, .error f)

/-- Contiguous runs of a target's units: first and last. -/
def runsOf : List Nat → List (Nat × Nat)
  | [] => []
  | u :: r =>
    match runsOf r with
    | (a, b) :: t => if u + 1 = a then (u, b) :: t else (u, u) :: (a, b) :: t
    | [] => [(u, u)]

/-- The runs of an image's windows, by target. -/
def State.ownedRuns (s : State) (part asid : Nat) : List (W64 × W64) → State × Except AccFault (List (Nat × Nat × Nat))
  | [] => (s, .ok [])
  | (a, b) :: r =>
    match s.windowUnits part asid (fld b.toNat 47 32 + 1) (fld a.toNat 51 16 * 65536) with
    | (s1, .error f) => (s1, .error f)
    | (s1, .ok us) =>
      let mine := ((us.flatMap unitTargets).eraseDups).flatMap fun t =>
        (runsOf (us.filter fun u => (unitTargets u).contains t)).map fun (x, y) => (t, x, y)
      match State.ownedRuns s1 part asid r with
      | (s2, .ok l) => (s2, .ok (mine ++ l))
      | (s2, .error f) => (s2, .error f)

/-- Owned-window entries of a target that are free. -/
def State.freeOwned (s : State) (t : Nat) : List Nat := (List.range 64).filter fun k => !bitN (s.accessEntry t k).1 63

/-- Write the entries of the runs, one by one, and remember them with the region; none when a target runs short. -/
def State.writeOwned (s : State) (slot : Nat) : List (Nat × Nat × Nat) → Option State
  | [] => some s
  | (t, a, b) :: r =>
    match s.freeOwned t with
    | [] => none
    | k :: _ =>
      let e0 := put 63 63 1 + put 59 59 1 + put 46 35 0xFFF
      let s1 : State := { s with access := insertKV s.access (t, k) (.ofNat 64 e0, .ofNat 64 (put 62 32 b + put 30 0 a)) }
      State.writeOwned (s1.modRegion slot fun x => { x with ownedAt := x.ownedAt ++ [(t, k)] }) slot r

/-! ### The search (R329) -/

/-- A placement at one origin, when everything the search asks for is there. -/
def State.tryOrigin (s : State) (w : Tenancy) (self : Nat) (part : Nat) (i : Image) (col row : Nat) : Option Place :=
  let east := 16 * ((s.partRange part).2 + 1)
  match s.fit w i row east 128 col 0 [] with
  | none => none
  | some sk =>
    if 32 < row + i.h then none
    else
      let d0 := dieOfCol col
      let p : Place := { ocol := col, orow := row, wm1 := i.w - 1, hm1 := i.h - 1, skipped := sk, d0 := d0, cb := s.circuitBases w i d0 }
      match s.relocate part p i with
      | none => none
      | some j =>
        let held := s.sharesHeld (some self)
        if ((j.shares.map (·.1)).all fun k => decide (sharesOf j.shares k + sharesOf held k ≤ 16)) then some p else none

/-- Origins in the search's order: the fixed one, or all of the partition, columns first (R329). -/
def State.origins (s : State) (part plc : Nat) : List (Nat × Nat) :=
  let (a, b) := s.partRange part
  if bitN plc 63 then ((List.range (16 * (b - a + 1))).flatMap fun c => (List.range 32).map fun r => (16 * a + c, r))
  else [(fld plc 6 0, fld plc 11 7)]

/-- What the search finds: the first placement, with the owned-window entries written; a placement whose die-crossing entries break R397,
with the status of R97; nothing; or a fault of a window's pages, with its address. -/
inductive Found where
  | placed (s : State) (p : Place)
  | reject (s : State) (status : Nat)
  | none_ (s : State)
  | fault (s : State) (code info : Nat)

def State.searchIn (s : State) (w : Tenancy) (slot part : Nat) (i : Image) (runs : List (Nat × Nat × Nat)) : List (Nat × Nat) → Option (State × Place)
  | [] => none
  | (c, r) :: rest =>
    match s.tryOrigin w slot part i c r with
    | none => State.searchIn s w slot part i runs rest
    | some p =>
      match s.writeOwned slot runs with
      | some s1 => some (s1, p)
      | none => State.searchIn s w slot part i runs rest

def State.search (s : State) (w : Tenancy) (slot : Nat) (r : Region) (i : Image) (plc : Nat) : Found :=
  match s.ownedRuns r.part r.asid i.owned with
  | (s1, .error f) => .fault s1 f.code f.info
  | (s1, .ok runs) =>
    match s1.searchIn w slot r.part i runs (s1.origins r.part plc) with
    | some (s2, p) =>
      match ((s1.relocate r.part p i).map (placedFails p)).bind firstFail with
      | some f => .reject s1 f.status
      | none => .placed s2 { p with img := r.img.addr, iva := r.img.asid.isSome, iasid := r.img.asid.getD 0 }
    | none => .none_ s1

/-! ### The placement record (R330) -/

def Place.words (p : Place) (hdl tid asid : Nat) : List W64 :=
  let skm := (p.skipped.map fun c => 2 ^ (c - p.ocol)).foldl (· + ·) 0
  [put 63 32 hdl + put 28 22 p.ocol + put 21 17 p.orow + put 16 10 p.wm1 + put 9 5 p.hm1 + put 4 2 p.skipped.length,
    fld skm 63 0, fld skm 127 64,
    put 25 24 p.d0 + put 20 16 (p.cb.getD 2 0) + put 12 8 (p.cb.getD 1 0) + put 4 0 (p.cb.getD 0 0),
    put 27 12 tid + put 11 0 asid, put 51 0 p.img, put 63 63 (b2n p.iva) + put 11 0 p.iasid, 0].map (BitVec.ofNat 64)

/-! ### Configuration -/

/-- Physical tiles of a placement's rectangle, in (y, x) order. -/
def Place.tiles (p : Place) : List (Nat × Nat) :=
  (List.range (p.hm1 + 1)).flatMap fun y => (List.range (p.wm1 + 1 + p.skipped.length)).map fun c => (p.ocol + c, p.orow + y)

/-- An element at activation: its windows' credits are all free (R174) (DESIGN CHOICE, log entry 15). -/
def EltImg.activate (p : EltImg) (e : Elt) : Element :=
  let el := p.elem e
  { el with chans := (List.range 32).map fun c =>
      let g := el.cfg c
      if cfgDef g && (cfgBlock g).isSome then { win := { crd := cfgDepth g } } else {} }

/-- A CCU at activation: one that is armed has its chain running (R138). -/
def ccuOf (ws : List W32) : Ccu :=
  let c : Ccu := { words := ws }
  if c.en && !c.armed then c.begin_ c.bounds else c

def TileImg.activate (t : TileImg) : Tile :=
  { x := t.x, y := t.y, elts := t.elts.map fun (e, p) => p.activate e, ccu := (t.ccu.filter fun w => bitN (w.getD 12 0).toNat 31).map ccuOf }

/-- A delay line at activation (R399). -/
def delayOf (d : W64) : Delay :=
  { cfg := d, toks := if bitN d.toNat 63 then List.replicate (fld d.toNat 62 57 + 1) { tok := { ctag := .ofNat 2 (fld d.toNat 56 55) } } else [] }

/-- Pass-through entries of a skipped column in a row: for each circuit that crosses it, one each way with its number (R401). -/
def passRoutes (p : Place) (i : Image) (c y : Nat) : List W64 :=
  let x := (p.columns.findIdx fun k => decide (c < k))
  let entry (src n dst : Nat) : W64 := .ofNat 64 (put 63 63 1 + put 62 59 src + put 58 52 n + put 51 48 dst + put 47 41 n)
  let out (x dir : Nat) : List Nat := ((i.entries x y).filter fun e => rtV e && rtDst e == dir).map rtDix
  (((if x = 0 then [] else out (x - 1) 6) ++ out x 8).eraseDups).flatMap fun n => [entry 8 n 6, entry 6 n 8]

/-- Switches of a placed, relocated image. -/
def switchesOf (p : Place) (i : Image) : List Switch :=
  (i.switchTiles.map fun (x, y) =>
    let (c, r) := p.phys x y
    { col := c, row := r, routes := i.entries x y
      delays := (((((i.tile x y).bind (·.sw)).map (·.2)).getD [])).map delayOf }) ++
  (p.skipped.flatMap fun c => (List.range i.h).filterMap fun y =>
    let rs := passRoutes p i c y
    if rs.isEmpty then none else some { col := c, row := p.orow + y, routes := rs })

/-- A lane's driver. -/
def driverOf (i : Image) (l : LaneId) (e : W64) : LaneDrv :=
  let ts := i.laneTiles l e
  let cfg := (ts.head?.bind fun (x, y) => (i.laneChan x y l).bind fun c => ((i.tile x y).bind (·.elt .mx)).map fun p => p.chans.getD c 0).getD 0
  { lane := l, fmt := cfgFmtCode cfg, blen := cfgBlenCode cfg, lrow := rtLrow e, lcol := rtLcol e, rall := rtRall e, call := rtCall e
    cred := ts.map fun t => (t, (0, 0)) }

/-- Initial credits of a channel, FIFO and window (R19, R138, R175, R224). -/
def Region.initialCredit (r : Region) : DestId → Nat × Nat
  | .chan x y e c =>
    match r.elem x y e with
    | some el => (if cfgLane (el.cfg c) then 2 else 8, if (cfgBlock (el.cfg c)).isSome then cfgDepth (el.cfg c) else 0)
    | none => (0, 0)
  | .arm _ _ => (2, 0)
  | _ => (0, 0)

/-- Give a source `n` FIFO credits and `m` window credits at once. -/
def Region.grant (r : Region) (src : SourceId) (dst : DestId) (n m : Nat) : Region :=
  (List.replicate m ()).foldl (fun a _ => a.giveCredit src dst true) ((List.replicate n ()).foldl (fun a _ => a.giveCredit src dst false) r)

/-- Give the initial credits of the channels that a predicate picks. -/
def Region.grantInitial (r : Region) (pick : DestId → Bool) : Region :=
  r.edges.foldl (fun a ed => if pick ed.dst then (let (n, m) := r.initialCredit ed.dst; a.grant ed.src ed.dst n m) else a) r

/-- Where a destination lies, as an image tile. -/
def DestId.tile : DestId → Option (Nat × Nat)
  | .chan x y _ _ | .arm x y => some (x, y)
  | _ => none

/-- Configure a region from its relocated image, without credits and with no tile entered yet. -/
def Region.configure (r : Region) (p : Place) (j : Image) : Region :=
  { r with place := some p, tiles := j.tiles.map TileImg.activate, switches := switchesOf p j
           drivers := j.lanes.map fun (l, e) => driverOf j l e, edges := j.edges, fly := [], credits := [], entered := []
           freeze := none, switchOut := none, dirty := [], fresh := true }

/-- All tiles of a region that is no shadow take their configuration at once, with the initial credits. -/
def Region.enterAll (r : Region) (p : Place) : Region :=
  let r1 : Region := { r with entered := p.tiles }
  if r.fresh then { (r1.grantInitial fun _ => true) with fresh := false } else r1

end Sys2Proof.Machine
end

