-- ==== Sys2Proof/Machine/Streams.lean ====
section
/-! DEFINITION. AGU streams (07 R211 to R217; 06 R179; 02 R62, R63, R67, R68, R72, R73): descriptors, units in dimension order,
loads, stores with their held writes, ends, and the walks of chains, streams and PREF (10 R281, R282). -/

namespace Sys2Proof.Machine

/-! ### Descriptors (R211) -/

def SRun.w (r : SRun) (i : Nat) : Nat := wd r.q i
def SRun.store (r : SRun) : Bool := bitN (r.w 0) 63
def SRun.spad (r : SRun) : Bool := bitN (r.w 0) 62
def SRun.fmtCode (r : SRun) : Nat := fld (r.w 0) 61 57
def SRun.blen (r : SRun) : Nat := fld (r.w 0) 56 55
def SRun.ndm (r : SRun) : Nat := fld (r.w 0) 54 52
def SRun.base (r : SRun) : Nat := fld (r.w 0) 51 0
def SRun.pc (r : SRun) : Nat := fld (r.w 1) 63 59
def SRun.cch (r : SRun) : Nat := fld (r.w 1) 58 56
def SRun.cmpe (r : SRun) : Bool := bitN (r.w 1) 55
def SRun.eose (r : SRun) : Bool := bitN (r.w 1) 54
def SRun.ctag (r : SRun) : BitVec 2 := .ofNat 2 (fld (r.w 1) 53 52)
def SRun.sbase (r : SRun) : Nat := fld (r.w 1) 51 0
def SRun.hold (r : SRun) : Bool := bitN (r.w 7) 63
def SRun.rft (r : SRun) : Bool := bitN (r.w 7) 62
def SRun.cnt (r : SRun) (k : Nat) : Nat := fld (r.w (2 + k)) 15 0 + 1
def SRun.dstr (r : SRun) (k : Nat) : Int := toSigned 32 (fld (r.w (2 + k)) 63 32)
def SRun.sstr (r : SRun) (k : Nat) : Int := toSigned 16 (fld (r.w (2 + k)) 31 16)

def SRun.block (r : SRun) : Option BlockFmt :=
  match fmtOf r.fmtCode with
  | some (.block f) => some f
  | _ => none

/-- Block length in elements. -/
def SRun.len (r : SRun) : Nat := 8 * 2 ^ r.blen

/-- Units that a descriptor moves. -/
def SRun.total (r : SRun) : Nat := ((List.range 5).map r.cnt).foldl (· * ·) 1

/-- Index of dimension `k` at unit `n` (R212). -/
def SRun.idx (r : SRun) (n k : Nat) : Nat := n / ((List.range k).map r.cnt).foldl (· * ·) 1 % r.cnt k

/-- Data and scale addresses of unit `n` (R212). -/
def SRun.addrs (r : SRun) (n : Nat) : Nat × Nat :=
  let sum (f : Nat → Int) : Int := ((List.range 5).map fun k => (r.idx n k : Int) * f k).foldl (· + ·) 0
  (ofInt 64 (r.base + sum r.dstr), ofInt 64 (r.sbase + sum r.sstr))

/-- The end-of-stream level due after unit `n` (R212): dimensions 0 to j end together; 5 at the very end. -/
def SRun.levelAfter (r : SRun) (n : Nat) : Option Nat :=
  let ended := ((List.range 5).takeWhile fun k => r.idx n k + 1 == r.cnt k).length
  if !r.eose || ended = 0 then none else if n + 1 = r.total then some 5 else some ended

/-- Units of a descriptor that have been performed: those sent, or, of a HOLD store, those whose writes have been released. -/
def SRun.performed (g : SRun) : Nat :=
  let part := match g.held with | h :: _ => b2n h.scale | [] => 0
  g.units - ((g.held.filter fun h => !h.scale).length + part)

/-- The descriptor words that break a limit (R211); `edge` is the edge's format and block length code, `conn` whether the port is
connected or the channel defined, `named` whether a transition names a store's channel (R214). -/
def SRun.badWord (r : SRun) (edge : Option (Nat × Nat)) (conn named : Bool) : Option Nat :=
  let lane := r.block.isNone
  let bad (i : Nat) : Bool :=
    match i with
    | 0 => (fmtOf r.fmtCode).isNone || 4 < r.ndm || edge != some (r.fmtCode, r.blen)
        || (match r.block with
            | none => r.blen != 0 || r.base % 16 != 0
            | some f => !f.isBx && r.blen != 2)
    | 1 => !conn || named || (r.store && r.eose) || (!r.store && 8 ≤ r.pc) || (lane && r.sbase != 0)
    | 7 => fld (r.w 7) 56 0 != 0 || (r.store && fld (r.w 7) 62 57 != 0) || (!r.store && r.hold)
    | _ => (r.ndm + 1 < i - 1 && r.w i != 0) || (lane && (r.dstr (i - 2) % 16 != 0 || fld (r.w i) 31 16 != 0))
  (List.range 8).find? bad

/-- Format and block length code at the edge of a descriptor's port or channel. -/
def Region.streamEdge (r : Region) (x y : Nat) (e : Element) (g : SRun) : Option (Nat × Nat) :=
  if g.store then (if cfgDef (e.cfg g.pc) then some (cfgFmtCode (e.cfg g.pc), cfgBlenCode (e.cfg g.pc)) else none)
  else match r.destOf (.port x y .me g.pc) with
    | some (.chan cx cy ce ch) => (r.elem cx cy ce).map fun d => (cfgFmtCode (d.cfg ch), cfgBlenCode (d.cfg ch))
    | some (.lane l) => (r.driver l).map fun d => (d.fmt, d.blen)
    | some (.arm _ _) | some (.span _) => some (g.fmtCode, g.blen)
    | none => none

/-- The descriptor's failing word at start, if any. -/
def Region.streamBad (r : Region) (x y : Nat) (e : Element) (g : SRun) : Option Nat :=
  let conn := if g.store then cfgDef (e.cfg g.pc) else (r.destOf (.port x y .me g.pc)).isSome
  let named := g.store && (List.range 32).any fun j => (e.tran j).en && ((e.tran j).trig == g.pc || bitN (e.tran j).req g.pc)
  g.badWord (r.streamEdge x y e g) conn named

/-- UPOS of a stream (R349): units moved, and the index within the unit of the token it is at. -/
def uposOf (units tok : Nat) : Nat := units % 2 ^ 33 * 64 + tok % 64

/-- A fault of a stream (R215, R349): its number and position. -/
def State.streamFault (s : State) (t : TileAt) (i : Nat) (units tok code det info : Nat) : State :=
  s.raiseAt t.slot (.stream t.x t.y i)
    { code := code, det := det, src := 3, x := t.x, y := t.y, elt := 2, f4 := f4Stream i (uposOf units tok), info := info % 2 ^ 60 }

def Region.modStream (r : Region) (t : TileAt) (i : Nat) (f : Stream → Stream) : Region := r.modMe t.x t.y fun m => m.modStream i f
def Region.modRun (r : Region) (t : TileAt) (i : Nat) (f : SRun → SRun) : Region :=
  r.modStream t i fun x => { x with run := x.run.map f }
def State.modRun (s : State) (t : TileAt) (i : Nat) (f : SRun → SRun) : State := s.modRegion t.slot fun r => r.modRun t i f

/-- A descriptor takes the running place. -/
def Stream.begin (x : Stream) (g : SRun) : Stream :=
  { x with run := some g, teData := none, teScale := none, holds := g.store && g.hold, lastPort := if g.store then none else some g.pc
           loads := if g.store then none else some (fld (g.w 7) 61 57) }

/-- Start a descriptor in the running place (R211, R213): whether it starts, or freezes the region with 0x01. -/
def State.startStream (s : State) (t : TileAt) (i : Nat) (q : List W64) (fromCmd : Bool) (units : Nat) : State × Bool :=
  match s.region t.slot with
  | none => (s, false)
  | some r =>
    match r.elem t.x t.y .me with
    | none => (s, false)
    | some e =>
      let g : SRun := { q := q, fromCmd := fromCmd, units := units, markUnits := units }
      match r.streamBad t.x t.y e g with
      | some k => (s.streamFault t i 0 0 0x01 2 (fld (wd q k) 31 0), false)
      | none => (s.setRegion t.slot (r.modStream t i fun x => x.begin g), true)

/-- STREAM_DESCRIPTOR_START (R211, R213): a stream with no running descriptor reads the first pending one from the scratchpad; one that a rollback
has put back runs before it (R417). -/
def execStreamDescriptorStart (t : TileAt) (i : Nat) (s : State) : Host.Outcome State Fault Refusal :=
  .next (match s.region t.slot with
    | none => s
    | some r =>
      match r.me t.x t.y with
      | none => s
      | some m =>
        let x := m.stream i
        if !r.acts t.x t.y (.stream t.x t.y i) || m.swapped < 16 || x.stopped then s
        else match x.run, x.redo, x.pend with
        | none, g :: rest, _ => s.setRegion t.slot (r.modStream t i fun x => { (x.begin g) with redo := rest })
        | none, [], off :: rest =>
          let s1 := s.setRegion t.slot (r.modStream t i fun x => { x with pend := rest })
          (s1.startStream t i (words64 8 (m.spadRead off 64)) false 0).1
        | _, _, _ => s)

/-! ### Block data (R62, R63, R67, R68) -/

/-- Bytes of micro-exponents of a data part. -/
def BlockFmt.muBytes (f : BlockFmt) (l : Nat) : Nat := if f.isBx then (l + 15) / 16 else 0

/-- Bytes of a data part. -/
def BlockFmt.dataBytes (f : BlockFmt) (l : Nat) : Nat := f.muBytes l + (l * f.codeBits + 7) / 8

/-- A code in memory as it stands in its fabric lane, and back. -/
def BlockFmt.toLane (f : BlockFmt) (c : Nat) : Nat := if f.isBx then b2n (bitN c f.mbits) * 128 + c % 2 ^ f.mbits else c
def BlockFmt.ofLane (f : BlockFmt) (c : Nat) : Nat := if f.isBx then b2n (bitN c 7) * 2 ^ f.mbits + c % 2 ^ f.mbits else c % 2 ^ f.codeBits

/-- The burst words of a data part, each with its MEXP. -/
def BlockFmt.words (f : BlockFmt) (l : Nat) (bs : List Byte) : List (Word × Nat) :=
  let mu := ofBytes (bs.take (f.muBytes l))
  let codes := ofBytes (bs.drop (f.muBytes l))
  let per := f.perWord l
  (List.range (f.burst l)).map fun j =>
    (wordOfLanes f.laneBits ((List.range per).map fun i => f.toLane (codes / 2 ^ (f.codeBits * (per * j + i)) % 2 ^ f.codeBits)),
     if f.isBx then mu / 2 ^ (per / 2 * j) % 2 ^ (per / 2) else 0)

/-- The data part of a burst's words. -/
def BlockFmt.bytes (f : BlockFmt) (l : Nat) (ts : List Token) : List Byte :=
  let per := f.perWord l
  let codes := packLanes (f.codeBits * per) (ts.map fun t => packLanes f.codeBits ((lanesOf f.laneBits per t.word).map f.ofLane))
  let mu := packLanes (per / 2) (ts.map (·.mexp.toNat))
  toBytes (f.muBytes l) mu ++ toBytes (f.dataBytes l - f.muBytes l) codes

/-- Every code of a data part is ±0 (R72). -/
def BlockFmt.allZero (f : BlockFmt) (l : Nat) (ws : List (Word × Nat)) : Bool :=
  ws.all fun w => (lanesOf f.laneBits (f.perWord l) w.1).all f.zeroCode

/-- The scale of a loaded block (R72, R179). -/
def loadScale (f : BlockFmt) (l : Nat) (ws : List (Word × Nat)) (b : Nat) : Nat :=
  if b = 255 then 511 else if f.allZero l ws then 0 else scaleOfByte f.isBx b

/-! ### Accesses of a stream (R194, R215, R289) -/

/-- What an access of a stream meets: it waits for its walk or a bank, it has faulted, or it may go on at an address. -/
inductive SAcc where
  | wait | fault | ok (da : Nat)

/-- Check and translate `n` bytes of a unit that lie in one page. -/
def State.streamAcc (s : State) (t : TileAt) (i : Nat) (scale : Bool) (va n size : Nat) (k : AKind) : State × SAcc :=
  match s.region t.slot with
  | none => (s, .wait)
  | some r =>
    match r.me t.x t.y with
    | none => (s, .wait)
    | some m =>
      let x := m.stream i
      match x.run with
      | none => (s, .wait)
      | some g =>
        if g.spad then
          match spadCheck va size with
          | some d => (s.streamFault t i g.units 0 0x11 d va, .fault)
          | none =>
            if 0x60000 < va + n then (s.streamFault t i g.units 0 0x11 5 va, .fault)
            else if m.swapped < 16 then (s, .wait)
            else (s, .ok va)
        else match vaCheck va size with
          | some d => (s.streamFault t i g.units 0 0x11 d va, .fault)
          | none =>
            match (if scale then x.teScale else x.teData).filter fun e => e.serves r.asid va k with
            | none => (s.modRun t i fun g => { g with refill := some scale }, .wait)
            | some e =>
              match s.check (r.whoAt t.x t.y e.mid) (e.apply va) k n with
              | (s1, some f) => (s1.streamFault t i g.units 0 f.code (f.detOr 2) (f.atVa va).info, .fault)
              | (s1, none) => (s1, .ok (e.apply va))

/-- Bytes of a unit up to the end of their page. -/
def untilPage (va n : Nat) : Nat := min n (65536 - va % 65536)

/-- Read on into the current unit until `n` bytes are there, a walk is needed, or a fault is raised. -/
def State.streamRead (s : State) (t : TileAt) (i va n size : Nat) : Nat → State
  | 0 => s
  | fuel + 1 =>
    match ((s.region t.slot).bind fun r => r.me t.x t.y).bind fun m => (m.stream i).run.map fun g => (m, g) with
    | none => s
    | some (m, g) =>
      let k := g.part.length
      if n ≤ k then s
      else
        let a := (va + k) % 2 ^ 64
        let len := if g.spad then n - k else untilPage a (n - k)
        match s.streamAcc t i false a len size .read with
        | (s1, .ok da) =>
          let bs := if g.spad then m.spadRead da len else s1.memGet da len
          let psn := if g.spad then m.spadPsn da len else s1.memPsn da len
          State.streamRead ((s1.countAt t.slot t.x t.y 2 2 0 len).modRun t i fun g => { g with part := g.part ++ bs, partPsn := g.partPsn || psn, refill := none })
            t i va n size fuel
        | (s1, _) => s1

/-! ### Ends (R213) -/

/-- A descriptor's STREAM record (R434). -/
def State.traceStream (s : State) (t : TileAt) (i units : Nat) : State :=
  match s.region t.slot with
  | none => s
  | some r => s.traceRec t.slot { kind := 5, node := r.node t.x t.y 2, elt := 2, x := t.x, y := t.y, pay := put 2 0 i + put 63 8 units }

/-- Free the running place; a command's descriptor leaves its command done. A load that ends while its region drains has stopped
(R357). -/
def State.endStream (s : State) (t : TileAt) (i : Nat) (g : SRun) : State :=
  (s.modRegion t.slot fun r => r.modStream t i fun x =>
    let stops := r.state == .draining && !g.store
    { x with run := none
             stopped := x.stopped || stops
             stopPort := if stops then some g.pc else x.stopPort
             past := if g.store || x.lost then [] else x.past ++ [{ g with fromCmd := false, refill := none }]
             cmds := if g.fromCmd then { x.cmds with q := match x.cmds.q with
                       | c :: rest => { c with done := true, units := g.units } :: rest
                       | [] => [] } else x.cmds }).traceStream t i g.units

/-- End a stream that has nothing more to move: at once without CMPE; with it, STREAM_COMPLETION_TOKEN ends it. -/
def State.checkEnd (s : State) (t : TileAt) (i : Nat) : State :=
  match ((s.region t.slot).bind fun r => r.me t.x t.y).bind fun m => (m.stream i).run with
  | none => s
  | some g =>
    if g.units < g.total || g.eos.isSome || !g.burst.isEmpty || !g.held.isEmpty || !g.part.isEmpty || !g.replay.isEmpty then s
    else if g.cmpe then s.modRun t i fun g => { g with ended := true }
    else s.endStream t i g

/-- STREAM_COMPLETION_TOKEN (R213): the ended stream's token takes its chain's next number, once a tracking entry is free. -/
def execStreamCompletionToken (t : TileAt) (i : Nat) (s : State) : Host.Outcome State Fault Refusal :=
  .next (match s.region t.slot with
    | none => s
    | some r =>
      match (r.elem t.x t.y .me).bind fun e => (e.me.stream i).run.map fun g => (e, g) with
      | none => s
      | some (e, g) =>
        if !g.ended || !r.acts t.x t.y (.stream t.x t.y i) || e.chainRoom g.cch = 0 then s
        else
          let q : Req := { seq := 0, op := .strmDone, st := .performed, ctag := g.ctag
                           reply := some { word := n32x4 i g.units 0 0, ctag := g.ctag, psn := g.psn } }
          (s.modRegion t.slot fun r => r.modMe t.x t.y fun m => m.issue g.cch q 0).endStream t i g)

/-! ### Loads (R212, R216, R357) -/

/-- Bytes that the streams of an ME keep in the stream buffer. -/
def Me.buffered (m : Me) : Nat := (m.streams.map Stream.buffered).foldl (· + ·) 0

/-- Drop the oldest kept units until the new one fits; whether data was lost (R216). -/
def dropKept (need limit : Nat) : List (List PortItem) → List (List PortItem) × Bool
  | [] => ([], false)
  | k :: r => if need ≤ limit then (k :: r, false) else ((dropKept (need - 16 * k.length) limit r).1, true)

/-- Keep what a load has sent since its last mark. -/
def Region.keep (r : Region) (t : TileAt) (i : Nat) (unit : List PortItem) (newUnit : Bool) : Region :=
  match (r.me t.x t.y).bind fun m => (m.stream i).run.map fun g => (m, g) with
  | none => r
  | some (m, g) =>
    if g.rft then r
    else
      let joined := if newUnit then g.kept ++ [unit] else match g.kept.reverse with
        | k :: rest => (( k ++ unit) :: rest).reverse
        | [] => [unit]
      let need := m.buffered + 16 * unit.length
      let gone := decide (32768 < need) && !(m.stream i).past.isEmpty
      let freed := if gone then ((m.stream i).past.map SRun.buffered).foldl (· + ·) 0 else 0
      let (kept, lost) := dropKept (need - freed) 32768 joined
      (r.modRun t i fun g => { g with kept := kept }).modStream t i fun x =>
        { x with past := if gone then [] else x.past, lost := x.lost || gone || lost }

/-- A load stream (R177, R212, R215, R216): the next end-of-stream token, or the next unit with its scale transfer, once its data is there and its
port has a window credit and room. -/
def State.loadUnit (s : State) (t : TileAt) (i : Nat) : State :=
  match s.region t.slot with
  | none => s
  | some r =>
    match (r.elem t.x t.y .me).bind fun e => (e.me.stream i).run.map fun g => (e, g) with
    | none => s
    | some (e, g) =>
      let x := e.me.stream i
      if g.store || g.ended || x.stopped || !r.acts t.x t.y (.stream t.x t.y i) || !e.me.fencesMet e.me.nfence then s
      else
        let p := e.port g.pc
        let push (s1 : State) (its : List PortItem) (isNew : Bool) : State :=
          s1.modRegion t.slot fun r =>
            (r.modElem t.x t.y .me fun e => e.modPort g.pc fun p => { p with queue := p.queue ++ its }).keep t i its isNew
        match g.replay, g.eos with
        | u :: rest, _ =>
          let data := u.all fun it => it.tok.eosl == 0
          if e.portRoom g.pc < u.length || ((u.any (·.scale.isSome)) && r.spends (.port t.x t.y .me g.pc) && p.wcred ≤ (p.queue.filter (·.scale.isSome)).length) then s
          else
            let s1 := push s u data
            let s2 := s1.modRegion t.slot fun r =>
              (r.modRun t i fun g => { g with replay := rest, units := g.units + b2n data }).modStream t i fun x =>
                if r.state == .draining && u.any (fun it => decide (2 ≤ it.tok.eosl.toNat)) then { x with stopped := true, stopPort := some g.pc } else x
            s2.checkEnd t i
        | [], some l =>
          if e.portRoom g.pc = 0 then s
          else
            let s1 := push s [{ tok := { eosl := .ofNat 3 l, ctag := g.ctag } }] false
            let s2 := s1.modRegion t.slot fun r => (r.modRun t i fun g => { g with eos := none }).modStream t i fun x =>
              if r.state == .draining && decide (2 ≤ l) then { x with stopped := true, stopPort := some g.pc } else x
            s2.checkEnd t i
        | [], none =>
          let (a, b) := g.addrs g.units
          let done (s1 : State) (its : List PortItem) : State :=
            (push (s1.modRun t i fun g => { g with units := g.units + 1, part := [], partPsn := false, refill := none, eos := g.levelAfter g.units
                                                   psn := g.psn || its.any fun it => it.tok.psn }) its true).checkEnd t i
          match g.block with
          | none =>
            if e.portRoom g.pc = 0 then s
            else
              let s1 := s.streamRead t i a 16 16 2
              match ((s1.region t.slot).bind fun r => r.me t.x t.y).bind fun m => (m.stream i).run with
              | some g1 =>
                if g1.part.length < 16 then s1
                else done s1 [{ tok := { word := .ofNat 128 (ofBytes g1.part), ctag := g.ctag, psn := g1.partPsn } }]
              | none => s1
          | some f =>
            let n := f.dataBytes g.len
            if e.portRoom g.pc < f.burst g.len || (r.spends (.port t.x t.y .me g.pc) && p.wcred ≤ (p.queue.filter (·.scale.isSome)).length) then s
            else
              let s1 := s.streamRead t i a n 1 3
              match ((s1.region t.slot).bind fun r => r.me t.x t.y).bind fun m => (m.stream i).run.map fun g => (m, g) with
              | some (m, g1) =>
                if g1.part.length < n then s1
                else match s1.streamAcc t i true b 1 1 .read with
                  | (s2, .ok da) =>
                    let byte := if g.spad then (memRead m.spad da).toNat else ofBytes (s2.memGet da 1)
                    let psn := g1.partPsn || (if g.spad then m.spadPsn da 1 else s2.memPsn da 1)
                    let ws := f.words g.len g1.part
                    let sc : BitVec 9 := .ofNat 9 (loadScale f g.len ws byte)
                    done (s2.countAt t.slot t.x t.y 2 2 0 1) (ws.mapIdx fun j w =>
                      { tok := { word := w.1, mexp := .ofNat 8 w.2, ctag := g.ctag, psn := psn }, scale := if j = 0 then some sc else none })
                  | (s2, _) => s2
              | none => s1

/-! ### Stores (R214, R216) -/

/-- Perform bytes of a store at an address of its space, up to a page end; how many were written. -/
def State.streamWrite (s : State) (t : TileAt) (i : Nat) (scale : Bool) (va size : Nat) (bs : List Byte) (psn : Bool) : State × Nat :=
  match ((s.region t.slot).bind fun r => r.me t.x t.y).bind fun m => (m.stream i).run with
  | none => (s, 0)
  | some g =>
    let len := if g.spad then bs.length else untilPage va bs.length
    match s.streamAcc t i scale va len size .write with
    | (s1, .ok da) =>
      if g.spad then ((s1.countAt t.slot t.x t.y 2 2 1 len).modRegion t.slot fun r => r.modMe t.x t.y fun m => m.spadWrite da (bs.take len) psn, len)
      else (((s1.memPut da (bs.take len) psn).countAt t.slot t.x t.y 2 2 1 len).modRegion t.slot fun r => if g.hold then r else r.dirtied, len)
    | (s1, _) => (s1, 0)

/-- The ME has popped a commit-marked word of channel `ch`: its load streams that name it take the mark (R216, R416). -/
def Region.loadMark (r : Region) (x y ch : Nat) : Region :=
  let ks := ((r.me x y).map (·.marked ch)).getD []
  { r.modMe x y fun m => { m with streams := m.streams.map fun z => z.mark ch } with
    dirty := r.dirty.filter fun d => !(d.1 == x && d.2.1 == y && ks.contains d.2.2) }

/-- A stream keeps units that it has sent. -/
def Stream.keeps (x : Stream) : Bool := (x.past.any fun g => !g.kept.isEmpty) || (x.run.map fun g => !g.kept.isEmpty).getD false

/-- The oldest kept data of a stream is dropped (R216): a descriptor that has ended, or the oldest unit. -/
def Stream.dropOldest (x : Stream) : Stream :=
  match x.past with
  | _ :: rest => { x with lost := true, past := rest }
  | [] => { x with lost := true, run := x.run.map fun g => { g with kept := g.kept.tail } }

/-- Drop the oldest kept data of the first stream that keeps some (R216). -/
def Me.dropOldest (m : Me) : Option Me :=
  ((List.range 8).find? fun i => (m.stream i).keeps).map fun i => m.modStream i Stream.dropOldest

/-- Make room for `n` bytes in the stream buffer at the cost of kept data, the oldest first (R216); whether there is room then. -/
def Me.makeRoom (m : Me) (n : Nat) : Nat → Me × Bool
  | 0 => (m, decide (m.buffered + n ≤ 32768))
  | fuel + 1 =>
    if m.buffered + n ≤ 32768 then (m, true)
    else match m.dropOldest with
      | none => (m, false)
      | some m1 => Me.makeRoom m1 n fuel

/-- Take the mark of a commit-marked word on a HOLD store stream (R216, R416). -/
def Region.holdMark (r : Region) (t : TileAt) (i : Nat) : Region :=
  let r1 := (r.modRun t i fun g => { g with rel := g.held.length, markUnits := g.units }).modStream t i fun x => { x with lost := false }
  { r1 with dirty := r1.dirty.filter (· != (t.x, t.y, i)) }

/-- Perform the oldest write being released; it leaves the buffer when it has been written whole (DESIGN CHOICE, log entry 135). -/
def State.releaseHeld (s : State) (t : TileAt) (i : Nat) (g : SRun) : State :=
  match g.held with
  | [] => s.modRun t i fun g => { g with rel := 0 }
  | h :: rest =>
    let (s1, n) := s.streamWrite t i h.scale h.va 1 h.bytes h.psn
    let s2 := s1.modRun t i fun g =>
      if h.bytes.length ≤ n then { g with held := rest, rel := g.rel - 1, refill := none }
      else { g with held := { h with va := (h.va + n) % 2 ^ 64, bytes := h.bytes.drop n } :: rest }
    s2.checkEnd t i

/-- Move the unit whose words have all been taken (R214): its data, then its scale byte, straight to memory or into the buffer. -/
def State.storeUnit (s : State) (t : TileAt) (i : Nat) (g : SRun) (e : Element) : State :=
  let (a, b) := g.addrs g.units
  let psn := g.burst.any (·.psn)
  let mark := g.burst.any (·.cmk)
  let data := match g.block with
    | some f => f.bytes g.len g.burst
    | none => toBytes 16 (opnd g.burst.head?).word.toNat
  let size := if g.block.isSome then 1 else 16
  let byte : Option Nat := g.block.bind fun f =>
    (byteOfScale f.isBx g.cap.toNat).orElse fun _ => if cfgSclp (e.cfg g.pc) then some (clampByte f.isBx g.cap.toNat) else none
  let finish (s1 : State) : State :=
    let s2 := s1.modRun t i fun g => { g with units := g.units + 1, burst := [], part := [], refill := none, psn := g.psn || psn }
    let s3 := if mark && g.hold then s2.modRegion t.slot fun r => r.holdMark t i else s2
    s3.checkEnd t i
  match g.block, byte with
  | some f, none => s.streamFault t i g.units 0 0x21 0 (g.cap.toNat + put 9 9 (b2n f.isBx))
  | blk, _ =>
    if g.hold then
      let need := data.length + b2n blk.isSome
      if 32768 < e.me.buffered + need ∧ !g.held.isEmpty then
        s.modRegion t.slot fun r => (r.modRun t i fun g => { g with rel := g.held.length }).modStream t i fun x => { x with lost := true }
      else if !(e.me.makeRoom need 4096).2 then s
      else
        let s := s.modRegion t.slot fun r => r.modMe t.x t.y fun m => (m.makeRoom need 4096).1
        let add : List HeldWrite := [{ va := a, bytes := data, psn := psn, scale := false }] ++
          (match byte with | some v => [{ va := b, bytes := [BitVec.ofNat 8 v], psn := psn, scale := true }] | none => [])
        finish (s.modRun t i fun g => { g with held := g.held ++ add })
    else
      let k := g.part.length
      let (s1, n) := if k < data.length then s.streamWrite t i false ((a + k) % 2 ^ 64) size (data.drop k) psn else (s, 0)
      let s2 := s1.modRun t i fun g => { g with part := g.part ++ (data.drop k).take n, refill := if n = 0 then g.refill else none }
      if k + n < data.length then s2
      else match byte with
        | none => finish s2
        | some v =>
          let (s3, m) := s2.streamWrite t i true b 1 [BitVec.ofNat 8 v] psn
          if m = 0 then s3 else finish s3

/-- A unit's first word is taken only when the unit's data can be written, so that a fault or a walk leaves it in the channel (R215);
a HOLD stream's goes into the buffer. The state, and whether the word is taken. -/
def State.storeReady (s : State) (t : TileAt) (i : Nat) (g : SRun) : State × Bool :=
  if !g.burst.isEmpty || g.hold then (s, true)
  else
    let (n, size) := match g.block with | some f => (f.dataBytes g.len, 1) | none => (16, 16)
    match s.streamAcc t i false (g.addrs g.units).1 n size .write with
    | (s1, .ok _) => (s1, true)
    | (s1, _) => (s1, false)

/-- A store stream (R171, R176, R178, R214, R216): it performs a write being released, moves a whole unit, or takes the next head of its channel. -/
def State.nextStore (s : State) (t : TileAt) (i : Nat) : State :=
  match s.region t.slot with
  | none => s
  | some r =>
    match (r.elem t.x t.y .me).bind fun e => (e.me.stream i).run.map fun g => (e, g) with
    | none => s
    | some (e, g) =>
      if !g.store || g.ended || !r.acts t.x t.y (.stream t.x t.y i) || !e.me.fencesMet e.me.nfence then s
      else if 0 < g.rel then s.releaseHeld t i g
      else
        let need := match g.block with | some f => f.burst g.len | none => 1
        if g.burst.length = need then s.storeUnit t i g e
        else if g.total ≤ g.units || e.words g.pc s.fc = 0 then s
        else match (e.chan g.pc).fifo with
          | [] => s
          | h :: _ =>
            let k := e.srfAt h.tok.stag.toNat
            let info := staleInfo h.tok.stag h.tok.gen k h.stale 0
            let bad := s.streamFault t i g.units g.burst.length 0x20
            let take (e1 : Element) (n m : Nat) (f : SRun → SRun) : State :=
              let (s0, yes) := if h.tok.eosl = 0 then s.storeReady t i g else (s, true)
              let s1 := s0.modRegion t.slot fun r => ((r.modElem t.x t.y .me fun _ => e1).addCredits (.chan t.x t.y .me g.pc) n m).modRun t i f
              if !yes then s0
              else
              let s2 := if h.tok.cmk then s1.modRegion t.slot fun r => r.loadMark t.x t.y g.pc else s1
              if cfgPsnf (e.cfg g.pc) && h.tok.psn then
                s2.streamFault t i g.units g.burst.length 0x31 2 g.pc
              else s2
            let (e1, n, m) := e.popChan g.pc
            if h.tok.eosl != 0 then (if g.burst.isEmpty then take e1 n m id else bad 3 info)
            else match g.block with
              | none => take e1 n m fun g => { g with burst := [h.tok] }
              | some _ =>
                if g.burst.isEmpty && !k.useOk h.tok.gen h.stale then bad 4 info
                else if !g.burst.isEmpty && g.burst.any (fun b => b.stag != h.tok.stag || b.gen != h.tok.gen) then bad 2 info
                else
                  let last := g.burst.length + 1 == need
                  let (e2, w) := if last then e1.release g.pc else (e1, false)
                  take e2 n (m + b2n w) fun g =>
                    { g with burst := g.burst ++ [h.tok], cap := if g.burst.isEmpty then k.e else g.cap }

/-! ### Bank swaps (R225, R355) -/

/-- ME_BANK_SWAP: the next scratchpad bank behind a flip; after the last, the tile's MX may select MMAS again. -/
def execMeBankSwap (t : TileAt) (s : State) : Host.Outcome State Fault Refusal :=
  .next (s.modRegion t.slot fun r =>
    match r.me t.x t.y with
    | none => r
    | some m =>
      if 16 ≤ m.swapped || !r.holds t.x t.y then r
      else
        let r1 := r.modMe t.x t.y fun m => { m with swapped := m.swapped + 1 }
        if m.swapped + 1 = 16 then r1.modElem t.x t.y .mx fun e => { e with holdMmas := false } else r1)

/-! ### Walks (R281, R282) -/

/-- The address a stream's data or scale accesses next. -/
def SRun.nextVa (g : SRun) (scale : Bool) : Nat :=
  match g.held with
  | h :: _ => if 0 < g.rel then h.va else if scale then (g.addrs g.units).2 else ((g.addrs g.units).1 + g.part.length) % 2 ^ 64
  | [] => if scale then (g.addrs g.units).2 else ((g.addrs g.units).1 + g.part.length) % 2 ^ 64

/-- A stream's walk: its entry is refilled, or the region freezes. -/
def State.walkStream (s : State) (t : TileAt) (i : Nat) (scale : Bool) : State :=
  match s.region t.slot with
  | none => s
  | some r =>
    match (r.me t.x t.y).bind fun m => (m.stream i).run with
    | none => s
    | some g =>
      let va := g.nextVa scale
      let k : AKind := if g.store then .write else .read
      let refill (s1 : State) (e : Trans) : State :=
        (s1.modRun t i fun g => { g with refill := none }).modRegion t.slot fun r => r.modStream t i fun x =>
          if scale then { x with teScale := some e } else { x with teData := some e }
      if !r.acts t.x t.y (.stream t.x t.y i) || g.refill != some scale || g.spad || fld va 63 52 != 0 then s
      else match s.sharedWalk (r.dieAt t.x t.y) r.asid va k with
      | some e => refill s e
      | none => match (s.countAt t.slot t.x t.y 2 2 3 1).walk (some (r.stripAt t.x t.y)) (some r.part) r.asid va k with
        | (s1, .error f) =>
          match (if f.code = 0x10 then s1.askPull r.asid va else none) with
          | some s2 => s2
          | none => s1.streamFault t i g.units 0 f.code (f.detOr 2) f.info
        | (s1, .ok w) =>
          refill s1 (Trans.ofWalk (r.dieAt t.x t.y) r.asid va s.fc w)

/-- TRANSLATION_WALK (R281, R282, R195, R215, R218): the walk of a request that found no translation. -/
def execTranslationWalk (slot : Nat) (w : WalkFor) (s : State) : Host.Outcome State Fault Refusal :=
  .next (match w with
    | .streamData x y i => s.walkStream { slot := slot, x := x, y := y } i false
    | .streamScale x y i => s.walkStream { slot := slot, x := x, y := y } i true
    | .chain x y c =>
      match s.region slot with
      | none => s
      | some r =>
        match (r.me x y).bind fun m => (m.chain c).reqs.find? fun q => q.needsWalk with
        | none => s
        | some q =>
          if !r.moving || !r.holds x y || (q.st == .queued && r.stopped (.chain x y c)) then s
          else match (s.countAt slot x y 2 2 3 (b2n (s.startsWalk (r.dieAt x y) r.asid q.nextAddr q.op.akind))).translate (some (r.dieAt x y))
              (some (r.stripAt x y)) (some r.part) r.asid q.nextAddr q.op.akind with
            | (s1, .error f) =>
              match (if f.code = 0x10 then s1.askPull r.asid q.nextAddr else none) with
              | some s2 => s2
              | none => s1.chainFault { slot := slot, x := x, y := y } c q f
            | (s1, .ok k) => s1.modRegion slot fun r => r.modReq x y c q.seq fun p => { p with paddr := some k.da, mid := k.mid }
    | .pref x y =>
      match s.region slot with
      | none => s
      | some r =>
        match (r.me x y).map (·.prefs) with
        | some (va :: rest) =>
          if !r.moving || !r.holds x y then s
          else
            let s1 := s.setRegion slot (r.modMe x y fun m => { m with prefs := rest })
            ((s1.countAt slot x y 2 2 3 (b2n (s1.startsWalk (r.dieAt x y) r.asid va .read))).translate (some (r.dieAt x y)) (some (r.stripAt x y)) (some r.part) r.asid va .read).1
        | _ => s)

end Sys2Proof.Machine
end

