-- ==== Sys2Proof/Machine/Save.lean ====
section
/-! DEFINITION. Save areas (12 R363 to R366; 06 R185; 08 R237): the bytes that a save writes. What R365 names without placing its bits is placed
here as the model's own choice (notes/assumptions). -/

namespace Sys2Proof.Machine

/-! ### Bytes -/

def w64s (l : List Nat) : List Byte := l.flatMap (toBytes 8)

def padTo (n : Nat) (bs : List Byte) : List Byte := bs ++ List.replicate (n - bs.length) 0

def padded (bs : List Byte) : List Byte := padTo (pad16 bs.length) bs

/-- A token of R365: word, sideband, stale mark (DESIGN CHOICE, log entry 40). -/
def tokBytes (t : Token) (stale : Bool) : List Byte :=
  toBytes 16 t.word.toNat ++ w64s [t.side + put 25 25 (b2n stale), 0]

/-! ### Channels and ports -/

/-- Most blocks of a lane transfer: 384 elements in blocks of 8. -/
def laneBindMax : Nat := 48

/-- A lane transfer in 320 bytes: count and marks, payload, micro-exponents, bindings. -/
def LaneVal.bytes (v : LaneVal) : List Byte :=
  padTo 320 (w64s [put 7 0 v.binds.length + put 8 8 (b2n v.psn) + put 9 9 (b2n v.cmk) + put 11 10 v.ctag.toNat] ++
    toBytes 192 v.payload.toNat ++ toBytes 24 v.mexp.toNat ++
    v.binds.flatMap fun b => toBytes 2 (put 5 0 b.stag.toNat + put 9 6 b.gen.toNat + put 10 10 (b2n b.stale)))

/-- Credits of a destination on their way to its source. -/
def Region.creditsOf (r : Region) (d : DestId) (window : Bool) : Nat := ((r.credits ++ r.credDue).filter (· == (d, window))).length

/-- Words a channel holds, tokens or lane transfers. -/
def Chan.count (c : Chan) : Nat := c.fifo.length + c.lanes.length

/-- A channel's record and words. The word past TPOS counts the credits in flight; the last 16 bytes are the last word popped. -/
def Region.chanBytes (r : Region) (x y : Nat) (e : Element) (ch : Nat) : List Byte :=
  let c := e.chan ch
  let d := DestId.chan x y e.elt ch
  let win := (cfgBlock (e.cfg ch)).isSome
  w64s [put 4 0 ch + put 8 5 c.count + put 16 9 c.resid + put 17 17 (b2n win) + put 18 18 (b2n c.last.isSome)
          + put 63 32 (if win then c.win.word else 0),
        put 31 0 c.pops + put 39 32 (r.creditsOf d false) + put 47 40 (r.creditsOf d true)] ++
    toBytes 16 (c.last.getD 0).toNat ++ (c.fifo.flatMap fun t => tokBytes t.tok t.stale) ++ c.lanes.flatMap fun t => t.val.bytes

/-- The channel half (R185, R365). -/
def Region.channelHalf (r : Region) (stamp x y : Nat) (e : Element) : List Byte :=
  let chs := (List.range 32).filter fun c => cfgDef (e.cfg c)
  w64s [stamp, chs.length] ++ chs.flatMap (r.chanBytes x y e)

/-- A port's record: the captured scales of its tokens stand in its second word (R185: a scale transfer with its burst). -/
def OutPort.bytes (p : OutPort) : List Byte :=
  w64s [put 2 0 p.queue.length + put 15 8 p.fcred + put 23 16 p.wcred + put 31 24 p.bpos + put 37 32 p.bstag.toNat + put 43 40 p.bgen.toNat,
        packLanes 10 (p.queue.map fun i => match i.scale with | some z => 512 + z.toNat | none => 0)] ++
    p.queue.flatMap fun i => tokBytes i.tok false

/-! ### Scale half -/

/-- A column-chunk in 320 bytes: count of scales and poison, codes, micro-exponents, scales. -/
def Chunk.bytes (k : Chunk) : List Byte :=
  padTo 320 (w64s [put 7 0 k.scale.length + put 8 8 (b2n k.psn)] ++ toBytes 192 k.codes.toNat ++ toBytes 24 k.mexp.toNat ++
    k.scale.flatMap fun z => toBytes 2 z.toNat)

/-- Per port one byte: 1 more than the words it has taken, or 0 when the drain does not name it. -/
def Drain.posWord (d : Drain) : Nat := packLanes 8 ((List.range 16).map fun q => match look d.pos q with | some n => n + 1 | none => 0)

/-- The 64-byte header of a context. A hand-off keeps its operands where a drain to ports keeps its positions. -/
def MxCtx.header (c : MxCtx) : List Byte :=
  let d : Drain := c.drain.getD { buf := [], psn := false, isInt := false }
  w64s [(c.cfg.getD 0).toNat + put 32 32 (b2n c.cfg.isSome) + put 33 33 (b2n c.tdone) + put 34 34 (b2n c.pt) + put 35 35 (b2n c.full0)
          + put 36 36 (b2n c.full1) + put 37 37 (b2n c.fh) + put 38 38 (b2n c.fi) + put 39 39 (b2n c.drain.isSome)
          + put 47 40 c.h0.length + put 55 48 c.h1.length,
        put 15 0 c.kp + put 31 16 c.rp + put 47 32 c.fc + put 63 48 c.fkp,
        put 31 0 c.settleArms.ac + put 63 32 c.settleArms.ti,
        put 15 0 c.dwp + put 16 16 (b2n d.psn) + put 17 17 (b2n d.isInt) + put 18 18 (b2n d.copy) + put 19 19 (b2n d.add)
          + put 21 20 d.ctag.toNat + put 24 22 d.level + put 40 32 d.elt + put 63 48 d.mask,
        if d.copy then d.recA else fld d.posWord 63 0,
        if d.copy then d.ctr else fld d.posWord 127 64,
        put 31 0 (ofInt 32 d.row0) + put 63 32 (ofInt 32 d.col0), 0]

def MxCtx.bytes (c : MxCtx) : List Byte :=
  c.header ++ (c.acc.flatMap fun a => toBytes 4 a.toNat) ++
    (match c.drain with | some d => padTo 1024 (d.buf.flatMap fun a => toBytes 4 a.toNat) | none => []) ++
    (c.h0 ++ c.h1).flatMap Chunk.bytes

/-- The scale half (R185, R237, R365). -/
def Element.scaleHalf (e : Element) (stamp : Nat) : List Byte :=
  w64s [stamp, 0] ++ (e.srf.flatMap fun k => toBytes 2 k.word) ++ (if e.elt = .mx then e.mx.flatMap MxCtx.bytes else [])

/-! ### Banks and element words -/

def Bank.bytes (b : Bank) : List Byte :=
  (b.d.flatMap fun w => toBytes 16 w.toNat) ++ (b.p.flatMap fun p => toBytes 2 p.toNat) ++
    toBytes 4 b.tm.toNat ++ toBytes 4 (put 3 0 b.st.toNat + put 12 8 b.fsw.toNat)

/-- The beat-run position (R346). -/
def Run.word (n : Run) : Nat :=
  put 4 0 n.tran + put 6 5 n.bank + put 13 7 n.beat + put 15 14 n.ctag.toNat + put 16 16 (b2n n.again) + put 17 17 1

/-- Pass counts, run position, seed, PSW, halted flag. -/
def Element.words96 (e : Element) : List Byte :=
  padTo 96 ((e.pass.flatMap fun n => toBytes 2 n) ++ w64s [(e.run.map Run.word).getD 0] ++ toBytes 4 e.rng.toNat ++ toBytes 4 e.psw.toNat ++
    toBytes 8 (b2n e.halted))

/-! ### ME additions -/

def ReqOp.kindCode : ReqOp → Nat
  | .ld _ => 0 | .st .. => 1 | .ldg _ => 2 | .stg .. => 3 | .gth .. => 4 | .sct .. => 5 | .atom .. => 6 | .ord => 7 | .cmpl => 8
  | .fencef => 9 | .tfil .. => 10 | .tevc .. => 11 | .xprb => 12 | .strmDone => 13

/-- Atomic operations in the order of R201. -/
def atomOps : List AtomOp := [.add, .fadd, .min, .max, .fmin, .fmax, .and, .or, .xor, .swap, .cas]

/-- How many leading requests of each chain a list of earlier requests reaches to, 6 bits a chain. -/
def Me.reach (m : Me) (pre : List (Nat × Nat)) : Nat :=
  packLanes 6 ((List.range 8).map fun c =>
    let reqs := (m.chain c).reqs
    ((List.range reqs.length).filter fun i => match reqs[i]? with | some q => pre.contains (c, q.seq) | none => false).foldl
      (fun a i => max a (i + 1)) 0)

/-- Fences that still hold something back, oldest first. -/
def Me.openFences (m : Me) : List Fence := m.fences.filter fun f => !m.fenceMet f

/-- A tracking entry in 64 bytes. -/
def Me.reqBytes (m : Me) (q : Req) : List Byte :=
  let (n, mask) : Nat × Nat := match q.op with
    | .ld n | .ldg n | .gth n _ | .sct n _ => (n, 0)
    | .st n k | .stg n k => (n, k)
    | _ => (0, 0)
  let elts : List (Nat × Nat × Nat) := match q.op with
    | .gth _ es => es.map fun (i, a) => (i, a, (look q.done i).getD 0)
    | .sct _ es => es
    | _ => []
  let at_ (i : Nat) : Nat × Nat := ((elts.find? (·.1 == i)).map (·.2)).getD (0, 0)
  let vw := if n = 8 then 64 else 32
  let (ret, aop, aty, b, c) : Bool × Nat × Nat × Nat × Nat := match q.op with
    | .atom o ret t b c => (ret, atomOps.findIdx (· == o), t.code, b, c)
    | _ => (false, 0, 0, 0, 0)
  let (entry, slot, dirty) : Nat × Nat × Bool := match q.op with
    | .tfil e sl => (e, sl, false)
    | .tevc sl _ d => (0, sl, d)
    | _ => (0, 0, false)
  let done := q.st.isDone
  let rep := q.reply.getD {}
  let isElts := !elts.isEmpty
  let lastWord := if done then rep.word.toNat else if isElts then packLanes vw ((List.range 4).map fun i => (at_ i).2) else q.word.toNat
  w64s [put 15 0 q.seq + put 19 16 q.op.kindCode + put 20 20 (b2n done) + put 21 21 (b2n q.psn) + put 22 22 (b2n q.dpsn)
          + put 24 23 q.ctag.toNat + put 27 25 q.scope.code + put 28 28 (b2n q.reply.isSome) + put 29 29 (b2n rep.psn) + put 34 30 n
          + put 50 35 mask + put 54 51 ((elts.map fun e => 2 ^ e.1).foldl (· + ·) 0) + put 58 55 ((q.done.map fun e => 2 ^ e.1).foldl (· + ·) 0)
          + put 59 59 (b2n ret) + put 63 60 aop,
        put 2 0 aty + put 11 3 entry + put 21 12 slot + put 22 22 (b2n dirty) + put 38 23 (m.openFences.filter fun f => decide (f.id < q.fences)).length,
        if isElts then (at_ 0).1 else q.addr,
        if isElts then (at_ 1).1 else if q.after.isEmpty then b else m.reach q.after,
        if isElts then (at_ 2).1 else if q.op.kindCode = 6 then c else fld q.data.toNat 63 0,
        if isElts then (at_ 3).1 else fld q.data.toNat 127 64,
        fld lastWord 63 0, fld lastWord 127 64]

/-- A chain: NEXT and the number of its entries, then the entries. -/
def Me.chainBytes (m : Me) (c : Nat) : List Byte :=
  w64s [(m.chain c).next, (m.chain c).reqs.length] ++ (m.chain c).reqs.flatMap m.reqBytes

/-- A stream in 160 bytes: the running descriptor, the pending ones, the position, and how many descriptors of its replay window follow. -/
def Stream.bytes (x : Stream) : List Byte :=
  let g : SRun := x.run.getD { q := List.replicate 8 0 }
  padTo 160 (w64s ((List.range 8).map g.w) ++
    w64s [put 0 0 (b2n x.run.isSome) + put 2 1 x.pend.length + put 3 3 (b2n g.fromCmd) + put 4 4 (b2n g.eos.isSome) + put 7 5 (g.eos.getD 0)
            + put 8 8 (b2n g.psn) + put 9 9 (b2n g.partPsn) + put 10 10 (b2n g.ended) + put 13 13 (b2n x.lost) + put 14 14 (b2n x.holds)
            + put 23 15 g.cap.toNat + put 31 24 g.burst.length + put 47 32 g.part.length + put 52 48 (x.lastPort.getD 0) + put 53 53 (b2n x.lastPort.isSome)
            + put 58 54 (x.loads.getD 0) + put 59 59 (b2n x.loads.isSome) + put 60 60 (b2n g.markEos.isSome) + put 63 61 (g.markEos.getD 0),
          put 31 0 (x.pend.getD 0 0) + put 63 32 (x.pend.getD 1 0),
          fld g.units 63 0, fld g.units 127 64, fld g.markUnits 63 0, fld g.markUnits 127 64,
          put 31 0 g.held.length + put 63 32 g.rel, put 31 0 g.kept.length + put 63 32 x.cmds.next, g.replay.length,
          put 31 0 x.past.length + put 63 32 x.redo.length])

/-- What a descriptor keeps in the stream buffer: held writes, then kept words. -/
def SRun.bufBytes (g : SRun) : List Byte :=
  (g.held.flatMap (·.bytes)) ++ (g.kept ++ g.replay).flatMap fun u => u.flatMap fun i => toBytes 16 i.tok.word.toNat

/-- The rest of a descriptor: words of a burst, bytes of a unit, facts of held writes and kept words. -/
def SRun.restBytes (g : SRun) : List Byte :=
  (g.burst.flatMap fun t => tokBytes t false) ++ padded g.part ++
    (g.held.flatMap fun h => w64s [h.va, put 31 0 h.bytes.length + put 32 32 (b2n h.psn) + put 33 33 (b2n h.scale)]) ++
    (g.kept ++ g.replay).flatMap fun u => w64s [u.length, 0] ++ u.flatMap fun i =>
      w64s [i.tok.side + put 40 32 ((i.scale.map (·.toNat)).getD 0) + put 41 41 (b2n i.scale.isSome), 0]

/-- What a stream keeps in the stream buffer: its running descriptor, those ended since its mark, those put back by a rollback (R216, R417). -/
def Stream.bufBytes (x : Stream) : List Byte := (x.run.toList ++ x.past ++ x.redo).flatMap SRun.bufBytes

/-- The rest of a stream: that of its running descriptor, then each further one of its replay window with 160 bytes of its own. -/
def Stream.restBytes (x : Stream) : List Byte :=
  (x.run.toList.flatMap SRun.restBytes) ++ (x.past ++ x.redo).flatMap fun g => ({ run := some g } : Stream).bytes ++ g.restBytes

/-- The ME additions (R365), in the order of the rule; the rest holds poisoned lines, PREFs, fences and what streams keep. -/
def Me.bytes (m : Me) : List Byte :=
  let tags := (List.range 512).flatMap fun k => toBytes 8 (m.tag k).word
  let fills := (List.range 64).map fun k => BitVec.ofNat 8 (m.fillPtr k)
  let fences := m.openFences
  let body := tags ++ fills ++ ((List.range 8).flatMap m.chainBytes) ++ ((List.range 8).flatMap fun i => (m.stream i).bytes) ++
    w64s ((List.range 8).map fun i => match (m.stream i).run with | some g => put 31 0 g.held.length + put 63 32 g.kept.length | none => 0) ++
    padTo 32768 ((List.range 8).flatMap fun i => (m.stream i).bufBytes) ++ memReadBytes m.spad 0 393216
  let rest := ((List.range 768).map fun i => BitVec.ofNat 8 (packLanes 1 ((List.range 8).map fun j => b2n (m.spoison.contains (8 * i + j))))) ++
    w64s [m.prefs.length, fences.length] ++ padded (w64s m.prefs) ++
    (fences.flatMap fun f => w64s [put 1 0 f.kind.code + put 4 2 f.scope.code, m.reach f.pre]) ++
    ((List.range 8).flatMap fun i => (m.stream i).restBytes)
  let reqs := (m.chains.map fun c => c.reqs.length).foldl (· + ·) 0
  padded (padTo (443008 + 64 * reqs) (body ++ rest))

/-! ### Parts and records -/

/-- An element part (R365). -/
def Region.eltPart (r : Region) (stamp x y : Nat) (e : Element) : List Byte :=
  let body := r.channelHalf stamp x y e ++ (e.ports.flatMap OutPort.bytes) ++ e.scaleHalf stamp ++ (e.banks.flatMap Bank.bytes) ++ e.words96 ++
    (if e.elt = .me then e.me.bytes else [])
  w64s [put 2 0 e.elt.code + put 63 32 (16 + body.length), 0] ++ body

/-- The CCU part: header, values, bounds, flags, arm tokens, then tokens it has not yet sent. -/
def Region.ccuPart (r : Region) (x y : Nat) (c : Ccu) : List Byte :=
  let toks := c.armq.map (·.tok) ++ c.out
  w64s [put 2 0 4 + put 63 32 (80 + 32 * toks.length), 0] ++
    ((List.range 4).flatMap fun i => toBytes 4 (ofInt 32 (c.val.getD i 0))) ++
    ((List.range 4).flatMap fun i => toBytes 4 (ofInt 32 (c.bound.getD i 0))) ++
    w64s [put 0 0 (b2n c.running) + put 1 1 (b2n c.ranOnce) + put 2 2 (b2n c.eos.isSome) + put 5 3 (c.eos.getD 0) + put 15 8 c.fcred
            + put 23 16 c.armq.length + put 31 24 c.out.length + put 39 32 (r.creditsOf (.arm x y) false), 0, 0, 0] ++
    toks.flatMap fun t => tokBytes t false

/-- Lanes whose driver stands at a tile. -/
def Region.lanesAt (r : Region) (x y : Nat) : List LaneId :=
  match r.switch (r.phys x y).1 (r.phys x y).2 with
  | none => []
  | some w =>
    (if w.routes.any fun e => rtV e && rtDst e == 9 then [.row y] else []) ++
      (if w.routes.any fun e => rtV e && rtDst e == 10 then [.col x] else [])

/-- A scale transfer in 32 bytes: its e and its block index. In a delay line bit 63 of the last word tells it from a token. -/
def scaleBytes (z : BitVec 9) (index mark : Nat) : List Byte := w64s [put 8 0 z.toNat + put 15 9 index, 0, 0, put 63 63 mark]

/-- The items of a delay line, oldest first: each token behind the scale transfer that runs ahead of it, and one whose burst has yet to enter. -/
def Delay.items (d : Delay) : List (List Byte) :=
  (d.toks.flatMap fun i => (i.scale.toList.map fun z => scaleBytes z 0 1) ++ [tokBytes i.tok false]) ++ d.wait.toList.map fun z => scaleBytes z 0 1

/-- The switch part: header, delay lines, then the words and scale transfers of the tile's lane drivers. -/
def Region.switchPart (r : Region) (x y : Nat) (w : Switch) : List Byte :=
  let drv (l : LaneId) : LaneDrv := if (r.lanesAt x y).contains l then (r.driver l).getD { lane := l, fmt := 0, blen := 0, lrow := 0, lcol := 0, rall := false, call := false }
    else { lane := l, fmt := 0, blen := 0, lrow := 0, lcol := 0, rall := false, call := false }
  let a := drv (.row y)
  let b := drv (.col x)
  let lines := w.delays.map Delay.items
  let items (d : LaneDrv) : List Byte :=
    (d.words.flatMap fun t => tokBytes t false) ++ ((d.scales.mapIdx fun i z => scaleBytes z i 0).flatMap id)
  let n := (lines.flatMap id).length + a.words.length + a.scales.length + b.words.length + b.scales.length
  w64s [put 2 0 5 + put 63 32 (32 + 32 * n), 0,
        packLanes 8 ((List.range 4).map fun i => (lines.getD i []).length) +
          2 ^ 32 * packLanes 8 [a.words.length, a.scales.length, b.words.length, b.scales.length], 0] ++
    ((lines.flatMap id).flatMap id) ++ items a ++ items b

/-- Image tiles where a lane driver stands (R400). -/
def Image.driverTiles (i : Image) : List (Nat × Nat) :=
  i.switchTiles.filter fun (x, y) => (i.entries x y).any fun e => rtV e && (rtDst e == 9 || rtDst e == 10)

/-- A tile's record carries a switch part: the image configures one, or a lane driver stands there (R400). -/
def Image.recSwitch (i : Image) (x y : Nat) : Bool := (((i.tile x y).bind (·.sw)).isSome) || i.driverTiles.contains (x, y)

/-- Tiles that an area has a record of, in ascending (y, x): those the image configures, and one that only drives a lane. -/
def Image.savedTiles (i : Image) : List TileImg :=
  sortBy (fun t => t.y * 128 + t.x)
    (i.tiles ++ (i.driverTiles.filter fun (x, y) => (i.tile x y).isNone).map fun (x, y) => { x := x, y := y })

/-- The place of a tile's record: the sweep's order, by highest stage, then row and column (R41). -/
def TileImg.sweepKey (t : TileImg) : Nat := (((t.elts.map (·.2.stage)).foldl max 0) * 32 + t.y) * 128 + t.x

def Image.sweep (i : Image) : List TileImg := sortBy TileImg.sweepKey i.savedTiles

/-- The switch of a tile whose record carries a switch part. -/
def Region.recSwitch (r : Region) (x y : Nat) : Option Switch :=
  if (r.image.map fun i => i.recSwitch x y).getD false then r.switch (r.phys x y).1 (r.phys x y).2 else none

/-- A tile record (R365). -/
def Region.tileRecord (r : Region) (stamp : Nat) (t : Tile) : List Byte :=
  let body := (t.elts.flatMap (r.eltPart stamp t.x t.y)) ++ (match t.ccu with | some c => r.ccuPart t.x t.y c | none => []) ++
    (match r.recSwitch t.x t.y with | some w => r.switchPart t.x t.y w | none => [])
  let mask := packLanes 1 ([Elt.pe0, .pe1, .me, .mx].map (fun e => b2n (t.elem e).isSome) ++ [b2n t.ccu.isSome, b2n (r.recSwitch t.x t.y).isSome])
  w64s [put 6 0 t.x + put 11 7 t.y + put 17 12 mask + put 63 32 (16 + body.length), 0] ++ body

/-! ### The area (R363, R364) -/

/-- A class 1 ticket (R244). -/
def streamTicket (x y i seq : Nat) : Nat := put 51 48 1 + put 47 32 (put 6 0 x + put 11 7 y + put 14 12 i) + put 31 0 seq

/-- Commands that a save carries: those queued and the one whose descriptor runs. -/
def Region.savedCmds (r : Region) : List ((Nat × Nat × Nat) × Cmd) := r.streamCmds.filter fun e => !e.2.done

/-- A stream command in 160 bytes. -/
def Region.cmdBytes (r : Region) (e : (Nat × Nat × Nat) × Cmd) : List Byte :=
  let (x, y, i) := e.1
  let c := e.2
  let run := ((r.me x y).bind fun m => (m.stream i).run)
  let running := c.issued && c.kind == 1
  padTo 128 (bytesOf64 c.c) ++
    w64s [put 6 0 x + put 11 7 y + put 14 12 i + put 15 15 (b2n running) + put 21 16 c.hart + put 22 22 (b2n c.par) + put 23 23 (b2n c.popped),
          streamTicket x y (c.stream i) c.seq, if running then (run.map (·.units)).getD c.units else c.units, 0]

def LateTok.bytes (l : LateTok) : List Byte :=
  tokBytes l.tok false ++ w64s [put 4 0 l.ch + put 11 5 l.x + put 16 12 l.y + put 19 17 l.elt, (l.scale.map fun z => 512 + z.toNat).getD 0]

/-- Where each record stands, by image tile: offset and length. -/
def placeRecords : Nat → List ((Nat × Nat) × List Byte) → List ((Nat × Nat) × (Nat × Nat))
  | _, [] => []
  | o, (k, b) :: l => (k, o, b.length) :: placeRecords (o + b.length) l

/-- The whole area (DEDUCED, log entry 34). -/
def Region.saveBytes (r : Region) (slot mode : Nat) : List Byte :=
  let recs := ((r.image.map Image.sweep).getD []).map fun t => ((t.x, t.y), r.tileRecord r.stamp ((r.tile t.x t.y).getD { x := t.x, y := t.y }))
  let nt := recs.length
  let first := 0x100 + 16 * nt
  let places := placeRecords first recs
  let late := (r.switchOut.map (·.late)).getD []
  let cmds := r.savedCmds
  let sco := first + (recs.map (·.2.length)).foldl (· + ·) 0
  let lco := sco + 160 * cmds.length
  let len := lco + 48 * late.length
  let hdl := handleOf slot r.gen
  w64s [put 63 32 0x4F585356 + put 31 16 1 + put 2 2 (b2n r.nonReplayable) + put 1 0 mode, r.stamp,
        put 63 32 hdl + put 31 16 r.tid + put 11 0 r.asid, len, put 31 0 nt + put 63 32 late.length, put 31 0 sco + put 47 32 cmds.length, put 31 0 lco, 0] ++
    (match r.fault with | some f => bytesOf64 (f.words hdl r.tid r.asid) | none => List.replicate 64 0) ++
    (match r.place with | some p => bytesOf64 (p.words hdl r.tid r.asid) | none => List.replicate 64 0) ++
    w64s [r.active, r.noProg, r.stamp, 0, 0, 0, 0, 0] ++
    ((sortBy (fun p => p.1.2 * 128 + p.1.1) places).flatMap fun ((x, y), o, n) => w64s [put 6 0 x + put 11 7 y + put 63 32 o, n]) ++
    (recs.flatMap (·.2)) ++ (cmds.flatMap r.cmdBytes) ++ late.flatMap LateTok.bytes

/-- Bytes that a freeze-mode save of the present front needs (R253, R364). -/
def Region.saveLen (r : Region) (slot : Nat) : Nat := (r.saveBytes slot 1).length

end Sys2Proof.Machine
end

