-- ==== Sys2Proof/Machine/Restore.lean ====
section
/-! DEFINITION. Restoring from a save area (12 R363 to R368; 06 R186, R187): reading its parts with their checks, and the region that
the image and the area together make. -/

namespace Sys2Proof.Machine

/-- A reading of an area: a value, or the DET of R350 and the byte offset of the failing item. -/
abbrev Rdg (α : Type) := Except (Nat × Nat) α

def must (c : Bool) (det off : Nat) : Rdg Unit := if c then .ok () else .error (det, off)

/-- Read `n` items one after another. -/
def readMany {α : Type} (f : Nat → Rdg (α × Nat)) : Nat → Nat → Rdg (List α × Nat)
  | 0, o => .ok ([], o)
  | n + 1, o => do
    let (a, o1) ← f o
    let (l, o2) ← readMany f n o1
    return (a :: l, o2)

/-- Read one item for each entry of a list. -/
def readEach {α β : Type} (f : α → Nat → Rdg (β × Nat)) : List α → Nat → Rdg (List β × Nat)
  | [], o => .ok ([], o)
  | a :: r, o => do
    let (b, o1) ← f a o
    let (l, o2) ← readEach f r o1
    return (b :: l, o2)

/-- A 64-bit word of the area. -/
def aw (bs : List Byte) (o : Nat) : Nat := rd bs o 8

def readTok (bs : List Byte) (o : Nat) : Rdg (FifoTok × Nat) := do
  let side := aw bs (o + 16)
  must (fld side 63 26 == 0 && aw bs (o + 24) == 0 && (Token.ofSide 0 (fld side 24 0)).eosl ≤ 5) 4 o
  return ({ tok := Token.ofSide (.ofNat 128 (rd bs o 16)) (fld side 24 0), stale := bitN side 25 }, o + 32)

/-! ### Channels and ports -/

def readLane (bs : List Byte) (o : Nat) : Rdg (LaneTok × Nat) := do
  let h := aw bs o
  let n := fld h 7 0
  must (fld h 63 12 == 0 && decide (n ≤ laneBindMax)) 4 o
  return ({ val := { payload := .ofNat 1536 (rd bs (o + 8) 192), mexp := .ofNat 192 (rd bs (o + 200) 24), psn := bitN h 8, cmk := bitN h 9
                     ctag := .ofNat 2 (fld h 11 10)
                     binds := (List.range n).map fun i =>
                       let b := rd bs (o + 224 + 2 * i) 2
                       { stag := .ofNat 6 (fld b 5 0), gen := .ofNat 4 (fld b 9 6), stale := bitN b 10 } } }, o + 320)

/-- A channel's record: the channel and the credits that were on their way to its source (DESIGN CHOICE, log entry 31). -/
def readChan (bs : List Byte) (e : Element) (ch : Nat) (o : Nat) : Rdg ((Nat × Chan × Nat × Nat) × Nat) := do
  let a := aw bs o
  let b := aw bs (o + 8)
  let n := fld a 8 5
  let lane := cfgLane (e.cfg ch)
  let block := (cfgBlock (e.cfg ch)).isSome
  must (fld a 4 0 == ch && fld a 31 19 == 0 && fld b 63 48 == 0 && decide (n ≤ if lane then 2 else 8) && decide (fld b 39 32 ≤ 8) &&
    decide (fld b 47 40 ≤ if block then cfgDepth (e.cfg ch) else 0) && decide (fld a 16 9 ≤ cfgStk (e.cfg ch))) 4 o
  let w := Window.ofWord (fld a 63 32)
  must (bitN a 17 == block && (!block || (decide (w.alp < cfgDepth (e.cfg ch)) && decide (w.rlp < cfgDepth (e.cfg ch)) &&
    decide (w.crd ≤ cfgDepth (e.cfg ch))))) 3 o
  let c0 : Chan := { resid := fld a 16 9, win := if block then w else {}, pops := fld b 31 0
                     last := if bitN a 18 then some (.ofNat 128 (rd bs (o + 16) 16)) else none }
  if lane then
    let (l, o1) ← readMany (readLane bs) n (o + 32)
    return ((ch, { c0 with lanes := l }, fld b 39 32, fld b 47 40), o1)
  else
    let (l, o1) ← readMany (readTok bs) n (o + 32)
    return ((ch, { c0 with fifo := l }, fld b 39 32, fld b 47 40), o1)

/-- A binding of a block-format channel holds (R186): inside the window, and stale or still the entry's. -/
def bindingOk (e : Element) (ch : Nat) (stag : BitVec 6) (gen : BitVec 4) (stale : Bool) : Bool :=
  let c := e.cfg ch
  let k := e.srfAt stag.toNat
  decide (cfgSwb c ≤ stag.toNat) && decide (stag.toNat < cfgSwb c + cfgDepth c) && (stale || (k.held && k.v && k.g == gen))

/-- Every binding of an element's channels holds. -/
def Element.bindingsOk (e : Element) : Bool :=
  (List.range 32).all fun ch => (cfgBlock (e.cfg ch)).isNone ||
    (((e.chan ch).fifo.all fun t => t.tok.eosl != 0 || bindingOk e ch t.tok.stag t.tok.gen t.stale) &&
      (e.chan ch).lanes.all fun t => t.val.binds.all fun b => bindingOk e ch b.stag b.gen b.stale)

def readPort (bs : List Byte) (o : Nat) : Rdg (OutPort × Nat) := do
  let a := aw bs o
  let z := aw bs (o + 8)
  let n := fld a 2 0
  must (decide (n ≤ 4) && fld a 7 3 == 0 && fld a 39 38 == 0 && fld a 63 44 == 0 && decide (fld a 15 8 ≤ 8) && decide (fld a 23 16 ≤ 64) &&
    decide (fld a 31 24 < 8) && fld z 63 40 == 0) 4 o
  let (l, o1) ← readMany (readTok bs) n (o + 16)
  let item (i : Nat) (t : FifoTok) : PortItem :=
    { tok := t.tok, scale := if bitN z (10 * i + 9) then some (.ofNat 9 (fld z (10 * i + 8) (10 * i))) else none }
  return ({ queue := l.mapIdx item, fcred := fld a 15 8, wcred := fld a 23 16, bpos := fld a 31 24, bstag := .ofNat 6 (fld a 37 32)
            bgen := .ofNat 4 (fld a 43 40) }, o1)

/-! ### Contexts -/

def readChunk (bs : List Byte) (o : Nat) : Rdg (Chunk × Nat) := do
  let h := aw bs o
  must (fld h 63 9 == 0 && decide (fld h 7 0 ≤ laneBindMax)) 4 o
  return ({ codes := .ofNat 1536 (rd bs (o + 8) 192), mexp := .ofNat 192 (rd bs (o + 200) 24), psn := bitN h 8
            scale := (List.range (fld h 7 0)).map fun i => .ofNat 9 (rd bs (o + 224 + 2 * i) 2) }, o + 320)

/-- The drain buffer of a context whose DRB is 1. A hand-off reads its record again. -/
def readDrain (bs : List Byte) (o buf : Nat) : Drain :=
  let d3 := aw bs (o + 24)
  let a := aw bs (o + 32)
  let b := aw bs (o + 40)
  let rc := aw bs (o + 48)
  let pos := a + 2 ^ 64 * b
  { buf := rds32 bs buf 256, psn := bitN d3 16, isInt := bitN d3 17, copy := bitN d3 18, add := bitN d3 19, ctag := .ofNat 2 (fld d3 21 20)
    level := fld d3 24 22, elt := fld d3 40 32, mask := fld d3 63 48
    recA := if bitN d3 18 then a else 0, ctr := if bitN d3 18 then b else 0
    pos := if bitN d3 18 then [] else (List.range 16).filterMap fun q =>
      let n := fld pos (8 * q + 7) (8 * q)
      if n = 0 then none else some (q, n - 1)
    row0 := toSigned 32 (fld rc 31 0), col0 := toSigned 32 (fld rc 63 32) }

def readCtx (bs : List Byte) (o : Nat) : Rdg (MxCtx × Nat) := do
  let a := aw bs o
  let b := aw bs (o + 8)
  let c := aw bs (o + 16)
  let d := aw bs (o + 24)
  let cfg := fld a 31 0
  let n0 := fld a 47 40
  let n1 := fld a 55 48
  must (fld a 63 56 == 0 && decide (n0 ≤ 64) && decide (n1 ≤ 64) && decide (fld b 15 0 ≤ 255) && decide (fld b 31 16 ≤ 31) && decide (fld b 47 32 ≤ 63) &&
    decide (fld b 63 48 ≤ 255) && decide (fld d 15 0 ≤ 64) && (!bitN a 32 || mctxOk cfg)) 4 o
  let drb := bitN a 39
  let o1 := o + 64 + 1024
  let o2 := if drb then o1 + 1024 else o1
  let (h0, o3) ← readMany (readChunk bs) n0 o2
  let (h1, o4) ← readMany (readChunk bs) n1 o3
  return ({ cfg := if bitN a 32 then some (.ofNat 32 cfg) else none, acc := rds32 bs (o + 64) 256, tdone := bitN a 33, pt := bitN a 34
            full0 := bitN a 35, full1 := bitN a 36, fh := bitN a 37, fi := bitN a 38, h0 := h0, h1 := h1, kp := fld b 15 0, rp := fld b 31 16
            fc := fld b 47 32, fkp := fld b 63 48, ac := fld c 31 0, ti := fld c 63 32, dwp := fld d 15 0
            drain := if drb then some (readDrain bs o o1) else none }, o4)

/-! ### Banks, element words -/

def readBank (bs : List Byte) (o : Nat) : Rdg (Bank × Nat) :=
  let z := rd bs (o + 268) 4
  .ok ({ d := (List.range 16).map fun i => .ofNat 128 (rd bs (o + 16 * i) 16), p := (List.range 4).map fun i => .ofNat 16 (rd bs (o + 256 + 2 * i) 2)
         tm := rd32 bs (o + 264), st := .ofNat 4 (fld z 3 0), fsw := .ofNat 5 (fld z 12 8) }, o + 272)

def readWords96 (bs : List Byte) (e : Element) (o : Nat) : Rdg (Element × Nat) := do
  let n := aw bs (o + 64)
  let pass := (List.range 32).map fun i => rd bs (o + 2 * i) 2
  let t := e.tran (fld n 4 0)
  must (pass.all fun k => decide (k ≤ 512)) 4 o
  let psw := rd bs (o + 76) 4
  must (fld psw 3 0 == 0 && (bitN psw 4 == decide (0 < fld psw 31 16)) && (bitN psw 4 || psw == 0)) 4 (o + 76)
  must (fld n 63 18 == 0 && (!bitN n 17 || (t.en && decide (fld n 13 7 < t.n) && (bitN n 16 || decide (0 < fld n 13 7)))) && aw bs (o + 80) / 2 == 0 &&
    aw bs (o + 88) == 0) 4 (o + 64)
  return ({ e with
    pass := pass
    run := if bitN n 17 then some { tran := fld n 4 0, bank := fld n 6 5, beat := fld n 13 7, ctag := .ofNat 2 (fld n 15 14), again := bitN n 16 } else none
    rng := rd32 bs (o + 72), psw := rd32 bs (o + 76), halted := bitN (aw bs (o + 80)) 0 }, o + 96)

/-! ### ME additions -/

/-- Elements of a gather or scatter in an entry. -/
def readElts (bs : List Byte) (o n mask : Nat) : List (Nat × Nat × Nat) :=
  let vw := if n = 8 then 8 else 4
  ((List.range 4).filter (bitN mask ·)).map fun i => (i, aw bs (o + 16 + 8 * i), rd bs (o + 48 + vw * i) vw)

/-- A tracking entry, with the reach of its earlier requests. -/
def readReq (bs : List Byte) (o : Nat) : Rdg ((Req × Nat) × Nat) := do
  let h := aw bs o
  let k := aw bs (o + 8)
  let addr := aw bs (o + 16)
  let n := fld h 34 30
  let mask := fld h 50 35
  let elts := readElts bs o n (fld h 54 51)
  let last := rd bs (o + 48) 16
  let op : Option ReqOp := match fld h 19 16 with
    | 0 => some (.ld n) | 1 => some (.st n mask) | 2 => some (.ldg n) | 3 => some (.stg n mask)
    | 4 => some (.gth n (elts.map fun e => (e.1, e.2.1))) | 5 => some (.sct n elts)
    | 6 => (atomOps[fld h 63 60]?).bind fun a => (atOf (fld k 2 0)).map fun t => .atom a (bitN h 59) t (aw bs (o + 24)) (aw bs (o + 32))
    | 7 => some .ord | 8 => some .cmpl | 9 => some .fencef
    | 10 => if fld k 11 3 < 512 ∧ fld k 21 12 < 768 then some (.tfil (fld k 11 3) (fld k 21 12)) else none
    | 11 => if fld k 21 12 < 768 then some (.tevc (fld k 21 12) (addr / 512) (bitN k 22)) else none
    | 12 => some .xprb | 13 => some .strmDone
    | _ => none
  match op, scopeOf (fld h 27 25) with
  | some op, some sc =>
    must (decide (n ≤ 16) && fld k 63 39 == 0) 4 o
    let done := bitN h 20
    let isElts := op.kindCode == 4 || op.kindCode == 5
    return (({ seq := fld h 15 0, op := op, addr := addr, data := .ofNat 128 (rd bs (o + 32) 16), word := if done || isElts then 0 else .ofNat 128 last
               ctag := .ofNat 2 (fld h 24 23), psn := bitN h 21, dpsn := bitN h 22, fences := fld k 38 23, scope := sc
               st := if done then .performed else .queued
               done := if isElts then (elts.filter fun e => bitN (fld h 58 55) e.1).map fun e => (e.1, e.2.2) else []
               reply := if bitN h 28 then some { word := .ofNat 128 last, psn := bitN h 29, ctag := .ofNat 2 (fld h 24 23) } else none },
             if op.kindCode = 7 ∨ op.kindCode = 9 then aw bs (o + 24) else 0), o + 64)
  | _, _ => .error (4, o)

def readChain (bs : List Byte) (o : Nat) : Rdg ((Chain × List Nat) × Nat) := do
  must (decide (aw bs o < 65536) && decide (aw bs (o + 8) ≤ 32)) 4 o
  let (l, o1) ← readMany (readReq bs) (aw bs (o + 8)) (o + 16)
  return (({ next := aw bs o, reqs := l.map (·.1) }, l.map (·.2)), o1)

/-- Requests that a reach of 6 bits a chain names. -/
def reachOf (chains : List Chain) (n : Nat) : List (Nat × Nat) :=
  (List.range 8).flatMap fun c => (((chains.getD c {}).reqs).take (fld n (6 * c + 5) (6 * c))).map fun q => (c, q.seq)

/-- A stream in 160 bytes, with the lengths of what it keeps: burst words, bytes of a unit, held writes, kept units. -/
structure StreamHead where
  x : Stream
  burst : Nat
  part : Nat
  held : Nat
  kept : Nat
  replay : Nat
  past : Nat
  redo : Nat

/-- A descriptor that an area puts back keeps the limits that its words alone decide (R211, R367): its edge is that of its image. -/
def SRun.limits (g : SRun) : Bool :=
  (g.badWord (some (g.fmtCode, g.blen)) true false).isNone && decide (g.units ≤ g.total) && decide (g.markUnits ≤ g.total) &&
    (g.eos.toList ++ g.markEos.toList).all fun l => decide (1 ≤ l) && decide (l ≤ 5)

def readStream (bs : List Byte) (o : Nat) : Rdg (StreamHead × Nat) := do
  let p (i : Nat) : Nat := aw bs (o + 64 + 8 * i)
  let a := p 0
  let running := bitN a 0
  let burst := fld a 31 24
  must (decide (fld a 2 1 + b2n running ≤ 2) && fld a 12 11 == 0 && (bitN a 53 || fld a 52 48 == 0) &&
    decide (fld a 52 48 < 16) && (bitN a 59 || fld a 58 54 == 0) && (bitN a 60 || fld a 63 61 == 0) && fld (p 9) 31 0 < 2 ^ 16 && fld (p 9) 63 32 < 2 ^ 16 &&
    [fld (p 1) 31 0, fld (p 1) 63 32].all (fun n => decide (n + 64 ≤ 0x60000) && n % 64 == 0) && decide (fld (p 6) 31 0 ≤ 32768) &&
    decide (fld (p 7) 31 0 ≤ 2048) && decide (p 8 ≤ 4096) && decide (burst ≤ 8) && decide (fld a 47 32 ≤ 4096) && decide (fld (p 6) 63 32 ≤ fld (p 6) 31 0)) 4 o
  let run : SRun := { q := rds64 bs o 8, fromCmd := bitN a 3, units := p 2 + 2 ^ 64 * p 3, eos := if bitN a 4 then some (fld a 7 5) else none
                      cap := .ofNat 9 (fld a 23 15), partPsn := bitN a 9, psn := bitN a 8, ended := bitN a 10, rel := fld (p 6) 63 32
                      markUnits := p 4 + 2 ^ 64 * p 5, markEos := if bitN a 60 then some (fld a 63 61) else none }
  must (!running || run.limits) 4 o
  return ({ x := { run := if running then some run else none, pend := [fld (p 1) 31 0, fld (p 1) 63 32].take (fld a 2 1), lost := bitN a 13, holds := bitN a 14
                   lastPort := if bitN a 53 then some (fld a 52 48) else none, loads := if bitN a 59 then some (fld a 58 54) else none
                   cmds := { next := fld (p 7) 63 32 } }
            burst := if running then burst else 0, part := if running then fld a 47 32 else 0, held := if running then fld (p 6) 31 0 else 0
            kept := if running then fld (p 7) 31 0 else 0, replay := if running then p 8 else 0
            past := fld (p 9) 31 0, redo := fld (p 9) 63 32 }, o + 160)

/-- Facts of a held write: address, length, poison, whether it is a scale byte. -/
def readHeld (bs : List Byte) (o : Nat) : Rdg ((Nat × Nat × Bool × Bool) × Nat) := do
  let b := aw bs (o + 8)
  must (decide (fld b 31 0 ≤ 4096) && fld b 63 34 == 0) 4 o
  return ((aw bs o, fld b 31 0, bitN b 32, bitN b 33), o + 16)

/-- Facts of a kept unit: each word's sideband and scale. -/
def readKept (bs : List Byte) (o : Nat) : Rdg (List (Nat × Option (BitVec 9)) × Nat) := do
  must (decide (aw bs o ≤ 8)) 4 o
  readMany (fun o => .ok ((fld (aw bs o) 24 0, if bitN (aw bs o) 41 then some (.ofNat 9 (fld (aw bs o) 40 32)) else none), o + 16)) (aw bs o) (o + 16)

/-- The words of kept units, from an offset of the stream buffer on. -/
def placeKept (bs : List Byte) : Nat → List (List (Nat × Option (BitVec 9))) → List (List PortItem)
  | _, [] => []
  | o, u :: r =>
    (u.mapIdx fun i f => { tok := Token.ofSide (.ofNat 128 (rd bs (o + 16 * i) 16)) f.1, scale := f.2 }) :: placeKept bs (o + 16 * u.length) r

/-- The bytes of held writes, from an offset of the stream buffer on. -/
def placeHeld (bs : List Byte) : Nat → List (Nat × Nat × Bool × Bool) → List HeldWrite
  | _, [] => []
  | o, (va, n, psn, sc) :: r => { va := va, bytes := (bs.drop o).take n, psn := psn, scale := sc } :: placeHeld bs (o + n) r

/-- The rest of one descriptor: `at` is its place in the stream buffer, `o` its place in the rest. -/
def readRun (bs : List Byte) (h : StreamHead) (at_ o : Nat) : Rdg (Stream × Nat × Nat) := do
  let (burst, o1) ← readMany (readTok bs) h.burst o
  let part := (bs.drop o1).take h.part
  let (held, o2) ← readMany (readHeld bs) h.held (o1 + pad16 h.part)
  let (kept, o3) ← readMany (readKept bs) (h.kept + h.replay) o2
  let hn := (held.map (·.2.1)).foldl (· + ·) 0
  let kn := (kept.map fun u => 16 * u.length).foldl (· + ·) 0
  let units := placeKept bs (at_ + hn) kept
  return ({ h.x with run := h.x.run.map fun g =>
    { g with burst := burst.map (·.tok), part := part, held := placeHeld bs at_ held, kept := units.take h.kept, replay := units.drop h.kept } }, at_ + hn + kn, o3)

/-- Further descriptors of a stream's replay window, each behind its own 160 bytes. -/
def readRuns (bs : List Byte) : Nat → Nat → Nat → Rdg (List SRun × Nat × Nat)
  | 0, a, o => .ok ([], a, o)
  | n + 1, a, o => do
    let (h, o1) ← readStream bs o
    must (h.x.run.isSome && h.past + h.redo == 0) 4 o
    let (x, a1, o2) ← readRun bs h a o1
    let (l, a2, o3) ← readRuns bs n a1 o2
    return (x.run.toList ++ l, a2, o3)

/-- The rest of one stream. -/
def readStreamRest (bs : List Byte) (h : StreamHead) (at_ o : Nat) : Rdg (Stream × Nat × Nat) := do
  let (x, a1, o1) ← readRun bs h at_ o
  let (l, a2, o2) ← readRuns bs (h.past + h.redo) a1 o1
  return ({ x with past := l.take h.past, redo := l.drop h.past }, a2, o2)

def readStreamRests (bs : List Byte) : List StreamHead → Nat → Nat → Rdg (List Stream × Nat × Nat)
  | [], a, o => .ok ([], a, o)
  | h :: r, a, o => do
    let (x, a1, o1) ← readStreamRest bs h a o
    let (l, a2, o2) ← readStreamRests bs r a1 o1
    return (x :: l, a2, o2)

/-- Bytes of a scratchpad that are not 0, as cells. -/
def cellsOf : Nat → List Byte → List Host.Cell
  | _, [] => []
  | a, b :: r => if b = unlisted then cellsOf (a + 1) r else (a, b) :: cellsOf (a + 1) r

def readFence (bs : List Byte) (chains : List Chain) (o : Nat) : Rdg (Fence × Nat) := do
  let h := aw bs o
  match fenceOf (fld h 1 0), scopeOf (fld h 4 2) with
  | some k, some sc => return ({ id := 0, kind := k, scope := sc, pre := reachOf chains (aw bs (o + 8)) }, o + 16)
  | _, _ => .error (4, o)

/-- The ME additions. -/
def readMe (bs : List Byte) (o : Nat) : Rdg (Me × Nat) := do
  let tags := (List.range 512).filterMap fun k =>
    let n := aw bs (o + 8 * k)
    if n = 0 then none else some (k, TagEnt.ofWord n)
  let fill := (List.range 64).filterMap fun k =>
    let n := rd bs (o + 4096 + k) 1
    if n = 0 then none else some (k, n)
  must (tags.all fun t => decide (t.2.slot < 768)) 4 o
  must ((List.range 64).all fun k => decide (rd bs (o + 4096 + k) 1 < 8)) 4 (o + 4096)
  let (cs, o1) ← readMany (readChain bs) 8 (o + 4160)
  let chains0 := cs.map (·.1)
  let chains := cs.map fun (c, reach) => { c with reqs := c.reqs.mapIdx fun i q => { q with after := reachOf chains0 (reach.getD i 0) } }
  let (heads, o2) ← readMany (readStream bs) 8 o1
  let buf := o2 + 64
  let spad := buf + 32768
  let rest := spad + 393216
  let np := aw bs (rest + 768)
  let nf := aw bs (rest + 776)
  must (decide (np ≤ 65536) && decide (nf ≤ 65536)) 4 (rest + 768)
  let o3 := rest + 784 + pad16 (8 * np)
  let (fs, o4) ← readMany (readFence bs chains) nf o3
  let (streams, used, o5) ← readStreamRests bs heads buf o4
  must (decide (used ≤ spad)) 4 buf
  let reqs := (chains.map fun c => c.reqs.length).foldl (· + ·) 0
  return ({ spad := cellsOf 0 ((bs.drop spad).take 393216)
            spoison := (List.range 6144).filter fun l => bitN (rd bs (rest + l / 8) 1) (l % 8)
            tags := tags, fill := fill, chains := chains, streams := streams
            fences := fs.mapIdx fun i f => { f with id := i }, nfence := nf
            prefs := (List.range np).map fun i => aw bs (rest + 784 + 8 * i) }, o + pad16 (max (443008 + 64 * reqs) (o5 - o)))

/-! ### Parts -/

/-- An element and the credits that were on their way from its channels. -/
abbrev Part := Element × List (DestId × Bool)

/-- An element part, on the element as its image activates it. -/
def readEltPart (bs : List Byte) (stamp x y : Nat) (e0 : Element) (o : Nat) : Rdg (Part × Nat) := do
  let h := aw bs o
  must (fld h 31 0 == e0.elt.code && aw bs (o + 8) == 0) 4 o
  let chs := (List.range 32).filter fun c => cfgDef (e0.cfg c)
  must (aw bs (o + 16) == stamp) 1 (o + 16)
  must (aw bs (o + 24) == chs.length) 4 (o + 24)
  let (cl, o1) ← readEach (readChan bs e0) chs (o + 32)
  let (ports, o2) ← readMany (readPort bs) 16 o1
  must (aw bs o2 == stamp) 1 o2
  let srf := (List.range 64).map fun k => Srf.ofWord (rd bs (o2 + 16 + 2 * k) 2)
  let (mx, o3) ← readMany (readCtx bs) (if e0.elt = .mx then 4 else 0) (o2 + 144)
  let (banks, o4) ← readMany (readBank bs) 4 o3
  let (e1, o5) ← readWords96 bs e0 o4
  let (me, o6) ← if e0.elt = .me then readMe bs o5 else .ok ({}, o5)
  let e2 : Element := { e1 with chans := (List.range 32).map fun c => ((cl.find? (·.1 == c)).map (·.2.1)).getD {}
                                ports := ports, srf := srf, mx := if e0.elt = .mx then mx else e0.mx, banks := banks, me := me }
  must e2.bindingsOk 2 (o + 32)
  must (fld h 63 32 == o6 - o) 4 o
  return ((e2, cl.flatMap fun (c, _, n, m) => List.replicate n (.chan x y e0.elt c, false) ++ List.replicate m (.chan x y e0.elt c, true)), o6)

def readCcuPart (bs : List Byte) (x y : Nat) (c0 : Ccu) (o : Nat) : Rdg ((Ccu × List (DestId × Bool)) × Nat) := do
  let h := aw bs o
  let f := aw bs (o + 48)
  let na := fld f 23 16
  let no := fld f 31 24
  must (fld h 31 0 == 4 && decide (na ≤ 2) && fld f 7 6 == 0 && fld f 63 40 == 0 && fld h 63 32 == 80 + 32 * (na + no) && decide (fld f 15 8 + no ≤ 8) &&
    decide (na + fld f 39 32 ≤ 2) && decide (fld f 5 3 ≤ 4) && aw bs (o + 56) == 0 && aw bs (o + 64) == 0 && aw bs (o + 72) == 0) 4 o
  let (arm, o1) ← readMany (readTok bs) na (o + 80)
  let (out, o2) ← readMany (readTok bs) no o1
  let ints (k : Nat) : List Int := (List.range 4).map fun i => toSigned 32 (rd bs (o + k + 4 * i) 4)
  return (({ c0 with val := ints 16, bound := ints 32, running := bitN f 0, ranOnce := bitN f 1, eos := if bitN f 2 then some (fld f 5 3) else none
                     fcred := fld f 15 8, armq := arm, out := out.map (·.tok) }, List.replicate (fld f 39 32) (.arm x y, false)), o2)

/-- A switch part: the delay lines (by the model's own form, without their settings), and the words and scales of the row's and the column's driver. -/
structure SwitchRead where
  delays : List Delay
  rowW : List Token
  rowS : List (BitVec 9)
  colW : List Token
  colS : List (BitVec 9)
  deriving DecidableEq, Repr

def readScale (bs : List Byte) (o : Nat) : Rdg (BitVec 9 × Nat) := .ok (.ofNat 9 (fld (aw bs o) 8 0), o + 32)

/-- An item of a delay line: a scale transfer, or a token. -/
def readDelayItem (bs : List Byte) (o : Nat) : Rdg ((Token ⊕ BitVec 9) × Nat) :=
  if bitN (aw bs (o + 24)) 63 then .ok (.inr (.ofNat 9 (fld (aw bs o) 8 0)), o + 32)
  else do
    let (t, o1) ← readTok bs o
    return (.inl t.tok, o1)

/-- A delay line of its items: a scale transfer stands ahead of its token, and the last one may wait for its burst. -/
def delayOfItems (l : List (Token ⊕ BitVec 9)) : Delay :=
  l.foldl (fun (d : Delay) i => match i with
    | .inl t => { d with toks := d.toks ++ [{ tok := t, scale := d.wait }], wait := none }
    | .inr z => { d with wait := some z }) { cfg := 0 }

/-- Read a switch part: `want` gives the tokens that each delay line holds. -/
def readSwitchPart (bs : List Byte) (want : List Nat) (o : Nat) : Rdg (SwitchRead × Nat) := do
  let h := aw bs o
  let k := aw bs (o + 16)
  let n (i : Nat) : Nat := fld k (8 * i + 7) (8 * i)
  let total := ((List.range 8).map n).foldl (· + ·) 0
  must (fld h 31 0 == 5 && fld h 63 32 == 32 + 32 * total && decide (n 4 ≤ laneBindMax) && decide (n 5 ≤ laneBindMax) && decide (n 6 ≤ laneBindMax) &&
    decide (n 7 ≤ laneBindMax)) 4 o
  let (ds, o4) ← readEach (fun i => readMany (readDelayItem bs) (n i)) [0, 1, 2, 3] (o + 32)
  let lines := ds.map delayOfItems
  must (lines.map (fun d => d.toks.length) == want) 4 o
  let (rw, o5) ← readMany (readTok bs) (n 4) o4
  let (rs, o6) ← readMany (readScale bs) (n 5) o5
  let (cw, o7) ← readMany (readTok bs) (n 6) o6
  let (cs, o8) ← readMany (readScale bs) (n 7) o7
  let toks (l : List FifoTok) : List Token := l.map (·.tok)
  return ({ delays := lines, rowW := toks rw, rowS := rs, colW := toks cw, colS := cs }, o8)

/-! ### The area -/

/-- What an area restores. -/
structure Restored where
  tiles : List Tile := []
  credits : List (DestId × Bool) := []
  switches : List ((Nat × Nat) × SwitchRead) := []
  cmds : List ((Nat × Nat × Nat) × Cmd) := []
  late : List LateTok := []
  active : Nat := 0
  noProg : Nat := 0
  stamp : Nat := 0
  nr : Bool := false
  deriving DecidableEq, Repr

/-- Commands of an area that the slot's own save does not hold come from another module: each takes a new ticket of its stream and the FIFOs of the
restoring hart (R254) (DESIGN CHOICE, log entry 105). -/
def Restored.rehost (a : Restored) (r : Region) (hart : Nat) : Restored :=
  let known (e : (Nat × Nat × Nat) × Cmd) : Bool := r.waitCmds.any fun w => w.1 == e.1 && w.2.seq == e.2.seq && w.2.hart == e.2.hart
  let next (x y o : Nat) : Nat :=
    (((a.tiles.find? fun t => t.x == x && t.y == y).bind fun t => t.elem .me).map fun e => (e.me.stream o).cmds.next).getD 0
  { a with cmds := a.cmds.map fun e =>
      if known e then e
      else
        let (x, y, i) := e.1
        let o := e.2.stream i
        let mine := (a.cmds.filter fun f => !known f && f.1 == (x, y, o) && f.2.stream o == o).map (·.2.seq)
        (e.1, { e.2 with hart := hart, seq := (next x y o + mine.findIdx (· == e.2.seq)) % 2 ^ 32 }) }

/-- Words of a delay line at activation. -/
def delayLens (t : TileImg) : List Nat :=
  (List.range 4).map fun i => match (t.sw.map (·.2)).bind fun d => d[i]? with | some d => (delayOf d).toks.length | none => 0

/-- A tile record. -/
def readRecord (bs : List Byte) (stamp : Nat) (i : Image) (t : TileImg) (o : Nat) : Rdg ((Tile × List (DestId × Bool) × Option SwitchRead) × Nat) := do
  let h := aw bs o
  let t0 := t.activate
  let mask := packLanes 1 ([Elt.pe0, .pe1, .me, .mx].map (fun e => b2n (t0.elem e).isSome) ++ [b2n t0.ccu.isSome, b2n (i.recSwitch t.x t.y)])
  must (fld h 31 0 == put 6 0 t.x + put 11 7 t.y + put 17 12 mask && aw bs (o + 8) == 0) 4 o
  let (ps, o1) ← readEach (readEltPart bs stamp t.x t.y) t0.elts (o + 16)
  let (cs, o2) ← readEach (readCcuPart bs t.x t.y) t0.ccu.toList o1
  let (ws, o3) ← readEach (fun (_ : Unit) => readSwitchPart bs (delayLens t)) (if i.recSwitch t.x t.y then [()] else []) o2
  must (fld h 63 32 == o3 - o) 4 o
  return (({ t0 with elts := ps.map (·.1), ccu := (cs.head?.map (·.1)) }, (ps.flatMap (·.2)) ++ cs.flatMap (·.2), ws.head?), o3)

/-- A stream command (R363). -/
def readCmd (bs : List Byte) (i : Image) (r : Region) (o : Nat) : Rdg (((Nat × Nat × Nat) × Cmd) × Nat) := do
  let a := aw bs (o + 128)
  let t := aw bs (o + 136)
  let x := fld a 6 0
  let y := fld a 11 7
  let k := fld a 14 12
  let c := rds64 bs o 16
  let hasMe := ((i.tile x y).bind (·.elt .me)).isSome
  let cmd : Cmd := { kind := fld (wd c 0) 63 56, c := c, seq := fld t 31 0, hart := fld a 21 16, tid := r.tid, asid := r.asid, part := r.part, par := bitN a 22
                     popped := bitN a 23, issued := bitN a 15, units := aw bs (o + 144), paid := aw bs (o + 144) }
  must (fld a 63 24 == 0 && hasMe && fld t 63 32 == streamTicket x y (cmd.stream k) 0 / 2 ^ 32 && aw bs (o + 152) == 0 &&
    (cmd.kind == 1 || (cmd.kind == 2 && cmd.names k))) 4 o
  return (((x, y, k), cmd), o + 160)

def readLate (bs : List Byte) (o : Nat) : Rdg (LateTok × Nat) := do
  let (t, _) ← readTok bs o
  let a := aw bs (o + 32)
  let z := aw bs (o + 40)
  must (fld a 63 20 == 0 && decide (fld a 19 17 ≤ 5) && fld z 63 10 == 0 && (bitN z 9 || z == 0)) 4 o
  return ({ tok := t.tok, ch := fld a 4 0, x := fld a 11 5, y := fld a 16 12, elt := fld a 19 17
            scale := if bitN z 9 then some (.ofNat 9 (fld z 8 0)) else none }, o + 48)

/-- A tile's entry in the directory: offset and length of its record. -/
def dirEntry (bs : List Byte) (i : Image) (x y : Nat) : Nat × Nat :=
  let k := i.savedTiles.findIdx fun t => t.x == x && t.y == y
  (fld (aw bs (0x100 + 16 * k)) 63 32, aw bs (0x108 + 16 * k))

/-- The directory names the image's tiles in their order, and its records follow one another in the sweep's order up to `sco`. -/
def dirOk (bs : List Byte) (i : Image) (sco : Nat) : Bool :=
  ((i.savedTiles.mapIdx fun k t => aw bs (0x100 + 16 * k) % 2 ^ 32 == put 6 0 t.x + put 11 7 t.y).all id) &&
    i.sweep.foldl (fun (o : Option Nat) t => o.bind fun a =>
      let (p, n) := dirEntry bs i t.x t.y
      if p = a then some (a + n) else none) (some (0x100 + 16 * i.savedTiles.length)) == some sco

/-- The header (R364, R367): magic, version, lengths and offsets, identity. The identity of a migrated region is checked against the
one its descriptor names. -/
def areaHeader (bs : List Byte) (hdl tid asid : Nat) : Rdg (Nat × Nat × Nat × Nat × Nat × Nat) := do
  let h (k : Nat) : Nat := aw bs (8 * k)
  must (fld (h 0) 63 32 == 0x4F585356 && fld (h 0) 31 16 == 1 && fld (h 0) 15 3 == 0 && fld (h 0) 1 0 != 3) 4 0
  must (h 2 == put 63 32 hdl + put 31 16 tid + put 11 0 asid) 4 16
  let nt := fld (h 4) 31 0
  let nlt := fld (h 4) 63 32
  let sco := fld (h 5) 31 0
  let nsc := fld (h 5) 47 32
  let lco := fld (h 6) 31 0
  must (decide (0x100 + 16 * nt ≤ sco) && lco == sco + 160 * nsc && h 3 == lco + 48 * nlt && fld (h 5) 63 48 == 0 && fld (h 6) 63 32 == 0 && h 7 == 0) 4 24
  return (nt, nlt, sco, nsc, lco, h 3)

/-- No stream gets more commands back than its queue holds (R247, R367). -/
def queuesFit (l : List ((Nat × Nat × Nat) × Cmd)) : Bool :=
  l.all fun e => decide ((l.filter fun f => f.1 == e.1).length ≤ 16)

/-- Read an area against the image and the region's slot. -/
def readArea (bs : List Byte) (i : Image) (r : Region) (hdl tid asid : Nat) : Rdg Restored := do
  let (nt, nlt, sco, nsc, lco, len) ← areaHeader bs hdl tid asid
  must (decide (len ≤ bs.length)) 4 24
  must (nt == i.savedTiles.length && dirOk bs i sco) 4 0x100
  let stamp := aw bs 8
  must (aw bs 0xD0 == stamp && [0xD8, 0xE0, 0xE8, 0xF0, 0xF8].all fun o => aw bs o == 0) 4 0xC0
  let (ts, _) ← readEach (fun (t : TileImg) _ =>
    let (o, n) := dirEntry bs i t.x t.y
    (readRecord bs stamp i t o).bind fun a => if a.2 = o + n then .ok a else .error (4, o)) i.savedTiles 0
  let (cmds, _) ← readMany (readCmd bs i r) nsc sco
  must (queuesFit cmds) 4 sco
  let (late, _) ← readMany (readLate bs) nlt lco
  return { tiles := (ts.map (·.1)).filter fun t => (i.tile t.x t.y).isSome, credits := ts.flatMap (·.2.1), cmds := cmds, late := late
           switches := ts.filterMap fun (t, _, w) => w.map fun w => ((t.x, t.y), w)
           active := aw bs 0xC0, noProg := aw bs 0xC8, stamp := stamp, nr := bitN (aw bs 0) 2 }

/-! ### The restored region -/

/-- Credits of a lane driver toward its accepting channels, from what those channels hold and what is on its way. -/
def Region.laneCredits (r : Region) (d : LaneDrv) : LaneDrv :=
  { d with cred := d.cred.map fun ((x, y), _) =>
      match (r.elem x y .mx).bind fun e => (e.laneChan d.lane).map fun c => (e, c) with
      | some (e, c) =>
        let k := e.chan c
        let dst := DestId.chan x y .mx c
        ((x, y), 2 - k.lanes.length - r.creditsOf dst false, k.win.crd - r.creditsOf dst true)
      | none => ((x, y), 0, 0) }

/-- Put the commands of an area back into their streams: a running descriptor owes its barrier the units it has yet to perform (R248, R258). -/
def Region.putCmds (r : Region) (l : List ((Nat × Nat × Nat) × Cmd)) : Region :=
  l.foldl (fun (a : Region) e =>
    let (x, y, i) := e.1
    a.modMe x y fun m => m.modStream i fun st =>
      let c := if e.2.issued && e.2.kind == 1 then { e.2 with paid := (st.run.map SRun.performed).getD e.2.units } else e.2
      { st with cmds := { st.cmds with q := st.cmds.q ++ [c], next := if e.2.stream i = i then max st.cmds.next (e.2.seq + 1) else st.cmds.next } }) r

/-- A late token enters its channel behind the scale transfer kept with it (R185, R359); none when it does not fit. -/
def Region.putLate (r : Region) (l : LateTok) : Option Region :=
  match Elt.ofCode l.elt with
  | some e =>
    match r.elem l.x l.y e with
    | some el => (match el.tokenArrive l.ch l.tok with
      | .ok _ =>
        let el1 : Element := match l.scale with
          | some z => { el.scaleEnter l.ch z with srfWas := [] }
          | none => el
        let (e1, n) := el1.tokenEnter l.ch 0 l.tok
        some ((r.modElem l.x l.y e fun _ => e1).addCredits (.chan l.x l.y e l.ch) n 0)
      | .error _ => none)
    | none => none
  | none =>
    if l.elt = 5 then some (r.modDriver (if l.ch = 0 then .row l.y else .col l.x) fun d => { d with words := d.words ++ [l.tok], scales := d.scales ++ l.scale.toList })
    else match r.ccu l.x l.y with
    | some c => if c.armq.length < 2 then some (r.modCcu l.x l.y fun c => { c with armq := c.armq ++ [{ tok := l.tok }] }) else none
    | none => none

def Region.putLates (r : Region) : List LateTok → Option Region
  | [] => some r
  | l :: t => (r.putLate l).bind fun r1 => r1.putLates t

/-- Delay lines take the tokens of a restore, by image tile. -/
def Region.putDelays (r : Region) (p : Place) (l : List ((Nat × Nat) × List Delay)) : Region :=
  { r with switches := r.switches.map fun w =>
      match (p.imageOf w.col w.row).bind fun k => look l k with
      | some ds => { w with delays := w.delays.mapIdx fun i d => { (ds.getD i { cfg := 0 }) with cfg := d.cfg } }
      | none => w }

/-- Every descriptor that an area puts back keeps the limits of its edge in the image (R211, R367). -/
def Region.streamsFit (r : Region) : Bool :=
  r.tiles.all fun t => t.elts.all fun e => e.elt != .me || e.me.streams.all fun x =>
    (x.run.toList ++ x.past ++ x.redo).all fun g => (r.streamBad t.x t.y e g).isNone

/-- The region of a placement with the state of an area (R187, R368): not yet entered, no initial credits to give (DESIGN CHOICE, log entry 140). -/
def Region.restored (r : Region) (p : Place) (j : Image) (a : Restored) : Option Region :=
  let r0 := r.configure p j
  let ds := a.switches.map fun e => (e.1, e.2.delays)
  let r1 := ({ r0 with tiles := a.tiles, credits := a.credits, fresh := false, active := a.active, noProg := a.noProg, stamp := a.stamp + 1
                       baseDelays := ds } : Region).putDelays p ds
  let drv (d : LaneDrv) : LaneDrv :=
    match d.lane with
    | .row y => match a.switches.find? fun e => e.1.2 == y && !(e.2.rowW.isEmpty && e.2.rowS.isEmpty) with
      | some e => { d with words := e.2.rowW, scales := e.2.rowS }
      | none => d
    | .col x => match a.switches.find? fun e => e.1.1 == x && !(e.2.colW.isEmpty && e.2.colS.isEmpty) with
      | some e => { d with words := e.2.colW, scales := e.2.colS }
      | none => d
  let r2 : Region := { r1 with drivers := r1.drivers.map fun d => r1.laneCredits (drv d), dirty := if a.nr then r1.markStreams else [] }
  if r2.streamsFit then (r2.putCmds a.cmds).putLates a.late else none

end Sys2Proof.Machine
end

