-- ==== Sys2Proof/Machine/Life.lean ====
section
/-! DEFINITION. The life of a region (09 R250 to R253; 11 R318, R329, R491; 12 R342 to R346, R361, R366 to R368): loading, placement and emit,
saves and restores, and the lifecycle forms of the control cores. -/

namespace Sys2Proof.Machine

/-- The word of a form, as an illegal or virtual instruction reports it. -/
def formWord (i : Instr) : Nat := ((encode i).getD 0).toNat

/-! ### Slots -/

/-- The lowest free slot. -/
def State.freeSlotAt (s : State) : Option Nat := (List.range 512).find? fun k => (s.region k).isNone

/-- Put a region into the lowest free slot, under the slot's generation, which resets the slot's debug block (R250, R251, R435) (PRESUMED, log entry 18). -/
def State.addRegion (s : State) (r : Region) : Option (State × Nat) :=
  s.freeSlotAt.map fun k =>
    let s1 := s.setRegion k { r with gen := (look s.gens k).getD 0 }
    ({ s1 with debug := eraseKV s1.debug k }, k)

/-- Free a slot: its handle becomes stale (R252). -/
def State.freeSlot (s : State) (slot : Nat) : State :=
  { s with regions := eraseKV s.regions slot, gens := insertKV s.gens slot (((look s.gens slot).getD 0 + 1) % 65536)
           traces := s.traces.filter fun t => t.slot != slot }

/-! ### Placement words (R250) -/

def plcAny (p : Nat) : Bool := bitN p 63
def plcShadow (p : Nat) : Bool := bitN p 62
def plcCol (p : Nat) : Nat := fld p 6 0
def plcRow (p : Nat) : Nat := fld p 11 7
def plcOccupant (p : Nat) : Nat := fld p 47 16

/-- A placement word keeps its limits for a partition. -/
def State.plcOk (s : State) (part plc : Nat) : Bool :=
  let (a, b) := s.partRange part
  fld plc 61 48 == 0 && fld plc 15 12 == 0 && !(plcAny plc && plcShadow plc) &&
    (plcAny plc || plcShadow plc || (decide (16 * a ≤ plcCol plc) && decide (plcCol plc < 16 * (b + 1))))

/-- The occupant that a SHDW placement names: resident or frozen, holding no shadow and no shadow itself (R251). -/
def State.occupant (s : State) (plc : Nat) : Except (Refuse × Nat) (Option Nat) :=
  if !plcShadow plc then .ok none
  else match s.byHandle (plcOccupant plc) none with
    | .error e => .error (e, 0)
    | .ok (k, o) =>
      if (o.state == .resident || o.state == .frozen) && o.shadow.isNone && o.shadowOf.isNone then .ok (some k) else .error (.state, o.state.code)

/-- The placement word with its origin in the partition's own columns and rows: a SHDW word's origin counts from the occupant's, as
the load of R478 shows (DEDUCED). None: the origin lies outside the partition (R250) (DEDUCED, log entry 39). -/
def State.placeWord (s : State) (part plc : Nat) (occ : Option Nat) : Option Nat :=
  match (occ.bind s.region).bind (·.place) with
  | none => some plc
  | some p =>
    let c := p.ocol + plcCol plc
    let w := p.orow + plcRow plc
    let (a, b) := s.partRange part
    if 16 * a ≤ c ∧ c < 16 * (b + 1) ∧ w < 32 then some (put 63 12 (fld plc 63 12) + put 11 7 w + put 6 0 c) else none

/-- At a fixed origin, the image's rectangle leaves the partition (R250). -/
def State.leavesPart (s : State) (part plc : Nat) (i : Image) : Bool :=
  !plcAny plc && (decide (16 * ((s.partRange part).2 + 1) < plcCol plc + i.w) || decide (32 < plcRow plc + i.h))

/-! ### Images -/

/-- What reading an image gives: the image, its rejection status, or a fault of its pages. -/
inductive ImgRead where
  | ok (i : Image)
  | bad (status : Nat)
  | fault (f : AccFault)

/-- Read and validate an image in the space in which it was given (R96, R322, R491). -/
def State.readImageAt (s : State) (part : Nat) (sp : SpaceAddr) : State × ImgRead :=
  match s.areaRead part sp 0 64 .control with
  | (s1, .error f) => (s1, .fault f)
  | (s1, .ok (h, _)) =>
    if !headerOk h then (s1, .bad headerFail.status)
    else match s1.areaRead part sp 0 (fld (rd h 16 8) 31 0) .control with
      | (s2, .error f) => (s2, .fault f)
      | (s2, .ok (bs, _)) => (s2, match validateImage bs with | .ok i => .ok i | .error st => .bad st)

/-- A rejected image kills its region, with the status of R97 (R251, R315). -/
def State.rejectRegion (s : State) (slot status : Nat) : State :=
  (s.modRegion slot fun r => { r with reject := status }).endRegion slot 4 (fld status 63 56)

/-- Read and validate the image of a region of a partition with its placement word (R250, R318). -/
def State.readImageFor (s : State) (part plc : Nat) (sp : SpaceAddr) : State × ImgRead :=
  match s.readImageAt part sp with
  | (s1, .ok i) => (s1, if s1.leavesPart part plc i then .bad ({ det := 0x22 } : Fail).status else .ok i)
  | (s1, x) => (s1, x)

/-- A loading region takes its image, or is rejected. -/
def State.takeImage (s : State) (slot : Nat) (x : ImgRead) : State :=
  match x with
  | .fault f => s.rejectRegion slot (put 63 56 f.code)
  | .bad st => s.rejectRegion slot st
  | .ok i => s.modRegion slot fun r => { r with image := some i }

/-- Bedrock validates the image of a loading region. -/
def State.checkImage (s : State) (slot : Nat) : State :=
  match s.region slot with
  | none => s
  | some r => let (s1, x) := s.readImageFor r.part r.plc r.img; s1.takeImage slot x

/-! ### Placement and emit (R318, R329) -/

def Region.tenancy (r : Region) (slot : Nat) : Tenancy := { self := some slot, occupant := r.shadowOf }

/-- A LAUNCH that was accepted earlier is still to be placed, or to be emitted: Bedrock takes them in acceptance order (R318, R341). -/
def State.stageBefore (s : State) (r : Region) (emit : Bool) : Bool :=
  match r.owner with
  | none => false
  | some p => s.regions.any fun e => e.2.state == .loading && e.2.image.isSome && e.2.place.isSome == emit && (emit || !e.2.searched) &&
      (e.2.owner.map fun o => decide (o.order < p.order)) == some true

/-- A rollback of the partition that came before a LAUNCH is still to be placed (R341, R424). -/
def State.rollbackBefore (s : State) (r : Region) : Bool :=
  match r.owner with
  | none => false
  | some p => s.regions.any fun e => e.2.part == r.part && (match e.2.freeze with
      | some z => z.why == .rollback && decide (z.order ≤ p.order) && (e.2.state == .resident || e.2.state == .draining)
      | none => false)

/-- A LAUNCH of the partition that came before a rollback has yet to be searched for (R341, R424). -/
def State.launchBefore (s : State) (part order : Nat) : Bool :=
  s.regions.any fun e => e.2.part == part && e.2.state == .loading && e.2.image.isSome && e.2.place.isNone && !e.2.searched &&
    (e.2.owner.map fun o => decide (o.order < order)) == some true

/-- The first LAUNCH that waits for a slot takes a free one. -/
def State.seatLaunch (s : State) : State :=
  match s.launches with
  | [] => s
  | r :: rest =>
    match ({ s with launches := rest } : State).addRegion r, r.owner with
    | some (s1, k), some p => s1.modQueue p.v p.q fun x => { x with latest := some (s1.handle k) }
    | _, _ => s

/-- PLACEMENT_SEARCH (R314, R329): the search for a loading region's place. Without one, a LAUNCH with NOWAIT is refused and the others
wait. On a free slot the first LAUNCH that waits for one takes it (DEDUCED, log entry 35). -/
def execPlacementSearch (slot : Nat) (s : State) : Host.Outcome State Fault Refusal :=
  .next (match s.region slot with
    | none => if s.freeSlotAt = some slot then s.seatLaunch else s
    | some r =>
      match r.state, r.image, r.place with
      | .loading, some i, none =>
        if s.stageBefore r false || s.rollbackBefore r then s else
        match s.search (r.tenancy slot) slot r i r.plc with
        | .placed s1 p => s1.modRegion slot fun x => { x with place := some p }
        | .reject s1 st => s1.rejectRegion slot st
        | .fault s1 code _ => s1.rejectRegion slot (put 63 56 code)
        | .none_ s1 =>
          if r.nowait then
            match r.owner with
            | some p => (s1.finish p 4 0 0 (refuseWord .busy) 0).freeSlot slot
            | none => s1
          else s1.modRegion slot fun x => { x with searched := true }
      | _, _, _ => s)

/-- A region gets RUN = 1; at its first start its region-active time begins at 0, and its LAUNCH is running (R333, R369). -/
def State.beginRun (s : State) (slot : Nat) : State :=
  match s.region slot with
  | none => s
  | some r =>
    let s1 := s.setRegion slot { r with run := true, started := true, active := if r.started then r.active else 0 }
    match r.started, r.owner with
    | false, some p => s1.due p 2 0 (handleOf slot r.gen) 0 (handleOf slot r.gen) true
    | _, _ => s1

/-- Report a fault of a stream command to its region's fault queue, with its ticket (R248, R254, R349). -/
def State.reportStreamCmd (s : State) (slot : Nat) (x y i : Nat) (c : Cmd) (code det info : Nat) : State :=
  match s.region slot with
  | none => s
  | some r => s.deliverFor (s.handle slot) r.ringTo r.part r.tid r.asid { code := code, det := det, src := 7, f4 := streamTicket x y i c.seq, info := info }

/-- A stream command accepted while its region was loading joins its stream's queue, or retires as failed where no ME is (R254). -/
def State.admitCmd (s : State) (slot : Nat) (e : (Nat × Nat × Nat) × Cmd) : State :=
  let (x, y, i) := e.1
  match (s.region slot).bind fun r => r.me x y with
  | some _ => s.modRegion slot fun r => r.modMe x y fun m => m.modStream i fun st =>
      { st with cmds := { st.cmds with q := st.cmds.q ++ [e.2], next := if e.2.stream i = i then max st.cmds.next (e.2.seq + 1) else st.cmds.next } }
  | none =>
    if e.2.stream i != i then s else
    let s1 := s.reportStreamCmd slot x y i e.2 1 2 0
    { s1 with orphans := s1.orphans ++ [((slot, x, y, i), { e.2 with fail := 1, done := true, issued := true })] }

/-- Configure a placed region from its image: its tiles take it at once, or, for a shadow, as they flip (R318, R355). -/
def State.configureAt (s : State) (slot : Nat) (r : Region) (p : Place) (i : Image) : Option State :=
  (s.relocate r.part p i).map fun j =>
    let r1 := r.configure p j
    let r2 : Region := { r1 with base := r1.tiles, baseDelays := [], emitted := true }
    s.setRegion slot (if r.shadowOf.isNone then r2.enterAll p else r2)

/-- EMIT (R318): the configuration of a placed region reaches its tiles, and the region is resident. -/
def execEmit (slot : Nat) (s : State) : Host.Outcome State Fault Refusal :=
  .next (match s.region slot with
    | none => s
    | some r =>
      match r.state, r.image, r.place with
      | .loading, some i, some p =>
        if s.stageBefore r true then s else
        match s.configureAt slot r p i with
        | none => s
        | some s1 =>
          let s2 := (s1.modRegion slot fun x => { x with waitCmds := [] }).toState slot .resident
          let s3 := r.waitCmds.foldl (fun (a : State) e => a.admitCmd slot e) s2
          let h := handleOf slot r.gen
          let s4 := match r.owner with
            | some q => s3.due q 1 0 h 0 h (!r.early)
            | none => s3
          if r.goWhenEmitted then s4.beginRun slot else s4
      | _, _, _ => s)

/-! ### Saving -/

/-- The report of a save-area or image fault (R350, R366): SRC 10, DET 8, the address in the space in which it was given. -/
def State.reportArea (s : State) (slot : Nat) (f : AccFault) : State :=
  s.reportFault slot { code := f.code, det := 8, src := 10, xna := true, info := f.info }

/-- The stream commands of a region that are done retire beside it. -/
def State.retireApart (s : State) (slot : Nat) (r : Region) : State :=
  { s with orphans := s.orphans ++ ((numbered r.streamCmds).filter fun e => e.2.done).map fun e => ((slot, e.1.1, e.1.2.1, e.1.2.2), e.2) }

/-- A region is saved: the commands it carries stay with it, those that are done retire beside it, its tiles are free. -/
def State.becomeSaved (s : State) (slot : Nat) (sp : SpaceAddr) : State :=
  match s.region slot with
  | none => s
  | some r =>
    (((s.clearOwned slot).retireApart slot r).modRegion slot fun x => { x.freeTiles with waitCmds := r.savedCmds, savedAt := sp, base := [], fault := none }).toState slot .saved

/-- The area that a form's register names, or the one named at load (R252). -/
def Region.areaFor (r : Region) (rs2 : Nat) : Option SpaceAddr :=
  if rs2 = 0 then (if r.save.addr = 0 then none else some r.save) else some { addr := rs2 }

/-! ### Restoring -/

/-- Why a restore does not take place: a fault of a read with DET 8, or a failed check. -/
structure RestoreFail where
  code : Nat
  det : Nat
  info : Nat
  deriving DecidableEq, Repr

/-- Read the image again and the save area, with every check (R367). -/
def State.readBack (s : State) (slot : Nat) (r : Region) (sp : SpaceAddr) : State × Except RestoreFail (Image × Restored) :=
  let hdl := handleOf slot r.gen
  match s.readImageAt r.part r.img with
  | (s1, .fault f) => (s1, .error ⟨f.code, 8, f.info⟩)
  | (s1, .bad st) => (s1, .error ⟨0x22, 5, st⟩)
  | (s1, .ok i) =>
    match s1.areaRead r.part sp 0 256 .read with
    | (s2, .error f) => (s2, .error ⟨f.code, 8, f.info⟩)
    | (s2, .ok (h, _)) =>
      match areaHeader h hdl r.tid r.asid with
      | .error (d, o) => (s2, .error ⟨0x22, d, o⟩)
      | .ok (_, _, _, _, _, len) =>
        match s2.areaRead r.part sp 0 len .read with
        | (s3, .error f) => (s3, .error ⟨f.code, 8, f.info⟩)
        | (s3, .ok (bs, _)) =>
          match readArea bs i r hdl r.tid r.asid with
          | .error (d, o) => (s3, .error ⟨0x22, d, o⟩)
          | .ok a => (s3, .ok (i, a))

/-- Deliver the fault of a refused restore (R350, R367). -/
def State.reportRestore (s : State) (slot : Nat) (f : RestoreFail) : State :=
  s.reportFault slot { code := f.code, det := f.det, src := 10, xna := true, info := f.info }

/-- Place the state of an area on a placement (R187, R368): none when a late token finds no place in its channel (DEDUCED, log entry 37). -/
def State.installArea (s : State) (slot : Nat) (r : Region) (p : Place) (i : Image) (a : Restored) : Option State :=
  (s.relocate r.part p i).bind fun j =>
    (r.restored p j a).map fun r1 =>
      let r2 : Region := { r1 with image := some i, base := r1.tiles, waitCmds := [], emitted := true, fault := none, run := false }
      s.setRegion slot (if r.shadowOf.isNone then r2.enterAll p else r2)

/-- The word of a refusal 0x0E (R240). -/
def areaWord (code det : Nat) : Nat := refuseWord .area (put 7 0 code + put 15 8 det)

/-! ### The forms -/

/-- An incoming region between its first tile's flip and the end of the switch takes RGNQRY, RGNFRZ and RGNKIL alone (R252, R358). -/
def Region.midSwitch (r : Region) : Bool := r.shadowOf.isSome && !r.entered.isEmpty

/-- The region is in a freeze that has not settled: RGNGO, RGNSAV and RGNMOV wait (R252). -/
def Region.settling (r : Region) : Bool := (r.freeze.map fun z => !z.settled).getD false

/-- The first tile of a switch has flipped. -/
def Region.switchBegun (r : Region) : Bool := (r.switchOut.map fun o => !o.flipped.isEmpty).getD false

def Region.refuseState (r : Region) (s : State) : FormEnd := refuse s .state r.state.code

/-- RGNLD (R251). -/
def execRgnld (rd rs1 : BitVec 5) (s : State) : Host.Outcome State Fault Refusal :=
  .next (form s true (formWord (.rgnld rd rs1)) rd fun s =>
    let a := s.xreg rs1
    if a % 64 != 0 then refuse s .align
    else withBlock s true a 64 fun s l =>
      let part := fld (wd l 1) 30 28
      let plc := wd l 2
      if fld (wd l 0) 63 47 != 0 || fld (wd l 0) 5 0 != 0 || fld (wd l 1) 63 31 != 0 || fld (wd l 3) 63 47 != 0 || fld (wd l 3) 11 0 != 0 ||
          wd l 5 != 0 || wd l 6 != 0 || wd l 7 != 0 || !s.isPart part || !s.plcOk part plc then refuse s .badArg
      else match s.occupant plc with
        | .error (e, low) => refuse s e low
        | .ok occ =>
          match s.placeWord part plc occ with
          | none => refuse s .badArg
          | some at_ =>
          match s.addRegion { gen := 0, tid := fld (wd l 1) 15 0, asid := fld (wd l 1) 27 16, part := part, plc := at_
                              img := { addr := wd l 0 }, save := { addr := wd l 3 }, fq := wd l 4, shadowOf := occ } with
          | none => refuse s .busy
          | some (s1, k) =>
            let s2 := match occ with
              | some o => s1.modRegion o fun x => { x with shadow := some k }
              | none => s1
            .ret (s1.handle k) (s2.checkImage k))

/-- Fault codes whose region RGNGO with ACK may resume (R348). -/
def resumable (code : Nat) : Bool := [0x10, 0x11, 0x12, 0x30, 0x31, 0x52, 0x60, 0x72].contains code

/-- Start or resume a region whose units stand still (R252, R346, R369). -/
def State.go (s : State) (slot : Nat) : State :=
  let s1 := s.modRegion slot fun (x : Region) =>
    { x with freeze := none, fault := none, active := if x.lastFault = 0x52 ∧ x.state = .faulted then 0 else x.active }
  let s2 := match s1.region slot with
    | some r => if r.state == RState.resident then s1 else s1.toState slot RState.resident
    | none => s1
  s2.beginRun slot

/-- RGNGO (R252). -/
def execRgngo (rd rs1 rs2 : BitVec 5) (s : State) : Host.Outcome State Fault Refusal :=
  .next (form s true (formWord (.rgngo rd rs1 rs2)) rd fun s =>
    let flags := s.xreg rs2
    if 2 ≤ flags then refuse s .badArg
    else withRegion s (s.xreg rs1) fun slot r =>
      if r.shadowOf.isSome then r.refuseState s
      else match r.state with
        | .loading => .ret 0 (s.modRegion slot fun x => { x with goWhenEmitted := true })
        | .resident => if r.settling then s.holdForm else if r.run then r.refuseState s else .ret 0 (s.go slot)
        | .frozen => .ret 0 (s.go slot)
        | .rolledBack => .ret 0 (s.go slot)
        | .faulted => if flags = 1 && resumable r.lastFault then .ret 0 (s.go slot) else r.refuseState s
        | _ => r.refuseState s)

/-- A region begins to drain. One whose front settles already, for a fault or for an RGNFRZ that has yet to retire, goes into freeze mode at
once (R252, R361); one that stands at a stop drains when it is resumed, or at its deadline (R437). -/
def Region.startSwitch (r : Region) (o : SwitchOut) : Region :=
  match r.freeze with
  | some z =>
    if z.why = .stop then { r with switchOut := some o }
    else { r with switchOut := some { o with freeze := true }
                  freeze := some (if z.why = .rollback then z else { z with why := .switch }) }
  | none => { r with switchOut := some o }

/-- A switch out begins (R357, R361): the region drains until its deadline. -/
def State.beginSwitch (s : State) (slot : Nat) (incoming : Option Nat) (us : Nat) : State :=
  (s.modRegion slot fun x => x.startSwitch { incoming := incoming, deadline := s.ns + 1000 * us }).toState slot .draining

/-- A region that may be switched out: resident with RUN = 1 (R252). -/
def Region.drainable (r : Region) : Bool := r.state == .resident && r.run && r.shadowOf.isNone

/-- RGNDRN (R252, R361). -/
def execRgndrn (rd rs1 rs2 : BitVec 5) (s : State) : Host.Outcome State Fault Refusal :=
  .next (form s true (formWord (.rgndrn rd rs1 rs2)) rd fun s =>
    withRegion s (s.xreg rs1) fun slot r =>
      if !r.drainable || r.shadow.isSome then r.refuseState s
      else if r.save.addr = 0 then refuse s .badArg
      else .ret 0 (s.beginSwitch slot none (if s.xreg rs2 = 0 then 50 else s.xreg rs2)))

/-- The hart waits for a region to settle or to be switched out (R252) (DESIGN CHOICE, log entry 10). -/
def State.waitSettle (s : State) (slot : Nat) (rd : BitVec 5) (kill : Bool) : FormEnd :=
  .hold (s.modHart s.cur fun c => { c with wait := .settle slot rd kill })

/-- Another hart waits in the same form on the region: this one finds the state that it leaves (R252). -/
def State.settleWaiter (s : State) (slot : Nat) (kill : Bool) : Bool :=
  (List.range 64).any fun h => h != s.cur && (match (s.hart h).wait with
    | .settle k _ b => k == slot && b == kill
    | _ => false)

/-- The current hart waits in an RGNFRZ or RGNKIL. -/
def State.inSettle (s : State) : Bool :=
  match (s.hart s.cur).wait with
  | .settle .. => true
  | _ => false

/-- RGNFRZ (R252, R344, R361, R437). -/
def execRgnfrz (rd rs1 : BitVec 5) (s : State) : Host.Outcome State Fault Refusal :=
  .next (form s true (formWord (.rgnfrz rd rs1)) rd fun s =>
    if s.inSettle then .hold s
    else withRegion s (s.xreg rs1) fun slot r =>
      if s.settleWaiter slot false then .hold s
      else match r.state with
      | .resident =>
        if !r.run then r.refuseState s
        else if r.stp then
          .ret 0 ((s.modRegion slot fun x => { x with run := false, stp := false, stopAt := none, freeze := some { why := .form, settled := true } }).toState slot .frozen)
        else
          let why : FreezeWhy := match r.freeze with | some z => if z.why = .stop then .form else z.why | none => .form
          (s.modRegion slot fun x => (x.startFreeze why)).waitSettle slot rd false
      | .draining =>
        (s.modRegion slot fun x =>
          { (x.startFreeze .switch) with switchOut := x.switchOut.map fun o => { o with freeze := true } }).waitSettle slot rd false
      | _ => r.refuseState s)

/-- RGNSAV (R252, R363, R366). -/
def execRgnsav (rd rs1 rs2 : BitVec 5) (s : State) : Host.Outcome State Fault Refusal :=
  .next (form s true (formWord (.rgnsav rd rs1 rs2)) rd fun s =>
    let a := s.xreg rs2
    if a % 4096 != 0 then refuse s .align
    else if 2 ^ 47 ≤ a then refuse s .badArg
    else withRegion s (s.xreg rs1) fun slot r =>
      if r.midSwitch then r.refuseState s
      else if r.state == .resident && r.settling then s.holdForm
      else if !(r.state == .frozen || r.state == .faulted) || r.shadow.isSome then r.refuseState s
      else match r.areaFor a with
        | none => refuse s .badArg
        | some sp =>
          match s.areaWrite r.part sp 0 (r.saveBytes slot 1) with
          | (s1, some f) => .ret (areaWord f.code 8) (s1.reportArea slot f)
          | (s1, none) => .ret 0 (s1.becomeSaved slot sp))

/-- RGNRST (R252, R367, R368). -/
def execRgnrst (rd rs1 rs2 : BitVec 5) (s : State) : Host.Outcome State Fault Refusal :=
  .next (form s true (formWord (.rgnrst rd rs1 rs2)) rd fun s =>
    let plc := s.xreg rs2
    withRegion s (s.xreg rs1) fun slot r =>
      if r.state != .saved then r.refuseState s
      else if !s.plcOk r.part plc then refuse s .badArg
      else match s.occupant plc with
        | .error (e, low) => refuse s e low
        | .ok occ =>
          match s.placeWord r.part plc occ with
          | none => refuse s .badArg
          | some at_ =>
          match s.readBack slot r r.savedAt with
          | (s1, .error f) => .ret (areaWord f.code f.det) (s1.reportRestore slot f)
          | (s1, .ok (i, a)) =>
            let r1 : Region := { r with shadowOf := occ }
            match s1.search (r1.tenancy slot) slot r1 i at_ with
            | .none_ s2 => refuse s2 .busy
            | .fault s2 code info => .ret (areaWord code 8) (s2.reportArea slot { code := code, info := info })
            | .reject s2 st => .ret (areaWord 0x22 5) (s2.reportRestore slot ⟨0x22, 5, st⟩)
            | .placed s2 p =>
              let own := ((s2.region slot).map (·.ownedAt)).getD []
              match s2.installArea slot { r1 with ownedAt := own } p i (a.rehost r s.cur) with
              | none => .ret (areaWord 0x22 4) ((s2.clearOwned slot).reportRestore slot ⟨0x22, 4, 0⟩)
              | some s3 =>
                let s4 := match occ with
                  | some o => s3.modRegion o fun x => { x with shadow := some slot }
                  | none => s3
                .ret 0 (s4.toState slot .resident))

/-- Give back the owned windows that a search took: the region and the access tables stand as they stood in `s0`. -/
def State.undoPlace (s s0 : State) (slot : Nat) (r : Region) : State := ({ s with access := s0.access } : State).setRegion slot r

/-- RGNMOV (R252, R368): the search, the save, and the restore to the placement found. -/
def execRgnmov (rd rs1 rs2 : BitVec 5) (s : State) : Host.Outcome State Fault Refusal :=
  .next (form s true (formWord (.rgnmov rd rs1 rs2)) rd fun s =>
    let plc := s.xreg rs2
    withRegion s (s.xreg rs1) fun slot r =>
      if r.midSwitch then r.refuseState s
      else if r.state == .resident && r.settling then s.holdForm
      else if !((r.state == .resident && !r.run) || r.state == .frozen) || r.shadow.isSome || r.shadowOf.isSome then r.refuseState s
      else if r.save.addr = 0 || !s.plcOk r.part plc || plcShadow plc then refuse s .badArg
      else match r.image with
        | none => r.refuseState s
        | some i =>
          match (s.clearOwned slot).search (r.tenancy slot) slot r i plc with
          | .none_ _ => refuse s .busy
          | .fault s1 code info => .ret (areaWord code 8) ((s1.undoPlace s slot r).reportArea slot { code := code, info := info })
          | .reject s1 st => .ret (areaWord 0x22 5) ((s1.undoPlace s slot r).reportRestore slot ⟨0x22, 5, st⟩)
          | .placed s1 p =>
            match s1.areaWrite r.part r.save 0 (r.saveBytes slot 1) with
            | (s2, some f) => .ret (areaWord f.code 8) ((s2.undoPlace s slot r).reportArea slot f)
            | (s2, none) =>
              match s2.readBack slot r r.save with
              | (s3, .error f) => .ret (areaWord f.code f.det) ((s3.becomeSaved slot r.save).reportRestore slot f)
              | (s3, .ok (i2, a)) =>
                let own := ((s3.region slot).map (·.ownedAt)).getD []
                match s3.installArea slot { r with ownedAt := own } p i2 a with
                | none => .ret (areaWord 0x22 4) ((s3.becomeSaved slot r.save).reportRestore slot ⟨0x22, 4, 0⟩)
                | some s4 =>
                  .ret 0 ((s4.retireApart slot r).modRegion slot fun x => { x with freeze := if r.state = .frozen then some { why := .form, settled := true } else none }))

/-- Kill a region (R252, R372): at once, or when its front has settled or its switch has ended; whether it was at once. -/
def State.kill (s : State) (slot : Nat) (r : Region) (st : Nat) : State × Bool :=
  let later := r.settling || r.switchBegun || (r.shadowOf.isSome && !r.entered.isEmpty)
  if later then (s.modRegion slot fun x => { x with killWhenDone := some st }, false)
  else (s.endRegion slot st r.lastFault, true)

/-- RGNKIL (R252). -/
def execRgnkil (rd rs1 : BitVec 5) (s : State) : Host.Outcome State Fault Refusal :=
  .next (form s true (formWord (.rgnkil rd rs1)) rd fun s =>
    if s.inSettle then .hold s
    else withRegion s (s.xreg rs1) fun slot r =>
      if s.settleWaiter slot true then .hold s
      else if r.state == .killed then .ret 0 (s.freeSlot slot)
      else match s.kill slot r 4 with
        | (s1, true) => .ret 0 s1
        | (s1, false) => s1.waitSettle slot rd true)

/-- The state word of RGNQRY (R253) (DEDUCED, log entry 12). -/
def Region.stateWord (r : Region) : Nat :=
  let p : Place := r.place.getD { ocol := 0, orow := 0, wm1 := 0, hm1 := 0 }
  put 3 0 r.state.code + put 4 4 (b2n r.run) + put 5 5 (b2n r.shadowOf.isSome) + put 6 6 (b2n r.nonReplayable) + put 7 7 (b2n r.stp)
    + put 15 8 r.lastFault + put 22 16 p.ocol + put 27 23 p.orow + put 34 28 p.wm1 + put 39 35 p.hm1 + put 51 40 r.asid
    + put 54 52 p.skipped.length

/-- What RGNQRY and QUERY read of a region (R253). -/
def Region.query (r : Region) (slot sel : Nat) : Option Nat :=
  match sel with
  | 0 => some r.stateWord
  | 1 => some (fld r.reject 62 0)
  | 2 => some (if r.state = .saved then r.savedAt.addr % 2 ^ 60 else r.save.addr)
  | 3 => some (r.saveLen slot)
  | 4 => some (fld r.active 62 0)
  | _ => none

/-- RGNQRY (R253). -/
def execRgnqry (rd rs1 rs2 : BitVec 5) (s : State) : Host.Outcome State Fault Refusal :=
  .next (form s false (formWord (.rgnqry rd rs1 rs2)) rd fun s =>
    let sel := s.xreg rs2
    withRegion s (s.xreg rs1) fun slot r =>
      if (s.hart s.cur).mode.virt && (sel = 2 || sel = 3) then refuse s .denied
      else match r.query slot sel with
        | some v => .ret v s
        | none => refuse s .badArg)

/-- RGNSLC (R252, R357): the switch from a region to its shadow. -/
def execRgnslc (rd rs1 rs2 : BitVec 5) (s : State) : Host.Outcome State Fault Refusal :=
  .next (form s true (formWord (.rgnslc rd rs1 rs2)) rd fun s =>
    withRegion s (s.xreg rs1) fun slot r =>
      withRegion s (s.xreg rs2) fun k q =>
        if !r.drainable then r.refuseState s
        else if r.shadow != some k || !(q.state == .loading || q.state == .resident) then q.refuseState s
        else if r.save.addr = 0 then refuse s .badArg
        else .ret 0 (s.beginSwitch slot (some k) (s.hart s.cur).oxdl.toNat))

end Sys2Proof.Machine
end

