-- ==== Sys2Proof/Machine/Barriers.lean ====
section
/-! DEFINITION. Barriers and token FIFOs (09 R257 to R260): the operations of the sole writer, the forms over them, credits and
failures on their way, notify tokens and waiting harts. -/

namespace Sys2Proof.Machine

/-! ### The sole writer's operations (R257, R258) -/

/-- Word `i` of the barrier at a domain address. -/
def State.barWord (s : State) (da i : Nat) : Nat := ofBytes (s.memGet (da + 8 * i) 8)

def State.barPut (s : State) (da b0 b1 b2 b3 : Nat) : State := s.memPut da (bytesOf64 ([b0, b1, b2, b3].map (BitVec.ofNat 64))) false

/-- PH, LFF and PHC. -/
def State.barPh (s : State) (da : Nat) : Bool := bitN (s.barWord da 0) 63
def State.barLff (s : State) (da : Nat) : Bool := bitN (s.barWord da 0) 62
def State.barPhc (s : State) (da : Nat) : Nat := s.barWord da 3

/-- The token that a registration pushes when its phase completes (R259). -/
def Notify.push (n : Notify) (phc : Nat) (f : Bool) : NotifyPush :=
  { hart := n.hart, fifo := n.fifo, tok := { word := .ofNat 32 phc, psn := f, tid := n.tid } }

/-- The BWAITs that wait for a phase of a barrier to flip are released (R258); one that an interrupt of an earlier fc has ended retires with INTR (R259). -/
def Hart.freed (c : Hart) (da : Nat) (par : Bool) (fc : Nat) : Hart :=
  match c.wait with
  | .bwait a p rd =>
    if a = da ∧ p = par then
      (if c.irqDue fc then { (c.setReg rd (refuseWord .intr)) with pc := c.pc + 4, wait := .none } else { c with wait := .released a rd })
    else c
  | _ => c

/-- complete(b, f): the phase flips, its waiters are released, and its notify tokens are queued. -/
def State.barComplete (s : State) (da : Nat) (f : Bool) : State :=
  let b0 := s.barWord da 0
  let phc := (s.barWord da 3 + 1) % 2 ^ 64
  let s1 := s.barPut da (put 63 63 (b2n (!bitN b0 63)) + put 62 62 (b2n f) + b0 % 2 ^ 62) (s.barWord da 1 / 2 ^ 32 * 2 ^ 32) 0 phc
  { s1 with harts := s.harts.map fun c => c.freed da (bitN b0 63) s.fc
            notifies := s.notifies.filter fun n => n.addr != da
            pushes := s.pushes ++ (s.notifies.filter fun n => n.addr == da).map fun n => n.push phc f }

/-- check(b). -/
def State.barCheck (s : State) (da : Nat) : State :=
  if s.barWord da 1 % 2 ^ 32 = s.barWord da 0 % 2 ^ 32 ∧ s.barWord da 2 = 0 then s.barComplete da false else s

/-- Write ARR and PB, keeping the other words, then check. -/
def State.barSet (s : State) (da arr pb : Nat) : State :=
  (s.barPut da (s.barWord da 0) (s.barWord da 1 / 2 ^ 32 * 2 ^ 32 + arr % 2 ^ 32) (pb % 2 ^ 64) (s.barWord da 3)).barCheck da

/-- The atomic unit that is the barrier's home. -/
def State.barHome (s : State) (da : Nat) : Nat :=
  match homeOf (da % 2 ^ 47) with
  | some (t, c) => (da / 2 ^ 47 % 8192 * 64 + t) * 1000 + c
  | none => s.xlat.xmod * 64000 + 63999

/-- The count k and the notify fields of an arrive word (R259). -/
def arriveOk (w : Nat) : Bool := fld w 62 60 == 0 && fld w 55 48 == 0

/-- arrive(b, par, k, cnt), with its notify registration for a hart and a tenant (R258, R259). -/
def State.arrive (s : State) (da w cnt hart tid : Nat) : Except Refuse State :=
  let arr := s.barWord da 1 % 2 ^ 32
  let n : Notify := { addr := da, home := s.barHome da, hart := hart, fifo := fld w 58 56, tid := tid }
  if bitN w 63 != s.barPh da then .error .stale
  else if s.barWord da 0 % 2 ^ 32 < arr + cnt then .error .badArg
  else if bitN w 59 && decide (256 ≤ (s.notifies.filter fun m => m.home == n.home).length) then .error .busy
  else
    let s1 : State := if bitN w 59 then { s with notifies := s.notifies ++ [n] } else s
    .ok (s1.barSet da (arr + cnt) (s.barWord da 2 + fld w 47 0))

/-- credit(b, par, k). -/
def State.barCredit (s : State) (da : Nat) (par : Bool) (k : Nat) : State :=
  if par = s.barPh da then s.barSet da (s.barWord da 1 % 2 ^ 32) (s.barWord da 2 + 2 ^ 64 - k % 2 ^ 64) else s

/-! ### The forms -/

/-- Run a barrier form: the address is 32-byte aligned, and one access of its kind passes (R241, R257). -/
def withBarrier (s : State) (a : HartAcc) (va : Nat) (k : State → Nat → FormEnd) : FormEnd :=
  match s.hartPiece s.cur a false va 32 with
  | (s1, .error e) => excIn s1 e
  | (s1, .ok pa) => k s1 (s1.domainOf pa)

/-- BINIT (R258) (DEDUCED, log entry 55). -/
def execBinit (rd rs1 rs2 : BitVec 5) (s : State) : Host.Outcome State Fault Refusal :=
  .next (form s false (formWord (.binit rd rs1 rs2)) rd fun s =>
    let va := s.xreg rs1
    let n := s.xreg rs2
    if va % 32 != 0 then refuse s .align
    else if n = 0 || 2 ^ 32 ≤ n then refuse s .badArg
    else withBarrier s .amo va fun s da => .ret 0 (s.barPut da n 0 0 0))

/-- The tenant under which a hart's forms act on tokens: oxtnt.TID (R242, R260) (DEDUCED, log entry 49). -/
def State.curTid (s : State) : Nat := (s.hart s.cur).oxtnt.toNat

/-- BARV and BARVX (R258, R259). -/
def arriveForm (s : State) (va w cnt : Nat) : FormEnd :=
  if va % 32 != 0 then refuse s .align
  else if !arriveOk w then refuse s .badArg
  else withBarrier s .amo va fun s da =>
    match s.arrive da w cnt s.cur s.curTid with
    | .error e => refuse s e
    | .ok s1 => .ret (fld (s1.barPhc da) 62 0) s1

def execBarv (rd rs1 rs2 : BitVec 5) (s : State) : Host.Outcome State Fault Refusal :=
  .next (form s false (formWord (.barv rd rs1 rs2)) rd fun s => arriveForm s (s.xreg rs1) (s.xreg rs2) 1)

def execBarvx (rd rs1 rs2 : BitVec 5) (s : State) : Host.Outcome State Fault Refusal :=
  .next (form s false (formWord (.barvx rd rs1 rs2)) rd fun s => arriveForm s (s.xreg rs1) (s.xreg rs2) 0)

/-- What a BWAIT gives once its phase has flipped: the latest completed phase (R259). -/
def State.bwaitWord (s : State) (da : Nat) : Nat :=
  if s.barLff da then refuseWord .faulted (s.barPhc da % 2 ^ 48) else fld (s.barPhc da) 62 0

/-- What a waiting BWAIT gives: the phase when it has flipped, else way to an interrupt that became pending in an earlier fc, so that a flip of the
interrupt's own fc wins, else nothing yet (R259, R271) (DEDUCED, log entry 123). -/
def State.bwaitResult (s : State) (da : Nat) (par irq : Bool) : Option Nat :=
  if s.barPh da != par then some (s.bwaitWord da) else if irq then some (refuseWord .intr) else none

/-- BWAIT (R259): it retires, or the hart stalls in it; one that a completed phase has released retires whatever came after. -/
def execBwait (rd rs1 rs2 : BitVec 5) (s : State) : Host.Outcome State Fault Refusal :=
  .next (form s false (formWord (.bwait rd rs1 rs2)) rd fun s =>
    let va := s.xreg rs1
    let p := s.xreg rs2
    if va % 32 != 0 then refuse s .align
    else if 2 ≤ p then refuse s .badArg
    else withBarrier s .load va fun s da =>
      match (match (s.hart s.cur).wait with
        | .released a _ => some (s.bwaitWord a)
        | _ => s.bwaitResult da (p == 1) ((s.hart s.cur).irqDue s.fc)) with
      | some v => .ret v s
      | none => .hold (s.modHart s.cur fun c => { c with wait := .bwait da (p == 1) rd }))

/-- BTEST (R259). -/
def execBtest (rd rs1 rs2 : BitVec 5) (s : State) : Host.Outcome State Fault Refusal :=
  .next (form s false (formWord (.btest rd rs1 rs2)) rd fun s =>
    let va := s.xreg rs1
    let p := s.xreg rs2
    if va % 32 != 0 then refuse s .align
    else if 2 ≤ p then refuse s .badArg
    else withBarrier s .load va fun s da => .ret (b2n (s.barPh da != (p == 1)) + 2 * b2n (s.barLff da)) s)

/-- BWAIT_WAKE (R258, R259): a hart stalled in a BWAIT retires it once the phase has flipped or an enabled interrupt is pending. -/
def execBwaitWake (h : Nat) (s : State) : Host.Outcome State Fault Refusal :=
  .next (match (s.hart h).wait with
    | .bwait da par rd =>
      match s.bwaitResult da par ((s.hart h).irqDue s.fc) with
      | some v => s.retireAt h rd v
      | none => s
    | .released da rd => s.retireAt h rd (s.bwaitWord da)
    | _ => s)

/-! ### Credits and failures on their way (R258) -/

/-- BARRIER_CREDIT: a credit reaches its barrier. -/
def execBarrierCredit (n : Nat) (s : State) : Host.Outcome State Fault Refusal :=
  .next (match s.credits[n]? with
    | none => s
    | some m => ({ s with credits := s.credits.eraseIdx n } : State).barCredit m.addr m.par m.bytes)

/-- Where a report to the issuer of a command goes (R249, R351). -/
def issuerRing (pkt : Option PktRef) (fq : Nat) : RingTo :=
  match pkt with
  | some p => .vcp p.v p.q p.view
  | none => if fq = 0 then .none else .block fq

/-- BARRIER_FAIL: a failure reaches its barrier; it completes the phase as faulted and is reported, or finds its parity stale. -/
def execBarrierFail (n : Nat) (s : State) : Host.Outcome State Fault Refusal :=
  .next (match s.fails[n]? with
    | none => s
    | some m =>
      let s1 : State := { s with fails := s.fails.eraseIdx n }
      if m.par = s1.barPh m.addr then
        (s1.barComplete m.addr true).deliverFor m.hdl (issuerRing m.pkt m.fq) m.part m.tid m.asid
          { code := 0x70, src := 8, f4 := m.ticket, info := m.va }
      else s1)

/-! ### Token FIFOs (R260) -/

/-- FIFO `f` of a hart. -/
def Hart.fifo (c : Hart) (f : Nat) : List TfTok := c.tf.getD f []

def Hart.setFifo (c : Hart) (f : Nat) (l : List TfTok) : Hart := { c with tf := upd c.tf f fun _ => l }

/-- A FIFO of 64 tokens is full. -/
def Hart.fifoFull (c : Hart) (f : Nat) : Bool := decide (64 ≤ (c.fifo f).length)

/-- BARRIER_NOTIFY_PUSH (R259): a notify token enters its FIFO once there is room. -/
def execBarrierNotifyPush (n : Nat) (s : State) : Host.Outcome State Fault Refusal :=
  .next (match s.pushes[n]? with
    | none => s
    | some p =>
      if (s.hart p.hart).fifoFull p.fifo then s
      else ({ s with pushes := s.pushes.eraseIdx n } : State).modHart p.hart fun c => c.setFifo p.fifo (c.fifo p.fifo ++ [p.tok]))

/-- TFPSH. -/
def execTfpsh (rd rs1 rs2 : BitVec 5) (s : State) : Host.Outcome State Fault Refusal :=
  .next (form s false (formWord (.tfpsh rd rs1 rs2)) rd fun s =>
    let f := s.xreg rs1
    let v := s.xreg rs2
    if 8 ≤ f || 2 ^ 33 ≤ v then refuse s .badArg
    else if (s.hart s.cur).fifoFull f then refuse s .full
    else .ret 0 (s.modHart s.cur fun c =>
      c.setFifo f (c.fifo f ++ [{ word := .ofNat 32 v, psn := bitN v 32, tid := s.curTid }])))

end Sys2Proof.Machine
end

