-- ==== Sys2Proof/Machine/Drains.lean ====
section
/-! DEFINITION. Tiles that leave an MX (08 R235 to R237; 13 R374 to R377): the drain unit, tensor shape records, and the copy
engine's writes of a handed-off tile. -/

namespace Sys2Proof.Machine

/-! ### Drains to ports (R235) -/

/-- Word `w` of a drain buffer: row w div 2, four columns. -/
def Drain.word (d : Drain) (w : Nat) : Word := wordOfLanes 32 ((List.range 4).map fun i => (d.buf.getD (4 * w + i) 0).toNat)

def Region.modCtx (r : Region) (x y c : Nat) (f : MxCtx → MxCtx) : Region :=
  r.modElem x y .mx fun e => { e with mx := upd e.mx c f }

def Region.ctx (r : Region) (x y c : Nat) : Option MxCtx := (r.elem x y .mx).map fun e => e.mx.getD c {}

/-- Words that one port still takes: 64, and an end-of-stream token when the level is not 0. -/
def Drain.len (d : Drain) : Nat := 64 + (if d.level = 0 then 0 else 1)

/-- The token that a port takes next from a drain. -/
def Drain.token (d : Drain) (n : Nat) : Token :=
  if n < 64 then { word := d.word n, psn := d.psn, ctag := d.ctag } else { eosl := .ofNat 3 d.level, psn := d.psn, ctag := d.ctag }

/-- The next word of context `c`'s drain enters a named port; DRB falls with the last token (R235). -/
def Element.placeWord (e : Element) (c port : Nat) (d : Drain) : Element :=
  match look d.pos port with
  | none => e
  | some n =>
    if d.len ≤ n then e
    else
      let pos := insertKV d.pos port (n + 1)
      let done := pos.all fun p => decide (d.len ≤ p.2)
      let e1 := e.modPort port fun p => { p with queue := p.queue ++ [{ tok := d.token n }] }
      { e1 with mx := upd e1.mx c fun m =>
          { m with drain := if done then none else some { d with pos := pos }, dwp := (pos.map (·.2)).foldl min 64 } }

/-- A drain of the element already places a word in the port in this fc. -/
def Element.dueAt (e : Element) (port : Nat) : Bool := e.mx.any fun m => (m.drain.map fun d => d.due.contains port).getD false

/-- MX_DRAIN_WORD (R235): the drain unit places the next word, or the end-of-stream token, in one named port, one word per port per fc.
It enters at the end of the fc, behind the tokens of a beat of the same fc. -/
def execMxDrainWord (t : TileAt) (c port : Nat) (s : State) : Host.Outcome State Fault Refusal :=
  .next (s.modRegion t.slot fun r =>
    match (r.elem t.x t.y .mx).bind fun e => ((e.mx.getD c {}).drain).map fun d => (e, d) with
    | none => r
    | some (e, d) =>
      match look d.pos port with
      | none => r
      | some n =>
        if d.copy || !r.acts t.x t.y (.drain t.x t.y c) || d.len ≤ n || e.dueAt port || e.portRoom port = 0 then r
        else r.modCtx t.x t.y c fun m => { m with drain := some { d with due := d.due ++ [port] } })

/-! ### Tensor shape records (R374, R375) -/

def tsBase (b : List W64) : Nat := fld (wd b 0) 51 0
def tsType (b : List W64) : Nat := fld (wd b 1) 63 60
def tsNdm (b : List W64) : Nat := fld (wd b 1) 59 58
def tsExt (b : List W64) (i : Nat) : Nat :=
  if tsNdm b < i then 1 else if i % 2 = 0 then fld (wd b (2 + i / 2)) 31 0 else fld (wd b (2 + i / 2)) 63 32
def tsStr (b : List W64) (i : Nat) : Int := toSigned 64 (wd b (4 + i))

/-- A record keeps the limits of R375. -/
def tsOk (b : List W64) : Bool :=
  match tlOf (tsType b) with
  | none => false
  | some t =>
    let n := t.width / 8
    fld (wd b 0) 63 52 == 0 && fld (wd b 1) 57 0 == 0 && tsBase b % n == 0 &&
      (List.range 4).all fun i =>
        let raw := if i % 2 = 0 then fld (wd b (2 + i / 2)) 31 0 else fld (wd b (2 + i / 2)) 63 32
        if tsNdm b < i then raw == 0 && wd b (4 + i) == 0 else raw != 0 && tsStr b i % (n : Int) == 0

/-- The 32-bit word of a record that breaks a limit of R375 first, in the record's order: bits of a 64-bit word (DESIGN CHOICE, log entry 111). -/
def tsFailWord (b : List W64) : Option Nat :=
  let lo (i : Nat) : Nat := fld (wd b i) 31 0
  let hi (i : Nat) : Nat := fld (wd b i) 63 32
  let n := ((tlOf (tsType b)).map (·.width / 8)).getD 1
  if fld (wd b 0) 63 52 != 0 then some (hi 0)
  else if tsBase b % n != 0 then some (lo 0)
  else if (tlOf (tsType b)).isNone || fld (wd b 1) 57 32 != 0 then some (hi 1)
  else if lo 1 != 0 then some (lo 1)
  else match (List.range 4).find? fun i =>
      let raw := if i % 2 = 0 then lo (2 + i / 2) else hi (2 + i / 2)
      if tsNdm b < i then raw != 0 else raw == 0 with
    | some i => some (if i % 2 = 0 then lo (2 + i / 2) else hi (2 + i / 2))
    | none => ((List.range 4).find? fun i => if tsNdm b < i then wd b (4 + i) != 0 else tsStr b i % (n : Int) != 0).map fun i =>
        if tsNdm b < i ∧ lo (4 + i) = 0 then hi (4 + i) else lo (4 + i)

/-- Address of an element, mod 2^64 (R375). -/
def tsAddr (b : List W64) (c : List Int) : Nat :=
  ofInt 64 ((tsBase b : Int) + ((List.range 4).map fun i => c.getD i 0 * tsStr b i).foldl (· + ·) 0)

/-- Coordinates lie inside the extents. -/
def tsInside (b : List W64) (c : List Int) : Bool :=
  (List.range 4).all fun i => decide (0 ≤ c.getD i 0) && decide (c.getD i 0 < tsExt b i)

/-! ### Control blocks (09 R264) -/

/-- Read a control block of an address space through the partition's cache, filling it on a miss (R264, R374); a marked line of it is not read
(R415). -/
def State.controlBlock (s : State) (part asid va n : Nat) : State × Except AccFault (List Byte) :=
  match look s.cbcache (va, part * 4096 + asid) with
  | some bs => if bs.length = n then (s, .ok bs) else (s, .ok (bs.take n))
  | none =>
    match s.vaRead (some part) (some part) asid .control (piecesOf va n) with
    | (s1, .ok (bs, psn)) =>
      if psn then (s1, .error { code := 0x31, info := va })
      else ({ s1 with cbcache := insertKV s1.cbcache (va, part * 4096 + asid) bs }, .ok bs)
    | (s1, .error f) => (s1, .error f)

/-! ### MDRC (R236, R377) -/

def State.copyEngine (s : State) (n : Nat) : CopyEngine := (look s.copies n).getD {}
def State.modCopy (s : State) (n : Nat) (f : CopyEngine → CopyEngine) : State :=
  { s with copies := insertKV s.copies n (f (s.copyEngine n)) }

/-- The engine that serves an MX: (c mod 32) div 2 of its die (R377). -/
def Region.mdrcEngine (r : Region) (x y : Nat) : Nat := 16 * r.dieAt x y + (r.phys x y).1 % 32 / 2

/-- Coordinates of element `e` of a tile: dimension 0 is the column. -/
def Drain.coord (d : Drain) (e : Nat) : List Int := [d.col0 + (e % 8 : Nat), d.row0 + (e / 8 : Nat), 0, 0]

/-- Tiles of running regions whose hand-off queue is this engine's and that have not entered it (R377). -/
def State.waitingTiles (s : State) (n : Nat) : List (Nat × Nat × Nat × Nat) :=
  s.regions.flatMap fun (slot, r) => r.tiles.flatMap fun t => match t.elem .mx with
    | none => []
    | some e => (List.range 4).filterMap fun c => match (e.mx.getD c {}).drain with
      | some d => if d.copy && !d.handed && r.mdrcEngine t.x t.y == n then some (slot, t.x, t.y, c) else none
      | none => none

/-- The oldest waiting tile enters the hand-off queue while it has room. -/
def State.handOff (s : State) (n : Nat) : State :=
  match s.waitingTiles n with
  | [] => s
  | (slot, x, y, c) :: _ =>
    if 64 ≤ (s.copyEngine n).handoff.length then s
    else
      (s.modCopy n fun e => { e with handoff := e.handoff ++ [(slot, x, y, c)] }).modRegion slot fun r =>
        r.modCtx x y c fun m => { m with drain := m.drain.map fun d => { d with handed := true } }

/-- A fault of an MDRC (R236, R349): SRC 4, the element index in f4 (DESIGN CHOICE, log entry 30). -/
def State.mdrcFault (s : State) (slot x y c : Nat) (elt code det info : Nat) : State :=
  match (if code = 0x10 then (s.region slot).bind fun r => s.askPull r.asid info else none) with
  | some s1 => s1
  | none => s.raiseAt slot (.drain x y c) { code := code, det := det, src := 4, x := x, y := y, elt := 3, f4 := elt, info := info % 2 ^ 60 }

/-- Types an MDRC may write (R236). -/
def mdrcTypeOk (isInt : Bool) (t : Nat) : Bool := if isInt then t == 2 else t == 8 || t == 7 || t == 6

/-- Translate and check one access of an engine of a die for a region. -/
def State.engineAcc (s : State) (r : Region) (x y va size : Nat) (k : AKind) : State × Except AccFault Nat :=
  match vaCheck va size with
  | some d => (s, .error { code := 0x11, det := d, info := va })
  | none =>
    match s.translate (some (r.dieAt x y)) (some (r.stripAt x y)) (some r.part) r.asid va k with
    | (s1, .error f) => (s1, .error { f with det := f.detOr 4 })
    | (s1, .ok w) =>
      match s1.check (r.whoAt x y w.mid) w.da k size with
      | (s2, some f) => (s2, .error { f.atVa va with det := f.detOr 4 })
      | (s2, none) => (s2, .ok w.da)

/-- Convert an element of the tile to the record's type (R58, R236). -/
def mdrcValue (t : Nat) (v : Nat) : Nat :=
  match t with
  | 6 => (fpF16.fromFp .rne 0 (fpF32.decode v)).1
  | 7 => (fpB16.fromFp .rne 0 (fpF32.decode v)).1
  | _ => v

/-- The reduction of an MDRC.ADD, by type. -/
def mdrcAtom (t : Nat) : AtomOp × AtomTy :=
  match t with
  | 6 => (.fadd, .f16)
  | 7 => (.fadd, .b16)
  | 8 => (.fadd, .f32)
  | _ => (.add, .i32)

/-- The next element of a tile that lies inside the extents, from `e` on. -/
def Drain.nextElt (d : Drain) (e : Nat) : Option Nat := ((List.range 256).filter fun k => decide (e ≤ k)).find? fun k => tsInside d.blk (d.coord k)

/-- The word that a record and a counter of MDRC fail by: of the record, its type's, or of the counter's address. -/
def mdrcFailWord (b : List W64) (isInt : Bool) (ctr : Nat) : Nat :=
  (tsFailWord b).getD (if !mdrcTypeOk isInt (tsType b) then fld (wd b 1) 63 32 else if ctr % 8 != 0 then fld ctr 31 0 else fld ctr 63 32)

/-- All elements are performed: the counter, then DRB (R236). -/
def State.mdrcEnd (s : State) (n slot x y c : Nat) (r : Region) (d : Drain) : State :=
  let free (s1 : State) : State :=
    (s1.modCopy n fun e => { e with handoff := e.handoff.tail, turn := false }).modRegion slot fun r =>
      r.modCtx x y c fun m => { m with drain := none, dwp := 0 }
  if d.ctr = 0 then free s
  else match s.engineAcc r x y d.ctr 8 .atomic with
    | (s1, .error f) => s1.mdrcFault slot x y c 256 f.code f.det f.info
    | (s1, .ok da) => free (s1.atomicAt da .add .n64 1 0 false).1

/-- Write one element of the tile at the head of the hand-off queue. -/
def State.mdrcElement (s : State) (n slot x y c : Nat) (r : Region) (d : Drain) : State :=
  match d.nextElt d.elt with
  | none => s.mdrcEnd n slot x y c r d
  | some e =>
    let ty := tsType d.blk
    let size := ((tlOf ty).map (·.width / 8)).getD 4
    let v := mdrcValue ty (d.buf.getD e 0).toNat
    match s.engineAcc r x y (tsAddr d.blk (d.coord e)) size (if d.add then .atomic else .write) with
    | (s1, .error f) => s1.mdrcFault slot x y c e f.code f.det f.info
    | (s1, .ok da) =>
      let s2 := if d.add then (s1.atomicAt da (mdrcAtom ty).1 (mdrcAtom ty).2 v 0 d.psn).1 else s1.memPut da (toBytes size v) d.psn
      let d1 := { d with elt := e + 1 }
      let s3 := ((if d.add then s2.countAt slot x y 3 2 2 1 else s2.countAt slot x y 3 2 1 size).modCopy n fun g => { g with turn := false }).modRegion slot fun r =>
        (r.modCtx x y c fun m => { m with drain := some d1 }).dirtied
      if (d1.nextElt (e + 1)).isNone then s3.mdrcEnd n slot x y c r d1 else s3

/-- The engine's command queue has a command that may move a unit now (R377). -/
def CopyEngine.busyCmd (e : CopyEngine) : Bool :=
  match e.cmds.q with
  | c :: _ => c.issued && !c.done && !c.paused
  | [] => false

/-- MDRC_ELEMENT_WRITE (R236, R377): the engine takes up a waiting tile, reads its record when it comes to the head, and writes or
reduces its next element inside the extents. -/
def execMdrcElementWrite (n : Nat) (s0 : State) : Host.Outcome State Fault Refusal :=
  let s := s0.handOff n
  .next (match (s.copyEngine n).handoff with
    | [] => s
    | (slot, x, y, c) :: _ =>
      match s.region slot with
      | none => s.modCopy n fun e => { e with handoff := e.handoff.tail }
      | some r =>
        match (r.ctx x y c).bind (·.drain) with
        | none => s.modCopy n fun e => { e with handoff := e.handoff.tail }
        | some d =>
          if !r.acts x y (.drain x y c) || (!(s.copyEngine n).turn && (s.copyEngine n).busyCmd) then s
          else if d.blk.isEmpty then
            match vaCheck d.recA 8 with
            | some k => s.mdrcFault slot x y c 0 0x11 k d.recA
            | none =>
              match s.controlBlock r.part r.asid d.recA 64 with
              | (s1, .error f) => s1.mdrcFault slot x y c 0 f.code (f.detOr 4) f.info
              | (s1, .ok bs) =>
                let b := words64 8 bs
                if tsOk b && mdrcTypeOk d.isInt (tsType b) && d.ctr % 8 == 0 && fld d.ctr 63 52 == 0 then
                  s1.modRegion slot fun r => r.modCtx x y c fun m => { m with drain := some { d with blk := b } }
                else s1.mdrcFault slot x y c 0 0x01 1 (mdrcFailWord b d.isInt d.ctr)
          else s.mdrcElement n slot x y c r d)

end Sys2Proof.Machine
end

