-- ==== Sys2Proof/Machine/Commands.lean ====
section
/-! DEFINITION. Engine commands (09 R244 to R249, R254, R255, R258): headers, queues, acceptance, issue, retirement and the token at its
end, for stream, copy and collective commands alike. -/

namespace Sys2Proof.Machine

/-! ### Headers (R245) -/

def Cmd.c0 (c : Cmd) : Nat := wd c.c 0
def Cmd.wte (c : Cmd) : Bool := bitN c.c0 55
def Cmd.wtf (c : Cmd) : Nat := fld c.c0 54 52
def Cmd.pte (c : Cmd) : Bool := bitN c.c0 51
def Cmd.ptf (c : Cmd) : Nat := fld c.c0 50 48
def Cmd.tag (c : Cmd) : Nat := fld c.c0 23 0
def Cmd.cca (c : Cmd) : Nat := wd c.c 1
def Cmd.bar (c : Cmd) : Nat := wd c.c 2

/-- A scope of a header is coded as its enable bit asks. -/
def scopeOk (en : Bool) (sc : Nat) : Bool := if en then decide (1 ≤ sc) && decide (sc ≤ 4) else sc == 0

/-- The refusal of a header, if any: its limits, then the alignment of its addresses. -/
def headerRefuse (c : List W64) (kind : Nat) (stream : Bool) : Option Refuse :=
  let c0 := wd c 0
  if fld c0 63 56 != kind || fld c0 27 24 != 0 || !scopeOk (bitN c0 47) (fld c0 46 44) || !scopeOk (bitN c0 43) (fld c0 42 40) ||
      (stream && fld c0 39 28 != 0) then some .badArg
  else if wd c 1 % 8 != 0 || wd c 2 % 32 != 0 then some .align
  else none

/-! ### Queues -/

/-- The class and unit of a command's ticket with its sequence number (R244). -/
def ticketOf (q : QueueId) (c : Cmd) : Nat :=
  match q with
  | .stream _ x y i => streamTicket x y (c.stream i) c.seq
  | .copy n => put 51 48 2 + put 47 32 n + put 31 0 c.seq
  | .coll k => put 51 48 3 + put 47 32 k + put 31 0 c.seq

def State.collEngine (s : State) (k : Nat) : CollEngine := (look s.colls k).getD {}
def State.modColl (s : State) (k : Nat) (f : CollEngine → CollEngine) : State := { s with colls := insertKV s.colls k (f (s.collEngine k)) }

def State.cmdQueue (s : State) (q : QueueId) : CmdQueue :=
  match q with
  | .stream slot x y i => (((s.region slot).bind fun r => r.me x y).map fun m => (m.stream i).cmds).getD {}
  | .copy n => (s.copyEngine n).cmds
  | .coll k => (s.collEngine k).cmds

def State.modCmds (s : State) (q : QueueId) (f : CmdQueue → CmdQueue) : State :=
  match q with
  | .stream slot x y i => s.modRegion slot fun r => r.modMe x y fun m => m.modStream i fun t => { t with cmds := f t.cmds }
  | .copy n => s.modCopy n fun e => { e with cmds := f e.cmds }
  | .coll k => s.modColl k fun e => { e with cmds := f e.cmds }

/-- A command of a region that holds it no more is retired apart (R271, R343). -/
def State.orphanAt (s : State) (q : QueueId) : Option Cmd :=
  match q with
  | .stream slot x y i => look s.orphans (slot, x, y, i)
  | _ => none

/-- The command of a queue that is the next to issue, run or retire. -/
def State.headCmd (s : State) (q : QueueId) : Option Cmd := (s.orphanAt q).orElse fun _ => (s.cmdQueue q).q.head?

/-- Remove the first entry of a key. -/
def eraseFirst {κ ν : Type} [DecidableEq κ] : List (κ × ν) → κ → List (κ × ν)
  | [], _ => []
  | (k', v) :: r, k => if k' = k then r else (k', v) :: eraseFirst r k

/-- The queues that hold a copy of a command: one for each stream a stream barrier names (R255). -/
def queuesOf (q : QueueId) (c : Cmd) : List QueueId :=
  match q with
  | .stream slot x y i => if c.kind = 2 then ((List.range 8).filter c.names).map fun k => .stream slot x y k else [.stream slot x y i]
  | q => [q]

/-- Change the head command of a queue. -/
def State.setHead (s : State) (q : QueueId) (c : Cmd) : State :=
  match s.orphanAt q, q with
  | some _, .stream slot x y i => { s with orphans := insertKV s.orphans (slot, x, y, i) c }
  | _, _ => (queuesOf q c).foldl (fun (a : State) k => a.modCmds k fun u => { u with q := c :: u.q.tail }) s

/-- Remove the head command of a queue. -/
def State.dropHead (s : State) (q : QueueId) (c : Cmd) : State :=
  match s.orphanAt q, q with
  | some _, .stream slot x y i => { s with orphans := eraseFirst s.orphans (slot, x, y, i) }
  | _, _ => (queuesOf q c).foldl (fun (a : State) k => a.modCmds k fun u => { u with q := u.q.tail }) s

/-! ### Addresses of a command -/

/-- Die and strip from which a command's accesses are walked: its ME's; its engine's die; its strip. -/
def State.cmdSite (s : State) (q : QueueId) : Option Nat × Option Nat :=
  match q with
  | .stream slot x y _ =>
    match s.region slot with
    | some r => if r.state.holdsTiles then (some (r.dieAt x y), some (r.stripAt x y)) else (none, none)
    | none => (none, none)
  | .copy n => (some (n / 16), none)
  | .coll k => (some (k / 2), some k)

/-- Translate and check an access of a command in its address space (R245, R281, R289): the domain address, or the fault with its DET
and address. -/
def State.cmdAcc (s : State) (q : QueueId) (c : Cmd) (va size : Nat) (k : AKind) : State × Except AccFault Nat :=
  let (die, strip) := s.cmdSite q
  match vaCheck va size with
  | some d => (s, .error { code := 0x11, det := d, info := va })
  | none =>
    match s.translate die strip (some c.part) c.asid va k with
    | (s1, .error f) => (s1, .error { f with det := f.detOr 4 })
    | (s1, .ok w) =>
      match s1.check { mid := w.mid, strip := strip, part := some c.part, tid := s1.asidTid c.asid } w.da k size with
      | (s2, some f) => (s2, .error { f.atVa va with det := f.detOr 4 })
      | (s2, none) => (s2, .ok w.da)

/-- The fault queue of a command's issuer: its packet's queue, or for a stream command its region's (R351). -/
def State.ringOf (s : State) (q : QueueId) (c : Cmd) : RingTo :=
  match q, c.pkt with
  | _, some p => .vcp p.v p.q p.view
  | .stream slot _ _ _, none => ((s.region slot).map Region.ringTo).getD .none
  | _, none => .none

/-- The tenant that a command's fault records name: its region's for a stream command, else its own (R349). -/
def State.recTid (s : State) (q : QueueId) (c : Cmd) : Nat :=
  match q with
  | .stream slot _ _ _ => ((s.region slot).map (·.tid)).getD c.tid
  | _ => c.tid

/-- The region handle that a command's fault records name: its region's for a stream command (R349). -/
def State.recHdl (s : State) (q : QueueId) : Nat :=
  match q with
  | .stream slot _ _ _ => s.handle slot
  | _ => 0

/-- Report a fault of a command, with its ticket (R248, R249, R349). -/
def State.cmdReport (s : State) (q : QueueId) (c : Cmd) (code det info : Nat) : State :=
  s.deliverFor (s.recHdl q) (s.ringOf q c) c.part (s.recTid q c) c.asid { code := code, det := det, src := 7, f4 := ticketOf q c, info := info % 2 ^ 60 }

/-- A command fails; the first code stands. -/
def Cmd.failed (c : Cmd) (code : Nat) : Cmd := { c with fail := if c.fail = 0 then code else c.fail, done := true, paused := false }

/-! ### Barriers of commands (R258) -/

/-- The parity a command records at acceptance: PH of its barrier; where that cannot be read, a free bit (DESIGN CHOICE, log entry 53). -/
def State.recordPar (s : State) (q : QueueId) (c : Cmd) : State × Cmd :=
  if c.bar = 0 then (s, c)
  else match s.cmdAcc q c c.bar 32 .atomic with
    | (s1, .ok da) => (s1, { c with par := s1.barPh da })
    | (s1, .error _) => ({ s1 with draws := s1.draws + 1 }, { c with par := bitN (Config.freeByte s1.draws).toNat 0 })

/-- A message to the command's barrier. -/
def State.barMsg (s : State) (q : QueueId) (c : Cmd) (da bytes : Nat) : BarMsg :=
  let m : BarMsg := { addr := da, par := c.par, bytes := bytes, ticket := ticketOf q c, part := c.part, tid := s.recTid q c, asid := c.asid, va := c.bar, hdl := s.recHdl q }
  match s.ringOf q c with
  | .vcp v k w => { m with pkt := some { v := v, q := k, seq := 0, view := w } }
  | .block a => { m with fq := a }
  | .none => m

/-- Send a credit, or the failure, of a command to its barrier. A walk or check that fails for the address fails the command and is
reported, and the barrier is left alone (R248). -/
def State.sendBar (s : State) (q : QueueId) (c : Cmd) (failure : Bool) (bytes : Nat) : State × Cmd :=
  if c.bar = 0 || c.credited then (s, c)
  else match s.cmdAcc q c c.bar 32 .atomic with
    | (s1, .error f) => (s1.cmdReport q c f.code f.det f.info, { c.failed f.code with credited := true })
    | (s1, .ok da) =>
      let m := s1.barMsg q c da bytes
      (if failure then { s1 with fails := s1.fails ++ [m] } else { s1 with credits := s1.credits ++ [m] }, c)

/-- Messages of a command that have not reached its barrier. -/
def State.barPending (s : State) (q : QueueId) (c : Cmd) : Bool :=
  let t := ticketOf q c
  (s.credits ++ s.fails).any fun m => m.ticket == t && m.va == c.bar && m.asid == c.asid && m.part == c.part

/-! ### Issue (R247, R255) -/

/-- The first token of a tenant, and the rest. -/
def takeToken (tid : Nat) : List TfTok → Option (TfTok × List TfTok)
  | [] => none
  | t :: r => if t.tid = tid then some (t, r) else (takeToken tid r).map fun p => (p.1, t :: p.2)

/-- Pop the token that a command waits for: the command, failed when the token is poisoned (R248); none while it must wait. -/
def State.popFor (s : State) (c : Cmd) : Option (State × Cmd) :=
  if !c.wte || c.popped then some (s, c)
  else (takeToken c.tid ((s.hart c.hart).fifo c.wtf)).map fun (t, rest) =>
    let s1 := s.modHart c.hart fun h => h.setFifo c.wtf rest
    (s1, if t.psn then { c.failed 256 with popped := true } else { c with popped := true })

/-- A stream may take a command (R247): its region is not loading, and it has no descriptor running or pending; in a drain the commands that wait
stay queued (R357). -/
def Region.streamFree (r : Region) (x y i : Nat) : Bool :=
  match r.me x y with
  | some m => let t := m.stream i; r.state != .loading && r.state != .draining && t.run.isNone && t.pend.isEmpty && t.redo.isEmpty && !t.stopped
  | none => false

/-- A queue lets its head issue. -/
def State.mayIssue (s : State) (q : QueueId) (c : Cmd) : Bool :=
  match q with
  | .stream slot x y _ =>
    match s.region slot with
    | some r => (queuesOf q c).all fun k => match k with
      | .stream _ _ _ i => r.streamFree x y i && (((r.me x y).bind fun m => (m.stream i).cmds.q.head?).map fun d => d.kind == c.kind && d.seq == c.seq) == some true
      | _ => false
    | none => false
  | _ => true

/-- The head of a queue pops its token and runs; a stream command's descriptor takes the running place, a stream barrier is done at once. -/
def State.issue (s : State) (q : QueueId) : State :=
  match s.orphanAt q, (s.cmdQueue q).q.head? with
  | none, some c =>
    if c.issued || c.done || !s.mayIssue q c then s
    else match s.popFor c with
      | none => s
      | some (s1, c1) =>
        if c1.done then s1.setHead q { c1 with issued := true }
        else
          let c2 := { c1 with issued := true }
          let s2 := s1.setHead q c2
          match q with
          | .stream slot x y i =>
            if c.kind = 2 then s2.setHead q { c2 with done := true }
            else match s2.startStream { slot := slot, x := x, y := y } i ((c.c.drop 4).take 8) true c.units with
              | (s3, true) => s3
              | (s3, false) => s3.setHead q (c2.failed 1)
          | .copy _ =>
            match c.pkt with
            | some p => s2.due p 2 0 (ticketOf q c) 0 (ticketOf q c) true
            | none => s2
          | .coll k =>
            let s3 := s2.modColl k fun e => { ({} : CollEngine) with cmds := e.cmds, hdrs := e.hdrs }
            match c.pkt with
            | some p => s3.due p 2 0 (ticketOf q c) 0 (ticketOf q c) true
            | none => s3
  | _, _ => s

/-- COMMAND_ISSUE (R247, R248, R254, R255). -/
def execCommandIssue (q : QueueId) (s : State) : Host.Outcome State Fault Refusal := .next (s.issue q)

/-! ### Tokens of a hart that commands wait for (R260) -/

/-- The command at the head of a queue that waits for a token of FIFO `f` of hart `h` (R247, R260). -/
def waitsToken (h f : Nat) (c : Cmd) : Bool :=
  c.hart == h && bitN (wd c.c 0) 55 && fld (wd c.c 0) 54 52 == f && !c.popped && !c.issued && !c.done

/-- Queues with the command at their head. -/
def State.queueHeads (s : State) : List (QueueId × Cmd) :=
  (s.copies.filterMap fun e => e.2.cmds.q.head?.map fun c => (.copy e.1, c)) ++
    (s.colls.filterMap fun e => e.2.cmds.q.head?.map fun c => (.coll e.1, c)) ++
    s.regions.flatMap fun p => (numbered (p.2.tiles.flatMap fun t => t.elts.flatMap fun e =>
      (List.range 8).filterMap fun i => ((e.me.stream i).cmds.q.head?).map fun c => ((t.x, t.y, i), c))).map
        fun e => (.stream p.1 e.1.1 e.1.2.1 e.1.2.2, e.2)

/-- Queues whose head waits on a FIFO. -/
def State.headsOn (s : State) (h f : Nat) : List QueueId := (s.queueHeads.filter fun e => waitsToken h f e.2).map (·.1)

/-- TFPOP: the engines that wait on the FIFO and may issue pop first; heads of other tenants are discarded on the way (DEDUCED, log entry 54). -/
def execTfpop (rd rs1 : BitVec 5) (s : State) : Host.Outcome State Fault Refusal :=
  .next (form s false (formWord (.tfpop rd rs1)) rd fun s =>
    let f := s.xreg rs1
    if 8 ≤ f then refuse s .badArg
    else
      let s1 := (s.headsOn s.cur f).foldl State.issue s
      match ((s1.hart s1.cur).fifo f).dropWhile fun t => t.tid != s1.curTid with
      | [] => refuse (s1.modHart s1.cur fun c => c.setFifo f []) .empty
      | t :: rest => .ret (t.word.toNat + put 32 32 (b2n t.psn)) (s1.modHart s1.cur fun c => c.setFifo f rest))

/-- TFQRY. -/
def execTfqry (rd rs1 : BitVec 5) (s : State) : Host.Outcome State Fault Refusal :=
  .next (form s false (formWord (.tfqry rd rs1)) rd fun s =>
    let f := s.xreg rs1
    if 8 ≤ f then refuse s .badArg
    else .ret ((((s.hart s.cur).fifo f).filter fun t => t.tid == s.curTid).length + put 15 8 (min 255 (s.headsOn s.cur f).length)) s)

/-! ### Retirement (R248) -/

/-- Bytes that a stream descriptor moves in a unit: a word, or a data part and its scale byte (R212, R214). -/
def unitBytes (c : Cmd) : Nat :=
  let g : SRun := { q := (c.c.drop 4).take 8 }
  match g.block with
  | some f => f.dataBytes g.len + 1
  | none => 16

/-- The state word a ticket reads at its end, with its tenant above it (R263). -/
def Cmd.finalWord (c : Cmd) : Nat :=
  (if c.fail = 0 then 4 else 5) + put 15 8 c.fail + put 62 16 c.units + c.tid * 2 ^ 64

/-- Keep the last 4,096 final states of a unit (R244). -/
def CmdQueue.note (u : CmdQueue) (seq w : Nat) : CmdQueue :=
  { u with hist := (u.hist ++ [(seq, w)]).drop (u.hist.length + 1 - 4096) }

/-- The queue whose unit numbers a command. -/
def QueueId.unit (q : QueueId) (c : Cmd) : QueueId :=
  match q with
  | .stream slot x y i => .stream slot x y (c.stream i)
  | q => q

/-- The end of a command: it leaves its queue, its ticket keeps its final state, and its packet is completed or faulted (R244, R263, R315). -/
def State.endCmd (s : State) (q : QueueId) (c : Cmd) : State :=
  let s1 := s.dropHead q c
  let s2 := s1.modCmds (q.unit c) fun u => u.note c.seq c.finalWord
  match c.pkt with
  | some p => s2.finish p (if c.fail = 0 then 3 else 4) (c.fail % 256) (ticketOf q c) 0 (ticketOf q c)
  | none => s2

/-- Credit the units of a stream command that have been performed and not credited (R258); a barrier that cannot be reached fails the command, whose
descriptor runs on (DESIGN CHOICE, log entry 51). -/
def State.payUnits (s : State) (q : QueueId) (c : Cmd) (units : Nat) : State × Cmd :=
  if c.kind != 1 || units ≤ c.paid then (s, c)
  else
    let (s1, c1) := s.sendBar q c false ((units - c.paid) * unitBytes c)
    (s1, { c1 with paid := units, done := c.done })

/-- Step 1 of a retirement: the credit of the units of a stream command that are left, or the failure of a failed command, goes to the barrier. The
other units have sent their credits as they were performed. -/
def State.retireBar (s : State) (q : QueueId) (c : Cmd) : State × Cmd :=
  let (s1, c1) :=
    if c.fail != 0 then s.sendBar q c true 0
    else match q with
      | .stream .. => s.payUnits q c c.units
      | _ => (s, c)
  (s1, { c1 with credited := true })

/-- Step 2: the add at the completion counter. -/
def State.retireCount (s : State) (q : QueueId) (c : Cmd) : State × Cmd :=
  let c1 := { c with counted := true }
  if c.cca = 0 then (s, c1)
  else match s.cmdAcc q c c.cca 8 .atomic with
    | (s1, .error f) => (s1.cmdReport q c f.code f.det f.info, { c1.failed f.code with counted := true })
    | (s1, .ok da) => ((s1.atomicAt da .add .n64 (if c.fail = 0 then 1 else 2 ^ 32) 0 false).1, c1)

/-- COMMAND_RETIRE (R248): a done command credits or fails its barrier; when that has reached the barrier it adds to its completion
counter; without a token to push it has then retired (DESIGN CHOICE, log entry 52). -/
def execCommandRetire (q : QueueId) (s : State) : Host.Outcome State Fault Refusal :=
  .next (match s.headCmd q with
    | none => s
    | some c =>
      if !c.done || c.counted then s
      else
        let (s1, c1) := if c.credited then (s, c) else s.retireBar q c
        if s1.barPending q c1 then s1.setHead q c1
        else
          let (s2, c2) := s1.retireCount q c1
          if c2.pte then s2.setHead q c2 else (s2.setHead q c2).endCmd q c2)

/-- ENGINE_TOKEN_PUSH (R248): step 3, once the FIFO of the issuing hart has room. -/
def execEngineTokenPush (q : QueueId) (s : State) : Host.Outcome State Fault Refusal :=
  .next (match s.headCmd q with
    | none => s
    | some c =>
      if !c.counted || !c.pte || (s.hart c.hart).fifoFull c.ptf then s
      else (s.modHart c.hart fun h =>
        h.setFifo c.ptf (h.fifo c.ptf ++ [{ word := .ofNat 32 c.tag, psn := c.fail != 0, tid := c.tid }])).endCmd q c)

/-! ### Units of streams (R212, R214, R258) -/

/-- A command's descriptor credits the command's barrier for the units it has performed. -/
def State.creditStream (s : State) (t : TileAt) (i : Nat) : State :=
  let q : QueueId := .stream t.slot t.x t.y i
  match ((s.region t.slot).bind fun r => r.me t.x t.y).bind fun m => (m.stream i).cmds.q.head?.map fun c => (c, (m.stream i).run) with
  | none => s
  | some (c, run) =>
    let units := match run with
      | some g => if g.fromCmd then g.performed else 0
      | none => if c.done then c.units else 0
    if !c.issued || c.fail != 0 then s
    else let (s1, c1) := s.payUnits q c units; if c1 = c then s1 else s1.setHead q c1

/-- STREAM_LOAD_UNIT (R177, R212, R215, R216, R258). -/
def execStreamLoadUnit (t : TileAt) (i : Nat) (s : State) : Host.Outcome State Fault Refusal := .next ((s.loadUnit t i).creditStream t i)

/-- STREAM_STORE_UNIT (R171, R176, R178, R214, R216, R258). -/
def execStreamStoreUnit (t : TileAt) (i : Nat) (s : State) : Host.Outcome State Fault Refusal := .next ((s.nextStore t i).creditStream t i)

end Sys2Proof.Machine
end

