-- ==== Sys2Proof/Machine/Engines.lean ====
section
/-! DEFINITION. Copy engines (09 R246, R247, R249, R261, R263; 13 R373 to R377): acceptance of CPY, CPYT and COPY, units of a copy, pauses and
failures, and the queries of tickets. -/

namespace Sys2Proof.Machine

/-! ### Acceptance -/

/-- Who asks for a command: hart (64 for none), tenant, partition, die and packet, and the tenant its address spaces must belong to. -/
structure Asker where
  hart : Nat
  tid : Nat
  part : Nat
  die : Nat
  pkt : Option PktRef := none
  only : Option Nat := none

/-- The current hart as an asker. -/
def State.askHart (s : State) : Asker :=
  { hart := s.cur, tid := s.curTid, part := s.hartPart s.cur, die := hartDie s.cur, only := s.guestTid }

/-- An ASID names an address space that is live and belongs to a tenant. -/
def State.asidOf (s : State) (asid tid : Nat) : Bool := s.asidLive asid && s.asidTid asid == tid

/-- The asker may use an address space (R242, R313). -/
def State.mayUse (s : State) (u : Asker) (asid : Nat) : Bool :=
  match u.only with
  | some t => s.asidOf asid t
  | none => true

/-- What the check of a command gives: the queue and the command, ready to be accepted; a refusal; or the fault of a block that had to be
read. -/
inductive Ready where
  | ok (s : State) (q : QueueId) (c : Cmd)
  | refused (s : State) (e : Refuse) (low : Nat := 0)
  | fault (s : State) (f : AccFault)

/-- A check that does not end in acceptance leaves the control-block cache as it was (R240, R241). -/
def Ready.keep (t : Ready) (s0 : State) : Ready :=
  match t with
  | .ok s q c => .ok s q c
  | .refused s e low => .refused { s with cbcache := s0.cbcache } e low
  | .fault s f => .fault { s with cbcache := s0.cbcache } f

/-- The exception of a failing read of a control block (R241). -/
def AccFault.exc (f : AccFault) (virt : Bool) : Exc :=
  if f.code = 0x10 ∨ f.code = 0x11 then { cause := HartAcc.pageFault .load virt, tval := f.info }
  else { cause := HartAcc.accessFault .load, tval := f.info }

/-- An engine's queue takes a checked command, unless it is full (R247). -/
def State.queueReady (s : State) (q : QueueId) (c : Cmd) : Ready :=
  if 256 ≤ (s.cmdQueue q).q.length then .refused s .busy else .ok s q { c with seq := (s.cmdQueue q).next }

/-- Put an accepted command at the end of an engine's queue, with the parity of its barrier (R247, R258). -/
def State.enqueueCmd (s : State) (q : QueueId) (c : Cmd) : State :=
  let (s1, c1) := s.recordPar q c
  s1.modCmds q fun v => { v with q := v.q ++ [c1], next := (v.next + 1) % 2 ^ 32 }

/-- How a form ends that hands a command to a unit. -/
def Ready.formEnd (t : Ready) : FormEnd :=
  match t with
  | .ok s q c => .ret (ticketOf q c) (s.enqueueCmd q c)
  | .refused s e low => refuse s e low
  | .fault s f => excIn s (f.exc (s.hart s.cur).mode.virt)

/-- The engine that an engine select names (R261): one of the die, or the one with the shortest queue (DEDUCED, log entry 58). -/
def State.selectEngine (s : State) (die sel : Nat) : Option Nat :=
  if 32 ≤ sel || (bitN sel 4 && sel != 16) then none
  else if sel < 16 then some (16 * die + sel)
  else
    let len (n : Nat) : Nat := (s.copyEngine (16 * die + n)).cmds.q.length
    some (16 * die + (List.range 16).foldl (fun b n => if len n < len b then n else b) 0)

/-- A control block of a command, from the cache or from memory (R264). -/
def State.takeBlock (s : State) (part asid va n : Nat) : State × Except AccFault (List W64) :=
  match vaCheck va 1 with
  | some d => (s, .error { code := 0x11, det := d, info := va })
  | none =>
    match s.controlBlock part asid va n with
    | (s1, .error f) => (s1, .error f)
    | (s1, .ok bs) => (s1, .ok (words64 (n / 8) bs))

/-- Types that an atomic add takes (R376). -/
def addTypeOk (d : Nat) : Bool := d == 2 || d == 5 || d == 6 || d == 7 || d == 8

/-- A pair of types that CPYT converts (R376). -/
def pairOk (s d : Nat) : Bool := (s == 9) == (d == 9)

/-- Check a copy (R261, R375, R376). -/
def State.checkCopy (s : State) (u : Asker) (kind : Nat) (c : List W64) (sel : Nat) : Ready :=
  let asid := fld (wd c 0) 39 28
  match headerRefuse c kind false, s.selectEngine u.die sel with
  | some e, _ => .refused s e
  | none, none => .refused s .badArg
  | none, some n =>
    let cmd : Cmd := { kind := kind, c := c, seq := 0, hart := u.hart, tid := u.tid, asid := asid, part := u.part, pkt := u.pkt }
    if kind = 3 then
      if wd c 3 != 0 || wd c 6 = 0 || 2 ^ 40 < wd c 6 || !(c.drop 7).all (· == 0) then .refused s .badArg
      else if !s.mayUse u asid then .refused s .denied
      else s.queueReady (.copy n) cmd
    else
      if 2 ≤ wd c 3 || !(c.drop 6).all (· == 0) then .refused s .badArg
      else if !s.mayUse u asid then .refused s .denied
      else match s.takeBlock u.part asid (wd c 4) 64 with
        | (s1, .error f) => (Ready.fault s1 f).keep s
        | (s1, .ok a) =>
          match s1.takeBlock u.part asid (wd c 5) 64 with
          | (s2, .error f) => (Ready.fault s2 f).keep s
          | (s2, .ok b) =>
            if !tsOk a || !tsOk b || !pairOk (tsType a) (tsType b) || (wd c 3 == 1 && !addTypeOk (tsType b)) then (Ready.refused s2 .badArg).keep s
            else (s2.queueReady (.copy n) { cmd with blocks := [a, b] }).keep s

/-- The shared course of CPY and CPYT. -/
def copyForm (s : State) (va sel kind : Nat) : FormEnd :=
  if va % 128 != 0 then refuse s .align
  else withBlock s false va 128 fun s c => (s.checkCopy s.askHart kind c sel).formEnd

/-- CPY (R261). -/
def execCpy (rd rs1 rs2 : BitVec 5) (s : State) : Host.Outcome State Fault Refusal :=
  .next (form s false (formWord (.cpy rd rs1 rs2)) rd fun s => copyForm s (s.xreg rs1) (s.xreg rs2) 3)

/-- CPYT (R261). -/
def execCpyt (rd rs1 rs2 : BitVec 5) (s : State) : Host.Outcome State Fault Refusal :=
  .next (form s false (formWord (.cpyt rd rs1 rs2)) rd fun s => copyForm s (s.xreg rs1) (s.xreg rs2) 4)

/-! ### Queries (R263) -/

/-- The state word of a command that has not ended, at place `i` of its queue. -/
def Cmd.liveWord (c : Cmd) (i : Nat) : Nat :=
  let st := if c.paused then 3 else if c.issued then 2 else if i = 0 ∧ c.wte ∧ !c.popped then 1 else 0
  let code := if c.paused then 0x10 else c.fail % 256
  put 3 0 (if c.issued && c.fail != 0 then 5 else st) + put 15 8 code + put 62 16 c.units

/-- A sequence number is one of the last 4,096 before the next one (R244). -/
def recentSeq (next seq : Nat) : Bool := decide (1 ≤ (next + 2 ^ 32 - seq) % 2 ^ 32) && decide ((next + 2 ^ 32 - seq) % 2 ^ 32 ≤ 4096)

/-- Tenant and state word of a command of a queue by its number; none when it is no longer, or not yet, held. -/
def CmdQueue.find (u : CmdQueue) (seq : Nat) : Option (Nat × Nat) :=
  if !recentSeq u.next seq then none
  else match u.q.findIdx? (·.seq == seq) with
  | some i => (u.q[i]?).map fun c => (c.tid, c.liveWord i)
  | none => ((u.hist.reverse.find? fun e => e.1 == seq).map fun e => (e.2 / 2 ^ 64, e.2 % 2 ^ 64))

/-- The state word of a ticket of class 2 or 3, for a tenant's eyes only when `only` names one. -/
def State.cmdState (s : State) (t : Nat) (only : Option Nat) : Except Refuse Nat :=
  let unit := fld t 47 32
  let u : Option CmdQueue := match fld t 51 48 with
    | 2 => if unit < 64 then some (s.copyEngine unit).cmds else none
    | 3 => if unit < 8 then some (s.collEngine unit).cmds else none
    | _ => none
  match u.bind fun q => q.find (fld t 31 0) with
  | none => .error .notFound
  | some (tid, w) => if only.isSome && only != some tid then .error .notFound else .ok w

/-- A query form of a ticket class. -/
def queryForm (s : State) (t cls : Nat) : FormEnd :=
  if fld t 63 52 != 0 || fld t 51 48 != cls then refuse s .badArg
  else match s.cmdState t s.guestTid with
    | .ok w => .ret w s
    | .error e => refuse s e

/-- CPYQ. -/
def execCpyq (rd rs1 : BitVec 5) (s : State) : Host.Outcome State Fault Refusal :=
  .next (form s false (formWord (.cpyq rd rs1)) rd fun s => queryForm s (s.xreg rs1) 2)

/-! ### Units of a copy (R249, R373, R376) -/

/-- Destination element bytes, and positions in a unit, of a tensor copy. -/
def tsSize (b : List W64) : Nat := ((tlOf (tsType b)).map (·.width / 8)).getD 1
def tsPositions (b : List W64) : Nat := ((List.range 4).map (tsExt b)).foldl (· * ·) 1

def Cmd.src (c : Cmd) : List W64 := c.blocks.getD 0 []
def Cmd.dst (c : Cmd) : List W64 := c.blocks.getD 1 []

/-- Positions of a unit. -/
def Cmd.perUnit (c : Cmd) : Nat := 64 / tsSize c.dst

/-- Units of a copy. -/
def Cmd.totalUnits (c : Cmd) : Nat :=
  if c.kind = 3 then (wd c.c 6 + 63) / 64 else (tsPositions c.src + c.perUnit - 1) / c.perUnit

/-- Bytes that unit `u` counts as. -/
def Cmd.bytesOfUnit (c : Cmd) (u : Nat) : Nat :=
  if c.kind = 3 then min 64 (wd c.c 6 - 64 * u) else min c.perUnit (tsPositions c.src - c.perUnit * u) * tsSize c.dst

/-- Translate and check every piece of a range. -/
def State.cmdPieces (s : State) (q : QueueId) (c : Cmd) (size : Nat) (k : AKind) :
    List (Nat × Nat) → State × Except AccFault (List (Nat × Nat))
  | [] => (s, .ok [])
  | (va, n) :: r =>
    match s.cmdAcc q c (va % 2 ^ 64) size k with
    | (s1, .error f) => (s1, .error f)
    | (s1, .ok da) =>
      match State.cmdPieces s1 q c size k r with
      | (s2, .ok ds) => (s2, .ok ((da, n) :: ds))
      | (s2, .error f) => (s2, .error f)

def State.getPieces (s : State) (ds : List (Nat × Nat)) : List Byte := ds.flatMap fun d => s.memGet d.1 d.2
def State.psnPieces (s : State) (ds : List (Nat × Nat)) : Bool := ds.any fun d => s.memPsn d.1 d.2

/-- Write bytes over pieces. -/
def State.putPieces (s : State) : List (Nat × Nat) → List Byte → State
  | [], _ => s
  | (da, n) :: r, bs => State.putPieces (s.memPut da (bs.take n) false) r (bs.drop n)

/-- The poison of a source (R415). -/
def poisonFault : AccFault := { code := 0x31 }

/-- A unit of CPY: its bytes are read, then written. -/
def State.bytesUnit (s : State) (q : QueueId) (c : Cmd) : State × Option AccFault :=
  let off := 64 * c.units
  let n := c.bytesOfUnit c.units
  match s.cmdPieces q c 1 .read (piecesOf (wd c.c 4 + off) n) with
  | (s1, .error f) => (s1, some f)
  | (s1, .ok src) =>
    match s1.cmdPieces q c 1 .write (piecesOf (wd c.c 5 + off) n) with
    | (s2, .error f) => (s2, some f)
    | (s2, .ok dst) => if s2.psnPieces src then (s2, some poisonFault) else (s2.putPieces dst (s2.getPieces src), none)

/-- Coordinates of an iteration position, dimension 0 innermost. -/
def tsCoord (b : List W64) (p : Nat) : List Int :=
  [(p % tsExt b 0 : Nat), (p / tsExt b 0 % tsExt b 1 : Nat), (p / (tsExt b 0 * tsExt b 1) % tsExt b 2 : Nat),
    (p / (tsExt b 0 * tsExt b 1 * tsExt b 2) : Nat)]

/-- Addresses of the elements that a unit moves: those inside the destination. -/
def Cmd.unitElems (c : Cmd) : List (Nat × Nat) :=
  let from_ := c.perUnit * c.units
  (((List.range c.perUnit).map (from_ + ·)).filter fun p => decide (p < tsPositions c.src)).filterMap fun p =>
    let k := tsCoord c.src p
    if tsInside c.dst k then some (tsAddr c.src k, tsAddr c.dst k) else none

/-- The value of an element in the destination's type (R376). -/
def tsConvert (s d x : Nat) : Nat :=
  if s = d then x
  else match tlOf s, tlOf d with
    | some a, some b => (convLane b a .rne 0 x).1
    | _, _ => x

/-- Write or add one element. -/
def State.putElem (s : State) (c : Cmd) (src dst : Nat) : State :=
  let v := tsConvert (tsType c.src) (tsType c.dst) (ofBytes (s.memGet src (tsSize c.src)))
  if bitN (wd c.c 3) 0 then
    let t : AtomTy := match tsType c.dst with | 2 => .i32 | 5 => .n32 | 6 => .f16 | 7 => .b16 | _ => .f32
    ((s.atomicAt dst (if t.isInt then .add else .fadd) t v 0 false).1).count 2 2 { part := c.part, tid := c.tid } 1
  else s.memPut dst (toBytes (tsSize c.dst) v) false

/-- A unit of CPYT: all its elements are translated and checked, then moved (DESIGN CHOICE, log entry 57). -/
def State.elemsUnit (s : State) (q : QueueId) (c : Cmd) : State × Option AccFault :=
  let es := c.unitElems
  match s.cmdPieces q c (tsSize c.src) .read (es.map fun e => (e.1, tsSize c.src)) with
  | (s1, .error f) => (s1, some f)
  | (s1, .ok src) =>
    match s1.cmdPieces q c (tsSize c.dst) (if bitN (wd c.c 3) 0 then .atomic else .write) (es.map fun e => (e.2, tsSize c.dst)) with
    | (s2, .error f) => (s2, some f)
    | (s2, .ok dst) =>
      if s2.psnPieces src then (s2, some poisonFault)
      else ((src.zip dst).foldl (fun (a : State) p => a.putElem c p.1.1 p.2.1) s2, none)

/-- The head of the hand-off queue could have its next element written now (R377). -/
def State.mdrcReady (s : State) (n : Nat) : Bool :=
  match (s.copyEngine n).handoff with
  | (slot, x, y, c) :: _ => ((s.region slot).map fun r => r.acts x y (.drain x y c)).getD false
  | [] => false

/-- A command meets a fault (R249): 0x10 pauses it, or makes it wait for a pull (R388); every other fails it. -/
def State.cmdFault (s : State) (q : QueueId) (c : Cmd) (f : AccFault) : State :=
  match (if f.code = 0x10 then s.askPull c.asid f.info else none) with
  | some s1 => s1
  | none =>
    let s1 := s.cmdReport q c f.code f.det f.info
    s1.setHead q (if f.code = 0x10 then { c with paused := true } else c.failed f.code)

/-- COPY_UNIT (R249, R373, R376): the engine performs the next unit of its running command and credits the command's barrier. -/
def execCopyUnit (n : Nat) (s : State) : Host.Outcome State Fault Refusal :=
  .next (
    let q : QueueId := .copy n
    match (s.copyEngine n).cmds.q with
    | [] => s
    | c :: _ =>
      if !c.issued || c.done || c.paused || ((s.copyEngine n).turn && s.mdrcReady n) then s
      else match (if c.kind = 3 then s.bytesUnit q c else s.elemsUnit q c) with
        | (s1, some f) => s1.cmdFault q c f
        | (s1, none) =>
          let (s2, c1) := s1.sendBar q c false (c.bytesOfUnit c.units)
          let c2 := { c1 with units := c.units + 1, done := c1.done || decide (c.totalUnits ≤ c.units + 1) }
          ((s2.count 4 0 { part := c.part, tid := c.tid } 1).setHead q c2).modCopy n fun e => { e with turn := true })

end Sys2Proof.Machine
end

