-- ==== Sys2Proof/Machine/Colls.lean ====
section
/-! DEFINITION. Collective engines (09 R262; 13 R378 to R384): group descriptors, the start exchange, hop units with their fixed order of
additions, KV rotation, pauses and failures. The neighbours on other modules are the environment's: their units, acknowledgements and
headers come with the events. -/

namespace Sys2Proof.Machine

/-! ### Group descriptors (R378, R379) -/

def Cmd.grp (c : Cmd) : List W64 := c.blocks.getD 0 []
def Cmd.ranks (c : Cmd) : List W64 := c.blocks.getD 1 []
def gNr (g : List W64) : Nat := fld (wd g 0) 9 0 + 1
def gMyr (g : List W64) : Nat := fld (wd g 0) 25 16
def gNrl (g : List W64) : Nat := fld (wd g 0) 30 28
def gRelay (g : List W64) (i : Nat) : Nat := fld (wd g 4) (16 * i + 9) (16 * i)
def gHto (g : List W64) : Nat := if fld (wd g 5) 15 0 = 0 then 10 else fld (wd g 5) 15 0
def rankModule (t : List W64) (i : Nat) : Nat := fld (wd t i) 12 0
def rankStrip (t : List W64) (i : Nat) : Nat := fld (wd t i) 15 13

/-- Operation, partial type and count of a command (R262). -/
def Cmd.op (c : Cmd) : Nat := fld (wd c.c 7) 3 0
def Cmd.f32 (c : Cmd) : Bool := fld (wd c.c 7) 7 4 == 1
def Cmd.count (c : Cmd) : Nat := wd c.c 8

/-- Limits of a descriptor's own words for an operation. -/
def groupOk (g : List W64) (op : Nat) : Bool :=
  fld (wd g 0) 31 31 == 0 && fld (wd g 0) 27 26 == 0 && fld (wd g 0) 15 10 == 0 && decide (gNrl g ≤ 4) && decide (2 ≤ gNr g) &&
    fld (wd g 1) 63 52 == 0 && fld (wd g 2) 63 52 == 0 && fld (wd g 3) 63 52 == 0 &&
    fld (wd g 4) 15 10 == 0 && fld (wd g 4) 31 26 == 0 && fld (wd g 4) 47 42 == 0 && fld (wd g 4) 63 58 == 0 &&
    fld (wd g 5) 63 16 == 0 && wd g 6 == 0 && wd g 7 == 0 && (op == 0 || (wd g 2 == 0 && wd g 3 == 0)) &&
    decide (gMyr g < gNr g) && (List.range (gNrl g)).all fun i => decide (gRelay g i < gNr g)

/-- Addresses of a descriptor are aligned. -/
def groupAligned (g : List W64) : Bool := wd g 1 % 8 == 0 && wd g 2 % 8 == 0 && wd g 3 % 8 == 0

/-- The rank table: reserved bits clear, no two entries equal, entry MYR this module and strip. -/
def ranksOk (t : List W64) (nr myr xmod strip : Nat) : Bool :=
  decide (t.length = nr) && t.all (fun w => fld w.toNat 63 16 == 0) && t.Nodup && rankModule t myr == xmod && rankStrip t myr == strip

/-- Words of the block of an operation (R262, R380). -/
def collWordsOk (c : List W64) : Bool :=
  let op := fld (wd c 7) 3 0
  let ty := fld (wd c 7) 7 4
  let n := wd c 8
  wd c 3 == 0 && fld (wd c 7) 63 8 == 0 && (c.drop 9).all (· == 0) && decide (op ≤ 2) && decide (ty ≤ 1) && (op == 1 || ty == 0) &&
    (match op with
     | 0 => n % 64 == 0 && decide (64 ≤ n) && decide (n ≤ 2 ^ 32)
     | 1 => n % 32 == 0 && decide (32 ≤ n) && decide (n ≤ 2 ^ 31)
     | _ => n % 64 == 0)

/-- The descriptor with its rank table, one control block (R264, R378). -/
def State.takeGroup (s : State) (part asid va : Nat) : State × Except AccFault (List W64 × List W64) :=
  match s.takeBlock part asid va 64 with
  | (s1, .error f) => (s1, .error f)
  | (s1, .ok g) =>
    let n := 8 * gNr g
    let held := (look s1.cbcache (va, part * 4096 + asid)).getD []
    if 64 + n ≤ held.length then (s1, .ok (g, words64 (gNr g) (held.drop 64)))
    else match s1.vaRead (some part) (some part) asid .control (piecesOf (wd g 1) n) with
      | (s2, .error f) => (s2, .error f)
      | (s2, .ok (bs, psn)) =>
        if psn then (s2, .error { code := 0x31, info := wd g 1 }) else
        ({ s2 with cbcache := insertKV s2.cbcache (va, part * 4096 + asid) (held.take 64 ++ bs) }, .ok (g, words64 (gNr g) bs))

/-- Check a collective (R262, R379, R380). -/
def State.checkColl (s : State) (u : Asker) (c : List W64) (sel : Nat) : Ready :=
  let asid := fld (wd c 0) 39 28
  let (a, b) := s.partRange u.part
  match headerRefuse c 5 false with
  | some e => .refused s e
  | none =>
    if 8 ≤ sel || sel < a || b < sel || !collWordsOk c then .refused s .badArg
    else if wd c 5 % 64 != 0 || wd c 6 % 64 != 0 then .refused s .align
    else if !s.mayUse u asid then .refused s .denied
    else match s.takeGroup u.part asid (wd c 4) with
      | (s1, .error f) => (Ready.fault s1 f).keep s
      | (s1, .ok (g, t)) =>
        (if !groupOk g (fld (wd c 7) 3 0) then Ready.refused s1 .badArg
         else if !groupAligned g then Ready.refused s1 .align
         else if !ranksOk t (gNr g) (gMyr g) s1.xlat.xmod sel then Ready.refused s1 .badArg
         else s1.queueReady (.coll sel) { kind := 5, c := c, seq := 0, hart := u.hart, tid := u.tid, asid := asid, part := u.part,
                                          pkt := u.pkt, blocks := [g, t] }).keep s

/-- COLL (R262). -/
def execColl (rd rs1 rs2 : BitVec 5) (s : State) : Host.Outcome State Fault Refusal :=
  .next (form s false (formWord (.coll rd rs1 rs2)) rd fun s =>
    let va := s.xreg rs1
    let sel := s.xreg rs2
    if va % 128 != 0 then refuse s .align
    else withBlock s false va 128 fun s c => (s.checkColl s.askHart c sel).formEnd)

/-- COLLQ (R263). -/
def execCollq (rd rs1 : BitVec 5) (s : State) : Host.Outcome State Fault Refusal :=
  .next (form s false (formWord (.collq rd rs1)) rd fun s => queryForm s (s.xreg rs1) 3)

/-! ### The ring -/

/-- Hop units of a chunk or block, and of the whole hop. -/
def Cmd.hopUnits (c : Cmd) : Nat := if c.op = 1 then (if c.f32 then c.count / 16 else c.count / 32) else c.count / 64
def Cmd.hopTotal (c : Cmd) : Nat := (gNr c.grp - 1) * c.hopUnits

/-- The rank `k` places after this one, or before it. -/
def Cmd.rankAfter (c : Cmd) (k : Nat) : Nat := (gMyr c.grp + k) % gNr c.grp
def Cmd.rankBefore (c : Cmd) (k : Nat) : Nat := (gMyr c.grp + gNr c.grp * (k + 1) - k) % gNr c.grp

/-- The header of this engine's start exchange (R379). -/
def Cmd.header (c : Cmd) : CollHdr :=
  { gid := fld (wd c.grp 0) 63 32, nr := gNr c.grp, op := c.op, ptype := fld (wd c.c 7) 7 4, c8 := c.count }

/-- The running command of a strip's engine. -/
def State.collCmd (s : State) (k : Nat) : Option Cmd :=
  (s.collEngine k).cmds.q.head?.filter fun c => c.issued && !c.done && !c.paused

/-- The engine of a rank on this module. -/
def State.localRank (s : State) (c : Cmd) (i : Nat) : Option CollEngine :=
  if rankModule c.ranks i = s.xlat.xmod then some (s.collEngine (rankStrip c.ranks i)) else none

/-- The command at the head of a strip's engine has started and not ended; it may be paused (R384). -/
def State.collHead (s : State) (k : Nat) : Option Cmd := (s.collEngine k).cmds.q.head?.filter fun c => c.issued && !c.done

/-- The engine of a rank on this module has its command paused: it tells its neighbours, and HTO does not count against the hop (R384). -/
def State.rankPaused (s : State) (c : Cmd) (i : Nat) : Bool :=
  rankModule c.ranks i == s.xlat.xmod && ((s.collHead (rankStrip c.ranks i)).map (·.paused)).getD false

/-- The header of a neighbour (R379): the one that its engine has sent, on this module; else the one that came with the event. `after` is 1 for the
rank after this one. -/
def State.rankHeader (s : State) (k : Nat) (c : Cmd) (i after : Nat) (given : CollHdr) : Option CollHdr :=
  if rankModule c.ranks i = s.xlat.xmod then look (s.collEngine k).hdrs (2 * rankStrip c.ranks i + after) else some given

/-- A message of a collective engine goes to the module of a rank (R383, R384). -/
def State.tellRank (s : State) (c : Cmd) (i n : Nat) : State :=
  let m := rankModule c.ranks i
  if m = s.xlat.xmod then s else s.sendTo { part := c.part, tid := c.tid, mod := m, kind := 1 } n

/-- The engine sends its header to both neighbours, once for a command (R379). -/
def State.tellHeader (s : State) (k : Nat) (c : Cmd) : State :=
  if (s.collEngine k).told then s
  else
    let one (a : State) (i after : Nat) : State :=
      if rankModule c.ranks i = s.xlat.xmod then a.modColl (rankStrip c.ranks i) fun e => { e with hdrs := insertKV e.hdrs (2 * k + after) c.header }
      else a.tellRank c i 64
    (one (one s (c.rankBefore 1) 1) (c.rankAfter 1) 0).modColl k fun e => { e with told := true }

/-- The headers of both neighbours are used up. -/
def State.dropHeaders (s : State) (k : Nat) (c : Cmd) : State :=
  s.modColl k fun e => { e with hdrs := eraseKV (eraseKV e.hdrs (2 * rankStrip c.ranks (c.rankBefore 1))) (2 * rankStrip c.ranks (c.rankAfter 1) + 1) }

/-- The engine of a rank on this module runs the same collective, its headers exchanged. -/
def State.sameColl (s : State) (c : Cmd) (i : Nat) : Bool :=
  (s.collEngine (rankStrip c.ranks i)).exchanged && (s.collHead (rankStrip c.ranks i)).map (·.header) == some c.header

/-- The way of the hop to the next rank (R383): the module its units are sent to, itself or the first relay rank's that a lane group leads to,
and that lane group; none within the module. -/
def State.hopPath (s : State) (c : Cmd) : Option (Nat × Option Nat) :=
  let m := rankModule c.ranks (c.rankAfter 1)
  if m = s.xlat.xmod then some (m, none)
  else (m :: (List.range (gNrl c.grp)).map fun i => rankModule c.ranks (gRelay c.grp i)).findSome? fun k =>
    (s.groupToward c.part k).map fun g => (k, some g)

/-- A unit goes out on its hop's lane group. -/
def State.sendHop (s : State) (k : Nat) (c : Cmd) : State :=
  match s.hopPath c with
  | some (m, some g) => (s.sendBytes { part := c.part, tid := c.tid, mod := m, kind := 1 } g 64).modColl k fun e => { e with via := some g }
  | _ => s

/-- The lane group of a hop is lost: the units not acknowledged are sent again over the path that is left, and HTO counts from then (R383, R393);
with no path left the command fails. -/
def State.rerouteColl (s : State) (g k : Nat) : State :=
  match s.collHead k with
  | none => s
  | some c =>
    let e := s.collEngine k
    let hit := (e.via.map fun v => v == g || (s.subLink g).contains v).getD false
    if !hit || e.unacked.isEmpty then s
    else if (s.hopPath c).isNone then (s.cmdReport (.coll k) c 0x60 0 0).setHead (.coll k) (c.failed 0x60)
    else (e.unacked.foldl (fun (a : State) _ => a.sendHop k c) s).modColl k fun e => { e with lastOut := s.ns }

/-- A collective meets a fault; one that pauses it is told to its neighbours on other modules (R384). -/
def State.collFault (s : State) (k : Nat) (c : Cmd) (f : AccFault) : State :=
  let s1 := s.cmdFault (.coll k) c f
  if f.code = 0x10 then (s1.tellRank c (c.rankBefore 1) 1).tellRank c (c.rankAfter 1) 1 else s1

/-- A paused collective goes on: its hops, and its neighbours' hops with it, count their time from here, and neighbours on other modules are told
(R384). -/
def State.resumeHops (s : State) (k : Nat) (c : Cmd) : State :=
  let near (a : State) (i : Nat) (f : CollEngine → CollEngine) : State :=
    if rankModule c.ranks i = s.xlat.xmod then (if s.sameColl c i then a.modColl (rankStrip c.ranks i) f else a) else a.tellRank c i 1
  let s1 := s.modColl k fun e => { e with lastIn := s.ns, lastOut := s.ns }
  near (near s1 (c.rankBefore 1) fun e => { e with lastOut := s.ns }) (c.rankAfter 1) fun e => { e with lastIn := s.ns }

/-- A neighbour on another module says that it is paused, or that it goes on (R384). -/
def State.pauseTold (s : State) (k : Nat) (after on : Bool) : State :=
  s.modColl k fun e =>
    if after then { e with outPaused := on, lastOut := if on then e.lastOut else s.ns }
    else { e with inPaused := on, lastIn := if on then e.lastIn else s.ns }

/-! ### Own buffers -/

/-- Read bytes of a command's space, with poison. -/
def State.cmdRead (s : State) (q : QueueId) (c : Cmd) (va n : Nat) : State × Except AccFault (List Byte) :=
  match s.cmdPieces q c 1 .read (piecesOf va n) with
  | (s1, .error f) => (s1, .error f)
  | (s1, .ok ds) => (s1, if s1.psnPieces ds then .error poisonFault else .ok (s1.getPieces ds))

/-- Write bytes of a command's space, after every piece has passed. -/
def State.cmdWrite (s : State) (q : QueueId) (c : Cmd) (va : Nat) (bs : List Byte) : State × Option AccFault :=
  match s.cmdPieces q c 1 .write (piecesOf va bs.length) with
  | (s1, .error f) => (s1, some f)
  | (s1, .ok ds) => (s1.putPieces ds bs, none)

/-- Elements of a hop unit of reduce-scatter. -/
def Cmd.perHop (c : Cmd) : Nat := if c.f32 then 16 else 32

/-- B16 codes of bytes. -/
def codes16 (bs : List Byte) : List Nat := (List.range (bs.length / 2)).map fun i => ofBytes ((bs.drop (2 * i)).take 2)
def codes32 (bs : List Byte) : List Nat := (List.range (bs.length / 4)).map fun i => ofBytes ((bs.drop (4 * i)).take 4)

/-- A partial from a B16 element: itself, or widened exactly (R381). -/
def partialOf (f32 : Bool) (x : Nat) : Nat := if f32 then x * 65536 else x

/-- One addition of a partial and an element (R381). -/
def addPartial (f32 : Bool) (p x : Nat) : Nat :=
  if f32 then (fpF32.addV (fpF32.decode p) (fpF32.decode (x * 65536))).1 else (fpB16.addV (fpB16.decode p) (fpB16.decode x)).1

/-- The result of a partial (R381). -/
def resultOf (f32 : Bool) (p : Nat) : Nat := if f32 then (fpB16.fromFp .rne 0 (fpF32.decode p)).1 else p

def bytesOfCodes (n : Nat) (l : List Nat) : List Byte := l.flatMap (toBytes n)

/-- Address of unit `j` of chunk `r` of this rank's send buffer of reduce-scatter. -/
def Cmd.chunkAddr (c : Cmd) (r j : Nat) : Nat := wd c.c 5 + 2 * c.count * r + 2 * c.perHop * j

/-! ### Sending -/

/-- The bytes of outgoing unit `n`, when they are there (R380 to R382). -/
def State.outgoing (s : State) (k : Nat) (c : Cmd) (n : Nat) : State × Except AccFault (Option (List Byte)) :=
  let e := s.collEngine k
  let u := c.hopUnits
  let t := n / u
  let j := n % u
  let get (va len : Nat) (f : List Byte → List Byte) : State × Except AccFault (Option (List Byte)) :=
    match s.cmdRead (.coll k) c va len with
    | (s1, .ok bs) => (s1, .ok (some (f bs)))
    | (s1, .error g) => (s1, .error g)
  match c.op with
  | 0 =>
    if t = 0 then get (wd c.c 5 + 64 * j) 64 id
    else if t < e.step then get (wd c.c 6 + c.count * (t % 2) + 64 * j) 64 id
    else (s, .ok none)
  | 1 =>
    if t = 0 then get (c.chunkAddr (c.rankBefore 1) j) (2 * c.perHop) fun bs =>
      if c.f32 then bytesOfCodes 4 ((codes16 bs).map (partialOf true)) else bs
    else (s, .ok (look e.relayed n))
  | _ => if t = 0 then get (wd c.c 5 + 64 * j) 64 id else (s, .ok (look e.relayed n))

/-- Bytes delivered to the receive buffer: counted, credited and reported by the ticket. -/
def State.delivered (s : State) (k : Nat) (c : Cmd) (bytes : Nat) : State × Cmd :=
  let e := s.collEngine k
  let s1 := (s.count 4 0 { part := c.part, tid := c.tid } ((e.bytes + bytes) / 64 - e.bytes / 64)).modColl k fun e => { e with bytes := e.bytes + bytes }
  let (s2, c2) := s1.sendBar (.coll k) c false bytes
  (s2, { c2 with units := (e.bytes + bytes) / 64 })

/-- The command has ended: everything received, sent and acknowledged. -/
def State.collEnd (s : State) (k : Nat) : State :=
  match s.collCmd k with
  | none => s
  | some c =>
    let e := s.collEngine k
    let got := if c.op = 0 then decide (gNr c.grp ≤ e.step) else decide (c.hopTotal ≤ e.nextRecv)
    if got && decide (c.hopTotal ≤ e.nextSend) && e.unacked.isEmpty then s.setHead (.coll k) { c with done := true } else s

/-- Send units while they are there and fewer than 64 wait for their acknowledgement (DESIGN CHOICE, log entry 59). -/
def State.pump (s : State) (k : Nat) : Nat → State
  | 0 => s
  | fuel + 1 =>
    match s.collCmd k with
    | none => s
    | some c =>
      let e := s.collEngine k
      let n := e.nextSend
      if !e.exchanged || c.hopTotal ≤ n || 64 ≤ e.unacked.length then s
      else if (s.hopPath c).isNone then s.collFault k c { code := 0x60 }
      else match s.outgoing k c n with
        | (s1, .error f) => s1.collFault k c f
        | (s1, .ok none) => s1
        | (s1, .ok (some bs)) =>
          let own := c.op == 2 && decide (n < c.hopUnits)
          match (if own then s1.cmdWrite (.coll k) c (wd c.c 6 + c.count * gMyr c.grp + 64 * n) bs else (s1, none)) with
          | (s2, some f) => s2.collFault k c f
          | (s2, none) =>
            let s3 := s2.modColl k fun e =>
              { e with unacked := e.unacked ++ [(n, bs)], nextSend := n + 1, relayed := e.relayed.filter fun p => p.1 != n
                       lastOut := if e.unacked.isEmpty then s.ns else e.lastOut }
            let s4 := if own then (let (a, c1) := s3.delivered k c 64; a.setHead (.coll k) c1) else s3
            State.pump (s4.sendHop k c) k fuel

/-- What follows any progress of an engine: it sends on, and ends when nothing is left. -/
def State.goOn (s : State) (k : Nat) : State := (s.pump k 64).collEnd k

/-- COLL_START_EXCHANGE (R379): the engine sends its header to both neighbours, and theirs are compared with it, once both have come. -/
def execCollStartExchange (k : Nat) (prev next : CollHdr) (s : State) : Host.Outcome State Fault Refusal :=
  .next (match s.collCmd k with
    | none => s
    | some c =>
      if (s.collEngine k).exchanged then s
      else
        let s0 := s.tellHeader k c
        match s0.rankHeader k c (c.rankBefore 1) 0 prev, s0.rankHeader k c (c.rankAfter 1) 1 next with
        | some p, some n =>
          let s1 := s0.dropHeaders k c
          if p = c.header ∧ n = c.header then
            (s1.modColl k fun e => { e with exchanged := true, lastIn := s.ns, lastOut := s.ns }).goOn k
          else s1.collFault k c { code := 1, det := 1 }
        | _, _ => s0)

/-! ### Receiving (R381 to R383) -/

/-- Take the next hop unit: what it writes or passes on. -/
def State.takeUnit (s : State) (k : Nat) (c : Cmd) (n : Nat) (unit : List Byte) : State × Except AccFault Cmd :=
  let q : QueueId := .coll k
  let u := c.hopUnits
  let t := n / u
  let j := n % u
  let last := n + u ≥ c.hopTotal
  let next (s1 : State) (out : Option (List Byte)) (add : List Byte) : State :=
    s1.modColl k fun e => { e with nextRecv := n + 1, lastIn := s.ns, incoming := e.incoming ++ add
                                   relayed := match out with | some bs => e.relayed ++ [(n + u, bs)] | none => e.relayed }
  match c.op with
  | 0 => (next s none unit, .ok c)
  | 1 =>
    match s.cmdRead q c (c.chunkAddr (c.rankBefore (t + 2)) j) (2 * c.perHop) with
    | (s1, .error f) => (s1, .error f)
    | (s1, .ok own) =>
      let ps := if c.f32 then codes32 unit else codes16 unit
      let sums := (ps.zip (codes16 own)).map fun p => addPartial c.f32 p.1 p.2
      if last then
        match s1.cmdWrite q c (wd c.c 6 + 2 * c.perHop * j) (bytesOfCodes 2 (sums.map (resultOf c.f32))) with
        | (s2, some f) => (s2, .error f)
        | (s2, none) => let (s3, c1) := (next s2 none []).delivered k c (2 * c.perHop); (s3, .ok c1)
      else (next s1 (some (bytesOfCodes (if c.f32 then 4 else 2) sums)) [], .ok c)
  | _ =>
    match s.cmdWrite q c (wd c.c 6 + c.count * c.rankBefore (t + 1) + 64 * j) unit with
    | (s1, some f) => (s1, .error f)
    | (s1, none) => let (s2, c1) := (next s1 (if last then none else some unit) []).delivered k c 64; (s2, .ok c1)

/-- The acknowledgement of a unit goes to the rank before (R383). -/
def State.ackHop (s : State) (c : Cmd) (n : Nat) : State :=
  let i := c.rankBefore 1
  if rankModule c.ranks i = s.xlat.xmod then s.modColl (rankStrip c.ranks i) fun e => { e with acks := e.acks ++ [n] } else s.tellRank c i 1

/-- COLL_HOP_UNIT (R383): the next unit of the previous rank is taken once there is room, and acknowledged; a number already taken is discarded. -/
def execCollHopUnit (k n : Nat) (unit : List Byte) (s : State) : Host.Outcome State Fault Refusal :=
  .next (match s.collCmd k with
    | none => s
    | some c =>
      let e := s.collEngine k
      let real := match s.localRank c (c.rankBefore 1) with
        | some p => s.sameColl c (c.rankBefore 1) && look p.unacked n == some unit
        | none => true
      let room := if c.op = 0 then decide (e.incoming.length < c.count) else decide (e.relayed.length < 64)
      if !e.exchanged || n != e.nextRecv || c.hopTotal ≤ n || unit.length != 64 || !real || !room then s
      else match s.takeUnit k c n unit with
        | (s1, .error f) => s1.collFault k c f
        | (s1, .ok c1) => ((s1.setHead (.coll k) c1).ackHop c n).goOn k)

/-- COLL_HOP_ACK (R383): an acknowledged unit is kept no longer. -/
def execCollHopAck (k n : Nat) (s : State) : Host.Outcome State Fault Refusal :=
  .next (match (s.collEngine k).cmds.q.head? with
    | none => s
    | some c =>
      let real := (s.localRank c (c.rankAfter 1)).isNone || (s.collEngine k).acks.contains n
      if !real || (look (s.collEngine k).unacked n).isNone then s
      else (s.modColl k fun e => { e with unacked := eraseKV e.unacked n, acks := e.acks.erase n, lastOut := s.ns }).goOn k)

/-- The lane group that a hop goes over is due to be lost (R406), so that the hop is rerouted first (R393). -/
def State.hopLossDue (s : State) (e : CollEngine) : Bool :=
  (e.via.map fun g => (g :: s.subLink g).any fun h => ((look s.groups h).map fun lg => lg.lst == 2 && !lg.unacked.isEmpty && decide (lg.ackAt + 100000 ≤ s.ns)).getD false).getD false

/-- COLL_HOP_TIMEOUT (R383, R384, R393): a hop without progress for HTO fails the command, unless the neighbour is paused or a lane group of the
hop is lost in this fc (DEDUCED, log entry 60). -/
def execCollHopTimeout (k : Nat) (s : State) : Host.Outcome State Fault Refusal :=
  .next (match s.collCmd k with
    | none => s
    | some c =>
      let e := s.collEngine k
      let limit := gHto c.grp * 1000000
      let inLate := decide (e.nextRecv < c.hopTotal) && decide (e.lastIn + limit ≤ s.ns) && !s.rankPaused c (c.rankBefore 1) && !e.inPaused
      let outLate := !e.unacked.isEmpty && decide (e.lastOut + limit ≤ s.ns) && !s.rankPaused c (c.rankAfter 1) && !e.outPaused && !s.hopLossDue e
      if e.exchanged && (inLate || outLate) then s.collFault k c { code := 0x60 } else s)

/-- KV_STEP_WRITE (R382): the whole incoming block of step s goes to slot s mod 2 once this rank's send of step s − 1 has read that slot
and the consumer has freed it; then STEPC rises. -/
def execKvStepWrite (k : Nat) (s : State) : Host.Outcome State Fault Refusal :=
  .next (match s.collCmd k with
    | none => s
    | some c =>
      let q : QueueId := .coll k
      let e := s.collEngine k
      let st := e.step
      if c.op != 0 || gNr c.grp ≤ st || e.incoming.length < c.count || e.nextSend < (st - 1) * c.hopUnits then s
      else match s.cmdAcc q c (wd c.grp 3) 8 .read with
        | (s1, .error f) => s1.collFault k c f
        | (s1, .ok da) =>
          if s1.memPsn da 8 then s1.collFault k c poisonFault
          else if ofBytes (s1.memGet da 8) + 2 < st then s1
          else match s1.cmdAcc q c (wd c.grp 2) 8 .atomic with
            | (s2, .error f) => s2.collFault k c f
            | (s2, .ok step) =>
              match s2.cmdWrite q c (wd c.c 6 + c.count * (st % 2)) e.incoming with
              | (s3, some f) => s3.collFault k c f
              | (s3, none) =>
                let s4 := ((s3.atomicAt step .add .n64 1 0 false).1).modColl k fun e => { e with step := st + 1, incoming := [], lastIn := s.ns }
                let (s5, c1) := s4.delivered k c c.count
                (s5.setHead q c1).goOn k)

end Sys2Proof.Machine
end

