-- ==== Sys2Proof/Machine/Profile.lean ====
section
/-! DEFINITION. Counter banks, traces, the disclosure policy and the journal's reader (09 R266 to R270; 16 R427 to R434, R439 to R447): the
control-core forms, the trace unit, the Hardpan core's check of policies, and the release instants. -/

namespace Sys2Proof.Machine

/-! ### Release instants (R444) -/

/-- A granularity's release instant for a tenant's work in a partition falls in the present fc: a multiple of 1 ms or of the partition's slice has been
reached, or a region of the tenant has ended (R336, R444). -/
def State.instantOf (s : State) (part tid tim : Nat) : Bool :=
  match tim with
  | 0 => true
  | 1 => decide (s.lastNs / 1000000 < s.ns / 1000000)
  | 2 => decide (s.lastNs / s.sliceNs part < s.ns / s.sliceNs part)
  | _ => s.jobEnds.contains tid

/-- The partitions that list a tenant; the first one when none does. -/
def State.partsOf (s : State) (tid : Nat) : List Nat :=
  match (List.range 8).filter fun p => (s.tenants p).contains tid with
  | [] => [0]
  | l => l

/-- A release instant of a tenant in one partition, under its policy. -/
def State.instantIn (s : State) (part tid : Nat) : Bool := s.instantOf part tid (s.tim tid)

/-- A granularity's release instant for a tenant, in one of its partitions. -/
def State.instantAny (s : State) (tid tim : Nat) : Bool := (s.partsOf tid).any fun p => s.instantOf p tid tim

def State.instantNow (s : State) (tid : Nat) : Bool := s.instantAny tid (s.tim tid)

/-- One counter at an instant: a clear that waits, then the release, then the binding takes effect (R445). -/
def Counter.release (c : Counter) : Counter :=
  let live := if c.clear then 0 else c.live
  { c with live := live, released := live, clear := false, counting := true }

/-- Release the counters of a bank whose tenants all have an instant. -/
def CtrBank.release (b : CtrBank) (now : Nat → Bool) : CtrBank :=
  { b with ctrs := b.ctrs.map fun c => if c.tids.all now then c.release else c }

/-- A policy that waits takes effect at an instant of the coarser of the old and the new one (R441). -/
def State.timOf (body : List W64) : Nat := fld (wd body 2) 6 4

def Policy.settle (p : Policy) (now : Nat → Nat → Bool) : Policy :=
  match p.pending with
  | some q => if now p.tid (max (State.timOf p.body) (State.timOf q)) then { p with body := q, pending := none, ord := p.pendOrd } else p
  | none => p

/-- RELEASE_INSTANT (R444, R445): at an instant of a tenant's granularity, clears and bindings that wait apply, counters copy their released
values, and policies that wait take effect. -/
def execReleaseInstant (tid : Nat) (s : State) : Host.Outcome State Fault Refusal :=
  .next (
    if !s.instantNow tid then s
    else
      { s with banks := s.banks.map fun b => b.release (s.instantIn b.part)
               policies := s.policies.map fun p => p.settle s.instantAny })

/-! ### Counter banks (R266, R267, R427 to R430) -/

/-- Finest scope of a catalogue event; none when it is absent (R428). -/
def finestScope (cls evt : Nat) : Option Nat :=
  match cls with
  | 1 => if evt ≤ 4 then some 0 else none
  | 2 => if evt ≤ 1 then some 0 else if evt ≤ 3 then some 2 else none
  | 3 => if evt ≤ 1 then some 3 else none
  | 4 => if evt = 0 then some 3 else none
  | 5 => if evt = 0 then some 0 else if evt = 1 then some 3 else none
  | 6 => if evt = 0 then some 3 else none
  | 7 => if evt = 0 then some 3 else none
  | _ => none

/-- The operator may read a class at partition scope: each tenant of the partition that has banks reserved lets it be summed, by its AGG (R440, R443). -/
def State.aggregates (s : State) (part cls : Nat) : Bool :=
  (s.tenants part).all fun t => fld (s.policyWord t 2) 63 48 == 0 || bitN (s.policyWord t 3) cls

/-- The refusal of an event name, for a tenant's view or the operator's (R266, R428, R443) (DEDUCED, log entry 78). -/
def State.eventRefuse (s : State) (view : Option Nat) (part : Nat) (w : W64) : Option Refuse :=
  let n := w.toNat
  let scp := fld n 43 41
  if n = 0 then none
  else if fld n 40 24 != 0 || 4 ≤ scp || (scp != 0 && fld n 23 21 != 0) || (2 ≤ scp && fld n 20 9 != 0) || (scp == 3 && fld n 8 0 != 0) then some .badArg
  else match finestScope (fld n 63 56) (fld n 55 44) with
    | none => some .absent
    | some f =>
      if scp < f then some .badArg
      else if scp = 3 then (if view.isNone && !s.aggregates part (fld n 63 56) then some .denied else none)
      else match s.region (fld n 8 0) with
        | none => some .badArg
        | some r =>
          match view with
          | some t => if r.tid = t then none else some .denied
          | none => if r.part != part then some .denied else if scp < s.spc r.tid then some .denied else none

/-- The tenant whose policy reserves a bank of a partition: of those in force, the one installed first (R441). -/
def State.bankOwner (s : State) (part bank : Nat) : Option Nat :=
  match s.policies.filter fun p => (s.tenants part).contains p.tid && s.rsvBank p.tid bank with
  | [] => none
  | p :: l => some (l.foldl (fun a q => if q.ord < a.ord then q else a) p).tid

def State.findBank (s : State) (part bank : Nat) : Option CtrBank := s.banks.find? fun b => b.part == part && b.bank == bank

/-- Tenants whose work a name's scope holds as it is bound. -/
def State.scopeTids (s : State) (part : Nat) (n : Nat) : List Nat :=
  if fld n 43 41 = 3 then ((s.regions.filter fun p => p.2.part == part && p.2.state.holdsTiles).map fun p => p.2.tid).eraseDups
  else match s.region (fld n 8 0) with
    | some r => [r.tid]
    | none => []

/-- A counter as it is bound: a tenant's view counts at once, the operator's from the next instant, which under TIM 0 is now (R445). -/
def State.bindCounter (s : State) (view : Option Nat) (part : Nat) (w : W64) : Counter :=
  let tids := match view with
    | some t => [t]
    | none => s.scopeTids part w.toNat
  { event := w, tids := tids, counting := view.isSome || tids.all (s.instantIn part) }

/-- The bank that a selector of the current hart is bound to. -/
def State.selBank (s : State) (sel : Nat) : Option CtrBank :=
  ((s.hart s.cur).cb.getD sel none).bind fun b => s.findBank (s.hartPart s.cur) b

/-- Free a bank of a partition and every selector bound to it. -/
def State.freeBank (s : State) (part bank : Nat) : State :=
  { s with banks := s.banks.filter fun b => !(b.part == part && b.bank == bank)
           harts := s.harts.mapIdx fun h c => if s.hartPart h = part then { c with cb := c.cb.map fun x => if x = some bank then none else x } else c }

/-- A guest may use only a bank of its tenant (R242). -/
def State.bankDenied (s : State) (b : CtrBank) : Bool :=
  match s.guestTid with
  | some t => b.tid != some t
  | none => false

/-- A request of the operator waits to the end of its fc, for a guest's of the same fc goes before it (R266): one that waits in this fc gives way to a
guest. -/
def State.yields (s : State) (prov : Bool) (fc : Nat) : Bool := s.guestTid.isSome && prov && fc == s.fc

/-- The bank of a partition is held by another party, which does not give way. -/
def State.bankHeld (s : State) (part bank : Nat) : Bool :=
  ((s.findBank part bank).map fun b => if b.prov then s.guestTid.isSome && b.fc != s.fc else b.tid != s.guestTid) == some true

/-- The request of the current hart that waits for a bank. -/
def State.bankClaim (s : State) : Option CtrBank := s.banks.find? fun b => b.prov && b.hart == s.cur

/-- The current hart's request is over. -/
def State.dropBankClaim (s : State) : State := { s with banks := s.banks.filter fun b => !(b.prov && b.hart == s.cur) }

/-- A bank is bound to a selector of the current hart; the selector's bank of before is free. -/
def State.grantBank (s : State) (part bank sel : Nat) (ev : List W64) : State :=
  let s1 := match s.selBank sel with
    | some b => s.freeBank part b.bank
    | none => s
  let s2 := s1.freeBank part bank
  let b : CtrBank := { part := part, bank := bank, tid := s.guestTid, hart := s.cur, ctrs := ev.map (s.bindCounter s.guestTid part), fc := s.fc }
  ({ s2 with banks := s2.banks ++ [b] } : State).modHart s.cur fun c => { c with cb := upd c.cb sel fun _ => some bank }

/-- A bank that is free, or gives way, goes to a guest at once; to the operator when the fc of its request has passed (R266) (DEDUCED, log entry 109). -/
def State.askBank (s : State) (claim : Option CtrBank) (part bank sel : Nat) (ev : List W64) : FormEnd :=
  let own := match s.findBank part bank with
    | some b => !b.prov
    | none => false
  if s.guestTid.isSome || own then .ret 0 (s.grantBank part bank sel ev)
  else match claim with
    | some b =>
      if b.fc < s.fc ∧ b.bank = bank ∧ b.part = part then .ret 0 (s.grantBank part bank sel ev)
      else ({ s with banks := s.banks ++ [b] } : State).holdForm
    | none =>
      if (s.findBank part bank).isSome then s.holdForm
      else ({ s with banks := s.banks ++ [{ part := part, bank := bank, tid := none, hart := s.cur, ctrs := [], fc := s.fc, prov := true }] } : State).holdForm

/-- CTRSEL (R266). -/
def execCtrsel (rd rs1 rs2 : BitVec 5) (s : State) : Host.Outcome State Fault Refusal :=
  .next (form s false (formWord (.ctrsel rd rs1 rs2)) rd fun s0 =>
    let s := s0.dropBankClaim
    let w := s.xreg rs1
    let sel := fld w 3 0
    let bank := fld w 7 4
    let part := s.hartPart s.cur
    if 512 ≤ w then refuse s .badArg
    else if bitN w 8 then
      match s.selBank sel with
      | none => .ret 0 s
      | some b => if s.bankDenied b then refuse s .denied else .ret 0 (s.freeBank part b.bank)
    else withBlock s false (s.xreg rs2) 256 fun s ev =>
      match ev.findSome? (s.eventRefuse s.guestTid part) with
      | some e => refuse s e
      | none =>
        let reserved := s.bankOwner part bank
        if reserved.isSome && reserved != s.guestTid then refuse s .busy
        else if s.bankHeld part bank then refuse s .busy
        else if ((s.selBank sel).map s.bankDenied).getD false then refuse s .denied
        else s.askBank s0.bankClaim part bank sel ev)

/-- Replace a bank. -/
def State.setBank (s : State) (b : CtrBank) : State :=
  { s with banks := s.banks.map fun x => if x.part == b.part && x.bank == b.bank then b else x }

/-- The bank status word (R430). -/
def CtrBank.status (b : CtrBank) : Nat := put 62 62 (b2n b.mig) + put 47 32 b.scat + b.abs.toNat

/-- What a reader gets of a counter (R429, R442, R444, R448): the live value in a tenant's view; in the operator's the released value, which in the fc
of a release instant is the one released in that fc. -/
def State.readCounter (s : State) (b : CtrBank) (i : Nat) : State × Nat :=
  let c := b.ctrs.getD i {}
  if s.guestTid.isSome then (s, fld c.live 62 0)
  else if c.tids.all (s.instantIn b.part) then
    (s.setBank { b with ctrs := upd b.ctrs i Counter.release }, fld c.release.released 62 0)
  else (s, fld c.released 62 0)

/-- CTRRD (R267, R430). -/
def execCtrrd (rd rs1 : BitVec 5) (s : State) : Host.Outcome State Fault Refusal :=
  .next (form s false (formWord (.ctrrd rd rs1)) rd fun s =>
    let w := s.xreg rs1
    if 1024 ≤ w then refuse s .badArg
    else match s.selBank (fld w 3 0) with
      | none => refuse s .badArg
      | some b =>
        if s.bankDenied b then refuse s .denied
        else if bitN w 9 then .ret b.status (s.setBank { b with mig := false })
        else if bitN b.abs.toNat (fld w 8 4) then refuse s .absent
        else let (s1, v) := s.readCounter b (fld w 8 4); .ret v s1)

/-- CTRCLR (R267, R445): at once in a tenant's view and under TIM 0; else at the next instant. -/
def execCtrclr (rd rs1 : BitVec 5) (s : State) : Host.Outcome State Fault Refusal :=
  .next (form s false (formWord (.ctrclr rd rs1)) rd fun s =>
    let w := s.xreg rs1
    if 16 ≤ w then refuse s .badArg
    else match s.selBank w with
      | none => refuse s .badArg
      | some b =>
        if s.bankDenied b then refuse s .denied
        else .ret 0 (s.setBank { b with ctrs := b.ctrs.map fun c =>
          if s.guestTid.isSome || c.tids.all (s.instantIn b.part) then { c with live := 0, released := 0, clear := false } else { c with clear := true } }))

/-! ### Traces (R268, R433, R434) -/

def tbAsid (tb : List W64) : Nat := fld (wd tb 1) 43 32
def tbBuf (tb : List W64) : Nat := fld (wd tb 0) 51 0
def tbSize (tb : List W64) : Nat := 2 ^ (fld (wd tb 1) 3 0 + 12)

/-- Words tb0 to tb2 keep their limits. -/
def traceBlockOk (tb : List W64) (virt : Bool) : Bool :=
  fld (wd tb 0) 63 52 == 0 && tbBuf tb % 4096 == 0 && fld (wd tb 1) 63 44 == 0 && fld (wd tb 1) 31 21 == 0 && fld (wd tb 1) 7 4 == 0 &&
    decide (fld (wd tb 1) 3 0 ≤ 12) && fld (wd tb 2) 62 32 == 0 && (virt || (tbAsid tb == 0 && decide (tbBuf tb < 2 ^ 47)))

/-- Strips that a placed region covers. -/
def Region.strips (r : Region) : List Nat :=
  match r.place with
  | some p => if r.state.holdsTiles then
      (List.range 8).filter fun k => decide (p.ocol / 16 ≤ k) && decide (k ≤ (p.ocol + p.wm1 + p.skipped.length) / 16) else []
  | none => []

/-- A trace that uses a unit of one of the strips. -/
def State.traceOver (s : State) (strips : List Nat) (t : Trace) : Bool :=
  match s.region t.slot with
  | some r => r.strips.any strips.contains
  | none => false

/-- A trace unit of one of the strips is in use, by a trace that does not give way to a guest of the same fc (R266, R268). -/
def State.unitsBusy (s : State) (strips : List Nat) : Bool :=
  s.traces.any fun t => s.traceOver strips t && !s.yields t.prov t.fc

/-- The operators' requests for the strips that wait give way to a guest's of the same fc. -/
def State.outbidTraces (s : State) (strips : List Nat) : State := { s with traces := s.traces.filter fun t => !(t.prov && s.traceOver strips t) }

/-- The request of the current hart that waits for the units of a region. -/
def State.traceClaim (s : State) (slot : Nat) : Option Trace := s.traces.find? fun t => t.prov && t.hart == s.cur && t.slot == slot

def State.dropTraceClaim (s : State) : State := { s with traces := s.traces.filter fun t => !(t.prov && t.hart == s.cur) }

/-- Units that are free, or give way, go to a guest at once; to the operator when the fc of its request has passed (R266, R268). -/
def State.askUnits (s : State) (claim : Option Trace) (strips : List Nat) (t : Trace) : FormEnd :=
  if !t.op then (let s1 := s.outbidTraces strips; .ret 0 { s1 with traces := s1.traces ++ [t] })
  else match claim with
    | some c => if c.fc < s.fc then .ret 0 { s with traces := s.traces ++ [t] } else ({ s with traces := s.traces ++ [c] } : State).holdForm
    | none => ({ s with traces := s.traces ++ [{ t with prov := true }] } : State).holdForm

/-- TRCON (R268, R433, R447) (DEDUCED, log entry 79). -/
def execTrcon (rd rs1 rs2 : BitVec 5) (s : State) : Host.Outcome State Fault Refusal :=
  .next (form s false (formWord (.trcon rd rs1 rs2)) rd fun s0 =>
    let s := s0.dropTraceClaim
    let va := s.xreg rs2
    if va % 64 != 0 then refuse s .align
    else withBlock s false va 64 fun s tb =>
      withRegion s (s.xreg rs1) fun slot r =>
        let virt := (s.hart s.cur).mode.virt
        if r.strips.isEmpty || r.midSwitch then r.refuseState s
        else if !traceBlockOk tb virt then refuse s .badArg
        else if (virt && !s.mayUse s.askHart (tbAsid tb)) || (!virt && s.trc r.tid == 2) then refuse s .denied
        else if s.unitsBusy r.strips then refuse s .busy
        else match s.hartPiece s.cur .load false va 64 with
          | (s1, .error e) => excIn s1 e
          | (s1, .ok pa) =>
            s1.askUnits (s0.traceClaim slot) r.strips { slot := slot, hart := s.cur, mid := (s.hart s.cur).oxmid.toNat, part := s.hartPart s.cur, blk := pa, tb := tb
                                                        op := !virt, fc := s.fc })

/-- Write bytes of the ring (R433): a VA under the block's ASID, or local physical. -/
def State.ringPut (s : State) (t : Trace) (off : Nat) (bs : List Byte) : State :=
  let a := tbBuf t.tb + off % tbSize t.tb
  if t.op then (s.physWrite { mid := t.mid, part := some t.part } .write (piecesOf a bs.length) bs).1
  else (s.vaWrite none none (tbAsid t.tb) .write (piecesOf a bs.length) bs).1

/-- Write a word of the block. -/
def State.blockPut (s : State) (t : Trace) (i v : Nat) : State :=
  (s.physWrite { mid := t.mid, part := some t.part } .write (piecesOf (t.blk + 8 * i) 8) (toBytes 8 v)).1

/-- The LOST record of a trace (R434). -/
def State.lostRec (s : State) (t : Trace) (n : Nat) : List W64 :=
  let hdl := s.handle t.slot
  s.trcWords t hdl (((s.region t.slot).map (·.tid)).getD 0) { kind := 6, xna := true, pay := n }

/-- The oldest record of a trace goes to the ring, or is dropped and counted (R433). -/
def State.writeTrace (s : State) (t : Trace) : State × Trace :=
  match t.held with
  | [] => (s, t)
  | rec :: rest =>
    let n := tbSize t.tb
    let head := ofBytes (s.bytesAt (t.blk + 24) 8)
    let used := (t.tail + n - head % n) % n
    let pre := if t.drops = 0 then 0 else 32
    if used + pre + 64 ≤ n then
      let at_ := (t.tail + pre) % n
      let t1 := { t with held := rest, tail := (at_ + 32) % n, drops := 0 }
      ((s.ringPut t at_ (bytesOf64 rec)).blockPut t 4 t1.tail, t1)
    else
      let t1 := { t with held := rest, lost := t.lost + 1, drops := t.drops + 1 }
      ((s.ringPut t t.tail (bytesOf64 (s.lostRec t t1.drops))).blockPut t 5 t1.lost, t1)

/-- TRACE_RECORD_WRITE (R433). -/
def execTraceRecordWrite (slot : Nat) (s : State) : Host.Outcome State Fault Refusal :=
  .next (match s.traces.find? (·.slot == slot) with
    | none => s
    | some t =>
      let (s1, t1) := s.writeTrace t
      { s1 with traces := s1.traces.map fun u => if u.slot = slot then t1 else u })

/-- Write the held records of a trace. -/
def State.flushTrace (s : State) (t : Trace) : Nat → State
  | 0 => s
  | k + 1 => let (s1, t1) := s.writeTrace t; State.flushTrace s1 t1 k

/-- Stop a region's trace, flush it and free its units (R268, R392). -/
def State.stopTrace (s : State) (slot : Nat) : State :=
  match s.traces.find? (·.slot == slot) with
  | none => s
  | some t0 =>
    let t := t0.merge
    let s1 := s.flushTrace t t.held.length
    { s1 with traces := s1.traces.filter fun u => u.slot != slot }

/-- TRCOFF (R268). -/
def execTrcoff (rd rs1 : BitVec 5) (s : State) : Host.Outcome State Fault Refusal :=
  .next (form s false (formWord (.trcoff rd rs1)) rd fun s =>
    withRegion s (s.xreg rs1) fun slot r =>
      if r.midSwitch then r.refuseState s
      else if ((s.traces.find? (·.slot == slot)).map fun t => (s.hart s.cur).mode.virt && t.op) == some true then refuse s .denied
      else .ret 0 (s.stopTrace slot))

/-! ### Policies (R269, R439 to R441) -/

/-- SVPOL (R269). -/
def execSvpol (rd rs1 rs2 : BitVec 5) (s : State) : Host.Outcome State Fault Refusal :=
  .next (form s true (formWord (.svpol rd rs1 rs2)) rd fun s =>
    let p := s.xreg rs1
    let w := s.xreg rs2
    if p % 4096 != 0 || w % 8 != 0 then refuse s .align
    else if 4 ≤ s.polWait.length then refuse s .busy
    else .ret 0 { s with polWait := s.polWait ++ [(p, w)] })

/-- The body of a policy keeps its format (R439, R440). -/
def policyFormatOk (bs : List Byte) : Bool :=
  let b (i : Nat) : Nat := ofBytes ((bs.drop (8 * i)).take 8)
  fld (b 0) 63 32 == 0x4F58504C && fld (b 0) 31 16 == 1 && fld (b 0) 15 0 != 0 &&
    fld (b 2) 47 17 == 0 && fld (b 2) 15 14 == 0 && fld (b 2) 11 11 == 0 && fld (b 2) 7 7 == 0 && fld (b 2) 3 3 == 0 &&
    fld (b 2) 13 12 != 3 && decide (fld (b 2) 10 8 ≤ 3) && decide (fld (b 2) 6 4 ≤ 3) && decide (fld (b 2) 2 0 ≤ 3) &&
    ((bs.drop 32).take 224).all (· == 0) && ((bs.drop 0x801).take 15).all (· == 0)

/-- The SEQ of a policy's body. -/
def policySeq (body : List W64) : Nat := wd body 1

/-- Check and install a policy: its result code and the state (R441). -/
def State.installPolicy (s : State) (bs : List Byte) : State × Nat :=
  let body := words64 4 bs
  let tid := fld (wd body 0) 15 0
  let key := (bs.drop 0x100).take 1793
  let sig := (bs.drop 0x810).take 1280
  let old := s.policies.find? (·.tid == tid)
  let useKey := (old.map (·.key)).getD key
  if !policyFormatOk bs then (s, 2)
  else if (old.map fun p => p.key != key) == some true then (s, 3)
  else if !Config.falconVerify useKey (bs.take 0x810) sig then (s, 1)
  else if (old.map fun p => decide (!p.body.isEmpty) && decide (policySeq body ≤ policySeq p.body)) == some true then (s, 4)
  else
    let n := (s.policies.map fun p => max p.ord p.pendOrd).foldl max 0 + 1
    let p : Policy := { tid := tid, key := key, signed := bs, body := (old.map (·.body)).getD [], pending := some body
                        ord := (old.map (·.ord)).getD n, pendOrd := n }
    let p1 := p.settle fun _ t => t == 0
    ({ s with policies := match old with
        | some _ => s.policies.map fun x => if x.tid = tid then p1 else x
        | none => s.policies ++ [p1] }, 0)

/-- What the Hardpan core does with a block that SVPOL hands it: a policy is checked and installed (R441); another block may ask that the rollback
fuses rise to a newer counter (R450) (DESIGN CHOICE, log entry 47). -/
def State.hardpanRequest (s : State) (bs : List Byte) : State × Nat :=
  if fld (ofBytes (bs.take 8)) 63 32 = 0x4F58504C then s.installPolicy bs
  else match Config.fuseRequest bs with
    | some n => ({ s with fuseRollback := max s.fuseRollback n }, 0)
    | none => (s, 2)

/-- POLICY_CHECK (R269, R441, R450): the oldest policy that waits is checked, and its result word written. One that cannot be read has a wrong
format (DEDUCED, log entry 80). -/
def execPolicyCheck (s : State) : Host.Outcome State Fault Refusal :=
  .next (match s.polWait with
    | [] => s
    | (p, w) :: rest =>
      let s0 : State := { s with polWait := rest }
      let (s1, code) := match s0.physRead { mid := 0 } .read (piecesOf p 3344) with
        | (a, .ok (bs, false)) => a.hardpanRequest bs
        | (a, _) => (a, 2)
      (s1.physWrite { mid := 0 } .write (piecesOf w 8) (toBytes 8 (2 ^ 63 + code))).1)

/-- An open profiling session that a migration carries (R392): its events and counter values are bound to the same bank, or to the first that is
free, in the tenant's partition; the events that this catalogue lacks are absent; the selector is bound on the harts that do not use it (DESIGN CHOICE, log entry 108). -/
def State.carrySession (s : State) (tid bank sel : Nat) (events : List W64) (counts : List Nat) (scat : Nat) : State :=
  match (List.range 8).find? fun p => s.isPart p && (s.tenants p).contains tid with
  | none => s
  | some part =>
    let free (b : Nat) : Bool := (s.findBank part b).isNone && (s.bankOwner part b).all (· == tid)
    match (bank % 16 :: List.range 16).find? free with
    | none => s
    | some b =>
      let absent (w : W64) : Bool := w != 0 && (finestScope (fld w.toNat 63 56) (fld w.toNat 55 44)).isNone
      let c : CtrBank :=
        { part := part, bank := b, tid := some tid, hart := 64, abs := .ofNat 32 (packLanes 1 (events.map fun w => b2n (absent w))), mig := true, scat := scat
          ctrs := (List.range 32).map fun i => { event := events.getD i 0, live := counts.getD i 0, tids := [tid], counting := true } }
      { s with banks := s.banks ++ [c]
               harts := s.harts.mapIdx fun h k =>
                 if s.hartPart h = part ∧ k.cb.getD sel none = none then { k with cb := upd k.cb sel fun _ => some b } else k }

/-! ### The journal's reader (R270) -/

/-- Record `n` of a partition's journal, when it is held. -/
def State.journalRec (s : State) (part n : Nat) : Option (List W64 × Nat) :=
  (s.journals.find? (·.first == part)).bind fun j =>
    if n < j.count ∧ j.count ≤ n + 65536 ∧ j.count - j.recs.length ≤ n then (j.recs[n - (j.count - j.recs.length)]?).map fun r => (r, j.count - 1) else none

/-- JRNRD (R270). -/
def execJrnrd (rd rs1 rs2 : BitVec 5) (s : State) : Host.Outcome State Fault Refusal :=
  .next (form s true (formWord (.jrnrd rd rs1 rs2)) rd fun s =>
    let a := s.xreg rs2
    if a % 64 != 0 then refuse s .align
    else match s.journalRec (s.hartPart s.cur) (s.xreg rs1) with
      | none => refuse s .notFound
      | some (r, newest) =>
        match s.hartStore s.cur true (piecesOf a 64) (bytesOf64 r) with
        | (s1, some e) => excIn s1 e
        | (s1, none) => .ret newest s1)

end Sys2Proof.Machine
end

