-- ==== Sys2Proof/Machine/Shootdown.lean ====
section
/-! DEFINITION. Invalidation of translations (10 R283 to R287, R305): XIVC's three kinds and their completion. -/

namespace Sys2Proof.Machine

/-- Address of the translation control block (R284). -/
def xlatBase : Nat := 0x7F0000010000

/-- A page range of an address space: an ASID, or every one; a range, or the whole space. -/
structure TransSet where
  asid : Option Nat
  range : Option (Nat × Nat)

/-- Bytes [va, va + n) of an ASID meet the set. -/
def TransSet.meets (t : TransSet) (asid va n : Nat) : Bool :=
  (match t.asid with | some a => a == asid | none => true) &&
    (match t.range with | some (lo, len) => decide (va < lo + len) && decide (lo < va + n) | none => true)

/-- The addresses a request has translated and whose accesses are not complete: its own; of a gather or scatter, that of the element it accesses
now, and those that are performed while a remote home has yet to acknowledge them. -/
def Req.openVas (q : Req) : List Nat :=
  let mine := if q.paddr.isSome then [q.nextAddr] else []
  match q.op with
  | .gth _ es => mine ++ (if q.remote then (es.filter fun e => (look q.done e.1).isSome).map (·.2) else [])
  | .sct _ es => mine ++ (if q.remote then (es.filter fun e => (look q.done e.1).isSome).map (·.2.1) else [])
  | _ => mine

/-- A request is complete for a shootdown: performed at DEVICE scope, or acknowledged for a remote home. -/
def Req.complete (q : Req) : Bool := if q.remote then q.st == .acked else q.st.isDone

/-- Requests of chains that hold a translation of the set and are not complete. -/
def Region.translatedReqs (r : Region) (slot : Nat) (t : TransSet) : List (Nat × Nat × Nat × Nat × Nat) :=
  r.tiles.flatMap fun k => match k.elem .me with
    | none => []
    | some e => (List.range 8).flatMap fun c => ((e.me.chain c).reqs.filter fun q =>
        !q.complete && q.openVas.any fun va => t.meets r.asid va 1).map fun q => (slot, k.x, k.y, c, q.seq)

/-- A cached translation of the set. -/
def TransSet.has (t : TransSet) (k : Trans) : Bool := t.meets k.asid k.va k.size

/-- A stream, an ME and a region without the set's translations. -/
def Stream.drop (x : Stream) (t : TransSet) : Stream :=
  { x with teData := x.teData.filter fun k => !t.has k, teScale := x.teScale.filter fun k => !t.has k }
def Me.dropTrans (m : Me) (t : TransSet) : Me := { m with streams := m.streams.map fun x => x.drop t }
def Region.dropTrans (r : Region) (t : TransSet) : Region :=
  { r with tiles := r.tiles.map fun (k : Tile) => k.modElem .me fun e => { e with me := e.me.dropTrans t } }

/-- Remove the set's translations from every stream entry and every die cache; the requests that went through them (R287). -/
def State.dropTranslations (s : State) (t : TransSet) : State × List (Nat × Nat × Nat × Nat × Nat) :=
  ({ s with tcache := s.tcache.filter (fun k => !t.has k), regions := s.regions.map fun p => (p.1, p.2.dropTrans t) },
    s.regions.flatMap fun p => p.2.translatedReqs p.1 t)

/-- A request of the list is complete, or a fault has put it back in its chain without a translation. -/
def State.reqSettled (s : State) (k : Nat × Nat × Nat × Nat × Nat) : Bool :=
  let (slot, x, y, c, seq) := k
  match ((s.region slot).bind fun r => r.me x y).bind fun m => m.findReq c seq with
  | some q => q.complete || (q.st == .queued && q.paddr.isNone && !q.remote)
  | none => true

/-- Page size of a SZ code, in bytes (R286). -/
def szBytes (sz : Nat) : Nat := 2 ^ pageBits sz

/-- Accept and run an invalidation (R287). -/
def State.invalidate (s : State) (t : TransSet) : State :=
  let (s1, reqs) := s.dropTranslations t
  { s1 with xlat := { s1.xlat with acc := (s1.xlat.acc + 1) % 2 ^ 31, pending := s1.xlat.pending ++ [{ reqs := reqs }] } }

/-- A rejected command sets ERR and has no other effect. -/
def State.rejectInval (s : State) : State := { s with xlat := { s.xlat with err := true } }

/-- XIVC kind 00 for the page that XIVA names. -/
def State.invalPage (s : State) (asid sz : Nat) : State :=
  if 3 ≤ sz || s.xlat.vpg * 65536 % szBytes sz != 0 then s.rejectInval
  else s.invalidate { asid := some asid, range := some (s.xlat.vpg * 65536, szBytes sz) }

/-- What a store to XIVC does (R286). -/
def State.runXivc (s : State) (v : Nat) : State :=
  let asid := fld v 39 28
  if fld v 3 2 = 3 then s.rejectInval
  else match fld v 1 0 with
    | 0 => s.invalPage asid (fld v 3 2)
    | 1 => s.invalidate { asid := some asid, range := none }
    | 2 => s.invalidate { asid := none, range := none }
    | _ => s.rejectInval

/-- A store to the translation control block (R285, R286). One to XIVC that finds 16 commands pending is not performed until one completes; those
behind it wait with it, and the hart that made it goes on when it has been performed (R284) (DEDUCED, log entry 84). -/
def State.writeXlat (s : State) (off v : Nat) (who : Option Nat := none) : State :=
  if !s.xlat.held.isEmpty || (off = 0x10 && decide (16 ≤ s.xlat.pending.length)) then
    { s with xlat := { s.xlat with held := s.xlat.held ++ [(who, off, v)] } }
  else match off with
    | 0 => { s with xlat := { s.xlat with base := fld v 46 17, en := bitN v 0 } }
    | 8 => { s with xlat := { s.xlat with vpg := fld v 51 16 } }
    | 0x10 => s.runXivc v
    | 0x18 => if bitN v 63 then { s with xlat := { s.xlat with err := false } } else s
    | _ => s

/-- The stores that waited are performed in their order, as far as they may be. -/
def State.releaseXlat (s : State) : State :=
  s.xlat.held.foldl (fun (a : State) p => a.writeXlat p.2.1 p.2.2 p.1) { s with xlat := { s.xlat with held := [] } }

/-- A hart has a store that waits at the translation control block. -/
def State.storeWaits (s : State) (h : Nat) : Bool := s.xlat.held.any fun p => p.1 == some h

/-- A hart's store to XIVC. -/
def State.storeXivc (s : State) (h v : Nat) : State := s.regWrite (.hart h) (xlatBase + 0x10) fun s => s.writeXlat 0x10 v (some h)

/-- INVALIDATE_PAGE (R287): a hart's store of kind 00 to XIVC. -/
def execInvalidatePage (h asid sz : Nat) (s : State) : Host.Outcome State Fault Refusal :=
  .next (s.storeXivc h (put 39 28 asid + put 3 2 sz))

/-- INVALIDATE_ASID (R287). -/
def execInvalidateAsid (h asid : Nat) (s : State) : Host.Outcome State Fault Refusal := .next (s.storeXivc h (put 39 28 asid + 1))

/-- INVALIDATE_ALL (R287). -/
def execInvalidateAll (h : Nat) (s : State) : Host.Outcome State Fault Refusal := .next (s.storeXivc h 2)

/-- INVALIDATION_COMPLETE (R287): the oldest command completes once its requests are performed. -/
def execInvalidationComplete (s : State) : Host.Outcome State Fault Refusal :=
  .next (match s.xlat.pending with
    | [] => s
    | p :: rest =>
      if p.reqs.all s.reqSettled then ({ s with xlat := { s.xlat with pending := rest, done := (s.xlat.done + 1) % 2 ^ 31 } } : State).releaseXlat else s)

end Sys2Proof.Machine
end

