-- ==== Sys2Proof/Machine/Dune.lean ====
section
/-! DEFINITION. The Dune engine (09 R263, R269; 13 R385 to R393): acceptance of a migration, pre-copy rounds, post-copy pushes and pulls, lost
pages. -/

namespace Sys2Proof.Machine

/-! ### The descriptor (R385) -/

def migMode (m : List W64) : Nat := fld (wd m 0) 49 48
def migPlst (m : List W64) : Nat := wd m 1
def migPages (m : List W64) : Nat := fld (wd m 2) 24 0
def migRounds (m : List W64) : Nat := if fld (wd m 2) 35 32 = 0 then 4 else fld (wd m 2) 35 32
def migDirty (m : List W64) : Nat := if fld (wd m 2) 63 40 = 0 then 64 else fld (wd m 2) 63 40
def migDsav (m : List W64) : Nat := fld (wd m 3) 59 0
def migDntf (m : List W64) : Nat := fld (wd m 4) 59 0
def migTries (m : List W64) : Nat := if fld (wd m 5) 15 0 = 0 then 8 else fld (wd m 5) 15 0
def migTimeout (m : List W64) : Nat := if fld (wd m 5) 47 32 = 0 then 1000 else fld (wd m 5) 47 32
def migUlst (m : List W64) : Nat := fld (wd m 6) 51 0

/-- Reserved bits and limits. -/
def migBad (m : List W64) : Bool :=
  fld (wd m 0) 63 50 != 0 || fld (wd m 0) 47 45 != 0 || 2 ≤ migMode m || 2 ^ 47 ≤ wd m 1 || migPages m = 0 || 2 ^ 24 < migPages m ||
    fld (wd m 2) 31 25 != 0 || fld (wd m 2) 39 36 != 0 || 2 ^ 60 ≤ wd m 3 || 2 ^ 60 ≤ wd m 4 || fld (wd m 5) 31 16 != 0 ||
    fld (wd m 5) 63 48 != 0 || 2 ^ 52 ≤ wd m 6 || 2 ^ 12 ≤ wd m 7

/-- Addresses that break their alignment. -/
def migUnaligned (m : List W64) : Bool := migPlst m % 32 != 0 || migDsav m % 4096 != 0 || migDntf m % 8 != 0

/-! ### Acceptance (R269, R385, R388) -/

/-- A migration freezes its source: a running region settles; one that stands still is frozen at once (R344). -/
def State.migFreeze (s : State) (slot : Nat) : State :=
  match s.region slot with
  | none => s
  | some r =>
    if r.state != .resident then s
    else if r.run && !r.stp then s.modRegion slot fun x => x.startFreeze .migrate
    else (s.modRegion slot fun x =>
      { x with run := false, stp := false, stopAt := none, freeze := some { why := .migrate, settled := true } }).toState slot .frozen

/-- The lowest page stream that is free. -/
def Dune.freeStream (d : Dune) : Option Nat := (List.range 16).find? fun k => !d.streams.any fun p => p.1 == k

def migModule (m : List W64) : Nat := fld (wd m 0) 44 32

/-- The signed policy of a tenant, that its migrations carry (R392). -/
def State.signedPolicy (s : State) (tid : Nat) : Option (List Byte) := (s.policies.find? (·.tid == tid)).map (·.signed)

/-- Accept a migration: its ticket, or the refusal. A policy goes ahead of it, and is checked at the destination before the first page moves (R392) (DESIGN CHOICE, log entry 107). -/
def State.acceptMigration (s : State) (u : Asker) (m : List W64) : Except (Refuse × Nat) (State × Nat) :=
  if migBad m || migModule m = s.xlat.xmod then .error (.badArg, 0)
  else if migUnaligned m then .error (.align, 0)
  else match s.byHandle (fld (wd m 0) 31 0) u.only with
    | .error e => .error (e, 0)
    | .ok (slot, r) =>
      if !(r.state == .resident || r.state == .frozen) || r.shadow.isSome || r.shadowOf.isSome then .error (.state, r.state.code)
      else if r.migrating then .error (.busy, 0)
      else match s.dune.freeStream with
        | none => .error (.busy, 0)
        | some k =>
          let g : Migration := { seq := s.dune.next, m := m, hart := u.hart, tid := u.tid, pkt := u.pkt, slot := slot
                                 todo := List.range (migPages m), ending := migMode m = 1, polWait := (s.signedPolicy r.tid).isSome }
          let s1 : State := { s with dune := { s.dune with streams := insertKV s.dune.streams k g, next := (s.dune.next + 1) % 2 ^ 32 } }
          let s2 := s1.modRegion slot fun x => { x with migrating := true }
          let s3 := match s.signedPolicy r.tid with
            | some bs => s2.sendTo { part := r.part, tid := r.tid, mod := migModule m } bs.length
            | none => if migMode m = 1 then s2.migFreeze slot else s2
          .ok (s3, migTicket g.seq)

/-- DUNEGO (R269, R385). -/
def execDunego (rd rs1 : BitVec 5) (s : State) : Host.Outcome State Fault Refusal :=
  .next (form s true (formWord (.dunego rd rs1)) rd fun s =>
    let a := s.xreg rs1
    if a % 64 != 0 then refuse s .align
    else withBlock s true a 64 fun s m =>
      match s.acceptMigration s.askHart m with
      | .error (e, low) => refuse s e low
      | .ok (s1, t) => .ret t s1)

/-- The state word of a migration's ticket. -/
def Dune.stateWord (d : Dune) (seq : Nat) : Option (Nat × Nat) :=
  if !recentSeq d.next seq then none
  else match d.streams.find? fun p => p.2.seq == seq && !p.2.atDest with
  | some (_, g) => some (g.tid, 2 + put 62 16 g.units)
  | none => (d.hist.reverse.find? fun e => e.1 == seq).map fun e => (e.2 / 2 ^ 64, e.2 % 2 ^ 64)

/-- DUNEQ (R263). -/
def execDuneq (rd rs1 : BitVec 5) (s : State) : Host.Outcome State Fault Refusal :=
  .next (form s true (formWord (.duneq rd rs1)) rd fun s =>
    let t := s.xreg rs1
    if fld t 63 52 != 0 || fld t 51 48 != 4 || fld t 47 32 != 0 then refuse s .badArg
    else match s.dune.stateWord (fld t 31 0) with
      | some (_, w) => .ret w s
      | none => refuse s .notFound)

/-! ### Pages (R386, R391) -/

def State.modMig (s : State) (k : Nat) (f : Migration → Migration) : State :=
  { s with dune := { s.dune with streams := s.dune.streams.map fun p => if p.1 = k then (p.1, f p.2) else p } }

/-- The engine as a requester for the source's address space, under its master ID, and for itself. -/
def migAs (r : Region) (mid : Nat) : Who := { mid := mid, part := some r.part, tid := r.tid }
def State.migWho (s : State) (r : Region) : Who := migAs r (s.asidMid r.asid)
def migSelf (r : Region) : Who := { mid := 0, part := some r.part, tid := r.tid }

/-- Record `i` of the page list, as it reads now. -/
def State.pageRec (s : State) (r : Region) (g : Migration) (i : Nat) : State × Except AccFault (List W64) :=
  match s.physRead (migSelf r) .read [(migPlst g.m + 32 * i, 32)] with
  | (s1, .ok (bs, _)) => (s1, .ok (words64 4 bs))
  | (s1, .error f) => (s1, .error f)

/-- The VA of a record's page. -/
def recVa (w : List W64) : Nat := fld (wd w 0) 51 16 * 65536

/-- The entry that maps an address, from a table down: its local physical address, page bits and value. -/
def State.leafFrom (s : State) (va : Nat) : List Nat → Nat → Option (Nat × Nat × Nat)
  | [], _ => none
  | level :: rest, t =>
    let pa := t + 8 * fld va (24 + 9 * level) (16 + 9 * level)
    let e := ofBytes (s.bytesAt pa 8)
    if !bitN e 0 then none
    else if bitN e 1 then some (pa, pageBits level, e)
    else State.leafFrom s va rest (fld e 46 12 * 4096)

def State.leafOf (s : State) (asid va : Nat) : Option (Nat × Nat × Nat) :=
  if s.asidLive asid then s.leafFrom va [3, 2, 1, 0] (fld (s.asidWord asid 0) 46 12 * 4096) else none

/-- Clear D of the leaf that maps a page, and invalidate it as XIVC kind 00 does: its translations go, and the requests that went through
them are waited for (R287, R387). -/
def State.cleanLeaf (s : State) (r : Region) (va : Nat) (l : Nat × Nat × Nat) : State × List (Nat × Nat × Nat × Nat × Nat) :=
  let (pa, bits, e) := l
  ({ s with mem := memWriteN s.mem (s.localKey pa) 8 (if bitN e 6 then e - 64 else e), resv := resvAfterWrite s.resv (s.localKey pa) 8 } : State).dropTranslations
    { asid := some r.asid, range := some (va / 2 ^ bits * 2 ^ bits, 2 ^ bits) }

/-- Copy 64 KiB, line by line: a marked line arrives marked (R391, R415). -/
def State.copyPage (s : State) (src dst : Nat) : State :=
  s.memPutLines dst (s.memLines src 1024)

/-- Move the page of a record from the source region's address space to its DPG. -/
def State.movePage (s : State) (r : Region) (w : List W64) : State × Option AccFault :=
  let dst := fld (wd w 1) 59 16 * 65536
  match s.walk none (some r.part) r.asid (recVa w) .read with
  | (s1, .error f) => (s1, some f)
  | (s1, .ok ok) =>
    match s1.check (migAs r ok.mid) ok.da .read 65536 with
    | (s2, some f) => (s2, some (f.atVa (recVa w)))
    | (s2, none) =>
      match s2.check (migAs r ok.mid) dst .write 65536 with
      | (s3, some f) => (s3, some f)
      | (s3, none) => (s3.copyPage ok.da dst, none)

/-- Units of a page (R263). -/
def pageUnits : Nat := 1024

/-- A migration fails with a fault (R390): before the DNTF add its region stays where it stands (DEDUCED, log entry 81). -/
def State.failMig (s : State) (k : Nat) (g : Migration) (r : Region) (f : AccFault) : State :=
  let to_ : RingTo := match g.pkt with | some p => .vcp p.v p.q p.view | none => .none
  let s1 := s.deliverFor (s.handle g.slot) to_ r.part r.tid r.asid
    { code := f.code, det := f.detOr 4, src := 7, f4 := migTicket g.seq, info := f.info % 2 ^ 60 }
  s1.endMigration k g f.code

/-! ### The end of the copying (R387, R388, R390) -/

/-- The open profiling sessions of the tenant go to the destination (R392). -/
def State.sendSessions (s : State) (g : Migration) (r : Region) : State :=
  (s.banks.filter fun b => b.part == r.part && b.tid == some r.tid).foldl
    (fun (a : State) _ => a.sendTo { part := r.part, tid := r.tid, mod := migModule g.m } 512) s

/-- The page list goes to the destination's engine (R388). -/
def State.sendList (s : State) (g : Migration) (r : Region) : State × Option AccFault :=
  let n := 32 * migPages g.m
  match s.physRead (migSelf r) .read (piecesOf (migPlst g.m) n) with
  | (s1, .error f) => (s1, some f)
  | (s1, .ok _) => (s1.sendTo { part := r.part, tid := r.tid, mod := migModule g.m } n, none)

/-- Write the save of a frozen region to DSAV and stop its trace (R363, R392) (DEDUCED, log entry 83). -/
def State.migSave (s : State) (k : Nat) (g : Migration) (r : Region) : State :=
  let bs := r.saveBytes g.slot 1
  match s.physWrite (s.migWho r) .write (piecesOf (2 ^ 60 + migDsav g.m) bs.length) bs with
  | (s1, some f) => s1.failMig k g r f
  | (s1, none) => ((s1.stopTrace g.slot).sendSessions g r).modMig k fun x => { x with saved := true }

/-- The add at DNTF: the source region becomes saved; a migration that has moved every page retires. -/
def State.migNotify (s : State) (k : Nat) (g : Migration) (r : Region) : State :=
  match (if migMode g.m = 1 then s.sendList g r else (s, none)) with
  | (s0, some f) => s0.failMig k g r f
  | (s0, none) =>
  match s0.check (s0.migWho r) (migDntf g.m) .atomic 8 with
  | (s1, some f) => s1.failMig k g r f
  | (s1, none) =>
    let s2 := (s1.atomicAt (migDntf g.m) .add .n64 1 0 false).1
    let s3 := s2.becomeSaved g.slot { addr := 2 ^ 60 + migDsav g.m }
    if g.todo.isEmpty then s3.endMigration k g 0 else s3.modMig k fun x => { x with notified := true }

/-- Copy the next page of a migration's set. -/
def State.migPage (s : State) (k : Nat) (g : Migration) (r : Region) (i : Nat) : State :=
  match s.pageRec r g i with
  | (s1, .error f) => s1.failMig k g r f
  | (s1, .ok w) =>
    match s1.movePage r w with
    | (s2, some f) => s2.failMig k g r f
    | (s2, none) => s2.modMig k fun x => { x with todo := g.todo.tail, units := x.units + pageUnits }

/-- A page of a pre-copy round: the first page of its leaf in the round clears D; the copy waits for the requests of that. -/
def State.roundPage (s : State) (k : Nat) (g : Migration) (r : Region) (i : Nat) : State :=
  match s.pageRec r g i with
  | (s1, .error f) => s1.failMig k g r f
  | (s1, .ok w) =>
    match s1.leafOf r.asid (recVa w) with
    | none => s1.migPage k g r i
    | some l =>
      if g.cleared.contains l.1 then (if g.waits.all s1.reqSettled then s1.migPage k g r i else s1)
      else
        let (s2, ws) := s1.cleanLeaf r (recVa w) l
        let s3 := s2.modMig k fun x => { x with cleared := x.cleared ++ [l.1], waits := ws }
        if ws.all s3.reqSettled then s3.migPage k { g with cleared := g.cleared ++ [l.1], waits := ws } r i else s3

/-- Records whose leaf has D = 1 now. -/
def State.dirtyRecs (s : State) (g : Migration) (r : Region) : List Nat :=
  (List.range (migPages g.m)).filter fun i =>
    let va := recVa (words64 4 (s.memGet (s.domainOf (migPlst g.m + 32 * i)) 32))
    match s.leafOf r.asid va with
    | some (_, _, e) => bitN e 6
    | none => false

/-- PRECOPY_ROUND_END: another round over the dirty pages, or the freeze. -/
def State.roundEnd (s : State) (k : Nat) (g : Migration) (r : Region) : State :=
  let set_ := s.dirtyRecs g r
  if g.round = migRounds g.m ∨ set_.length ≤ migDirty g.m then
    (s.modMig k fun x => { x with todo := set_, ending := true }).migFreeze g.slot
  else s.modMig k fun x => { x with todo := set_, round := g.round + 1, cleared := [], waits := [] }

/-- What may stand of a source region for its migration to go on; else the code it fails with. -/
def Region.migFails (r : Region) (g : Migration) : Option Nat :=
  match r.state with
  | .faulted => some (if r.lastFault = 0 then 256 else r.lastFault)
  | .killed | .rolledBack | .loading => some 256
  | .saved => if g.notified then none else some 256
  | _ => none

/-- DUNE_PAGE_COPY (R387, R388, R390): the next page of a migration, or the end of a round, the save, or the notify add. -/
def execDunePageCopy (stream : Nat) (s : State) : Host.Outcome State Fault Refusal :=
  .next (match look s.dune.streams stream with
    | none => s
    | some g =>
      if g.atDest || g.notified || g.polWait then s
      else match s.region g.slot with
        | none => s.endMigration stream g 256
        | some r =>
          match r.migFails g with
          | some code => s.endMigration stream g code
          | none =>
            if !g.ending then
              match g.todo with
              | i :: _ => s.roundPage stream g r i
              | [] => s.roundEnd stream g r
            else if r.state == .resident && r.freeze.isNone then (s.migFreeze g.slot).modMig stream fun x => { x with saved := false }
            else if r.state != .frozen then s
            else if !g.saved then s.migSave stream g r
            else if migMode g.m = 1 then s.migNotify stream g r
            else match g.todo with
              | i :: _ => s.migPage stream g r i
              | [] => s.migNotify stream g r)

/-! ### Post-copy (R388, R389) -/

/-- The address spaces of a saved source stay: its pages are read and pushed with their leaf values. -/
def State.pushPage (s : State) (k : Nat) (g : Migration) (r : Region) (i : Nat) : State :=
  match s.pageRec r g i with
  | (s1, .error f) => s1.failMig k g r f
  | (s1, .ok w) =>
    match s1.movePage r w with
    | (s2, some f) => s2.failMig k g r f
    | (s2, none) =>
      let dle := fld (wd w 2) 46 3 * 8
      match s2.physWrite (migSelf r) .write [(2 ^ 60 + migModule g.m * 2 ^ 47 + dle, 8)] (toBytes 8 (wd w 3)) with
      | (s3, some f) => s3.failMig k g r f
      | (s3, none) =>
        let g1 := { g with todo := g.todo.erase i, units := g.units + pageUnits }
        if g1.todo.isEmpty then s3.endMigration k g1 0 else s3.modMig k fun _ => g1

/-- POSTCOPY_PUSH (R388): the source pushes the next page of its list; when every page has moved the ticket retires. -/
def execPostcopyPush (stream : Nat) (s : State) : Host.Outcome State Fault Refusal :=
  .next (match look s.dune.streams stream with
    | none => s
    | some g =>
      if g.atDest || !g.notified then s
      else match s.region g.slot, g.todo with
        | none, _ => s.endMigration stream g 256
        | some _, [] => s.endMigration stream g 0
        | some r, i :: _ => s.pushPage stream g r i)

/-- The source serves a pull of a page that it has not moved: the page goes ahead of the pushes, and leaves the list; one that a push has moved is
on its way already (R388, R393). -/
def State.servePull (s : State) (k : Nat) (g : Migration) (i : Nat) : State :=
  match s.region g.slot with
  | some r => if g.notified && !g.atDest && g.todo.contains i then s.pushPage k g r i else s
  | none => s

/-- A page list arrives: a free stream of this module's engine takes the destination's part of the migration (R388). -/
def State.takeList (s : State) (k src seq : Nat) (m : List W64) (recs : List (List W64)) : State :=
  let g : Migration := { seq := seq, m := m, atDest := true, src := src, recs := recs, todo := List.range recs.length }
  { s with dune := { s.dune with streams := insertKV s.dune.streams k g } }

/-- The result of a policy's check (R392): with a policy accepted, or older than the one in force, the migration goes on; a failure ends it. -/
def State.policyAnswer (s : State) (k : Nat) (g : Migration) (code : Nat) : State :=
  if !g.polWait then s
  else if code = 0 ∨ code = 4 then s.modMig k fun x => { x with polWait := false }
  else s.endMigration k g 256

/-- The source's migration of a ticket's sequence number, with its stream. -/
def Dune.bySeq (d : Dune) (seq : Nat) : Option (Nat × Migration) := d.streams.find? fun p => p.2.seq == seq && !p.2.atDest

/-- The region of a destination's migration. -/
def State.migTarget (s : State) (g : Migration) : Option (Nat × Region) :=
  s.regions.find? fun p => p.2.asid == g.dasid && p.2.state != .killed

/-- Who the destination's engine is. -/
def State.destWho (s : State) (g : Migration) : Who :=
  { mid := s.asidMid g.dasid, part := ((s.migTarget g).map (·.2.part)), tid := s.asidTid g.dasid }

/-- Write a page that has come, its marked lines with the marker (R391). -/
def State.putPage (s : State) (dst : Nat) (page : List Byte) (marked : List Nat) : State :=
  let bs := padTo 65536 (page.take 65536)
  (marked.filter (· < 1024)).foldl (fun (a : State) i => a.memPut (dst + 64 * i) ((bs.drop (64 * i)).take 64) true) (s.memPut dst bs false)

/-- A destination write that is not performed fails the migration, and the source module is told (R390). -/
def State.failDest (s : State) (k : Nat) (g : Migration) (code : Nat) : State :=
  (s.endMigration k g code).sendTo { part := ((s.migTarget g).map (·.2.part)).getD 0, tid := s.asidTid g.dasid, mod := g.src } 1

/-- POSTCOPY_DEMAND_PULL (R388, R391): a page of the list, pulled or pushed, arrives at the destination with the poison markers of its lines: its
64 KiB go to DPG, then DLV to DLE, and the requests that wait for it walk again (DESIGN CHOICE, log entry 82). -/
def execPostcopyDemandPull (stream rec : Nat) (page : PageIn) (s : State) : Host.Outcome State Fault Refusal :=
  .next (match look s.dune.streams stream with
    | none => s
    | some g =>
      if !g.atDest || !g.todo.contains rec then s
      else
        let w := g.recs.getD rec []
        let dst := fld (wd w 1) 59 16 * 65536
        match s.check (s.destWho g) dst .write 65536 with
        | (s1, some f) => s1.failDest stream g f.code
        | (s1, none) =>
          let s2 := s1.putPage dst page.bytes page.marked
          match s2.physWrite { s2.destWho g with mid := 0 } .write [(fld (wd w 2) 46 3 * 8, 8)] (toBytes 8 (wd w 3)) with
          | (s3, some f) => s3.failDest stream g f.code
          | (s3, none) =>
            let mine := (g.pull.map fun p => p.1 == rec).getD false
            let g1 := { g with todo := g.todo.filter (· != rec), units := g.units + pageUnits, pull := if mine then none else g.pull
                               attempts := if mine then 0 else g.attempts }
            (List.range 8).foldl State.goOn (if g1.todo.isEmpty then s3.endMigration stream g1 0 else s3.modMig stream fun _ => g1))

/-- PAGE_LOST (R389): the destination's region is killed with 0x61, the pages that have not moved are listed at ULST, and the source, whose ticket
fails with 0x61, is told where a path leads there. -/
def State.pageLost (s : State) (k : Nat) (g : Migration) : State :=
  let to_ : Flit := { part := ((s.migTarget g).map (·.2.part)).getD 0, tid := s.asidTid g.dasid, mod := g.src }
  let s1 := (s.endMigration k g 0x61).sendTo to_ 1
  let s2 := match s1.migTarget g with
    | some (slot, r) =>
      (s1.deliver slot { (r.complete { code := 0x61, src := 10, xna := true, info := migUlst g.m }) with time := s.ns, fc := s.fc }).faultKill slot 0x61
    | none => s1
  let vas := g.todo.map fun i => recVa (g.recs.getD i [])
  let bs := w64s (vas.length :: vas)
  (s2.vaWrite none ((s.migTarget g).map (·.2.part)) g.dasid .write (piecesOf (migUlst g.m) bs.length) bs).1

/-- PULL_ATTEMPT_TIMEOUT (R389): an attempt that has taken PTO counts as failed; the page is lost with its last attempt, or when no route to the source is up. -/
def execPullAttemptTimeout (stream : Nat) (s : State) : Host.Outcome State Fault Refusal :=
  .next (match look s.dune.streams stream with
    | none => s
    | some g =>
      match g.pull with
      | none => s
      | some (i, t0) =>
        if !g.atDest || s.ns < t0 + 1000 * migTimeout g.m then s
        else if migTries g.m ≤ g.attempts + 1 || s.routeTo (((s.migTarget g).map (·.2.part)).getD 0) g.src == some none then s.pageLost stream g
        else s.modMig stream fun x => { x with pull := some (i, s.ns), attempts := g.attempts + 1 })

end Sys2Proof.Machine
end

