-- ==== Sys2Proof/Machine/Links.lean ====
section
/-! DEFINITION. Solvy links (14 R405 to R407, R410): lane-group control, training, flits with their replays, and the loss of a lane group. -/

namespace Sys2Proof.Machine

/-! ### Control (R405) -/

def laneBase (g : Nat) : Nat := 0x7F0005000000 + 8 * g

/-- A write of a control register. -/
def LaneGroup.write (lg : LaneGroup) (v : Nat) : LaneGroup :=
  let old := lg.cfg.toNat
  if lg.lst = 2 ∧ fld v 62 56 ≠ fld old 62 56 then lg
  else
    let c := BitVec.ofNat 64 (put 63 56 (fld v 63 56))
    if !bitN v 63 then { lg with cfg := c, lst := 0 }
    else if lg.lst = 0 ∨ lg.lst = 3 then { lg with cfg := c, lst := 1 }
    else { lg with cfg := c }

/-- LANE_GROUP_CONTROL_WRITE (R405). -/
def execLaneGroupControlWrite (m : Master) (g : Nat) (value : W64) (s : State) : Host.Outcome State Fault Refusal :=
  .next (if 64 ≤ g then s else s.regWrite m (laneBase g) fun s => s.modGroup g fun lg => lg.write value.toNat)

/-! ### Flits (R406) -/

/-- The tenant-free place of a lane group's traffic. -/
def State.groupPlace (s : State) (g : Nat) : CtrPlace := { part := (s.partOfGroup g).getD 8 }

/-- The sender resends every flit that is not acknowledged, from its replay buffer; each replay counts for its flit's tenant (R428, R429). -/
def State.replay (s : State) (g : Nat) : State :=
  (((look s.groups g).map (·.unacked)).getD []).foldl (fun (a : State) f => a.count 3 1 { s.groupPlace g with tid := f.tid } 1) s

/-- A region has a span circuit on a lane group (R398). -/
def State.spansOn (s : State) (r : Region) (g : Nat) : Bool :=
  match r.image with
  | some i => i.spans.any fun (_, _, b) => bitN b.toNat 63 && s.laneGroupAt r.part (fld b.toNat 61 56) == some g
  | none => false

/-- A region has a request on its way to a module that no path reaches any more. -/
def State.stranded (s : State) (r : Region) : Bool :=
  r.tiles.any fun t => t.elts.any fun e => e.me.chains.any fun c => c.reqs.any fun q =>
    q.remote && (q.st == .sent || q.st == .performed) &&
      (match q.paddr with
       | some da => s.routeTo r.part (da / 2 ^ 47 % 8192) == some none
       | none => false)

/-- The fault of a lost link (R350, R407). -/
def lostFault (g : Nat) : FaultRec := { code := 0x60, det := put 7 4 (g / 8) + put 3 0 (g % 8), src := 6, xna := true }

/-- The flits of a lost group, each with the group and number it went out under (R410). -/
def LaneGroup.toResend (lg : LaneGroup) : List Flit := (lg.unacked.map fun f => { f with orig := f.lead :: f.orig }) ++ lg.waiting

/-- Resend the flits of a lost group in their order on the paths that now stand. Those without a path are given up; so are span tokens, which
have no other path (R398), and hop units, which their engine sends again (R383). -/
def State.resend (s : State) : List Flit → State
  | [] => s
  | f :: r =>
    if f.kind = 0 then
      match s.groupToward f.part f.mod with
      | some g => State.resend ((s.sendFlit { f with num := 0 } g).count 3 1 { part := f.part, tid := f.tid } 1) r
      | none => State.resend s r
    else State.resend s r

/-- The stripes of flits that another group carries are not sent once more if that group is lost too. -/
def LaneGroup.sentAgain (lg : LaneGroup) (leads : List (Nat × Nat)) : LaneGroup :=
  { lg with unacked := lg.unacked.map fun f => if leads.contains f.lead then { f with kind := 3 } else f }

/-- The flits that wait at a group's sub-link go out while there is room in the replay buffers of its groups (R406). -/
def State.refill (s : State) (g : Nat) : Nat → State
  | 0 => s
  | fuel + 1 =>
    let gs := s.stripes g
    match gs.findSome? fun h => ((look s.groups h).bind fun x => x.waiting.head?).map fun f => (h, f) with
    | none => s
    | some (h, f) =>
      if gs.any fun k => ((look s.groups k).map LaneGroup.full).getD false then s
      else
        let s1 := s.modGroup h fun x => { x with waiting := x.waiting.tail }
        let lead := gs.head?.map fun g0 => (g0, ((look s.groups g0).map (·.tx)).getD 0)
        State.refill (s1.putFlit gs { f with lead := lead.getD (h, 0) }) g fuel

/-- Destination pulls whose source no route reaches lose their page (R389). -/
def State.lostPulls (s : State) : State :=
  s.dune.streams.foldl (fun (a : State) p =>
    let part := ((a.migTarget p.2).map (·.2.part)).getD 0
    if p.2.atDest && p.2.pull.isSome && a.routeTo part p.2.src == some none then a.pageLost p.1 p.2 else a) s

/-- Migrations of this module whose destination no route reaches fail with 0x60 (R390). -/
def State.lostMigs (s : State) : State :=
  s.dune.streams.foldl (fun (a : State) p =>
    match a.region p.2.slot with
    | none => a
    | some r =>
      if !p.2.atDest && a.routeTo r.part (migModule p.2.m) == some none then a.failMig p.1 p.2 r { code := 0x60, det := (lostFault (a.routeFirst r.part (migModule p.2.m))).det }
      else a) s

/-- A lane group is lost: its flits move to the next path, collective hops are rerouted, or the agents that need the link fail with 0x60 (R383, R407) (DEDUCED, log entry 76). -/
def State.loseGroup (s : State) (g : Nat) : State :=
  match look s.groups g with
  | none => s
  | some lg =>
    let leads := lg.unacked.map (·.lead)
    let s0 : State := { s with groups := s.groups.map fun p => if p.1 = g then p else (p.1, p.2.sentAgain leads) }
    let s1 := s0.modGroup g fun x => { x with lst := 3, unacked := [], waiting := [], replays := 0, refused := none }
    let s2 := (List.range 8).foldl (fun (a : State) k => a.rerouteColl g k) (s1.resend lg.toResend)
    let s3 := s2.regions.foldl (fun (a : State) p =>
      if a.spansOn p.2 g || a.stranded p.2 then a.raiseFault p.1 (lostFault g) else a) s2
    s3.lostPulls.lostMigs

/-- LANE_GROUP_TRAINING_DONE (R405, R285): a group in training is up, knows its peer, and resends what was not acknowledged; training
gives the module its number. -/
def execLaneGroupTrainingDone (g gen peerMod peerGroup own : Nat) (s : State) : Host.Outcome State Fault Refusal :=
  .next (match look s.groups g with
    | none => s
    | some lg =>
      if lg.lst != 1 || gen = 0 || 3 ≤ gen then s
      else
        let s1 := s.modGroup g fun x =>
          { x with lst := 2, gen := gen, pmod := peerMod % 8192, plg := peerGroup % 64, rxSeq := 0, refused := none, replays := 0, ackAt := s.ns }
        ({ s1 with xlat := { s1.xlat with xmod := own % 8192 } } : State).replay g)

/-- What a peer's acknowledgement, and its refusal of the flit after it, do to a sender: `replays` counts the sending's refusals in a row, the
first of which is that of the flit's first sending. -/
def LaneGroup.acked (lg : LaneGroup) (n : Nat) (refused : Bool) (ns : Nat) : LaneGroup :=
  let left := lg.unacked.dropWhile fun u => u.num != n
  let left := if lg.tx = n then [] else if left.isEmpty then lg.unacked else left
  let moved := decide (left.length < lg.unacked.length)
  { lg with unacked := left, ackAt := if moved then ns else lg.ackAt, replays := (if moved then 0 else lg.replays) + b2n (refused && !left.isEmpty) }

/-- What a received flit does to the receiver: the next number is taken, a bad CRC is refused, a number already held is discarded. -/
def LaneGroup.received (lg : LaneGroup) (seq : Nat) (crcOk : Bool) : LaneGroup :=
  if !crcOk then { lg with refused := some lg.rxSeq }
  else if seq = lg.rxSeq then { lg with rxSeq := (lg.rxSeq + 1) % 65536, refused := none }
  else lg

/-! ### What arrives on a link (R276, R289, R291, R383, R388 to R392) -/

/-- A denial at a link port: its record goes to the journal of the partition whose list holds the group, if any does (R291). -/
def State.linkDenial (s : State) (g mid a : Nat) (k : AKind) : State :=
  match s.partOfGroup g with
  | none => s
  | some p =>
    s.journal p 0 (j2Word 0 0xFF 0 3 0xFF 0) 0 a (put 63 56 0x12) 0 (k.code + put 19 8 mid + put 25 20 (32 + g / 8))

/-- An access of another module passes the table of the link port that it comes through, and then that of its home (R289) (DEDUCED, log entry 118). -/
def State.linkCheck (s : State) (g mid addr : Nat) (k : AKind) (n : Nat) (atomicOp : Bool) : State × Bool :=
  match s.localOf addr with
  | none => (s, false)
  | some a =>
    if !s.checkTable (32 + g / 8) mid (((look s.groups g).map (·.pmod)).getD 0) (fld a 46 16) k then (s.linkDenial g mid a k, false)
    else match s.check { mid := mid } addr k n atomicOp with
      | (s1, none) => (s1, true)
      | (s1, some _) => (s1, false)

/-- An answer of this module goes back over the sub-link that a request came on. -/
def State.reply (s : State) (g n : Nat) (load : FlitLoad := .none_) : State :=
  s.sendBytes { part := (s.partOfGroup g).getD 8, tid := 0, mod := ((look s.groups g).map (·.pmod)).getD 0, load := load } g n

/-- This module's sight of bytes of another module's memory (R276, R298 to R300). -/
def State.viewFar (s : State) (addr : Nat) (bytes : List Byte) (psn : Bool) : State :=
  match s.localOf addr with
  | some _ => s
  | none => s.memPut addr bytes psn

/-- What a message of another module does (DESIGN CHOICE, log entry 110). -/
def State.inbound (s : State) (g : Nat) (msg : LinkMsg) : State :=
  match msg with
  | .header => s
  | .read mid addr n => 
    let (s1, ok) := s.linkCheck g mid addr .read n false
    if ok then s1.reply g n (.answer (s1.memGet addr n) (s1.memPsn addr n)) else s1.reply g 1
  | .write mid addr bytes psn =>
    let (s1, ok) := s.linkCheck g mid addr .write bytes.length false
    (if ok then s1.memPut addr bytes psn else s1).reply g 1
  | .atomic mid addr o ret t b c =>
    let (s1, ok) := s.linkCheck g mid addr .atomic t.bytes (hostAtomicOk o ret t)
    if ok then
      let (s2, old, psn) := s1.atomicAt addr o t b c false
      s2.reply g 8 (if ret then .answer (toBytes t.bytes old) psn else .none_)
    else s1.reply g 1
  | .relay part tid m => s.sendTo { part := part, tid := tid, mod := m } 64
  | .pageList seq m recs =>
    match s.dune.freeStream with
    | some k => s.takeList k (((look s.groups g).map (·.pmod)).getD 0) seq m recs
    | none => s
  | .pull seq rec => (match s.dune.bySeq seq with | some (k, m) => s.servePull k m rec | none => s)
  | .failed seq code => (match s.dune.bySeq seq with | some (k, m) => s.endMigration k m code | none => s)
  | .lost seq => (match s.dune.bySeq seq with | some (k, m) => s.endMigration k m 0x61 | none => s)
  | .policy _ bytes => ((s.installPolicy bytes).1).reply g 1
  | .policyResult seq code => (match s.dune.bySeq seq with | some (k, m) => s.policyAnswer k m code | none => s)
  | .session tid bank sel events counts scat => s.carrySession tid bank sel events counts scat
  | .view addr bytes psn => s.viewFar addr bytes psn
  | .pause k after on => if k < 8 then s.pauseTold k after on else s
  | .denied addr => if (s.localOf addr).isSome || s.far.contains (addr % 2 ^ 60) then s else { s with far := s.far ++ [addr % 2 ^ 60] }

/-- A message that this module has no room to take yet: a page list with every stream in use (R269). -/
def State.noRoom (s : State) : LinkMsg → Bool
  | .pageList .. => s.dune.freeStream.isNone
  | _ => false

/-- A flit that moved to this path was held already (R410): a group of ours whose peer is the group it was sent on has taken its number. -/
def State.heldAlready (s : State) (g : Nat) (orig : List (Nat × Nat)) : Bool :=
  let pmod := (look s.groups g).map (·.pmod)
  orig.any fun (pg, n) => s.groups.any fun (_, lg) =>
    some lg.pmod == pmod && lg.plg == pg && decide (1 ≤ (lg.rxSeq + 65536 - n) % 65536) && decide ((lg.rxSeq + 65536 - n) % 65536 ≤ 32768)

/-- FLIT_RECEIVE (R406): a flit arrives and its CRC is checked; it carries what the peer has acknowledged (every flit below `acked`) and
whether it refuses flit `acked`, which makes this side replay from it; the next flit in order brings its message, unless it moved here from a lost
group and is held already (R410). A flit whose 64 replays in a row have failed too loses the group. -/
def execFlitReceive (g : Nat) (f : FlitIn) (crcOk : Bool) (acked : Nat) (refused : Bool) (s : State) : Host.Outcome State Fault Refusal :=
  .next (match look s.groups g with
    | none => s
    | some lg =>
      if lg.lst != 2 || (crcOk && f.seq == lg.rxSeq && s.noRoom f.msg) then s
      else
        let lg1 := lg.received f.seq crcOk
        let lg2 := if crcOk then lg1.acked acked refused s.ns else lg1
        let s1 := s.modGroup g fun _ => lg2
        let s2 := (if crcOk && refused then s1.replay g else s1).refill g 512
        if 64 < lg2.replays then s2.loseGroup g
        else if crcOk && f.seq == lg.rxSeq && !s.heldAlready g f.orig then s2.inbound g f.msg
        else s2)

/-- LANE_GROUP_LOST (R406): training has failed, or the peer has not acknowledged for 100 µs. -/
def execLaneGroupLost (g : Nat) (s : State) : Host.Outcome State Fault Refusal :=
  .next (match look s.groups g with
    | none => s
    | some lg =>
      if lg.lst = 1 ∨ (lg.lst = 2 ∧ !lg.unacked.isEmpty ∧ lg.ackAt + 100000 ≤ s.ns) then s.loseGroup g else s)

/-- CXL_SNOOP (R408): the device holds no host line and answers with a miss; nothing changes. -/
def execCxlSnoop (_addr : Nat) (s : State) : Host.Outcome State Fault Refusal := .next s

end Sys2Proof.Machine
end

