-- ==== Sys2Proof/Machine/Scan.lean ====
section
/-! DEFINITION. The front end's queues (11 R306 to R318, R320, R321): NOTIFY, the configuration words of a VCP, scans with their validation and
tamper checks, the fetching and the acceptance of packets, completion entries. -/

namespace Sys2Proof.Machine

/-! ### Registers of a VCP (R306, R308, R309) -/

/-- Address of a VCP's configuration words. -/
def vcpBase (v : Nat) : Nat := 0x7F0002000000 + 0x20 * v

/-- Queues join the pending mask of a VCP, and the VCP its class's service list (R309). -/
def State.notify (s : State) (v qmsk : Nat) : State :=
  if 256 ≤ v || !(s.vcp v).en then s
  else
    let m := if qmsk % 16 = 0 then 15 else qmsk % 16
    let s1 := s.modVcp v fun c => { c with scan := c.scan ||| m }
    if s.service.contains v then s1 else { s1 with service := s1.service ++ [v] }

/-- NOTIFY (R309). -/
def execNotify (v qmsk : Nat) (s : State) : Host.Outcome State Fault Refusal := .next (s.notify v qmsk)

/-- A queue after vc0 or vc1 has been written: not stopped, its page to be validated afresh (DEDUCED, log entry 67). -/
def VQueue.afresh (x : VQueue) : VQueue := { x with stop := none, valid := false, tampered := [] }

/-- A write of a configuration word. -/
def State.writeVcp (s : State) (v word n : Nat) : State :=
  match word with
  | 0 => s.modVcp v fun c =>
      { c with vc0 := .ofNat 64 (put 63 62 (fld n 63 62) + put 50 20 (fld n 50 20)), shv := false, queues := c.queues.map (·.afresh) }
  | 1 => s.modVcp v fun c => { c with vc1 := .ofNat 64 (put 51 12 (fld n 51 12)), shv := false, queues := c.queues.map (·.afresh) }
  | _ => s

/-- VCP_CONFIG_WRITE (R306). -/
def execVcpConfigWrite (m : Master) (v word : Nat) (value : W64) (s : State) : Host.Outcome State Fault Refusal :=
  .next (if 256 ≤ v || 4 ≤ word then s else s.regWrite m (vcpBase v + 8 * word) fun s => s.writeVcp v word value.toNat)

/-! ### Validation and tampering (R320, R321) -/

/-- The privileged fields of a QCB: offset and value of PCLS, PART, RSZ, FSZ, RING, CRING, FQA. -/
def privFields (ws : List W64) : List (Nat × Nat) :=
  [(0, fld (wd ws 0) 59 58), (0, fld (wd ws 0) 57 55), (0, fld (wd ws 0) 54 51), (0, fld (wd ws 0) 50 47),
    (8, fld (wd ws 1) 51 12), (16, fld (wd ws 2) 51 12), (24, fld (wd ws 3) 51 12)]

/-- The first validation of a queue (DEDUCED, log entry 68). -/
def State.privOk (s : State) (c : Vcp) (ws : List W64) : Bool :=
  let rsz := fld (wd ws 0) 54 51
  let fsz := fld (wd ws 0) 50 47
  let part := fld (wd ws 0) 57 55
  let ring := fld (wd ws 1) 51 12
  let cring := fld (wd ws 2) 51 12
  let fqa := fld (wd ws 3) 51 12
  s.isPart part && (s.tenants part).contains c.tid && decide (c.mcls ≤ fld (wd ws 0) 59 58) && decide (4 ≤ rsz) && decide (4 ≤ fsz) &&
    decide (fsz ≤ 12) && ring != cring && ring != fqa && cring != fqa

/-- TAMPER_EVENT: each new differing value of a field is reported once, to the fault ring and the journal, and counted (DEDUCED, log entry 48). -/
def State.tamper (s : State) (v q : Nat) (ws : List W64) : State :=
  let x := (s.vcp v).queue q
  let c := s.vcp v
  let now := privFields ws
  let held := privFields (x.priv.getD [])
  (List.range 7).foldl (fun (a : State) i =>
    let (off, val) := now.getD i (0, 0)
    if val = (held.getD i (0, 0)).2 || ((a.vcp v).queue q).tampered.contains (i, val) then a
    else
      let a1 := (a.modQueue v q fun y => { y with tampered := y.tampered ++ [(i, val)] }).modVcp v fun d => { d with tcnt := min 0xFFFF (d.tcnt + 1) }
      let a2 := a1.journal x.part c.tid (j2Word c.tid v q 2 0xFF 0) 0 0 (put 63 56 0x71) 0 (put 63 56 off + val)
      let f : FaultRec := { code := 0x71, det := off, src := 9, xna := true, info := val, time := s.ns }
      a2.guestFault (.vcp v q (s.view v q)) x.part (f.words 0 c.tid c.asid)) s

/-! ### Fetching and acceptance (R311, R312, R314) -/

def Packet.opc (p : Packet) : Nat := fld (wd p.pw 0) 63 56

/-- FNC asks that every earlier packet of the queue is finished. -/
def Packet.fnc (p : Packet) : Bool := bitN (wd p.pw 0) 55

/-- The reference of a packet, once it is accepted. -/
def State.refOf (s : State) (p : Packet) : PktRef :=
  { v := p.v, q := p.q, seq := s.nextSeq p.view.part, tag := fld (wd p.pw 0) 31 0, rix := p.rix, opc := p.opc, ncm := bitN (wd p.pw 0) 54
    order := s.accepts, view := p.view }

/-- A command of the queue. -/
def PktRef.of (o : PktRef) (v q : Nat) : Bool := o.v == v && o.q == q

/-- An accepted LAUNCH of the queue has found no placement (DEDUCED, log entry 65). -/
def State.launchWaits (s : State) (v q : Nat) : Bool :=
  (s.launches.any fun r => (r.owner.map fun o => o.of v q) == some true) ||
    s.regions.any fun e => e.2.state == .loading && e.2.place.isNone && e.2.searched && (e.2.owner.map fun o => o.of v q) == some true

/-- The completion ring of a queue holds all the entries it can (DEDUCED, log entry 90). -/
def VQueue.ringFull (x : VQueue) (rsize : Nat) : Bool := (x.ctail + rsize - x.chead) % rsize == rsize - 1

/-- A packet may not be accepted now (R314, R315, R317). -/
def State.holds (s : State) (p : Packet) : Bool :=
  let x := (s.vcp p.v).queue p.q
  x.stop.isSome || x.waiting.isSome || s.launchWaits p.v p.q || x.ringFull p.view.rsize || (p.fnc && !x.live.isEmpty)

/-- The packet that is accepted next: the first fetched one whose queue's first may be accepted. -/
def State.nextPacket (s : State) : Option Packet :=
  s.pipe.find? fun p => (s.pipe.find? fun o => o.v == p.v && o.q == p.q) == some p && !s.holds p

/-- A queue takes nothing in a visit: its next packet waits under R314. -/
def State.held (s : State) (v q : Nat) : Bool :=
  let x := (s.vcp v).queue q
  x.waiting.isSome || s.launchWaits v q || x.ringFull (s.view v q).rsize ||
    ((s.pipe.find? fun o => o.v == v && o.q == q).map fun p => p.fnc && !x.live.isEmpty) == some true

/-- Accept a packet: its accepted record with OBJ, and HEAD past it (R314, R333). -/
def State.accept (s : State) (p : Packet) (obj : Nat) : State × PktRef :=
  let r := s.refOf p
  let w := p.view
  let s1 := s.journal w.part w.tid (j2Word w.tid p.v p.q 1 0 p.opc) (put 63 32 r.tag + put 31 16 p.rix) obj 0 r.seq 0
  let s2 := (s1.modQueue p.v p.q fun y => { y with head := (p.rix + 1) % w.rsize, live := y.live ++ [r.seq] }).count 6 0 { part := w.part, tid := w.tid } 1
  (({ s2 with accepts := s2.accepts + 1, pipe := s2.pipe.erase p } : State).writeDev p.v p.q w, r)

/-- Fetch up to `fuel` packets of a queue; whether packets are left. -/
def State.fetchLoop (s : State) (v q tail : Nat) : Nat → State × Bool
  | 0 => (s, ((s.vcp v).queue q).fetch != tail)
  | fuel + 1 =>
    let x := (s.vcp v).queue q
    let w := s.view v q
    if x.fetch = tail || x.stop.isSome then (s, false)
    else if s.held v q then (s, true)
    else match s.vcpRead w (w.ring + 64 * x.fetch) 64 .read with
      | (s1, .error _) => (s1.stopQueue v q 3, false)
      | (s1, .ok bs) =>
        let p : Packet := { v := v, q := q, rix := x.fetch, pw := words64 8 bs, view := w }
        State.fetchLoop (({ s1 with pipe := s1.pipe ++ [p] } : State).modQueue v q fun y => { y with fetch := (y.fetch + 1) % w.rsize }) v q tail fuel

/-- Fetch packets of a queue whose fields stand. -/
def State.fetchFrom (s : State) (v q g : Nat) : State × Bool :=
  let w := s.view v q
  if w.rsize ≤ fld g 15 0 || w.rsize ≤ fld g 47 32 || w.fsize ≤ fld g 31 16 then (s.stopQueue v q 2, false)
  else (s.modQueue v q fun y => { y with chead := fld g 47 32 }).fetchLoop v q (fld g 15 0) 8

/-- An opcode that is not defined (R313). -/
def Packet.undefined (p : Packet) : Bool := p.opc == 0 || decide (10 ≤ p.opc)

/-- Packets with opcodes that are not defined are refused as their turn comes. -/
def State.refuseUndefined (s : State) : Nat → State
  | 0 => s
  | fuel + 1 =>
    match s.nextPacket with
    | none => s
    | some p => if p.undefined then State.refuseUndefined (let (s1, r) := s.accept p 0; s1.finish r 4 0 0 (refuseWord .badArg) 0) fuel else s

/-- Scan one queue: EN, the privileged fields, then its packets. -/
def State.scanQueue (s : State) (v q : Nat) : State × Bool :=
  if ((s.vcp v).queue q).stop.isSome then (s, false)
  else match s.vcpRead (s.view v q) ((s.vcp v).page + 0x40 * q) 64 .control with
    | (s1, .error _) => (s1.stopQueue v q 3, false)
    | (s1, .ok bs) =>
      let ws := words64 8 bs
      let en := bitN (wd ws 0) 63
      let s2 := s1.modQueue v q fun y => { y with en := en }
      let x := (s2.vcp v).queue q
      if !en then (if x.live.isEmpty then s2.unfetch v q else s2.stopQueue v q 4, false)
      else if x.valid then (s2.tamper v q ws).fetchFrom v q (wd ws 4)
      else if !s2.privOk (s2.vcp v) ws then (s2.stopQueue v q 1, false)
      else ((s2.modQueue v q fun y => { y with valid := true, priv := some (ws.take 4) }).modVcp v fun c => { c with shv := true }).fetchFrom v q (wd ws 4)

/-- A VCP's class (R311): the lowest PCLS among its enabled queues; before its first scan, the highest it may claim (DESIGN CHOICE, log entry 66). -/
def Vcp.cls (c : Vcp) : Nat :=
  match (c.queues.filter fun x => x.en && x.valid).map (·.pcls) with
  | [] => c.mcls
  | p :: ps => ps.foldl min p

/-- The VCP that Bedrock takes next. -/
def State.nextVcp (s : State) : Option Nat :=
  (List.range 4).findSome? fun k => s.service.find? fun v => (s.vcp v).cls == k

/-- VCP_SCAN (R309, R311): one visit of the VCP at the head of the lowest class. -/
def execVcpScan (s : State) : Host.Outcome State Fault Refusal :=
  .next (match s.nextVcp with
    | none => s
    | some v =>
      let mask := (s.vcp v).scan
      let s1 : State := ({ s with service := s.service.filter (· != v) } : State).modVcp v fun c => { c with scan := 0 }
      if !(s.vcp v).en then s1
      else
        let (s2, left) := ((List.range 4).filter (bitN mask ·)).foldl (fun (a : State × Nat) q =>
          let (b, more) := a.1.scanQueue v q
          (b, if more then a.2 + 2 ^ q else a.2)) (s1, 0)
        let s3 := s2.modVcp v fun c => { c with nseq := (c.nseq + 1) % 2 ^ 32, scan := c.scan ||| left }
        (if left = 0 then s3 else { s3 with service := s3.service ++ [v] }).refuseUndefined s3.pipe.length)

/-! ### Completion entries (R315, R334) -/

/-- Write a due entry at CTAIL, then CTAIL past it, and raise the queue's vector (R408); while it cannot be written it stays due. -/
def State.writeEntry (s : State) (v q : Nat) (d : DueEntry) (rest : List DueEntry) : State :=
  let w := d.view
  match s.guestWord v q w with
  | (s1, none) => s1
  | (s1, some g) =>
    let x := (s1.vcp v).queue q
    let chead := fld g 47 32
    let s2 := s1.modQueue v q fun y => { y with chead := chead }
    if w.rsize ≤ chead then s1.stopQueue v q 2
    else if (x.ctail + w.rsize - chead) % w.rsize = w.rsize - 1 then s2
    else
      let ph := b2n (x.ctotal / w.rsize % 2 == 0)
      let bs := bytesOf64 [BitVec.ofNat 64 (put 63 63 ph + wd d.words 0), d.words.getD 1 0, d.words.getD 2 0, d.words.getD 3 0]
      match s2.vcpWrite w (w.cring + 32 * x.ctail) bs with
      | (s3, some _) => s3.stopQueue v q 3
      | (s3, none) =>
        ((s3.modQueue v q fun y => { y with due := rest, ctail := (y.ctail + 1) % w.rsize, ctotal := (y.ctotal + 1) % (2 * w.rsize) }).writeDev v q w).raiseVector v q

/-- COMPLETION_ENTRY_WRITE (R315, R334): the oldest due entry of a queue, whose record stands in the journal, is written when the ring has room. -/
def execCompletionEntryWrite (v q : Nat) (s : State) : Host.Outcome State Fault Refusal :=
  .next (match ((s.vcp v).queue q).due with
    | [] => s
    | d :: rest => s.writeEntry v q d rest)

end Sys2Proof.Machine
end

