-- ==== Sys2Proof/Machine/StreamForms.lean ====
section
/-! DEFINITION. The control-core forms over streams and MX contexts (09 R254 to R256): STRM, STRMB, STRMQ and SARM. -/

namespace Sys2Proof.Machine

/-- States in which a region takes stream commands (R254). -/
def RState.takesStrm : RState → Bool
  | .loading | .resident | .frozen | .faulted | .rolledBack => true
  | .draining | .saved | .killed => false

/-- Commands that a stream of a region holds: in its queue, or waiting for the region to load. -/
def Region.cmdsAt (r : Region) (x y i : Nat) : Nat :=
  (r.waitCmds.filter fun e => e.1 == (x, y, i)).length + (((r.me x y).map fun m => (m.stream i).cmds.q.length).getD 0)

/-- The next number of a stream's commands. -/
def Region.nextSeq (r : Region) (x y i : Nat) : Nat :=
  match r.me x y with
  | some m => (m.stream i).cmds.next
  | none => (r.waitCmds.filter fun e => e.1 == (x, y, i) && e.2.stream i == i).length

/-- Put an accepted command into the queue of one stream. -/
def Region.enqueue (r : Region) (x y i : Nat) (c : Cmd) (number : Bool) : Region :=
  if r.state = .loading then { r with waitCmds := r.waitCmds ++ [((x, y, i), c)] }
  else r.modMe x y fun m => m.modStream i fun t =>
    { t with cmds := { t.cmds with q := t.cmds.q ++ [c], next := if number then (t.cmds.next + 1) % 2 ^ 32 else t.cmds.next } }

/-- Accept a stream command on the streams of an ME (R246, R247, R254, R255) (DESIGN CHOICE, log entry 125). -/
def State.acceptStrm (s : State) (slot : Nat) (r : Region) (kind : Nat) (c : List W64) (streams : List Nat) : FormEnd :=
  let x := fld (wd c 3) 6 0
  let y := fld (wd c 3) 11 7
  let i := streams.headD 0
  if r.state != .loading && (r.me x y).isNone then refuse s .badArg
  else if streams.any fun k => decide (16 ≤ r.cmdsAt x y k) then refuse s .busy
  else
    let cmd : Cmd := { kind := kind, c := c, seq := r.nextSeq x y i % 2 ^ 32, hart := s.cur, tid := s.curTid, asid := r.asid, part := r.part }
    let (s1, cmd1) := s.recordPar (.stream slot x y i) cmd
    .ret (ticketOf (.stream slot x y i) cmd1) (s1.modRegion slot fun q => streams.foldl (fun (a : Region) k => a.enqueue x y k cmd1 (k == i)) q)

/-- The shared course of STRM and STRMB: block, handle, state, header, kind word. -/
def strmForm (s : State) (h va kind : Nat) (kindOk : List W64 → Bool) (streams : List W64 → List Nat) : FormEnd :=
  if va % 128 != 0 then refuse s .align
  else withBlock s false va 128 fun s c =>
    withRegion s h fun slot r =>
      if !r.state.takesStrm || r.midSwitch then r.refuseState s
      else match headerRefuse c kind true with
        | some e => refuse s e
        | none => if !kindOk c then refuse s .badArg else s.acceptStrm slot r kind c (streams c)

/-- STRM (R254). -/
def execStrmCommand (rd rs1 rs2 : BitVec 5) (s : State) : Host.Outcome State Fault Refusal :=
  .next (form s false (formWord (.strmCommand rd rs1 rs2)) rd fun s =>
    strmForm s (s.xreg rs1) (s.xreg rs2) 1 (fun c => fld (wd c 3) 63 15 == 0 && (c.drop 12).all (· == 0)) fun c => [fld (wd c 3) 14 12])

/-- STRMB (R255). -/
def execStrmb (rd rs1 rs2 : BitVec 5) (s : State) : Host.Outcome State Fault Refusal :=
  .next (form s false (formWord (.strmb rd rs1 rs2)) rd fun s =>
    strmForm s (s.xreg rs1) (s.xreg rs2) 2
      (fun c => fld (wd c 3) 63 23 == 0 && fld (wd c 3) 14 12 == 0 && fld (wd c 3) 22 15 != 0 && (c.drop 4).all (· == 0))
      fun c => (List.range 8).filter fun k => bitN (wd c 3) (15 + k))

/-- What STRMQ says of a stream (R217, R256). -/
def Region.streamWord (r : Region) (x y i : Nat) : Option Nat :=
  match r.me x y with
  | some m =>
    let t := m.stream i
    let q := t.query (r.stopped (.stream x y i) || r.state == .frozen || r.state == .faulted)
    some (lane 32 0 q % 4 + put 6 2 (r.cmdsAt x y i) + put 7 7 (b2n ((t.run.map fun g => !g.fromCmd).getD false)) + put 39 8 (lane 32 1 q))
  | none => if r.state = .loading then some (put 6 2 (r.cmdsAt x y i)) else none

/-- STRMQ (R256). -/
def execStrmqCommand (rd rs1 rs2 : BitVec 5) (s : State) : Host.Outcome State Fault Refusal :=
  .next (form s false (formWord (.strmqCommand rd rs1 rs2)) rd fun s =>
    let w := s.xreg rs2
    withRegion s (s.xreg rs1) fun _ r =>
      if r.midSwitch then r.refuseState s
      else if fld w 63 15 != 0 then refuse s .badArg
      else match r.streamWord (fld w 6 0) (fld w 11 7) (fld w 14 12) with
        | some v => .ret v s
        | none => refuse s .badArg)

/-- Arm an MX context of a region as an arm word says (R230, R256); the arm takes effect at the end of the fc. -/
def State.armRegion (s : State) (slot : Nat) (r : Region) (w : Nat) : Except (Refuse × Nat) State :=
  let x := fld w 6 0
  let y := fld w 11 7
  if !(r.state == .resident || r.state == .frozen || r.state == .faulted) || r.midSwitch then .error (.state, r.state.code)
  else if fld w 31 14 != 0 || (r.elem x y .mx).isNone then .error (.badArg, 0)
  else .ok (s.modRegion slot fun q => q.modCtx x y (fld w 13 12) fun m => { m with pend := m.pend ++ [fld w 63 32] })

/-- SARM (R256). -/
def execSarm (rd rs1 rs2 : BitVec 5) (s : State) : Host.Outcome State Fault Refusal :=
  .next (form s false (formWord (.sarm rd rs1 rs2)) rd fun s =>
    let w := s.xreg rs2
    withRegion s (s.xreg rs1) fun slot r =>
      match s.armRegion slot r w with
      | .error (e, low) => refuse s e low
      | .ok s1 => .ret 0 s1)

end Sys2Proof.Machine
end

