-- ==== Sys2Proof/Machine/Packets.lean ====
section
/-! DEFINITION. The command packets (11 R313, R314, R318, R319): each opcode's checks, effect and result; WAITs; a fault inside Bedrock and its update.
Bedrock runs the packets in acceptance order: an event acts when the packet that is accepted next has its opcode. -/

namespace Sys2Proof.Machine

/-! ### A packet's course -/

/-- The tenant, partition and site for which a packet acts (DEDUCED, log entry 50). -/
def Packet.asker (p : Packet) : Asker :=
  { hart := 64, tid := p.view.tid, part := p.view.part, die := p.view.part / 2, only := some p.view.tid }

/-- What the check of a packet gives: it is accepted with an OBJ, and its effect follows; a refusal; or a fault of its own accesses. -/
inductive Checked where
  | go (s : State) (obj : Nat) (f : State → PktRef → State)
  | refused (s : State) (e : Refuse) (low : Nat := 0)
  | fault (s : State) (f : AccFault)

/-- A packet that completes as it is accepted: its effect, result and OBJ. -/
def Checked.done (s : State) (res obj : Nat) (f : State → State := id) : Checked := .go s obj fun s r => (f s).finish r 3 0 res 0 obj

/-- An accepted packet whose own accesses fault is faulted with the code, and the record goes to its queue's fault ring (R316, R334) (DEDUCED, log entry 61). -/
def State.faultPacket (s : State) (r : PktRef) (f : AccFault) : State :=
  (s.finish r 4 f.code 0 0 0).deliverTo (.vcp r.v r.q r.view) r.view.part r.view.tid r.view.asid
    { code := f.code, det := f.detOr 4, src := 9, info := f.info % 2 ^ 60 }

/-- Accept a checked packet. A refused packet has no other effect (R313, R314) (DEDUCED, log entry 62). -/
def State.handOver (s0 : State) (p : Packet) (c : Checked) : State :=
  match c with
  | .go s obj f => let (s1, r) := s.accept p obj; f s1 r
  | .refused s e low => let (s1, r) := ({ s with cbcache := s0.cbcache } : State).accept p 0; s1.finish r 4 0 0 (refuseWord e low) 0
  | .fault s f => let (s1, r) := s.accept p 0; s1.faultPacket r f

/-- Reserved bits of the header, and words that the opcode does not name. -/
def packetClean (pw : List W64) (named : Nat) : Bool := fld (wd pw 0) 53 32 == 0 && (pw.drop (named + 1)).all (· == 0)

/-- Run the packet that is accepted next, when it has the opcode (DESIGN CHOICE, log entry 104). -/
def withPacket (s : State) (opc named : Nat) (k : State → Packet → Checked) : State :=
  match s.nextPacket with
  | none => s
  | some p =>
    if p.opc != opc then s
    else
      (if p.gone then (let (s1, r) := s.accept p 0; s1.finish r 5 0 0 0 0)
       else s.handOver p (if packetClean p.pw named then k s p else .refused s .badArg)).refuseUndefined s.pipe.length

/-- The packet's address space belongs to its tenant (R313). -/
def State.packetSpace (s : State) (p : Packet) : Bool := s.asidOf p.view.asid p.view.tid

/-- An engine's check, seen from its packet: the ticket's command finishes it later. -/
def Ready.packet (t : Ready) : Checked :=
  match t with
  | .ok s q c => .go s (ticketOf q c) fun s r => s.enqueueCmd q { c with pkt := some r }
  | .refused s e low => .refused s e low
  | .fault s f => .fault s f

/-! ### LAUNCH (R313, R318) -/

/-- The placement word of a LAUNCH with its origin in physical columns (DEDUCED, log entry 36). -/
def State.launchPlc (s : State) (part w : Nat) : Nat := if plcAny w then w else w + 16 * (s.partRange part).1

/-- The region of an accepted LAUNCH is loading: in the lowest free slot, where an image that does not pass rejects it, or, while there is none,
among those that wait. -/
def State.startLaunch (s : State) (r : Region) (i : ImgRead) : State :=
  match s.addRegion r, r.owner with
  | some (s1, k), some p => (s1.modQueue p.v p.q fun x => { x with latest := some (s1.handle k) }).takeImage k i
  | none, some p =>
    match i with
    | .ok i => { s with launches := s.launches ++ [{ r with image := some i }] }
    | .bad st => s.finish p 4 (fld st 63 56) 0 st 0
    | .fault f => s.finish p 4 f.code 0 (put 63 56 f.code) 0
  | _, none => s

/-- LAUNCH: its image is read and validated, and its region is loading from acceptance on. Without a free slot it waits, or is refused with BUSY (DEDUCED, log entry 64) (DEDUCED, log entry 85). -/
def State.launchPacket (s : State) (p : Packet) : Checked :=
  let u := p.asker
  let pw := p.pw
  let asid := wd pw 3
  let flags := wd pw 5
  let plc := s.launchPlc u.part (wd pw 2)
  if 2 ^ 52 ≤ wd pw 1 || 2 ^ 52 ≤ wd pw 4 || 4096 ≤ asid || 8 ≤ flags || plcShadow (wd pw 2) || fld (wd pw 2) 47 16 != 0 || !s.plcOk u.part plc then
    .refused s .badArg
  else if wd pw 1 % 64 != 0 || wd pw 4 % 4096 != 0 then .refused s .align
  else if !s.asidOf asid u.tid then .refused s .denied
  else
    let space : Option Nat := some p.view.asid
    let r : Region := { gen := 0, tid := u.tid, asid := asid, part := u.part, plc := plc, img := { addr := wd pw 1, asid := space }
                        save := if wd pw 4 = 0 then {} else { addr := wd pw 4, asid := space }
                        early := bitN flags 1, nowait := bitN flags 2, goWhenEmitted := bitN flags 0 }
    match s.freeSlotAt with
    | none =>
      if bitN flags 2 then .refused s .busy
      else let (s1, i) := s.readImageFor u.part plc r.img; .go s1 0 fun s q => s.startLaunch { r with owner := some q } i
    | some k =>
      let (s1, i) := s.readImageFor u.part plc r.img
      .go s1 (handleOf k ((look s.gens k).getD 0)) fun s q => s.startLaunch { r with owner := some q } i

def execLaunch (s : State) : Host.Outcome State Fault Refusal := .next (withPacket s 1 5 fun s p => s.launchPacket p)

/-! ### ARM, SIGNAL, WAIT -/

/-- The handle that an ARM names. -/
def State.armHandle (s : State) (p : Packet) : Option Nat :=
  if wd p.pw 1 = 0xFFFFFFFF then ((s.vcp p.v).queue p.q).latest else some (wd p.pw 1)

def execArm (s : State) : Host.Outcome State Fault Refusal :=
  .next (withPacket s 2 2 fun s p =>
    match s.armHandle p with
    | none => .refused s .noHandle
    | some h =>
      match s.byHandle h (some p.view.tid) with
      | .error e => .refused s e
      | .ok (slot, r) =>
        match s.armRegion slot r (wd p.pw 2) with
        | .error (e, low) => .refused s e low
        | .ok s1 => .done s1 0 h)

/-- Translate and check a barrier's address for a packet. -/
def State.packetBarrier (s : State) (p : Packet) (va : Nat) (k : AKind) : State × Except AccFault Nat :=
  match vaCheck va 32 with
  | some d => (s, .error { code := 0x11, det := d, info := va })
  | none =>
    match s.walk none (some p.view.part) p.view.asid va k with
    | (s1, .error f) => (s1, .error f)
    | (s1, .ok w) =>
      match s1.check { mid := w.mid, part := some p.view.part, tid := p.view.tid } w.da k 32 with
      | (s2, some f) => (s2, .error (f.atVa va))
      | (s2, none) => (s2, .ok w.da)

/-- SIGNAL: as BARV. -/
def execSignal (s : State) : Host.Outcome State Fault Refusal :=
  .next (withPacket s 3 2 fun s p =>
    let va := wd p.pw 1
    if va % 32 != 0 then .refused s .align
    else if !arriveOk (wd p.pw 2) then .refused s .badArg
    else if !s.packetSpace p then .refused s .denied
    else match s.packetBarrier p va .atomic with
      | (s1, .error f) => .fault s1 f
      | (s1, .ok da) =>
        match s1.arrive da (wd p.pw 2) 1 64 p.view.tid with
        | .error e => .refused s1 e
        | .ok s2 => .done s2 (s2.barPhc da) 0)

/-- WAIT: its queue waits for the phase. -/
def execWait (s : State) : Host.Outcome State Fault Refusal :=
  .next (withPacket s 4 2 fun s p =>
    let va := wd p.pw 1
    if va % 32 != 0 then .refused s .align
    else if 2 ≤ wd p.pw 2 then .refused s .badArg
    else if !s.packetSpace p then .refused s .denied
    else match s.packetBarrier p va .read with
      | (s1, .error f) => .fault s1 f
      | (s1, .ok da) => .go s1 0 fun s r => s.modQueue p.v p.q fun x => { x with waiting := some (da, wd p.pw 2 == 1, r) })

/-- Waiting WAITs: VCP, queue, barrier, parity, reference. -/
def State.waits (s : State) : List (Nat × Nat × Nat × Bool × PktRef) :=
  s.vcps.flatMap fun e => (List.range 4).filterMap fun q => ((e.2.queue q).waiting).map fun w => (e.1, q, w)

/-- WAIT_COMPLETE (R313): a WAIT whose phase has flipped completes; a faulted phase gives the status FAULTED. -/
def execWaitComplete (seq : Nat) (s : State) : Host.Outcome State Fault Refusal :=
  .next (match s.waits.find? fun w => w.2.2.2.2.seq == seq && s.barPh w.2.2.1 != w.2.2.2.1 with
    | none => s
    | some (v, q, da, _, p) =>
      let phc := s.barPhc da
      let s1 := s.modQueue v q fun x => { x with waiting := none }
      if s.barLff da then s1.finish p 4 0 phc (refuseWord .faulted (phc % 2 ^ 48)) 0 else s1.finish p 3 0 phc 0 0)

/-! ### COPY, COLL, MIGRATE -/

/-- A command block that a packet names, read as Bedrock reads the VCP's own words, before the packet is accepted (R320). -/
def withCommand (s : State) (p : Packet) (k : State → List W64 → Ready) : Checked :=
  let va := wd p.pw 1
  if va % 128 != 0 then .refused s .align
  else if !s.packetSpace p then .refused s .denied
  else match vaCheck va 1 with
    | some d => .fault s { code := 0x11, det := d, info := va }
    | none =>
      match s.vcpRead p.view va 128 .control with
      | (s1, .error f) => .fault s1 f
      | (s1, .ok bs) => (k s1 (words64 16 bs)).packet

def execCopy (s : State) : Host.Outcome State Fault Refusal :=
  .next (withPacket s 5 2 fun s p => withCommand s p fun s c =>
    s.checkCopy p.asker (if fld (wd c 0) 63 56 = 4 then 4 else 3) c (wd p.pw 2))

def execCollPacket (s : State) : Host.Outcome State Fault Refusal :=
  .next (withPacket s 6 2 fun s p => withCommand s p fun s c => s.checkColl p.asker c (wd p.pw 2))

def execMigrate (s : State) : Host.Outcome State Fault Refusal :=
  .next (withPacket s 7 1 fun s p =>
    let a := wd p.pw 1
    let u := p.asker
    if !(s.vcp p.v).prv then .refused s .denied
    else if 2 ^ 47 ≤ a then .refused s .badArg
    else if a % 64 != 0 then .refused s .align
    else match s.physRead { mid := 0, part := some u.part } .read [(a, 64)] with
      | (s1, .error f) => .fault s1 f
      | (s1, .ok (bs, _)) =>
        let m := words64 8 bs
        match s1.acceptMigration u m with
        | .error (e, low) => .refused s1 e low
        | .ok (_, t) => .go s1 t fun s r => match s.acceptMigration { u with pkt := some r } m with
          | .ok (s2, _) => s2
          | .error _ => s)

/-! ### QUERY and CANCEL -/

/-- The state word of a ticket of any queried class, for a tenant (R263) (DEDUCED, log entry 63). -/
def State.ticketState (s : State) (t tid : Nat) : Except Refuse Nat :=
  if fld t 63 52 != 0 then .error .badArg
  else match fld t 51 48 with
    | 2 | 3 => s.cmdState t (some tid)
    | 4 =>
      match s.dune.stateWord (fld t 31 0) with
      | some (owner, w) => if owner = tid then .ok w else .error .notFound
      | none => .error .notFound
    | _ => .error .badArg

def execQuery (s : State) : Host.Outcome State Fault Refusal :=
  .next (withPacket s 8 2 fun s p =>
    let tid := p.view.tid
    let sel := wd p.pw 2
    if sel = 16 then
      match s.ticketState (wd p.pw 1) tid with
      | .ok w => .done s w 0
      | .error e => .refused s e
    else if 5 ≤ sel then .refused s .badArg
    else match s.byHandle (wd p.pw 1) (some tid) with
      | .error e => .refused s e
      | .ok (slot, r) =>
        if sel = 2 ∨ sel = 3 then .refused s .denied else .done s ((r.query slot sel).getD 0) (wd p.pw 1))

/-- The LAUNCH of a queue that waits for placement under an accepted record: in a slot, or for one. -/
def PktRef.named (o : PktRef) (p : Packet) (seq : Nat) : Bool := o.of p.v p.q && o.seq == seq

def State.waitingLaunch (s : State) (p : Packet) (seq : Nat) : Option Nat :=
  (s.regions.find? fun e => e.2.state == .loading && e.2.place.isNone && (e.2.owner.map fun o => o.named p seq) == some true).map (·.1)

def State.slotlessLaunch (s : State) (p : Packet) (seq : Nat) : Option PktRef :=
  s.launches.findSome? fun r => r.owner.filter fun o => o.named p seq

/-- Cancel the WAITs of a queue that are not completed: one that is accepted at once, fetched ones as their turn comes. -/
def State.cancelWaits (s : State) (v q : Nat) : State :=
  let s1 := match ((s.vcp v).queue q).waiting with
    | some (_, _, r) => (s.modQueue v q fun x => { x with waiting := none }).finish r 5 0 0 0 0
    | none => s
  { s1 with pipe := s1.pipe.map fun p => if p.v == v && p.q == q && p.opc == 4 then { p with gone := true } else p }

def execCancel (s : State) : Host.Outcome State Fault Refusal :=
  .next (withPacket s 9 2 fun s p =>
    match wd p.pw 1 with
    | 0 =>
      match s.waitingLaunch p (wd p.pw 2), s.slotlessLaunch p (wd p.pw 2) with
      | some slot, _ => .done s 0 0 fun s => (s.endRegion slot 5 0).freeSlot slot
      | none, some o => .done s 0 0 fun s => ({ s with launches := s.launches.filter fun r => r.owner != some o } : State).finish o 5 0 0 0 0
      | none, none => .refused s .state
    | 1 =>
      match s.byHandle (wd p.pw 2) (some p.view.tid) with
      | .error e => .refused s e
      | .ok (slot, r) => .done s 0 (wd p.pw 2) fun s => if r.state = .killed then s.freeSlot slot else (s.kill slot r 5).1
    | 2 => if wd p.pw 2 = 0 then .done s 0 0 fun s => s.cancelWaits p.v p.q else .refused s .badArg
    | _ => .refused s .badArg)

/-! ### Bedrock itself (R319) -/

/-- The record of a Bedrock reload. -/
def State.reloadRecord (s : State) (part tid v q aseq : Nat) : State := s.journal part tid (j2Word tid v q 6 0xFF 0) 0 0 0 aseq 0

/-- LAUNCHes in the place and emit stages, with their slots; those that wait for a slot have none. -/
def State.staged (s : State) : List (Option Nat × PktRef) :=
  (s.regions.filterMap fun e => if e.2.state == .loading then e.2.owner.map fun o => (some e.1, o) else none) ++
    s.launches.filterMap fun r => r.owner.map fun o => (none, o)

/-- The LAUNCH in flight that was accepted first. -/
def State.firstStaged (s : State) : Option (Option Nat × PktRef) :=
  match s.staged with
  | [] => none
  | a :: l => some (l.foldl (fun b c => if c.2.order < b.2.order then c else b) a)

/-- A LAUNCH in the place or emit stages becomes faulted with 0x01: its region ends, or it waits for a slot no more. -/
def State.loseStaged (s : State) (e : Option Nat × PktRef) : State :=
  match e with
  | (some slot, _) => (s.reportFault slot { code := 0x01, src := 9, xna := true }).faultKill slot 0x01
  | (none, o) => ({ s with launches := s.launches.filter fun r => r.owner != some o } : State).faultPacket o { code := 0x01 }

/-- A fetched packet becomes faulted with 0x01. -/
def State.loseFetched (s : State) (p : Packet) : State × PktRef :=
  let (s1, o) := s.accept p 0
  (s1.faultPacket o { code := 0x01 }, o)

/-- BEDROCK_FAULT: the packet in flight becomes faulted with 0x01, Bedrock is reloaded from ROM and goes on with the next packet. The packet in
flight is the first accepted LAUNCH that is placed or emitted, else the first fetched packet. -/
def execBedrockFault (s : State) : Host.Outcome State Fault Refusal :=
  let s0 : State := { s with bedrock := [] }
  .next (match s.firstStaged, s.nextPacket with
    | some e, _ => (s0.loseStaged e).reloadRecord e.2.view.part e.2.view.tid e.2.v e.2.q e.2.seq
    | none, some p => let (s1, o) := s0.loseFetched p; s1.reloadRecord o.view.part o.view.tid o.v o.q o.seq
    | none, none => s.journals.foldl (fun (a : State) j => a.reloadRecord j.first 0 0xFF 0 0) s0)

/-- No packet is in any stage: none fetched, none placed or emitted, no completion entry due. -/
def State.stagesEmpty (s : State) : Bool := s.pipe.isEmpty && s.staged.isEmpty && s.vcps.all fun e => e.2.queues.all fun x => x.due.isEmpty

/-- BEDROCK_UPDATE: applied when its signature is right and no packet is in any stage (DESIGN CHOICE, log entry 70). -/
def execBedrockUpdate (image signature : List Byte) (s : State) : Host.Outcome State Fault Refusal :=
  .next (if s.stagesEmpty && Config.falconVerify Config.updateKey image signature then { s with bedrock := image } else s)

end Sys2Proof.Machine
end

