-- ==== Sys2Proof/Machine/Registers.lean ====
section
/-! DEFINITION. Device registers (09 R242, R243; 10 R284 to R286, R288; 11 R306, R308, R332; 12 R352, R354; 14 R402 to R409; 15 R422; 16 R428,
R435 to R438; 17 R453): what each register takes from a write, and what a read of it gives. -/

namespace Sys2Proof.Machine

/-! ### Fault registers and resumption (R352, R354) -/

def faultBase (p : Nat) : Nat := 0x7F0003001000 + 0x40 * p

/-- The queue and the command paused on 0x10 that a ticket names. -/
def State.pausedCmd (s : State) (t : Nat) : Option (QueueId × Cmd) :=
  let unit := fld t 47 32
  let q : Option QueueId :=
    if fld t 63 52 != 0 then none
    else match fld t 51 48 with
      | 2 => if unit < 64 then some (.copy unit) else none
      | 3 => if unit < 8 then some (.coll unit) else none
      | _ => none
  q.bind fun k => ((s.cmdQueue k).q.head?).bind fun c => if c.paused && c.seq == fld t 31 0 then some (k, c) else none

/-- A store of a ticket to RSM: the command goes on; the hops of a collective count their time from here (R384). -/
def State.resumeTicket (s : State) (t : Nat) : State :=
  match s.pausedCmd t with
  | some (.coll k, c) =>
    ((s.setHead (.coll k) { c with paused := false }).resumeHops k c).goOn k
  | some (q, c) => s.setHead q { c with paused := false }
  | none => s

/-- A write of word `i` of a partition's fault registers. -/
def State.writeFaultReg (s : State) (p i v : Nat) : State :=
  let set_ (f : FaultRegs → FaultRegs) : State := { s with faultRegs := insertKV s.faultRegs p (f (s.frBlock p)) }
  match i with
  | 0 => set_ fun r => { r with wdl := .ofNat 16 v }
  | 1 => set_ fun r => { r with ifr := fld v 46 12, isz := min 8 (fld v 3 0) }
  | 2 => set_ fun r => { r with ihead := .ofNat 32 (fld v 63 32) }
  | 3 => set_ fun r => { r with men := bitN v 63, madr := fld v 46 2 }
  | 4 => set_ fun r => { r with mdat := .ofNat 32 v }
  | 5 => s.resumeTicket v
  | _ => s

/-- RSM (R352, R354). -/
def execRsm (m : Master) (p : Nat) (ticket : W64) (s : State) : Host.Outcome State Fault Refusal :=
  .next (if !s.isPart p then s else s.regWrite m (faultBase p + 0x28) fun s => s.writeFaultReg p 5 ticket.toNat)

/-! ### Partitions (R402, R403) -/

/-- A partition's strips. -/
def State.inPart (s : State) (p k : Nat) : Bool := decide ((s.partRange p).1 ≤ k) && decide (k ≤ (s.partRange p).2)

/-- A region that is not killed, or an enabled queue, belongs to a strip. -/
def State.stripBusy (s : State) (k : Nat) : Bool :=
  (s.regions.any fun e => e.2.state != .killed && s.inPart e.2.part k) ||
    s.vcps.any fun e => e.2.en && e.2.queues.any fun x => x.en && x.priv.isSome && s.inPart x.part k

/-- A write of a strip's word (DEDUCED, log entry 71). -/
def State.writePart (s : State) (k v : Nat) : State :=
  let old := s.partWord k
  let perr := bitN old 62 && !bitN v 62
  let new_ := put 63 63 (fld v 63 63) + fld v 5 0
  let same := new_ == put 63 63 (fld old 63 63) + fld old 5 0
  let a := fld v 5 3
  let b := fld v 2 0
  let clash := (List.range 8).any fun j =>
    let w := s.partWord j
    j != k && bitN w 63 && fld w 5 0 != fld v 5 0 && ((decide (a ≤ j) && decide (j ≤ b)) || (decide (fld w 5 3 ≤ k) && decide (k ≤ fld w 2 0)))
  let bad := decide (k < a) || decide (b < k) || clash || (!same && s.stripBusy k)
  let w := if bad then put 63 63 (fld old 63 63) + put 62 62 1 + fld old 5 0
    else new_ + put 62 62 (b2n perr)
  { s with partTab := insertKV s.partTab k (.ofNat 64 w) }

/-- PARTITION_TABLE_WRITE (R402). -/
def execPartitionTableWrite (m : Master) (k : Nat) (value : W64) (s : State) : Host.Outcome State Fault Refusal :=
  .next (if 8 ≤ k then s else s.regWrite m (0x7F0004000000 + 8 * k) fun s => s.writePart k value.toNat)

/-- Valid lane groups of a list word. -/
def groupsIn (w : Nat) : List Nat := ((List.range 8).map fun i => fld w (8 * i + 7) (8 * i)).filterMap fun b => if bitN b 7 then some (fld b 5 0) else none

/-- Each byte of a word masked. -/
def maskBytes (w mask : Nat) : Nat := ofBytes ((toBytes 8 w).map fun b => b &&& .ofNat 8 mask)

/-- A write of word `i` of a partition's block. -/
def State.writePartBlock (s : State) (p i v : Nat) : State :=
  let put_ (w : Nat) : State := { s with partBlk := insertKV s.partBlk (p, i) (.ofNat 64 w) }
  if i < 4 then put_ v
  else if i < 6 then
    let w := maskBytes v 0xBF
    let others := (List.range 8).flatMap fun o => [4, 5].flatMap fun j => if o = p ∧ j = i then [] else groupsIn (s.partBlock o j)
    if (groupsIn w ++ others).Nodup then put_ w else s
  else if i = 6 then put_ (if v % 256 = 0 then 1 else v % 256)
  else s

/-- PARTITION_BLOCK_WRITE (R403). -/
def execPartitionBlockWrite (m : Master) (p i : Nat) (value : W64) (s : State) : Host.Outcome State Fault Refusal :=
  .next (if !s.isPart p then s else s.regWrite m (0x7F0004001000 + 0x100 * p + 8 * i) fun s => s.writePartBlock p i value.toNat)

/-! ### Debug blocks (R435 to R438) -/

def debugBase (slot : Nat) : Nat := 0x7F000A000000 + 0x40 * slot

/-- The policy of the region's tenant lets a debug write pass. -/
def State.debugOk (s : State) (slot : Nat) : Bool := match s.region slot with | some r => s.dbg r.tid | none => true

/-- A write that the policy may refuse. -/
def State.debugGuard (s : State) (slot : Nat) (f : State → State) : State :=
  if s.debugOk slot then f s else s.modDebug slot fun d => { d with dny := true }

/-- A stop request. -/
def State.stopRegion (s : State) (slot : Nat) : State := s.debugGuard slot fun s => s.requestStop slot 0xFE 0xFFFFFFFF 0

/-- A stopped region continues (R437). -/
def State.resumeStopped (s : State) (slot : Nat) : State :=
  s.modRegion slot fun r =>
    if r.stp then { r with stp := false, stopAt := none, freeze := if (r.switchOut.map (·.freeze)).getD false then r.freeze else none } else r

/-- A write of word `i` of a debug block. -/
def State.writeDebug (s : State) (slot i v : Nat) : State :=
  match i with
  | 0 => s.debugGuard slot fun s => s.modDebug slot fun d => { d with bke := .ofNat 64 v }
  | 1 =>
    let s1 := if bitN v 61 then s.modDebug slot fun d => { d with dny := false } else s
    let s2 := if bitN v 0 then s1.resumeStopped slot else s1
    if bitN v 1 && !(bitN v 0 && ((s.region slot).map (·.stp)) == some true) then s2.stopRegion slot else s2
  | 3 => s.debugGuard slot fun s => s.modDebug slot fun d => { d with db3 := .ofNat 64 (put 63 62 (fld v 63 62) + put 36 0 (fld v 36 0)) }
  | 4 => s.modDebug slot fun d => { d with db4 := .ofNat 64 (put 23 22 (fld v 23 22) + put 20 16 (fld v 20 16) + put 14 0 (fld v 14 0)) }
  | _ => s

/-- Run a write to a word of a slot's debug block (DESIGN CHOICE, log entry 72). -/
def State.debugWrite (s : State) (m : Master) (slot i v : Nat) : State :=
  if 512 ≤ slot then s else s.regWrite m (debugBase slot + 8 * i) fun s => s.writeDebug slot i v

/-- DEBUG_BLOCK_WRITE (R435, R438). -/
def execDebugBlockWrite (m : Master) (slot i : Nat) (value : W64) (s : State) : Host.Outcome State Fault Refusal :=
  .next (if 8 ≤ i then s else s.debugWrite m slot i value.toNat)

/-- SRQ (R436): a write of 1 to SRQ. -/
def execSrq (m : Master) (slot : Nat) (s : State) : Host.Outcome State Fault Refusal := .next (s.debugWrite m slot 1 2)

/-- RESUME_STOPPED_REGION (R437): a write of 1 to RSM of the debug block. -/
def execResumeStoppedRegion (m : Master) (slot : Nat) (s : State) : Host.Outcome State Fault Refusal := .next (s.debugWrite m slot 1 1)

/-! ### Access tables, routes, slices, scrub words (R288, R404, R407, R409, R422) -/

/-- The bits of an access word that a target's table holds. -/
def tableMask (t : Nat) (lo : Bool) (v : Nat) : Nat :=
  if lo then (if 32 ≤ t ∧ t < 40 then put 63 9 (fld v 63 9) else put 63 35 (fld v 63 35))
  else put 62 32 (fld v 62 32) + fld v 30 0

/-- A write of half of an entry; Bedrock alone writes the owned-window entries (R290). -/
def State.writeTable (s : State) (t i : Nat) (lo : Bool) (v : Nat) : State :=
  if t < 32 ∧ i < 64 then s
  else
    let (a0, a1) := (look s.access (t, i)).getD (0, 0)
    let w : W64 := .ofNat 64 (tableMask t lo v)
    { s with access := insertKV s.access (t, i) (if lo then (w, a1) else (a0, w)) }

/-- A write of eight bytes of a partition's route table. -/
def State.writeRoutes (s : State) (p m v : Nat) : State :=
  (List.range 8).foldl (fun (a : State) i =>
    { a with routes := insertKV a.routes (p, m + i) (.ofNat 64 (fld v (8 * i + 7) (8 * i) &&& 0x8F)) }) s

def State.writeSlice (s : State) (i v : Nat) : State :=
  { s with slices := insertKV s.slices i (.ofNat 64 (put 63 63 (fld v 63 63) + put 58 56 (fld v 58 56) + put 55 32 (fld v 55 32))) }

def State.writeScrub (s : State) (t v : Nat) : State := if bitN v 62 then s.modScrub t fun x => { x with miss := false } else s

/-! ### Management block (R453) -/

def State.writeMgmt (s : State) (i v : Nat) : State :=
  match i with
  | 0 => if bitN v 0 && s.powered then s.warm else s
  | 1 => { s with mgmt := { s.mgmt with plim := max 1200 (min 2800 (fld v 15 0)) } }
  | 3 => if bitN v 63 then { s with mgmt := { s.mgmt with trip := false } } else s
  | _ => s

/-! ### The map -/

/-- What a write puts into the 64-bit register at an address; every other address ignores it (R2, R3). -/
def State.putReg (s : State) (addr v : Nat) (who : Option Nat := none) : State :=
  let off := addr % 0x1000000
  let word := fld addr 23 3
  match addr / 0x1000000 with
  | 0x7F0000 => if 0x10000 ≤ off ∧ off < 0x10028 then s.writeXlat (off - 0x10000) v who else s
  | 0x7F0001 => if off < 0x100000 ∧ off % 0x1000 = 0 then s.notify (off / 0x1000) (v % 16) else s
  | 0x7F0002 => if off < 0x2000 then s.writeVcp (off / 0x20) (word % 4) v else s
  | 0x7F0003 =>
    let p := (off - 0x1000) / 0x40
    if 0x1000 ≤ off ∧ off < 0x1200 ∧ s.isPart p then s.writeFaultReg p (word % 8) v else s
  | 0x7F0004 =>
    let p := (off - 0x1000) / 0x100
    if off < 0x40 then s.writePart (off / 8) v
    else if 0x1000 ≤ off ∧ off < 0x1800 ∧ s.isPart p then s.writePartBlock p (word % 32) v
    else s
  | 0x7F0005 => if off < 0x200 then s.modGroup (off / 8) fun g => g.write v else s
  | 0x7F0006 => if off < 0x10000 ∧ s.isPart (off / 0x2000) then s.writeRoutes (off / 0x2000) (off % 0x2000) v else s
  | 0x7F0007 => if off < 0x100 ∧ off % 16 = 0 then s.writeSlice (off / 16) v else s
  | 0x7F0008 => if off / 0x1000 < 49 then s.writeTable (off / 0x1000) (off % 0x1000 / 16) (off % 16 == 0) v else s
  | 0x7F0009 => if scrubWord (off / 8) then s.writeScrub (off / 8) v else s
  | 0x7F000A => if off < 0x8000 then s.writeDebug (off / 0x40) (word % 8) v else s
  | 0x7F000C => if off < 0x20 then s.writeMgmt (off / 8) v else s
  | _ => s

/-- A write of a 64-bit register of device space by an agent. -/
def State.writeReg (s : State) (m : Master) (addr v : Nat) : State :=
  if addr % 8 != 0 then s else s.regWrite m addr fun s => s.putReg addr v (match m with | .hart h => some h | _ => none)

/-- The bit of a register that a 1 clears (R286, R402, R422, R435, R453). -/
def clearBit (addr : Nat) : Nat :=
  let off := addr % 0x1000000
  match addr / 0x1000000 with
  | 0x7F0000 => if off = 0x10018 then 2 ^ 63 else 0
  | 0x7F0004 => if off < 0x40 then 2 ^ 62 else 0
  | 0x7F0009 => 2 ^ 62
  | 0x7F000A => if off % 0x40 = 8 then 2 ^ 61 else 0
  | 0x7F000C => if off = 0x18 then 2 ^ 63 else 0
  | _ => 0

/-- A write of some bytes of a register: the others are written as they read, and a bit that a 1 clears is left. -/
def State.putRegBytes (s : State) (o : Nat × Nat × Nat) (who : Option Nat := none) : State :=
  let (addr, mask, v) := o
  let old := toBytes 8 (let r := s.readReg addr; if r &&& clearBit addr = 0 then r else r - clearBit addr)
  let new := toBytes 8 v
  s.putReg addr (ofBytes ((List.range 8).map fun i => (if bitN mask i then new else old).getD i 0)) who

/-- The register writes of a step take effect. -/
def State.settleRegs (s : State) : State := s.regOps.foldl (fun (a : State) o => a.putRegBytes o) { s with regOps := [] }

/-- What a CSR of the extension reads as. -/
def Hart.csr (c : Hart) (n : Nat) : Option Nat :=
  match n with
  | 0x5C0 => some c.oxtnt.toNat
  | 0x5C1 => some c.oxdl.toNat
  | 0x5C2 => some c.oxmid.toNat
  | _ => none

/-- The exception of an access to a CSR of the extension from a mode that may not make it (R242, R243, R278). -/
def Hart.csrExc (c : Hart) : Option Exc := if c.mode.high then none else some (if c.mode.virt then Exc.virtualInst 0 else Exc.illegal 0)

/-- A read of a CSR by a hart, in HS and M mode (R242, R243, R278): its value, or the exception. The instructions that read CSRs are the base ISA's. -/
def State.readCsr (s : State) (h n : Nat) : Except Exc Nat :=
  match (s.hart h).csr n, (s.hart h).csrExc with
  | none, _ => .error (Exc.illegal 0)
  | some _, some e => .error e
  | some v, none => .ok v

/-- A write of a CSR by a hart: oxtnt and oxdl from HS and M mode; oxmid is read-only. From another mode the hart takes its exception. -/
def State.writeCsr (s : State) (h n v : Nat) : State :=
  let c := s.hart h
  if (c.csr n).isNone then s
  else if c.csrExc.isSome then s.modHart h fun x => x.trap (c.csrExc.getD (Exc.illegal 0))
  else if n = 0x5C0 then s.modHart h fun x => { x with oxtnt := .ofNat 16 v }
  else if n = 0x5C1 then s.modHart h fun x => { x with oxdl := if v % 65536 = 0 then 50 else .ofNat 16 v }
  else s

/-- REGISTER_WRITE (R2, R3): a write of a device register by its address, or of a CSR by its hart. -/
def execRegisterWrite (m : Master) (r : RegTarget) (value : W64) (s : State) : Host.Outcome State Fault Refusal :=
  .next (match r, m with
    | .mmio addr, _ => s.writeReg m addr value.toNat
    | .csr n, .hart h => s.writeCsr h n value.toNat
    | .csr _, _ => s)

end Sys2Proof.Machine
end

