-- ==== Sys2Proof/Machine/Base.lean ====
section
/-! DEFINITION. The base instructions of a control core (00 R12; 10 R278, R284, R293, R295, R301): the RISC-V family's RV64I, M, A and Zicsr, with
the returns from a trap. A hart's accesses are performed one by one in its program order, which RVWMO allows, so that a fence has nothing left to
wait for. What the spec and the family leave to other units (compressed words, floating point, vectors, the page-table instructions) is not run. -/

namespace Sys2Proof.Machine

/-! ### Fields of a word -/

def rdOf (w : W32) : BitVec 5 := w.extractLsb' 7 5
def rs1Of (w : W32) : BitVec 5 := w.extractLsb' 15 5
def rs2Of (w : W32) : BitVec 5 := w.extractLsb' 20 5
def f3Of (w : W32) : Nat := fld w.toNat 14 12
def f7Of (w : W32) : Nat := fld w.toNat 31 25

def immI (w : W32) : W64 := (w.extractLsb' 20 12).signExtend 64
def immS (w : W32) : W64 := (w.extractLsb' 25 7 ++ w.extractLsb' 7 5).signExtend 64
def immB (w : W32) : W64 := (w.extractLsb' 31 1 ++ w.extractLsb' 7 1 ++ w.extractLsb' 25 6 ++ w.extractLsb' 8 4 ++ (0 : BitVec 1)).signExtend 64
def immU (w : W32) : W64 := (w.extractLsb' 12 20 ++ (0 : BitVec 12)).signExtend 64
def immJ (w : W32) : W64 :=
  (w.extractLsb' 31 1 ++ w.extractLsb' 12 8 ++ w.extractLsb' 20 1 ++ w.extractLsb' 21 10 ++ (0 : BitVec 1)).signExtend 64

/-! ### Arithmetic -/

/-- Quotient and remainder of signed division, toward zero; by 0 they are −1 and the dividend. -/
def divS {n : Nat} (a b : BitVec n) : BitVec n := if b = 0 then BitVec.allOnes n else .ofInt n (a.toInt.tdiv b.toInt)
def remS {n : Nat} (a b : BitVec n) : BitVec n := if b = 0 then a else .ofInt n (a.toInt.tmod b.toInt)
def divU {n : Nat} (a b : BitVec n) : BitVec n := if b = 0 then BitVec.allOnes n else .ofNat n (a.toNat / b.toNat)
def remU {n : Nat} (a b : BitVec n) : BitVec n := if b = 0 then a else .ofNat n (a.toNat % b.toNat)

/-- The upper half of a product. -/
def mulHigh {n : Nat} (a b : Int) : BitVec n := .ofInt n (a * b / 2 ^ n)

/-- A register operation of width n, by funct7 and funct3; none where the family has no such operation. -/
def aluOp {n : Nat} (f7 f3 : Nat) (a b : BitVec n) : Option (BitVec n) :=
  let k := b.toNat % n
  match f7, f3 with
  | 0x00, 0 => some (a + b)
  | 0x20, 0 => some (a - b)
  | 0x00, 1 => some (a <<< k)
  | 0x00, 2 => some (.ofNat n (b2n (a.slt b)))
  | 0x00, 3 => some (.ofNat n (b2n (a.ult b)))
  | 0x00, 4 => some (a ^^^ b)
  | 0x00, 5 => some (a >>> k)
  | 0x20, 5 => some (a.sshiftRight k)
  | 0x00, 6 => some (a ||| b)
  | 0x00, 7 => some (a &&& b)
  | 0x01, 0 => some (a * b)
  | 0x01, 1 => some (mulHigh a.toInt b.toInt)
  | 0x01, 2 => some (mulHigh a.toInt b.toNat)
  | 0x01, 3 => some (mulHigh a.toNat b.toNat)
  | 0x01, 4 => some (divS a b)
  | 0x01, 5 => some (divU a b)
  | 0x01, 6 => some (remS a b)
  | 0x01, 7 => some (remU a b)
  | _, _ => none

/-- An operation of the 32-bit group: on the low halves, its result sign-extended. -/
def aluW (f7 f3 : Nat) (a b : W64) : Option W64 :=
  if f7 = 1 ∧ 1 ≤ f3 ∧ f3 ≤ 3 ∨ f7 ≠ 1 ∧ f3 ≠ 0 ∧ f3 ≠ 1 ∧ f3 ≠ 5 then none
  else (aluOp f7 f3 (a.setWidth 32) (b.setWidth 32)).map (·.signExtend 64)

/-- An immediate operation: the shifts hold funct7 above the amount, of 6 bits, or of 5 in the 32-bit group. -/
def aluImm (word32 : Bool) (w : W32) (a : W64) : Option W64 :=
  let sh := f3Of w = 1 ∨ f3Of w = 5
  if word32 then
    if sh then aluW (f7Of w) (f3Of w) a ((w.extractLsb' 20 5).setWidth 64)
    else if f3Of w = 0 then aluW 0 0 a (immI w)
    else none
  else if sh then (if f7Of w / 2 * 2 = 0x00 ∨ f7Of w / 2 * 2 = 0x20 then aluOp (f7Of w / 2 * 2) (f3Of w) a ((w.extractLsb' 20 6).setWidth 64) else none)
  else aluOp 0 (f3Of w) a (immI w)

/-- A branch is taken. -/
def branchTaken (f3 : Nat) (a b : W64) : Option Bool :=
  match f3 with
  | 0 => some (a == b)
  | 1 => some (a != b)
  | 4 => some (a.slt b)
  | 5 => some (!a.slt b)
  | 6 => some (a.ult b)
  | 7 => some (!a.ult b)
  | _ => none

/-! ### Memory -/

/-- The value of a load: bytes, and whether it is sign-extended. -/
def loadForm : Nat → Option (Nat × Bool)
  | 0 => some (1, true) | 1 => some (2, true) | 2 => some (4, true) | 3 => some (8, true)
  | 4 => some (1, false) | 5 => some (2, false) | 6 => some (4, false)
  | _ => none

def extendTo64 (n : Nat) (sgn : Bool) (v : Nat) : W64 := if sgn then (BitVec.ofNat (8 * n) v).signExtend 64 else .ofNat 64 v

/-- A hart's store of bytes; one to registers takes effect at once, in the hart's order, and may hold the hart (R284). -/
def State.baseStore (s : State) (va : Nat) (bs : List Byte) : State × Option Exc :=
  match s.hartPiece s.cur .store false va bs.length with
  | (s1, .error e) => (s1, some e)
  | (s1, .ok pa) =>
    if regSpace ≤ pa then ((regWrites pa (2 ^ bs.length - 1) bs).foldl (fun (a : State) o => a.putRegBytes o (some s.cur)) s1, none)
    else s.hartStore s.cur false (piecesOf va bs.length) bs

/-- A load of the current hart. -/
def State.baseLoad (s : State) (w : W32) (n : Nat) (sgn : Bool) (va : Nat) : State :=
  match s.formLoad false va n with
  | (s1, .ok bs) => s1.retire (rdOf w) (extendTo64 n sgn (ofBytes bs)).toNat
  | (s1, .error e) => s1.trap e

/-- The operation of an AMO word, by funct5 and its width. -/
def amoOp (f5 : Nat) (wide : Bool) : Option (AtomOp × AtomTy) :=
  let i : AtomTy := if wide then .i64 else .i32
  let u : AtomTy := if wide then .n64 else .n32
  match f5 with
  | 0x00 => some (.add, i)
  | 0x01 => some (.swap, i)
  | 0x04 => some (.xor, i)
  | 0x08 => some (.or, i)
  | 0x0C => some (.and, i)
  | 0x10 => some (.min, i)
  | 0x14 => some (.max, i)
  | 0x18 => some (.min, u)
  | 0x1C => some (.max, u)
  | _ => none

/-- An AMO: the old value to rd, the new one to memory, in one step (R300). -/
def State.baseAmo (s : State) (w : W32) (n va b : Nat) (o : AtomOp) (t : AtomTy) : State :=
  if va % n ≠ 0 then s.trap { cause := 6, tval := va }
  else match s.hartPiece s.cur .amo false va n with
    | (s1, .error e) => s1.trap e
    | (s1, .ok pa) =>
      let (s2, old, _) := s1.atomicAt (s1.domainOf pa) o t (b % 2 ^ (8 * n)) 0 false
      s2.retire (rdOf w) (extendTo64 n true old).toNat

/-- A load-reserve: the hart's reservation is of these bytes. -/
def State.baseLr (s : State) (w : W32) (n va : Nat) : State :=
  if va % n ≠ 0 then s.trap { cause := 4, tval := va }
  else match s.hartPiece s.cur .load false va n with
    | (s1, .error e) => s1.trap e
    | (s1, .ok pa) =>
      let s2 : State := { s1 with resv := s1.resv.filter (·.1 != s.cur) ++ [(s.cur, s1.localKey pa, n)] }
      s2.retire (rdOf w) (extendTo64 n true (ofBytes (s1.bytesAt pa n))).toNat

/-- A store-conditional: it stores where the hart's reservation still holds these bytes, and gives it up. -/
def State.baseSc (s : State) (w : W32) (n va b : Nat) : State :=
  if va % n ≠ 0 then s.trap { cause := 6, tval := va }
  else match s.hartPiece s.cur .store false va n with
    | (s1, .error e) => s1.trap e
    | (s1, .ok pa) =>
      let held := s1.resv.contains (s.cur, s1.localKey pa, n)
      let s2 : State := { s1 with resv := s1.resv.filter (·.1 != s.cur) }
      (if held then s2.memPut (s2.domainOf pa) (toBytes n b) false else s2).retire (rdOf w) (b2n (!held))

/-! ### Control and status registers -/

def Mode.priv : Mode → Nat
  | .m => 3 | .hs | .vs => 1 | .u | .vu => 0

/-- The mode of a privilege code and a virtualisation bit. -/
def Mode.ofPriv (p : Nat) (v : Bool) : Mode := if p = 3 then .m else if p = 1 then (if v then .vs else .hs) else if v then .vu else .u

/-- The status fields that the model holds, as mstatus and sstatus show them; in M mode ie is MIE, in the others SIE. -/
def Hart.mstatus (c : Hart) : Nat :=
  let m := decide (c.mode = .m)
  put 1 1 (b2n (c.ie && !m)) + put 3 3 (b2n (c.ie && m)) + put 5 5 (b2n c.spie) + put 7 7 (b2n c.mpie) + put 8 8 c.spp.priv + put 12 11 c.mpp.priv +
    put 35 32 10 + put 39 39 (b2n c.mpp.virt)

def Hart.sstatus (c : Hart) : Nat := put 1 1 (b2n (c.ie && c.mode != .m)) + put 5 5 (b2n c.spie) + put 8 8 c.spp.priv + put 33 32 2

/-- What a CSR holds (R242, R243, R278, and the family's trap registers); none for one that the model does not hold. -/
def Hart.csrRead (c : Hart) (h n : Nat) : Option Nat :=
  match n with
  | 0x100 => some c.sstatus
  | 0x105 => some c.stvec.toNat
  | 0x141 => some c.sepc.toNat
  | 0x142 => some c.scause.toNat
  | 0x143 => some c.stval.toNat
  | 0x300 => some c.mstatus
  | 0x305 => some c.mtvec.toNat
  | 0x341 => some c.mepc.toNat
  | 0x342 => some c.mcause.toNat
  | 0x343 => some c.mtval.toNat
  | 0x600 => some (put 7 7 (b2n c.spp.virt) + put 33 32 2)
  | 0x643 => some c.htval.toNat
  | 0xF14 => some h
  | _ => c.csr n

/-- A write of a CSR that the model holds. -/
def Hart.csrWrite (c : Hart) (n v : Nat) : Hart :=
  let w : W64 := .ofNat 64 v
  match n with
  | 0x100 => { c with ie := if c.mode = .m then c.ie else bitN v 1, spie := bitN v 5, spp := Mode.ofPriv (fld v 8 8) c.spp.virt }
  | 0x105 => { c with stvec := w }
  | 0x141 => { c with sepc := .ofNat 64 (v / 2 * 2) }
  | 0x142 => { c with scause := w }
  | 0x143 => { c with stval := w }
  | 0x300 =>
    { c with ie := if c.mode = .m then bitN v 3 else bitN v 1, spie := bitN v 5, mpie := bitN v 7, spp := Mode.ofPriv (fld v 8 8) c.spp.virt,
             mpp := if fld v 12 11 = 2 then c.mpp else Mode.ofPriv (fld v 12 11) (bitN v 39) }
  | 0x305 => { c with mtvec := w }
  | 0x341 => { c with mepc := .ofNat 64 (v / 2 * 2) }
  | 0x342 => { c with mcause := w }
  | 0x343 => { c with mtval := w }
  | 0x600 => { c with spp := Mode.ofPriv c.spp.priv (bitN v 7) }
  | 0x643 => { c with htval := w }
  | _ => c

/-- The exception of an access to a CSR from a mode below it, by the privilege that its number carries; a write of a read-only one is illegal. -/
def Hart.csrDenied (c : Hart) (n : Nat) (write : Bool) (w : W32) : Option Exc :=
  let need := fld n 9 8
  if write && fld n 11 10 == 3 then some (.illegal w.toNat)
  else if c.mode = .m ∨ (c.mode = .hs ∧ need < 3) ∨ need = 0 then none
  else if c.mode.virt ∧ need < 3 then some (.virtualInst w.toNat)
  else some (.illegal w.toNat)

/-- A CSR instruction: the old value to rd, and what the operation makes of it to the CSR; a set or a clear by x0 or 0 writes nothing. A guest's
own copies of the supervisor CSRs are not held. -/
def State.baseCsr (s : State) (w : W32) : Option State :=
  let c := s.hart s.cur
  let n := fld w.toNat 31 20
  let op := f3Of w % 4
  let src := if f3Of w < 4 then c.reg (rs1Of w) else (rs1Of w).toNat
  let write := op = 1 ∨ rs1Of w ≠ 0
  match (if c.mode = .vs ∧ fld n 9 8 = 1 ∧ (c.csr n).isNone then none else c.csrRead s.cur n) with
  | none => none
  | some old =>
    match c.csrDenied n write w with
    | some e => some (s.trap e)
    | none =>
      let v := if op = 1 then src else if op = 2 then old ||| src else old - (old &&& src)
      let s1 := if write then (if (c.csr n).isSome then s.writeCsr s.cur n v else s.modHart s.cur fun x => x.csrWrite n v) else s
      some (s1.retire (rdOf w) old)

/-! ### The instructions -/

/-- A jump: the link to rd, the pc to the target. -/
def State.jump (s : State) (rd : BitVec 5) (target : W64) : State :=
  s.modHart s.cur fun c => { (c.setReg rd (c.pc + 4).toNat) with pc := target, wait := .none }

/-- A return from a trap taken to HS. -/
def Hart.sret (c : Hart) : Hart := { c with mode := c.spp, pc := c.sepc, ie := c.spie }

/-- The words of SYSTEM with funct3 0: calls and breakpoints trap, returns go back to what the trap saved, and WFI may end at once. -/
def State.baseSystem (s : State) (w : W32) : Option State :=
  let c := s.hart s.cur
  match fld w.toNat 31 7 with
  | 0x000000 => some (s.trap { cause := match c.mode with | .m => 11 | .hs => 9 | .vs => 10 | .u | .vu => 8 })
  | 0x002000 => some (s.trap { cause := 3, tval := c.pc.toNat })
  | 0x204000 =>
    match c.mode with
    | .m | .hs => some (s.modHart s.cur (·.sret))
    | .u => some (s.trap (.illegal w.toNat))
    | .vu => some (s.trap (.virtualInst w.toNat))
    | .vs => none
  | 0x604000 => some (if c.mode = .m then s.modHart s.cur (·.trapReturn) else s.trap (.illegal w.toNat))
  | 0x20A000 => some (s.retire 0 0)
  | _ => none

/-- The atomic group. -/
def State.baseAtomic (s : State) (w : W32) (va b : Nat) : Option State :=
  if f3Of w ≠ 2 ∧ f3Of w ≠ 3 then none
  else
    let n := 2 ^ f3Of w
    match fld w.toNat 31 27 with
    | 0x02 => if rs2Of w = 0 then some (s.baseLr w n va) else none
    | 0x03 => some (s.baseSc w n va b)
    | f5 => (amoOp f5 (n == 8)).map fun (o, t) => s.baseAmo w n va b o t

/-- A base instruction of the current hart: the state after it, or none for a word that the model does not run (PRESUMED, log entry 7). -/
def State.baseRun (s : State) (w : W32) : Option State :=
  let c := s.hart s.cur
  let a : W64 := .ofNat 64 (c.reg (rs1Of w))
  let b : W64 := .ofNat 64 (c.reg (rs2Of w))
  let ret (v : W64) : State := s.retire (rdOf w) v.toNat
  match fld w.toNat 6 0 with
  | 0x37 => some (ret (immU w))
  | 0x17 => some (ret (c.pc + immU w))
  | 0x6F => some (s.jump (rdOf w) (c.pc + immJ w))
  | 0x67 => if f3Of w = 0 then some (s.jump (rdOf w) ((a + immI w) &&& ~~~1)) else none
  | 0x63 => (branchTaken (f3Of w) a b).map fun t => if t then s.jump 0 (c.pc + immB w) else s.retire 0 0
  | 0x03 => (loadForm (f3Of w)).map fun (n, sgn) => s.baseLoad w n sgn (a + immI w).toNat
  | 0x23 =>
    if 3 < f3Of w then none
    else match s.baseStore (a + immS w).toNat (toBytes (2 ^ f3Of w) b.toNat) with
      | (s1, some e) => some (s1.trap e)
      | (s1, none) => some (s1.retire 0 0)
  | 0x13 => (aluImm false w a).map ret
  | 0x1B => (aluImm true w a).map ret
  | 0x33 => (aluOp (f7Of w) (f3Of w) a b).map ret
  | 0x3B => (aluW (f7Of w) (f3Of w) a b).map ret
  | 0x0F => if f3Of w ≤ 1 then some (s.retire 0 0) else none
  | 0x2F => s.baseAtomic w a.toNat b.toNat
  | 0x73 => if f3Of w = 0 then s.baseSystem w else if f3Of w = 4 then none else s.baseCsr w
  | _ => none

end Sys2Proof.Machine
end

