-- ==== Sys2Proof/Machine/Fences.lean ====
section
/-! DEFINITION. Fences of the control cores and the control-block cache (09 R264, R265). Memory is applied in the order of the steps, so an
ordering alone changes nothing; FENCEX with WCMD waits for the hart's commands. -/

namespace Sys2Proof.Machine

/-- Commands of a hart that have not retired: in queues, waiting for a region to load, of ended regions, and migrations. -/
def State.hartCmds (s : State) (h : Nat) : Bool :=
  (s.copies.any fun e => e.2.cmds.q.any fun c => c.hart == h) ||
  (s.colls.any fun e => e.2.cmds.q.any fun c => c.hart == h) ||
  (s.regions.any fun e => (e.2.streamCmds.any fun c => c.2.hart == h) || e.2.waitCmds.any fun c => c.2.hart == h) ||
  (s.orphans.any fun e => e.2.hart == h) ||
  (s.dune.streams.any fun e => !e.2.atDest && e.2.hart == h)

/-- A fence word keeps its limits (R265). -/
def fenceOk (w : Nat) : Bool :=
  fld w 63 9 == 0 && fld w 7 6 == 0 && fld w 3 3 == 0 && fld w 5 4 != 3 && decide (1 ≤ fld w 2 0) && decide (fld w 2 0 ≤ 4)

/-- FENCEX (R265) (DEDUCED, log entry 11). -/
def execFencex (rd rs1 : BitVec 5) (s : State) : Host.Outcome State Fault Refusal :=
  .next (form s false (formWord (.fencex rd rs1)) rd fun s =>
    let w := s.xreg rs1
    if !fenceOk w then refuse s .badArg
    else if bitN w 8 && s.hartCmds s.cur then .hold s
    else .ret 0 s)

/-- A cache entry is a block of an ASID in the partition of the current hart. -/
def State.ownBlock (s : State) (asid : Nat) (k : Nat × Nat) : Bool := k.2 == s.hartPart s.cur * 4096 + asid

/-- CBINV (R264). -/
def execCbinv (rd rs1 rs2 : BitVec 5) (s : State) : Host.Outcome State Fault Refusal :=
  .next (form s false (formWord (.cbinv rd rs1 rs2)) rd fun s =>
    let va := s.xreg rs1
    let asid := s.xreg rs2
    if 4096 ≤ asid then refuse s .badArg
    else if !s.mayUse s.askHart asid then refuse s .denied
    else .ret 0 { s with cbcache := s.cbcache.filter fun e => !(e.1.1 == va && s.ownBlock asid e.1) })

/-- CBSYNC (R264). -/
def execCbsync (rd rs1 : BitVec 5) (s : State) : Host.Outcome State Fault Refusal :=
  .next (form s false (formWord (.cbsync rd rs1)) rd fun s =>
    let asid := s.xreg rs1
    if 4096 ≤ asid then refuse s .badArg
    else if !s.mayUse s.askHart asid then refuse s .denied
    else .ret 0 { s with cbcache := s.cbcache.filter fun e => !s.ownBlock asid e.1 })

end Sys2Proof.Machine
end

