-- ==== Sys2Proof/Machine/Reliability.lean ====
section
/-! DEFINITION. Silent-error defence apart from the beat's own check (15 R414, R415, R420 to R423): what a read of stored state finds, scrub
write-backs, and parity errors of the control cores and the Hardpan core. -/

namespace Sys2Proof.Machine

/-! ### Corrections and losses (R414, R422) -/

/-- An error corrected at a scrub target: COR, and the event ERR.COR of its strip's partition. -/
def State.corrected (s : State) (t strip : Nat) : State :=
  let s1 := s.modScrub t fun x => { x with cor := min 0xFFFF (x.cor + 1) }
  match s1.partOf strip with
  | some p => s1.count 5 1 { part := p } 1
  | none => s1

/-- A line, or a piece of SRAM, that cannot be corrected. -/
def State.uncorrected (s : State) (t : Nat) : State := s.modScrub t fun x => { x with unc := min 0xFFFF (x.unc + 1) }

/-! ### Memory lines (R415, R420 to R422) -/

/-- The number of a line at its memory target (R420). -/
def scrubLineNo (t a : Nat) : Nat :=
  if t < 8 then a % 0x1000000000 / 64 else (a - 0x10000000000) % 0x3000000000 / 1536 * 8 + (a - 0x10000000000) % 512 / 64

/-- A pass goes on past line `n` of a class with a deadline, and ends with the last (lines are taken in rising order) (DESIGN CHOICE, log entry 41). -/
def Scrub.passes (x : Scrub) (n lines deadline ns : Nat) : Scrub :=
  if n + 1 = lines then
    { x with pass := (x.pass + 1) % 65536, miss := x.miss || decide (deadline < ns - x.start), start := ns, done := 0, lines := lines }
  else { x with done := n + 1, lines := lines }

/-- A memory target's pass goes on past a line. -/
def Scrub.advance (x : Scrub) (t n ns : Nat) : Scrub := x.passes n (scrubLines t) (scrubDeadline t) ns

/-- A scrub read of the 64-byte line at a local physical address. -/
def State.scrubLine (s : State) (t a : Nat) (found : EccResult) : State :=
  let line := a / 64 * 64
  let s1 := s.modScrub t fun x => x.advance t (scrubLineNo t line) s.ns
  match found with
  | .clean => s1
  | .corrected =>
    (s1.modScrub t fun x => { x with pending := some (line, memReadBytes s.mem line 64) }).corrected t ((targetStrip t).getD 0)
  | .uncorrectable =>
    ({ s1 with poison := if s1.poison.contains (line / 64) then s1.poison else s1.poison ++ [line / 64] } : State).uncorrected t

/-- SCRUB_WRITEBACK (R421): applied only when nothing has been written to the line since the scrub read it. -/
def execScrubWriteback (t : Nat) (s : State) : Host.Outcome State Fault Refusal :=
  .next (match (s.scrubOf t).pending with
    | none => s
    | some (a, bs) =>
      let s1 := s.modScrub t fun x => { x with pending := none }
      if memReadBytes s.mem a 64 = bs then { s1 with mem := memWriteBytes s1.mem a bs } else s1)

/-! ### State of elements (R414) -/

/-- The first word of a channel reads with PSN = 1. -/
def Chan.struck (c : Chan) : Chan :=
  match c.fifo, c.lanes with
  | f :: r, _ => { c with fifo := { f with tok := { f.tok with psn := true } } :: r }
  | [], l :: r => { c with lanes := { l with val := { l.val with psn := true } } :: r }
  | [], [] => c

def OutPort.struck (p : OutPort) : OutPort :=
  match p.queue with
  | i :: r => { p with queue := { i with tok := { i.tok with psn := true } } :: r }
  | [] => p

/-- The words of a kept unit read with PSN = 1. -/
def strikeUnit (u : List PortItem) : List PortItem := u.map fun i => { i with tok := { i.tok with psn := true } }

/-- Piece `n` of the data that a stream holds in the stream buffer reads with PSN = 1: its held writes, its kept units, then the units it sends again. -/
def SRun.struck (g : SRun) (n : Nat) : SRun :=
  { g with held := upd g.held n fun h => { h with psn := true }
           kept := if g.held.length ≤ n then upd g.kept (n - g.held.length) strikeUnit else g.kept
           replay := if g.held.length + g.kept.length ≤ n then upd g.replay (n - (g.held.length + g.kept.length)) strikeUnit else g.replay }

/-- A chunk of a B half reads with PSN = 1. -/
def MxCtx.struck (c : MxCtx) (second : Bool) (n : Nat) : MxCtx :=
  let hit (l : List Chunk) : List Chunk := upd l n fun k => { k with psn := true }
  if second then { c with h1 := hit c.h1 } else { c with h0 := hit c.h0 }

/-- What an uncorrectable error of one structure does to its element; one of configuration or tables raises a fault instead. -/
def Element.struck (e : Element) : ScrubOf → Element
  | .line _ | .meTable .. | .window .. | .ccuTable .. | .route .. | .through .. | .cache .. | .hardpan | .sram .. => e
  | .spad _ _ _ off => { e with me := { e.me with spoison := if e.me.spoison.contains (off / 64) then e.me.spoison else e.me.spoison ++ [off / 64] } }
  | .buffer _ _ _ i n => { e with me := e.me.modStream i fun x => { x with run := x.run.map fun g => g.struck n } }
  | .store _ => { e with storeBad := true }
  | .srf _ k => { e with srf := upd e.srf k fun x => { x with v := false } }
  | .bankD _ b i => { e with banks := upd e.banks b fun x => { x with bad := if x.bad.contains i then x.bad else x.bad ++ [i] } }
  | .bankP _ b i => { e with banks := upd e.banks b fun x => { x with bad := if x.bad.contains (16 + i) then x.bad else x.bad ++ [16 + i] } }
  | .fifo _ ch => { e with chans := upd e.chans ch Chan.struck }
  | .port _ q => { e with ports := upd e.ports q OutPort.struck }
  | .mxTile _ c => { e with mx := upd e.mx c fun x => { x with pt := true } }
  | .mxHalf _ c second n => { e with mx := upd e.mx c fun x => x.struck second n }

/-- The element a structure belongs to. -/
def ScrubOf.elt : ScrubOf → Option EltAt
  | .line _ | .ccuTable .. | .route .. | .through .. | .cache .. | .hardpan | .sram .. => none
  | .spad slot x y _ | .buffer slot x y _ _ | .meTable slot x y => some { slot := slot, x := x, y := y, elt := .me }
  | .store e | .window e _ | .srf e _ | .bankD e _ _ | .bankP e _ _ | .fifo e _ | .port e _ | .mxTile e _ | .mxHalf e _ _ _ => some e

/-- The tile, and the code, of a CCU or switch that a structure belongs to. -/
def ScrubOf.unit : ScrubOf → Option (Nat × Nat × Nat × Nat)
  | .ccuTable slot x y => some (slot, x, y, 4)
  | .route slot x y => some (slot, x, y, 5)
  | _ => none

/-- Whether an uncorrectable error of the structure freezes its region: configuration and tables. -/
def ScrubOf.isStore : ScrubOf → Bool
  | .store _ | .meTable .. | .window .. | .ccuTable .. | .route .. | .through .. => true
  | _ => false

/-- The failing word of an instruction store, a value the spec does not give (DESIGN CHOICE, log entry 43). -/
def freeStoreWord (n : Nat) : Nat := (Config.freeWord n).toNat % 2 ^ 32

/-- An uncorrectable word of a region's configuration or tables freezes it with 0x01, DET 3. -/
def State.storeFault (s : State) (slot x y elt : Nat) (xna : Bool := false) : State :=
  ({ s with draws := s.draws + 1 } : State).raiseFault slot
    { code := 0x01, det := 3, src := 0, x := x, y := y, elt := elt, xna := xna, info := freeStoreWord s.draws }

/-- A read of a structure of an element. -/
def State.scrubElt (s : State) (w : ScrubOf) (e : EltAt) (found : EccResult) : State :=
  match s.region e.slot with
  | none => s
  | some r =>
    let strip := r.stripAt e.x e.y
    if (r.elem e.x e.y e.elt).isNone then s
    else match found with
      | .clean => s
      | .corrected => s.corrected (64 + strip) strip
      | .uncorrectable =>
        let s1 := (s.modRegion e.slot fun q => q.modElem e.x e.y e.elt fun el => el.struck w).uncorrected (64 + strip)
        if w.isStore then s1.storeFault e.slot e.x e.y e.elt.code else s1

/-- A read of a structure of a CCU or a switch. -/
def State.scrubUnit (s : State) (slot x y elt : Nat) (found : EccResult) : State :=
  match s.region slot with
  | none => s
  | some r =>
    let strip := r.stripAt x y
    if (if elt = 5 then (r.switch (r.phys x y).1 (r.phys x y).2).isNone else (r.tile x y).isNone) then s
    else match found with
      | .clean => s
      | .corrected => s.corrected (64 + strip) strip
      | .uncorrectable => (s.uncorrected (64 + strip)).storeFault slot x y elt

/-- A read of the switch of a skipped column, which has no image column: its records carry XNA (R331). -/
def State.scrubThrough (s : State) (slot col row : Nat) (found : EccResult) : State :=
  match s.region slot with
  | none => s
  | some r =>
    let strip := stripOfCol col
    if (r.switch col row).isNone || (r.imageOf col row).isSome then s
    else match found with
      | .clean => s
      | .corrected => s.corrected (64 + strip) strip
      | .uncorrectable => (s.uncorrected (64 + strip)).storeFault slot 0 (row - ((r.place.map (·.orow)).getD 0)) 5 true

/-- A word of the Hardpan core's key store or RAM: a correction is counted; the access fault of one that cannot be corrected is the core's own, whose
program the spec does not give (R414) (DESIGN CHOICE, log entry 136). -/
def State.scrubHardpan (s : State) (found : EccResult) : State :=
  match found with
  | .clean | .uncorrectable => s
  | .corrected => s.journals.foldl (fun (a : State) j => a.count 5 1 { part := j.first } 1) s

/-- A line of a control core's caches: a dirty one that cannot be corrected faults the accesses of its hart from then on (R414) (DESIGN CHOICE, log entry 119). -/
def State.scrubCache (s : State) (h a : Nat) (found : EccResult) : State :=
  let strip := hartStrip h
  if 64 ≤ h then s
  else match found with
    | .clean => s
    | .corrected => s.corrected (64 + strip) strip
    | .uncorrectable => (s.modHart h fun c => { c with lost := if c.lost.contains (a / 64) then c.lost else c.lost ++ [a / 64] }).uncorrected (64 + strip)

/-- The SRAM scrub of a strip goes on past a line (R420): 10 minutes a pass. -/
def State.scrubSram (s : State) (strip n lines : Nat) : State :=
  if 8 ≤ strip ∨ lines ≤ n then s else s.modScrub (64 + strip) fun x => x.passes n lines 600000000000 s.ns

/-- SCRUB_READ (R414, R415, R420, R422). -/
def execScrubRead (w : ScrubOf) (found : EccResult) (s : State) : Host.Outcome State Fault Refusal :=
  .next (match w, w.elt, w.unit with
    | .line a, _, _ =>
      match targetOf a with
      | some t => if t < 32 then s.scrubLine t a found else s
      | none => s
    | .cache h a, _, _ => s.scrubCache h a found
    | .through slot col row, _, _ => s.scrubThrough slot col row found
    | .hardpan, _, _ => s.scrubHardpan found
    | .sram strip n lines, _, _ => s.scrubSram strip n lines
    | _, some e, _ => s.scrubElt w e found
    | _, none, some (slot, x, y, elt) => s.scrubUnit slot x y elt found
    | _, none, none => s)

/-! ### Parity (R423) -/

/-- The record that reports a hart's parity error; its code is not given, and is free (DESIGN CHOICE, log entry 44). -/
def parityRec (n : Nat) (ns : Nat) : FaultRec := { code := (Config.freeByte n).toNat, src := 10, xna := true, time := ns }

/-- A hart as it is after it has stopped and been reset: the MID that boot gave it stays. -/
def Hart.reset (c : Hart) : Hart := { oxmid := c.oxmid }

/-- HART_PARITY_ERROR (R423): the instruction does not retire, the hart is reset, and the partition's other Ilhus harts are told. -/
def execHartParityError (h : Nat) (s : State) : Host.Outcome State Fault Refusal :=
  .next (
    if 64 ≤ h || !(s.hart h).on then s
    else
      let p := s.hartPart h
      let s1 : State := { s with draws := s.draws + 1
                                 harts := s.harts.mapIdx fun k c =>
                                   if k = h then Hart.reset c
                                   else if s.hartPart k = p ∧ s.isIlhus c.oxmid.toNat then { c with irq := true, irqFc := if c.irq then c.irqFc else s.fc } else c }
      s1.ilhusFault p ((parityRec s.draws s.ns).words 0 0 0))

/-- HARDPAN_PARITY_ERROR (R319, R423): Bedrock is reloaded, and every packet in flight becomes faulted with 0x01 (DEDUCED, log entry 45). -/
def execHardpanParityError (s : State) : Host.Outcome State Fault Refusal :=
  .next (
    let s0 := s.staged.foldl State.loseStaged { s with bedrock := [] }
    let s1 := s.pipe.foldl (fun (a : State) p => (a.loseFetched p).1) s0
    s1.journals.foldl (fun (a : State) j => a.reloadRecord j.first 0 0xFF 0 0) s1)

end Sys2Proof.Machine
end

