-- ==== Sys2Proof/Machine/Switching.lean ====
section
/-! DEFINITION. Switching a region out (12 R355 to R362) and the completion of a region (04 R124): quiet units, the Furrow, tile flips, the
drain deadline, and the end of a switch. -/

namespace Sys2Proof.Machine

/-! ### Where the Furrow has come (R357) -/

/-- A channel that a back edge feeds (R41). -/
def Region.isBackEdge (r : Region) (x y : Nat) (e : Elt) (ch : Nat) : Bool :=
  ((r.image.bind fun i => i.eltIn x y e).map fun z => z.backEdge ch).getD false

/-- The circuit that takes an input of a switch ends in a back-edge channel. -/
def Region.backCircuit (r : Region) (col row : Nat) (e : W64) : Bool :=
  match r.traceTo 4096 { slot := 0, col := col, row := row, src := rtSrc e, six := rtSix e } with
  | some (l, c, w) =>
    match r.imageOf c w, Elt.ofCode (rtDst l) with
    | some (x, y), some k => r.isBackEdge x y k (rtDix l)
    | _, _ => false
  | none => false

def Region.switchAt (r : Region) (x y : Nat) : Option Switch := r.switch (r.phys x y).1 (r.phys x y).2

/-- The Furrow has arrived at a local end of a tile: a channel, or code 4 for the arm input. An end that no circuit of the module
reaches waits for nothing. -/
def Region.furAt (r : Region) (x y dst dix : Nat) : Bool :=
  match r.switchAt x y with
  | none => true
  | some w =>
    match w.routes.find? fun e => rtV e && rtDst e == dst && (dst == 4 || rtDix e == dix) with
    | some e => w.furIn.contains (rtSrc e, rtSix e)
    | none => true

def Region.hasPassed (r : Region) (u : UnitId) : Bool := (r.switchOut.map fun o => o.passed.contains u).getD false

/-- The Furrow has come along a lane: its driver has passed it, and no transfer is on its way. -/
def Region.laneFur (r : Region) (l : LaneId) : Bool := r.hasPassed (.laneDrv l) && r.fly.all fun f => f.lane != l

/-- The Furrow has arrived at a channel, or the channel waits for none. -/
def Region.chanFur (r : Region) (x y : Nat) (e : Element) (ch : Nat) : Bool :=
  !cfgDef (e.cfg ch) || r.isBackEdge x y e.elt ch ||
    (match cfgLsrc (e.cfg ch) with
     | 0 => r.furAt x y e.elt.code ch
     | 1 => r.laneFur (.row y)
     | _ => r.laneFur (.col x))

/-! ### Quiet units -/

/-- A stream has stopped, or is idle with nothing pending. -/
def Stream.quiet (x : Stream) : Bool :=
  match x.run with
  | none => (x.pend.isEmpty && x.redo.isEmpty) || x.stopped
  | some g => !g.store && x.stopped

/-- An element is quiet (R357). -/
def Region.eltQuiet (r : Region) (x y : Nat) (e : Element) : Bool :=
  e.run.isNone && (e.chans.all fun c => c.fifo.isEmpty && c.lanes.isEmpty) && (e.ports.all fun p => p.queue.isEmpty) &&
    (e.me.chains.all fun c => c.reqs.isEmpty) && (e.me.streams.all Stream.quiet) && (e.mx.all fun c => c.drain.isNone) &&
    (List.range 32).all (r.chanFur x y e)

/-- A CCU has stopped as a source, or has nothing to run. -/
def Region.ccuQuiet (r : Region) (x y : Nat) (c : Ccu) : Bool :=
  (c.running && c.stopped) || (!c.running && c.armq.isEmpty && r.furAt x y 4 0)

/-- The port whose circuit takes the Furrow of a load stream that sends no more (R357): it has stopped, or its last load had ended. -/
def Stream.restPort (x : Stream) : Option Nat :=
  if x.stopped then x.stopPort else if x.run.isNone && x.pend.isEmpty && x.redo.isEmpty then x.lastPort else none

/-- Nothing else of the tile's ME sends on a port: no transition names it, and no other stream runs on it. -/
def Element.restsOn (e : Element) (i q : Nat) : Bool :=
  ((List.range 32).all fun j => !((e.tran j).en && bitN (e.tran j).ospc q)) &&
    (List.range 8).all fun k => k == i || (e.me.stream k).stopped ||
      (match (e.me.stream k).run with | some g => g.store || g.pc != q | none => (e.me.stream k).pend.isEmpty && (e.me.stream k).redo.isEmpty)

/-- Hand the Furrow to ports of a tile, and remember that a unit has passed it on. -/
def Region.passFurrow (r : Region) (x y : Nat) (u : UnitId) (outs : List (Nat × Nat)) : Region :=
  let r1 := r.modSwitch (r.phys x y).1 (r.phys x y).2 fun w => { w with furOut := w.furOut ++ outs }
  { r1 with switchOut := r1.switchOut.map fun o => { o with passed := o.passed ++ [u] } }

/-- Ports whose stopped streams have passed the Furrow on already. -/
def Region.streamPorts (r : Region) (x y : Nat) (m : Me) : List Nat :=
  (List.range 8).filterMap fun i => if r.hasPassed (.stream x y i) then (m.stream i).restPort else none

/-- A Furrow that stands at the head of an input whose circuit ends at this switch. -/
def Region.localFurrow (r : Region) (col row : Nat) : Option (InAt × W64) :=
  (r.switch col row).bind fun w => w.routes.findSome? fun e =>
    let i : InAt := { slot := 0, col := col, row := row, src := rtSrc e, six := rtSix e }
    if rtV e && !(decide (5 ≤ rtDst e) && decide (rtDst e ≤ 8)) && r.inputHead i == some .furrow then some (i, e) else none

/-- Take a Furrow that has come to the end of its circuit. -/
def Region.takeFurrow (r : Region) (i : InAt) (e : W64) : Region :=
  let r1 := (r.takeInput i).furrowIn i.col i.row (i.src, i.six)
  match rtDst e, r.imageOf i.col i.row with
  | 9, some (_, y) => r1.modDriver (.row y) fun d => { d with furrow := true }
  | 10, some (x, _) => r1.modDriver (.col x) fun d => { d with furrow := true }
  | _, _ => r1

/-- A Furrow that stands at a span port leaves the module. -/
def Region.spanFurrow (r : Region) (col row : Nat) : Option InAt :=
  (r.switch col row).bind fun w => w.furOut.findSome? fun (src, q) =>
    let i : InAt := { slot := 0, col := col, row := row, src := src, six := q }
    if r.spanPort i && r.inputHead i == some .furrow then some i else none

/-- The place of a tile in physical order: row, then column (R41). -/
def Region.physKey (r : Region) (x y : Nat) : Nat := (r.phys x y).2 * 256 + (r.phys x y).1

/-- A drain visits elements in stage order and, within a stage, tiles in physical order (R41): the elements of lower stages have passed the Furrow, and
no element of the stage in an earlier tile is quiet and has yet to pass it. -/
def Region.lowerPassed (r : Region) (x y stage : Nat) : Bool :=
  r.tiles.all fun t => t.elts.all fun f =>
    r.hasPassed (.elt t.x t.y f.elt) || decide (stage < f.stage) ||
      (f.stage == stage && (decide (r.physKey x y ≤ r.physKey t.x t.y) || !r.eltQuiet t.x t.y f))

/-- What FURROW_PASS does to a draining region. -/
def Region.furrowStep (r : Region) (u : UnitId) : Region :=
  if r.hasPassed u then r
  else match u with
    | .elt x y k =>
      match r.elem x y k with
      | none => r
      | some e =>
        if !r.holds x y || !r.eltQuiet x y e || !r.lowerPassed x y e.stage then r
        else
          let early := if k = .me then r.streamPorts x y e.me else []
          let outs := (List.range 16).filter fun q => (r.destOf (.port x y k q)).isSome && !early.contains q
          r.passFurrow x y u (outs.map fun q => (k.code, q))
    | .stream x y i =>
      match r.elem x y .me with
      | none => r
      | some e =>
        match (e.me.stream i).restPort with
        | some q =>
          if r.holds x y && (r.destOf (.port x y .me q)).isSome && e.restsOn i q then
            r.passFurrow x y u (if (r.streamPorts x y e.me).contains q then [] else [(2, q)])
          else r
        | none => r
    | .ccu x y =>
      match r.ccu x y with
      | none => r
      | some c => if r.holds x y && r.ccuQuiet x y c then r.passFurrow x y u (if (r.destOf (.ccu x y)).isSome then [(4, 0)] else []) else r
    | .laneDrv l =>
      match r.driver l with
      | none => r
      | some d =>
        if d.furrow && d.words.isEmpty then { r with switchOut := r.switchOut.map fun o => { o with passed := o.passed ++ [u] } } else r
    | .switch col row =>
      match r.localFurrow col row with
      | some (i, e) => r.takeFurrow i e
      | none => match r.spanFurrow col row with
        | some i => (r.takeInput i).furrowIn col row (i.src, i.six)
        | none => r
    | .chain .. | .drain .. => r

/-- FURROW_PASS (R357): a quiet unit of a region that drains passes the Furrow on; a stopped source lets it into its circuit; a switch
takes one that has come to the end of its circuit. -/
def execFurrowPass (slot : Nat) (u : UnitId) (s : State) : Host.Outcome State Fault Refusal :=
  .next (s.modRegion slot fun r =>
    match r.state, r.switchOut with
    | .draining, some o => if o.freeze then r else r.furrowStep u
    | _, _ => r)

/-! ### Flips (R355 to R358, R361) -/

/-- Something feeds an input of a switch: a source of its tile, or an entry that leads there. A pass-through column carries an entry each way
for every crossing circuit (R401), and no Furrow comes along the one that nothing feeds. -/
def Region.fed (r : Region) : Nat → Nat → Nat → Nat → Nat → Bool
  | 0, _, _, _, _ => false
  | fuel + 1, col, row, src, six =>
    if src ≤ 4 then true
    else match neighbour col row src with
      | none => false
      | some (c, w) =>
        match (r.switch c w).bind fun z => z.routes.find? fun e => rtV e && rtDst e == opposite src && rtDix e == six with
        | some e => Region.fed r fuel c w (rtSrc e) (rtSix e)
        | none => false

/-- Every unit of a tile is quiet and has passed the Furrow, which has come along every circuit of its switch but back edges. -/
def Region.tileDrained (r : Region) (col row : Nat) : Bool :=
  let circuits := match r.switch col row with
    | none => true
    | some w => w.routes.all fun e => !rtV e || w.furIn.contains (rtSrc e, rtSix e) || r.backCircuit col row e ||
        !r.fed 4096 col row (rtSrc e) (rtSix e)
  let units := match (r.imageOf col row).bind fun (x, y) => r.tile x y with
    | none => true
    | some t =>
      (t.elts.all fun e => r.hasPassed (.elt t.x t.y e.elt) && r.eltQuiet t.x t.y e) &&
        (match t.ccu with | some c => r.hasPassed (.ccu t.x t.y) && c.armq.isEmpty | none => true) &&
        (r.lanesAt t.x t.y).all fun l => r.hasPassed (.laneDrv l)
  circuits && units

/-- Physical tiles of a region that have not flipped. -/
def Region.unflipped (r : Region) : List (Nat × Nat) :=
  match r.place with
  | none => []
  | some p => p.tiles.filter fun (c, w) => !r.flipped c w

/-- The place of a tile in the freeze-mode sweep: its highest stage, then row and column (DEDUCED, log entry 100). -/
def Region.sweepKey (r : Region) (k : Nat × Nat) : Nat :=
  let stage := (((r.imageOf k.1 k.2).bind fun (x, y) => r.tile x y).map fun t => (t.elts.map (·.stage)).foldl max 0).getD 0
  (stage * 64 + k.2) * 256 + k.1

/-- The next tile of a freeze-mode sweep. -/
def Region.nextSweep (r : Region) : Option (Nat × Nat) :=
  match r.unflipped with
  | [] => none
  | k :: l => some (l.foldl (fun a b => if r.sweepKey b < r.sweepKey a then b else a) k)

/-- The tokens and scale transfers that stand in a switch as its tile flips, by input. -/
def Region.itemsAt (r : Region) (slot col row : Nat) : List (InAt × Item) :=
  match r.switch col row with
  | none => []
  | some w => w.bufs.flatMap fun ((src, six), l) => l.map fun b => ({ slot := slot, col := col, row := row, src := src, six := six }, b.item)

/-- An item that stands at a flipped tile is captured. -/
def State.captureItem (s : State) (slot : Nat) (i : InAt) : Item → State
  | .token t => s.captureLate slot i t
  | .scale z => s.captureScale slot i z
  | .furrow => s

/-- Every element of a tile, as it stands in a fc in which it makes no selection and no beat of it commits. -/
def Region.restFor (q : Region) (x y fc : Nat) : Region :=
  { q with tiles := q.tiles.map fun t => if t.x = x ∧ t.y = y then { t with elts := t.elts.map fun e => { e with selFc := some fc, flipFc := some fc, run := e.run.map fun u => { u with issued := fc } } } else t }

/-- A freeze reaches what a tile brings in (R358). -/
def Region.catchUp (q : Region) (col row : Nat) : Region :=
  let us := UnitId.switch col row :: (((q.imageOf col row).bind fun (x, y) => q.tile x y).map Tile.units).getD []
  { q with freeze := q.freeze.map fun z => { z with got := z.got ++ us.filter fun u => !z.got.contains u } }

/-- The incoming configuration takes a tile (R355 step 2 to 4, R225, R358): its credits, the scratchpad that follows bank by bank, its first
selection in the next fc, and a freeze that has been asked for. -/
def Region.flipIn (q0 : Region) (col row fc : Nat) : Region :=
  let q : Region := (match q0.imageOf col row with | some (x, y) => q0.restFor x y fc | none => q0).catchUp col row
  let q1 : Region := { q with entered := q.entered ++ [(col, row)] }
  match q.imageOf col row with
  | none => q1
  | some (x, y) =>
    let q2 := if q.fresh then q1.grantInitial fun d => d.tile == some (x, y) else q1
    if (q.me x y).isSome then
      (q2.modMe x y fun m => { m with swapped := 0 }).modElem x y .mx fun e => { e with holdMmas := true }
    else q2

/-- The first tile's flip makes the incoming region resident with RUN = 1; one that has been killed stays so (R343, R358). -/
def State.flipTo (s : State) (k : Nat) (outPar : Bool) (col row : Nat) : State :=
  match s.region k with
  | none => s
  | some q =>
    let covers := (q.place.map fun p => p.tiles.contains (col, row)).getD false
    if !covers || q.state == .killed then s
    else
      let q1 : Region := { q with par := if q.entered.isEmpty then !outPar else q.par }
      let s1 := s.setRegion k (q1.flipIn col row s.fc)
      if q.entered.isEmpty then (s1.toState k .resident).beginRun k else s1

/-- The switch is over for the incoming region: it is no shadow any more, and a kill that waited takes effect (R358). -/
def State.endIncoming (s : State) (slot : Nat) (inc : Option Nat) : State :=
  let s1 := s.modRegion slot fun r => { r with shadow := none }
  match inc with
  | none => s1
  | some k =>
    let s2 := s1.modRegion k fun q => { q with shadowOf := none, fresh := false }
    match s2.region k with
    | some q => (match q.killWhenDone with
      | some st => (s2.releaseSettle k 0).endRegion k st q.lastFault
      | none => s2)
    | none => s2

/-- The end of a switch (R358, R361, R366, R413, R418): the outgoing region is saved, killed, or left for its rollback. -/
def State.endSwitch (s : State) (slot : Nat) (r : Region) (o : SwitchOut) : State :=
  let write := if r.killWhenDone.isSome then (s, none) else s.areaWrite r.part r.save 0 (r.saveBytes slot (if o.freeze then 2 else 0))
  let s1 := write.1.endIncoming slot o.incoming
  let s2 := s1.modRegion slot fun x => { x with overruns := if o.overrun then x.overruns else 0 }
  match r.killWhenDone, write.2 with
  | some st, _ => (s2.releaseSettle slot 0).endRegion slot st r.lastFault
  | none, some f => (s2.reportArea slot f).endRegion slot 4 f.code
  | none, none =>
    if r.gritted ∧ r.nonReplayable then s2.settleRollback slot r
    else if r.gritted then
      (s2.modRegion slot fun x => { x with place := none, entered := [], switchOut := none, freeze := some { why := .rollback, settled := true, order := s.accepts } }).releaseSettle
        slot 0
    else (s2.becomeSaved slot r.save).releaseSettle slot 0

/-- The incoming configuration has reached its slip planes, or there is none. -/
def State.slipReady (s : State) (o : SwitchOut) : Bool :=
  match o.incoming.bind s.region with
  | some q => q.state == .killed || q.emitted
  | none => true

/-- A tile of a draining region can flip now: it is drained, or, in freeze mode, the sweep has reached it. -/
def State.flipReady (s : State) (r : Region) (o : SwitchOut) (col row : Nat) : Bool :=
  r.unflipped.contains (col, row) && s.slipReady o &&
    (if o.freeze then !r.settling && r.freeze.isSome && r.nextSweep == some (col, row) else r.tileDrained col row)

/-- TILE_FLIP (R355 to R361): a tile of a draining region flips once it is drained, or, in freeze mode, when the sweep reaches it; the last
one ends the switch. -/
def execTileFlip (slot col row : Nat) (s : State) : Host.Outcome State Fault Refusal :=
  .next (match s.region slot with
    | none => s
    | some r =>
      match r.state, r.switchOut with
      | .draining, some o =>
        if !s.flipReady r o col row then s
        else
          let s1 := (r.itemsAt slot col row).foldl (fun (a : State) p => a.captureItem slot p.1 p.2) s
          let s2 := s1.modRegion slot fun x =>
            { (x.modSwitch col row fun w => { w with bufs := [] }) with
              switchOut := x.switchOut.map fun p => { p with flipped := p.flipped ++ [(col, row)] } }
          let s3 := match o.incoming with
            | some k => s2.flipTo k r.par col row
            | none => s2
          match s3.region slot with
          | some r3 => (match r3.switchOut with
            | some o3 => if r3.unflipped.isEmpty then s3.endSwitch slot r3 o3 else s3
            | none => s3)
          | none => s3
      | _, _ => s)

/-- Every tile that has not flipped can flip now, so that the last flip falls in this fc. -/
def State.lastFlips (s : State) (r : Region) (o : SwitchOut) : Bool := s.slipReady o && r.unflipped.all fun k => r.tileDrained k.1 k.2

/-- DRAIN_DEADLINE_EXPIRY (R361): the switch completes in freeze mode, and 0x51 is reported; the last tile's flip, where it can take place in the
same fc, wins (R372). -/
def execDrainDeadlineExpiry (slot : Nat) (s : State) : Host.Outcome State Fault Refusal :=
  .next (match s.region slot with
    | none => s
    | some r =>
      match r.state, r.switchOut with
      | .draining, some o =>
        if o.freeze || s.ns < o.deadline || s.lastFlips r o then s
        else
          let r1 : Region := { r with switchOut := some { o with freeze := true, overrun := true }, overruns := r.overruns + 1 }
          (s.setRegion slot (r1.startFreeze .switch)).reportFault slot { code := 0x51, src := 10, xna := true, info := r.unflipped.length }
      | _, _ => s)

/-! ### Completion (R124) -/

/-- No element of the region will ever select again. -/
def Element.finished (e : Element) : Bool := e.run.isNone && (e.halted || (List.range 32).all fun j => !(e.tran j).en)

/-- A stream that only keeps held writes that its region's completion releases. -/
def SRun.heldOnly (g : SRun) : Bool := g.store && g.hold && g.units == g.total && g.burst.isEmpty && g.part.isEmpty && !g.held.isEmpty

/-- Every condition of R124 but those on streams. -/
def Region.doneButStreams (r : Region) : Bool :=
  (r.tiles.all fun t => (t.elts.all fun e => e.finished && (e.me.chains.all fun c => c.inUse == 0) && e.mx.all fun c => c.drain.isNone) &&
    (match t.ccu with | some c => c.armed || c.ranOnce | none => true)) && r.streamCmds.all fun p => p.2.issued

def Stream.idle (x : Stream) : Bool := x.run.isNone && x.pend.isEmpty && x.redo.isEmpty

/-- Release the held writes of the HOLD streams that keep nothing else. -/
def Region.releaseAll (r : Region) : Region :=
  r.tiles.foldl (fun (a : Region) t => (List.range 8).foldl (fun (b : Region) i =>
    b.modRun { slot := 0, x := t.x, y := t.y } i fun g => if g.heldOnly then { g with rel := g.held.length } else g) a) r

/-- REGION_COMPLETE (R124, R343): the region ends; before that, its last held writes are released as a commit mark releases them. -/
def execRegionComplete (slot : Nat) (s : State) : Host.Outcome State Fault Refusal :=
  .next (match s.region slot with
    | none => s
    | some r =>
      let streams := r.tiles.flatMap fun t => t.elts.flatMap fun e => if e.elt = .me then e.me.streams else []
      if r.state != .resident || !r.run || r.freeze.isSome || r.shadowOf.isSome || !r.doneButStreams then s
      else if streams.all Stream.idle then s.endRegion slot 3 0
      else if streams.all fun x => x.idle || (x.pend.isEmpty && (x.run.map (·.heldOnly)).getD false) then s.setRegion slot r.releaseAll
      else s)

end Sys2Proof.Machine
end

