-- ==== Sys2Proof/Machine/Rollback.lean ====
section
/-! DEFINITION. Rollback (15 R413, R417, R418; 06 R188): the rewound streams, the activation values, the new placement; and the defect mark
in flash. -/

namespace Sys2Proof.Machine

/-- Kept units as they are sent again: the words of a unit, then each of its end-of-stream tokens. -/
def replayGroups (kept : List (List PortItem)) : List (List PortItem) :=
  kept.flatMap fun u =>
    let data := u.filter fun i => i.tok.eosl == 0
    (if data.isEmpty then [] else [data]) ++ (u.filter fun i => i.tok.eosl != 0).map fun i => [i]

/-- A descriptor returns to its last mark (R417 steps 5 and 6); writes that a mark has released are performed all the same (R216, R419). -/
def SRun.rewind (g : SRun) : SRun :=
  let g1 : SRun := { g with burst := [], part := [], partPsn := false, ended := false, refill := none, held := g.held.take g.rel }
  if g.store then (if g.hold then { g1 with units := g.markUnits } else g1)
  else if g.rft then { g1 with units := g.markUnits, eos := g.markEos, kept := [], replay := [] }
  else { g1 with units := g.markUnits, kept := [], replay := replayGroups g.kept ++ g.replay }

/-- A rewound load that has nothing to send again: only its completion token, if it has one, is due. -/
def SRun.spent (g : SRun) : Bool := !g.store && decide (g.total ≤ g.units) && g.replay.isEmpty && g.eos.isNone

/-- A stream returns to its last mark: the descriptors that have ended since, the running one, and those that an earlier rollback has put back. -/
def Stream.rewind (x : Stream) : Stream :=
  let all := (((x.past ++ x.run.toList ++ x.redo).map SRun.rewind).map fun g => if g.spent then { g with ended := true } else g).filter
    fun g => !g.spent || g.cmpe
  { x with run := all.head?, redo := all.tail, past := [], teData := none, teScale := none, stopped := false, stopPort := none, lost := false }

/-- The channels at activation (R174). -/
def Element.freshChans (e : Element) : List Chan :=
  (List.range 32).map fun c => if cfgDef (e.cfg c) && (cfgBlock (e.cfg c)).isSome then { win := { crd := cfgDepth (e.cfg c) } } else {}

/-- An element after a rollback: `b` is its activation, `cur` how it stood. The scratchpad stays. -/
def Element.rolled (b cur : Element) : Element :=
  { b with
    chans := b.freshChans, ports := List.replicate 16 {}, srf := List.replicate 64 {}, cycles := {}, selFc := none
    me := { b.me with spad := cur.me.spad, spoison := cur.me.spoison, chains := List.replicate 8 {}, streams := cur.me.streams.map Stream.rewind
                      fences := [], nfence := 0, prefs := [], swapped := 16 } }

/-- A tile after a rollback: its CCU is as at activation, with nothing on its way. -/
def Tile.rolled (b cur : Tile) : Tile :=
  { b with elts := b.elts.map fun e => e.rolled ((cur.elem e.elt).getD e)
           ccu := b.ccu.map fun c => { c with armq := [], out := [], fcred := 0, stopped := false, emitFc := none } }

/-- The region on its new placement, with the state of its activation or of its last restore. -/
def Region.rolled (r : Region) (p : Place) (j : Image) : Region :=
  let r1 := r.configure p j
  let r2 : Region := { r1 with tiles := r.base.map fun b => b.rolled ((r.tile b.x b.y).getD b), base := r.base, run := false, fault := none
                               gritted := false, migrating := r.migrating, freeze := none, lastFault := 0x40 }
  (r2.putDelays p r.baseDelays).enterAll p

/-- Deliver the region's record, with a bit of INFO when it is that of the 0x40 (R347, R413). -/
def State.report40 (s : State) (slot : Nat) (r : Region) (info : Nat) : State :=
  s.deliverFault slot ((r.fault.getD { code := 0x40 }).with40 info)

/-- ROLLBACK (R417, R418): a region stopped by a second Grit mismatch is placed anew over its whole partition and takes its activation
values; without a placement it is killed (DEDUCED, log entry 38). -/
def execRollback (slot : Nat) (s : State) : Host.Outcome State Fault Refusal :=
  .next (match s.region slot with
    | none => s
    | some r =>
      match r.freeze with
      | some z =>
        if z.why != .rollback || !z.settled || s.launchBefore r.part z.order || (r.state != .resident && r.state != .draining) then s
        else match s.readImageAt r.part r.img with
          | (s1, .fault f) => ((s1.report40 slot r 0).reportArea slot f).faultKill slot f.code
          | (s1, .bad st) => (s1.report40 slot r 0).faultKill slot (fld st 63 56)
          | (s1, .ok i) =>
            match (s1.clearOwned slot).search { self := some slot } slot r i (2 ^ 63) with
            | .fault s2 code info => ((s2.report40 slot r 0).reportArea slot { code := code, info := info }).faultKill slot code
            | .reject s2 st => (s2.report40 slot r 0).rejectRegion slot st
            | .none_ s2 => (s2.report40 slot r (2 ^ 63)).faultKill slot 0x40
            | .placed s2 p =>
              let own := ((s2.region slot).map (·.ownedAt)).getD []
              match s2.relocate r.part p i with
              | none => s
              | some j =>
                let s3 := match r.shadow with
                  | some k => s2.endOne k 4 0x40
                  | none => s2
                let s4 := s3.setRegion slot ({ r with image := some i, ownedAt := own, shadow := none, shadowOf := none } : Region)
                let s5 := s4.report40 slot r 0
                ((s5.modRegion slot fun x => x.rolled p j).toState slot .rolledBack).releaseSettle slot 0
      | none => s)

/-- DEFECT_MARK_PERSIST (R413): the marks of a tile are written to the map in flash. -/
def execDefectMarkPersist (col row : Nat) (s : State) : Host.Outcome State Fault Refusal :=
  .next (match look s.defects (col, row) with
    | none => s
    | some m => { s with flash := { s.flash with defects := insertKV s.flash.defects (col, row) m } })

end Sys2Proof.Machine
end

