-- ==== Sys2Proof/Machine/Dispatch.lean ====
section
/-! DEFINITION. The meaning of every step: one arm per constructor of Instr. -/

namespace Sys2Proof.Machine

def exec (i : Instr) (s : State) : Host.Outcome State Fault Refusal :=
  match i with
  | .selection e => Sys2Proof.Machine.execSelection e s
  | .beat e g => Sys2Proof.Machine.execBeat e g s
  | .tokenArrival a => Sys2Proof.Machine.execTokenArrival a s
  | .scaleTransferArrival a => Sys2Proof.Machine.execScaleTransferArrival a s
  | .windowCreditReturn slot dst => Sys2Proof.Machine.execWindowCreditReturn slot dst s
  | .creditReturn slot dst => Sys2Proof.Machine.execCreditReturn slot dst s
  | .tokenHop slot col row dir => Sys2Proof.Machine.execTokenHop slot col row dir s
  | .laneDriverInput j => Sys2Proof.Machine.execLaneDriverInput j s
  | .laneTransferArrival slot l x y => Sys2Proof.Machine.execLaneTransferArrival slot l x y s
  | .ccuEmit t => Sys2Proof.Machine.execCcuEmit t s
  | .ccuArm t => Sys2Proof.Machine.execCcuArm t s
  | .requestSend t chain => Sys2Proof.Machine.execRequestSend t chain s
  | .requestPerform t chain => Sys2Proof.Machine.execRequestPerform t chain s
  | .atomicApply t chain => Sys2Proof.Machine.execAtomicApply t chain s
  | .remoteAck t chain seq => Sys2Proof.Machine.execRemoteAck t chain seq s
  | .replyDelivery t chain => Sys2Proof.Machine.execReplyDelivery t chain s
  | .translationWalk slot w => Sys2Proof.Machine.execTranslationWalk slot w s
  | .streamDescriptorStart t k => Sys2Proof.Machine.execStreamDescriptorStart t k s
  | .streamLoadUnit t k => Sys2Proof.Machine.execStreamLoadUnit t k s
  | .streamStoreUnit t k => Sys2Proof.Machine.execStreamStoreUnit t k s
  | .streamCompletionToken t k => Sys2Proof.Machine.execStreamCompletionToken t k s
  | .meBankSwap t => Sys2Proof.Machine.execMeBankSwap t s
  | .mxDrainWord t ctx port => Sys2Proof.Machine.execMxDrainWord t ctx port s
  | .mdrcElementWrite engine => Sys2Proof.Machine.execMdrcElementWrite engine s
  | .freezeReceipt slot u => Sys2Proof.Machine.execFreezeReceipt slot u s
  | .frontSettle slot => Sys2Proof.Machine.execFrontSettle slot s
  | .watchdogExpiry slot => Sys2Proof.Machine.execWatchdogExpiry slot s
  | .noProgressReport slot => Sys2Proof.Machine.execNoProgressReport slot s
  | .furrowPass slot u => Sys2Proof.Machine.execFurrowPass slot u s
  | .tileFlip slot col row => Sys2Proof.Machine.execTileFlip slot col row s
  | .drainDeadlineExpiry slot => Sys2Proof.Machine.execDrainDeadlineExpiry slot s
  | .regionComplete slot => Sys2Proof.Machine.execRegionComplete slot s
  | .rollback slot => Sys2Proof.Machine.execRollback slot s
  | .defectMarkPersist col row => Sys2Proof.Machine.execDefectMarkPersist col row s
  | .rgnld rd rs1 => Sys2Proof.Machine.execRgnld rd rs1 s
  | .rgngo rd rs1 rs2 => Sys2Proof.Machine.execRgngo rd rs1 rs2 s
  | .rgndrn rd rs1 rs2 => Sys2Proof.Machine.execRgndrn rd rs1 rs2 s
  | .rgnfrz rd rs1 => Sys2Proof.Machine.execRgnfrz rd rs1 s
  | .rgnsav rd rs1 rs2 => Sys2Proof.Machine.execRgnsav rd rs1 rs2 s
  | .rgnrst rd rs1 rs2 => Sys2Proof.Machine.execRgnrst rd rs1 rs2 s
  | .rgnmov rd rs1 rs2 => Sys2Proof.Machine.execRgnmov rd rs1 rs2 s
  | .rgnkil rd rs1 => Sys2Proof.Machine.execRgnkil rd rs1 s
  | .rgnqry rd rs1 rs2 => Sys2Proof.Machine.execRgnqry rd rs1 rs2 s
  | .rgnslc rd rs1 rs2 => Sys2Proof.Machine.execRgnslc rd rs1 rs2 s
  | .strmCommand rd rs1 rs2 => Sys2Proof.Machine.execStrmCommand rd rs1 rs2 s
  | .strmb rd rs1 rs2 => Sys2Proof.Machine.execStrmb rd rs1 rs2 s
  | .strmqCommand rd rs1 rs2 => Sys2Proof.Machine.execStrmqCommand rd rs1 rs2 s
  | .sarm rd rs1 rs2 => Sys2Proof.Machine.execSarm rd rs1 rs2 s
  | .binit rd rs1 rs2 => Sys2Proof.Machine.execBinit rd rs1 rs2 s
  | .barv rd rs1 rs2 => Sys2Proof.Machine.execBarv rd rs1 rs2 s
  | .barvx rd rs1 rs2 => Sys2Proof.Machine.execBarvx rd rs1 rs2 s
  | .bwait rd rs1 rs2 => Sys2Proof.Machine.execBwait rd rs1 rs2 s
  | .btest rd rs1 rs2 => Sys2Proof.Machine.execBtest rd rs1 rs2 s
  | .tfpsh rd rs1 rs2 => Sys2Proof.Machine.execTfpsh rd rs1 rs2 s
  | .tfpop rd rs1 => Sys2Proof.Machine.execTfpop rd rs1 s
  | .tfqry rd rs1 => Sys2Proof.Machine.execTfqry rd rs1 s
  | .cpy rd rs1 rs2 => Sys2Proof.Machine.execCpy rd rs1 rs2 s
  | .cpyt rd rs1 rs2 => Sys2Proof.Machine.execCpyt rd rs1 rs2 s
  | .cpyq rd rs1 => Sys2Proof.Machine.execCpyq rd rs1 s
  | .coll rd rs1 rs2 => Sys2Proof.Machine.execColl rd rs1 rs2 s
  | .collq rd rs1 => Sys2Proof.Machine.execCollq rd rs1 s
  | .fencex rd rs1 => Sys2Proof.Machine.execFencex rd rs1 s
  | .cbinv rd rs1 rs2 => Sys2Proof.Machine.execCbinv rd rs1 rs2 s
  | .cbsync rd rs1 => Sys2Proof.Machine.execCbsync rd rs1 s
  | .ctrsel rd rs1 rs2 => Sys2Proof.Machine.execCtrsel rd rs1 rs2 s
  | .ctrrd rd rs1 => Sys2Proof.Machine.execCtrrd rd rs1 s
  | .ctrclr rd rs1 => Sys2Proof.Machine.execCtrclr rd rs1 s
  | .trcon rd rs1 rs2 => Sys2Proof.Machine.execTrcon rd rs1 rs2 s
  | .trcoff rd rs1 => Sys2Proof.Machine.execTrcoff rd rs1 s
  | .dunego rd rs1 => Sys2Proof.Machine.execDunego rd rs1 s
  | .duneq rd rs1 => Sys2Proof.Machine.execDuneq rd rs1 s
  | .svpol rd rs1 rs2 => Sys2Proof.Machine.execSvpol rd rs1 rs2 s
  | .jrnrd rd rs1 rs2 => Sys2Proof.Machine.execJrnrd rd rs1 rs2 s
  | .commandIssue q => Sys2Proof.Machine.execCommandIssue q s
  | .copyUnit engine => Sys2Proof.Machine.execCopyUnit engine s
  | .commandRetire q => Sys2Proof.Machine.execCommandRetire q s
  | .engineTokenPush q => Sys2Proof.Machine.execEngineTokenPush q s
  | .barrierCredit n => Sys2Proof.Machine.execBarrierCredit n s
  | .barrierFail n => Sys2Proof.Machine.execBarrierFail n s
  | .barrierNotifyPush n => Sys2Proof.Machine.execBarrierNotifyPush n s
  | .bwaitWake hart => Sys2Proof.Machine.execBwaitWake hart s
  | .collStartExchange strip prev next => Sys2Proof.Machine.execCollStartExchange strip prev next s
  | .collHopUnit strip seq unit => Sys2Proof.Machine.execCollHopUnit strip seq unit s
  | .collHopAck strip seq => Sys2Proof.Machine.execCollHopAck strip seq s
  | .collHopTimeout strip => Sys2Proof.Machine.execCollHopTimeout strip s
  | .kvStepWrite strip => Sys2Proof.Machine.execKvStepWrite strip s
  | .dunePageCopy stream => Sys2Proof.Machine.execDunePageCopy stream s
  | .postcopyDemandPull stream rec page => Sys2Proof.Machine.execPostcopyDemandPull stream rec page s
  | .postcopyPush stream => Sys2Proof.Machine.execPostcopyPush stream s
  | .pullAttemptTimeout stream => Sys2Proof.Machine.execPullAttemptTimeout stream s
  | .notify vcp qmsk => Sys2Proof.Machine.execNotify vcp qmsk s
  | .vcpConfigWrite m vcp word value => Sys2Proof.Machine.execVcpConfigWrite m vcp word value s
  | .vcpScan => Sys2Proof.Machine.execVcpScan s
  | .launch => Sys2Proof.Machine.execLaunch s
  | .arm => Sys2Proof.Machine.execArm s
  | .signal => Sys2Proof.Machine.execSignal s
  | .wait => Sys2Proof.Machine.execWait s
  | .waitComplete seq => Sys2Proof.Machine.execWaitComplete seq s
  | .copy => Sys2Proof.Machine.execCopy s
  | .collPacket => Sys2Proof.Machine.execCollPacket s
  | .migrate => Sys2Proof.Machine.execMigrate s
  | .query => Sys2Proof.Machine.execQuery s
  | .cancel => Sys2Proof.Machine.execCancel s
  | .placementSearch slot => Sys2Proof.Machine.execPlacementSearch slot s
  | .emit slot => Sys2Proof.Machine.execEmit slot s
  | .completionEntryWrite vcp queue => Sys2Proof.Machine.execCompletionEntryWrite vcp queue s
  | .bedrockFault => Sys2Proof.Machine.execBedrockFault s
  | .bedrockUpdate image signature => Sys2Proof.Machine.execBedrockUpdate image signature s
  | .invalidatePage hart asid size => Sys2Proof.Machine.execInvalidatePage hart asid size s
  | .invalidateAsid hart asid => Sys2Proof.Machine.execInvalidateAsid hart asid s
  | .invalidateAll hart => Sys2Proof.Machine.execInvalidateAll hart s
  | .invalidationComplete => Sys2Proof.Machine.execInvalidationComplete s
  | .rsm m part ticket => Sys2Proof.Machine.execRsm m part ticket s
  | .srq m slot => Sys2Proof.Machine.execSrq m slot s
  | .resumeStoppedRegion m slot => Sys2Proof.Machine.execResumeStoppedRegion m slot s
  | .debugBlockWrite m slot word value => Sys2Proof.Machine.execDebugBlockWrite m slot word value s
  | .partitionTableWrite m strip value => Sys2Proof.Machine.execPartitionTableWrite m strip value s
  | .partitionBlockWrite m first off value => Sys2Proof.Machine.execPartitionBlockWrite m first off value s
  | .laneGroupControlWrite m group value => Sys2Proof.Machine.execLaneGroupControlWrite m group value s
  | .registerWrite m r value => Sys2Proof.Machine.execRegisterWrite m r value s
  | .laneGroupTrainingDone group gen peerMod peerGroup own => Sys2Proof.Machine.execLaneGroupTrainingDone group gen peerMod peerGroup own s
  | .flitReceive group flit crcOk acked refused => Sys2Proof.Machine.execFlitReceive group flit crcOk acked refused s
  | .laneGroupLost group => Sys2Proof.Machine.execLaneGroupLost group s
  | .cxlSnoop addr => Sys2Proof.Machine.execCxlSnoop addr s
  | .scrubRead what found => Sys2Proof.Machine.execScrubRead what found s
  | .scrubWriteback target => Sys2Proof.Machine.execScrubWriteback target s
  | .hartParityError hart => Sys2Proof.Machine.execHartParityError hart s
  | .hardpanParityError => Sys2Proof.Machine.execHardpanParityError s
  | .policyCheck => Sys2Proof.Machine.execPolicyCheck s
  | .releaseInstant tid => Sys2Proof.Machine.execReleaseInstant tid s
  | .traceRecordWrite slot => Sys2Proof.Machine.execTraceRecordWrite slot s
  | .throttleEvaluation pnow tj tcool => Sys2Proof.Machine.execThrottleEvaluation pnow tj tcool s
  | .thermalTrip tj => Sys2Proof.Machine.execThermalTrip tj s
  | .warmReset m => Sys2Proof.Machine.execWarmReset m s
  | .coldReset => Sys2Proof.Machine.execColdReset s
  | .lossOfPower => Sys2Proof.Machine.execLossOfPower s

end Sys2Proof.Machine
end

