-- ==== Sys2Proof/Machine/Time.lean ====
section
/-! DEFINITION. The passing of time (00 R5, 17 R455): the fabric clock, the reference clock, and the counts that rise with them:
region-active time and the no-progress counter (12 R369, R371), and the cycle classes (16 R425, R426). -/

namespace Sys2Proof.Machine

/-- A transition whose stall entry holds one of the codes, the lowest first, with the channel or port it names. -/
def Element.stallNames (e : Element) (codes : List Nat) : Option Nat := (e.stall.find? fun c => codes.contains c.1).map (·.2)

/-- A beat of the element has committed in `fc`: its selection record is of this fc and a transition has no stall. -/
def Element.committedIn (e : Element) (fc : Nat) : Bool := e.selFc == some fc && e.stall.any fun c => c.1 == 0

/-- The element flips in this fc, or it waits for its tile's bank swap: the ME whose banks are swapped one by one, and the MX whose MMAS wait
for the last of them (R225, R355). -/
def Element.loads (e : Element) (fc : Nat) : Bool := e.flipFc == some fc || (e.elt == .me && decide (e.me.swapped < 16)) || e.holdMmas

/-- The class of an fc for an element (R425). -/
def Element.cycleClass (e : Element) (fc : Nat) : Nat :=
  if e.loads fc then 3
  else if e.run.isSome || e.committedIn fc then 0
  else if (e.stallNames [7]).isSome then 2
  else if (e.stallNames [4, 5, 6]).isSome then 1
  else 4

/-- Add one fc to an element's cycle record. -/
def Element.addCycle (e : Element) (cls : Nat) : Element :=
  let c := e.cycles
  let sat (n : Nat) : Nat := min (n + 1) (2 ^ 32 - 1)
  { e with cycles := { c with
      cls := upd c.cls cls fun n => (n + 1) % 2 ^ 64
      port := if cls = 2 then upd c.port ((e.stallNames [7]).getD 0) sat else c.port
      opnd := if cls = 1 then upd c.opnd ((e.stallNames [4, 5, 6]).getD 0) sat else c.opnd } }

/-- A region counts time: resident with RUN = 1 and not stopped (R369, R371). -/
def Region.counting (r : Region) : Bool := r.state == .resident && r.run && !r.stp

/-! ### What takes effect at the end of an fc -/

/-- The words that drain units place in this fc enter their ports behind the tokens of the fc's beat, where an entry is free (R235). -/
def Element.drainDue (e : Element) (c : Nat) : List Nat → Element
  | [] => e
  | q :: rest =>
    match (e.mx.getD c {}).drain with
    | none => e
    | some d =>
      if e.portRoom q = 0 then e.drainDue c rest else (e.placeWord c q d).drainDue c rest

def Element.settleDrains (e : Element) : Element :=
  (List.range 4).foldl (fun (a : Element) c =>
    match (a.mx.getD c {}).drain with
    | some d => (({ a with mx := upd a.mx c fun m => { m with drain := m.drain.map fun z => { z with due := [] } } } : Element).drainDue c d.due)
    | none => a) e

/-- The run's beat began before `fc` and is in progress: it goes on seeing the SRF as it stood then (R169). -/
def Run.goesOn (u : Run) (fc : Nat) : Bool := u.inProgress && decide (u.issued < fc)

/-- The end of an fc for an element: drain words, then arms (R230), then arrivals (R36, R169); with the FIFO credits that return. -/
def Element.settle (e0 : Element) (fc : Nat) : Element × List (Nat × Nat) :=
  let e : Element := if (e0.run.map fun u => u.goesOn fc).getD false then e0 else { e0 with srfWas := [] }
  let e1 := if e.elt = .mx then (let a := e.settleDrains; { a with mx := a.mx.map MxCtx.settleArms }) else e
  e1.settleChans fc (List.range 32)

def Tile.settle (t : Tile) (fc : Nat) : Tile × List (DestId × Bool) :=
  let l := t.elts.map fun e => e.settle fc
  ({ t with elts := l.map (·.1) }, l.flatMap fun p => p.2.flatMap fun c => List.replicate c.2 (.chan t.x t.y p.1.elt c.1, false))

/-- The end of an fc for a region; the window credits of its commits may travel from now on (R189) (DEDUCED, log entry 92). -/
def Region.settleFc (r : Region) (fc : Nat) : Region :=
  let l := r.tiles.map fun t => t.settle fc
  { r with tiles := l.map (·.1), credits := r.credits ++ r.credDue ++ l.flatMap (·.2), credDue := [] }

/-- One fc of one region. -/
def Region.tick (r : Region) (fc ns : Nat) : Region :=
  let r0 := r.settleFc fc
  let r1 : Region := if r0.counting then { r0 with active := r0.active + ns, noProg := r0.noProg + 1 } else r0
  { r1 with tiles := r1.tiles.map fun t =>
      if r.live t.x t.y then { t with elts := t.elts.map fun e => e.addCycle (e.cycleClass fc) } else t }

/-- The CYC events of an fc for the bound counters (R428). -/
def State.countCycles (s : State) : State :=
  if s.banks.isEmpty then s
  else s.regions.foldl (fun (a : State) (p : Nat × Region) =>
    p.2.tiles.foldl (fun (b : State) (t : Tile) =>
      if p.2.live t.x t.y then
        t.elts.foldl (fun (c : State) e => c.count 1 (e.cycleClass s.fc) (p.2.placeOf p.1 t.x t.y e.elt.code) 1) b
      else b) a) s

/-- The energy of an fc at a counter bound to it (R428): an open amount for the bank's view (DESIGN CHOICE, log entry 77). -/
def CtrBank.countEnergy (b : CtrBank) (fc : Nat) : CtrBank :=
  { b with ctrs := b.ctrs.mapIdx fun i c =>
      if c.counting && fld c.event.toNat 63 56 == 7 && !bitN b.abs.toNat i then
        { c with live := (c.live + Config.energyMj b.part (match b.tid with | some t => t + 1 | none => 0) fc) % 2 ^ 64 }
      else c }

/-- One fc of the fabric clock, in which `ns` reference ticks pass. -/
def State.tick (s : State) (ns : Nat) : State :=
  let s1 := s.countCycles
  { s1 with fc := s.fc + 1, ns := s.ns + ns, lastNs := s.ns, jobEnds := [], banks := s1.banks.map (·.countEnergy s.fc)
            traces := s1.traces.map Trace.merge, regions := s.regions.map fun p => (p.1, p.2.tick s.fc ns) }

end Sys2Proof.Machine
end

