-- ==== Sys2Proof/Machine/Step.lean ====
section
/-! DEFINITION. One step of the module. The environment's turns come first; without one, the current control core fetches,
decodes and runs its next word, and while no control core runs time passes. -/

namespace Sys2Proof.Machine

/-- A control core's turn: one whose store waits at the translation control block waits with it (R284); one on which nothing has started waits for an
interrupt (R449); an enabled interrupt is taken between
forms (R259); else it fetches at its pc, decodes, and runs the form or the base instruction; a fetch or a word it cannot run raises its exception. -/
def hartStep (s : State) : Host.Outcome State Fault Refusal :=
  if !(s.hart s.cur).on || s.storeWaits s.cur then .next s
  else if (s.hart s.cur).wait = .parked then .next (if (s.hart s.cur).irq then s.modHart s.cur fun c => { c with wait := .none } else s)
  else if (s.hart s.cur).wait = .none ∧ (s.hart s.cur).irqReady = true then .next (s.trap (Exc.interrupt (s.hart s.cur).mode))
  else
    match s.hartRead s.cur .fetch false (piecesOf (s.hart s.cur).pc.toNat 4) with
    | (s1, .error e) => .next (s1.trap e)
    | (s1, .ok bs) =>
      match decodeBytes bs with
      | .ok (i, _) => exec i s1
      | .error .illegal => .next (s1.trap (.illegal (ofBytes bs)))
      | .error _ =>
        match s1.baseRun (.ofNat 32 (ofBytes bs)) with
        | some t => .next t
        | none => .refused (.baseIsa (.ofNat 32 (ofBytes bs)))

/-- The registers that a step has written take effect as it ends. -/
def settled (o : Host.Outcome State Fault Refusal) : Host.Outcome State Fault Refusal :=
  match o with
  | .next s => .next s.settleRegs
  | .fault f => .fault f
  | .refused r => .refused r

/-- A step from `s` in which a walk met a page of a migration's list that has not moved is not performed: it waits while the page is pulled, and is
tried again (R388); with no route to the source left the page is lost (R389) (DESIGN CHOICE, log entry 122). -/
def pulled (s : State) (o : Host.Outcome State Fault Refusal) : Host.Outcome State Fault Refusal :=
  match o with
  | .next t =>
    match t.dune.asked with
    | none => .next t
    | some (asid, va) =>
      let t1 := ((s.askPull asid va).getD s).lostPulls
      .next { t1 with dune := { t1.dune with asked := none } }
  | .fault f => .fault f
  | .refused r => .refused r

/-- What the next turn does. -/
def turn (s : State) : Host.Outcome State Fault Refusal :=
  match s.agenda with
  | .event i :: rest => pulled { s with agenda := rest } (exec i { s with agenda := rest })
  | .hart h :: rest => pulled { s with agenda := rest, cur := h } (hartStep { s with agenda := rest, cur := h })
  | .tick ns :: rest => .next (State.tick { s with agenda := rest } ns)
  | [] => if (s.hart s.cur).on then pulled s (hartStep s) else .next (s.tick 1)

/-- One step (DESIGN CHOICE, log entry 1). -/
def step (s : State) : Host.Outcome State Fault Refusal := settled (turn s)

/-- `s` with a word stored where the current control core fetches next: the core runs, the word lies at its pc, the line is
clean, and the target's access table grants the fetch (DESIGN CHOICE, log entry 6). -/
def State.withFetchWord (s : State) (nbits w : Nat) : State :=
  let c := s.hart s.cur
  let pa := match c.physAddr .fetch c.pc.toNat with
    | .ok a => a
    | .error _ => c.pc.toNat
  let k := s.localKey pa
  let t := (targetOf pa).getD 0
  { s with agenda := [], regOps := []
           harts := upd s.harts s.cur fun c => { c with on := true, wait := .none, irq := false }
           mem := memWriteN s.mem k 4 (w % 2 ^ nbits)
           poison := s.poison.filter (· != k / 64)
           access := insertKV s.access (t, 0) (.ofNat 64 (put 63 60 15 + put 46 35 0xFFF), .ofNat 64 (put 62 32 0x7FFFFFFF)) }

end Sys2Proof.Machine
end

