-- ==== Sys2Proof/Safety.lean ====
section
/-! DEFINITION. What a safe run is: every step answers a next state; and the invariant the claims use. -/

namespace Sys2Proof

open Machine

/-- The invariant: memory is in its canonical form. -/
def Inv (s : State) : Prop := Memory.wf s.mem = true

/-- A run of `k` steps stays in next states. -/
def Safe (k : Nat) (s : State) : Prop := ∃ s', core.run k s = .next s'

end Sys2Proof
end

