-- ==== Sys2Proof/Certificates/Slice0/Obligations.lean ====
section
/-! DEFINITION. The statements for the provers. Rules are cited as R<n> of spec/; "log entry n" is notes/assumptions/n.md. -/

open Sys2Proof Sys2Proof.Machine

/-- Nine words, one for each opcode and funct3 of the table of R101, written out as funct7, rs2, rs1, funct3, rd, opcode, decode to the
form the table names, with their registers; a funct7 that the table does not assign, and a register field that the form does not use and
that is not 0, decode to the illegal-instruction error; a word of another major opcode is no form. -/
def Obligations.DecodesSpecWords : Prop :=
  decodeWord 0b0000001_01100_01011_000_01010_0001011#32 = .ok (.rgngo 10 11 12) ∧
  decodeWord 0b0000011_01100_01011_000_01010_0101011#32 = .ok (.sarm 10 11 12) ∧
  decodeWord 0b0000010_01100_01011_001_01010_0101011#32 = .ok (.barvx 10 11 12) ∧
  decodeWord 0b0000001_00000_01011_010_01010_0101011#32 = .ok (.tfpop 10 11) ∧
  decodeWord 0b0000001_01100_01011_000_01010_1011011#32 = .ok (.cpyt 10 11 12) ∧
  decodeWord 0b0000000_01100_01011_001_01010_1011011#32 = .ok (.coll 10 11 12) ∧
  decodeWord 0b0000001_01100_01011_010_01010_1011011#32 = .ok (.cbinv 10 11 12) ∧
  decodeWord 0b0000011_01100_01011_000_01010_1111011#32 = .ok (.trcon 10 11 12) ∧
  decodeWord 0b0000011_01100_01011_001_01010_1111011#32 = .ok (.jrnrd 10 11 12) ∧
  decodeWord 0b0001010_01100_01011_000_01010_0001011#32 = .error .illegal ∧
  decodeWord 0b0000001_00001_01011_010_01010_0101011#32 = .error .illegal ∧
  decodeWord 0b0000000_01100_01011_000_01010_0110011#32 = .error .notExtension

/-- For every step that has an encoding (the 39 control-core forms, with every register at every value): the decoder reads its word as
that step. And every word that the decoder accepts is the encoding of the step it gives: no bit of a word is dropped, and no two words
name one form. -/
def Obligations.FormsDecodeEncode : Prop :=
  (∀ i w, encode i = some w → decodeWord w = .ok i) ∧ (∀ w i, decodeWord w = .ok i → encode i = some w)

/-- For every well-formed slot (an operation with its fields in range and its consumers) and every element kind on which its opcode is
legal: the decoder reads the slot's word as that slot. -/
def Obligations.FabricSlotsDecodeEncode : Prop :=
  ∀ (sl : Slot) (k : Kind) (ok : Kind → Bool), sl.wf = true → opKinds (encodeOp sl.op).1 = some ok → ok k = true →
    decodeSlot k (encodeSlot sl) = .ok sl

/-- The opcode is in bits [31:24] of a word. The table of R92 makes legal 0x00 to 0x3F, 0xC0 to 0xC2 and 0xE0 to 0xE2 on every kind; 0x40 to 0x56, 0x58 to 0x5C and
0x60 to 0x6A on a PE; 0x80 to 0xA3 on an ME; 0xB0 to 0xB8 on an MX. For every word and kind: an opcode that the table lists for the kind is never refused as
undefined (0x02, 0x01) or as illegal on the kind (0x02, 0x02), whatever the word's other fields are; one that it lists for other kinds only is refused with (0x02, 0x02); one that it
does not list is refused with (0x02, 0x01). So a word decodes only where the table makes its opcode legal. -/
def Obligations.FabricOpcodesKinds : Prop :=
  ∀ (w : W32) (k : Kind),
    let op := w.toNat / 2 ^ 24
    let every := op < 0x40 ∨ (0xC0 ≤ op ∧ op ≤ 0xC2) ∨ (0xE0 ≤ op ∧ op ≤ 0xE2)
    let pe := (0x40 ≤ op ∧ op ≤ 0x56) ∨ (0x58 ≤ op ∧ op ≤ 0x5C) ∨ (0x60 ≤ op ∧ op ≤ 0x6A)
    let me := 0x80 ≤ op ∧ op ≤ 0xA3
    let mx := 0xB0 ≤ op ∧ op ≤ 0xB8
    let legal := every ∨ (pe ∧ k = .pe) ∨ (me ∧ k = .me) ∨ (mx ∧ k = .mx)
    (legal → decodeSlot k w ≠ .error (0x02, 0x01) ∧ decodeSlot k w ≠ .error (0x02, 0x02)) ∧
    ((pe ∧ k ≠ .pe) ∨ (me ∧ k ≠ .me) ∨ (mx ∧ k ≠ .mx) → decodeSlot k w = .error (0x02, 0x02)) ∧
    (¬ every → ¬ pe → ¬ me → ¬ mx → decodeSlot k w = .error (0x02, 0x01)) ∧
    ((∃ sl, decodeSlot k w = .ok sl) → legal)

/-- With nothing put forward by the environment and the current control core on. A core whose store waits at the translation control block waits with it (R284), and a core that has not been started waits for an interrupt
(log entry 121): the state stays, but that such an interrupt starts the core. Otherwise, where the core stands between forms with an interrupt pending and enabled, the step takes the interrupt (its entry is log entry 8).
Otherwise, when the fetch of four bytes at its pc passes and they decode to a form i, the step is exec of i in the state after the fetch; when they decode as illegal, it takes the illegal-instruction exception; when the
fetch fails, the fetch's exception; a word of another major opcode is the family's base instruction, run where the model runs it and else refused by its name (log entry 7).
Around exec the step adds two things. A step in which a walk met a page of a migration's list that has not moved is not performed: the page is asked for (log entry 122); where no walk did, the step is exec's. And the
device registers that were written take effect as it ends (log entry 74); where none was, nothing does. -/
def Obligations.StepRunsDecodedForm : Prop :=
  (∀ (s : State), s.agenda = [] → (s.hart s.cur).on = true →
    (s.storeWaits s.cur = true → step s = settled (pulled s (.next s))) ∧
    (s.storeWaits s.cur = false →
      ((s.hart s.cur).wait = .parked →
        ((s.hart s.cur).irq = false → step s = settled (pulled s (.next s))) ∧
        ((s.hart s.cur).irq = true → step s = settled (pulled s (.next (s.modHart s.cur fun c => { c with wait := .none }))))) ∧
      ((s.hart s.cur).wait ≠ .parked →
        let asked := (s.hart s.cur).wait = .none ∧ (s.hart s.cur).irqReady = true
        (asked → step s = settled (pulled s (.next (s.trap (Exc.interrupt (s.hart s.cur).mode))))) ∧
        (¬ asked → ∀ (s1 : State),
          (∀ bs, s.hartRead s.cur .fetch false (piecesOf (s.hart s.cur).pc.toNat 4) = (s1, .ok bs) →
            let w : W32 := .ofNat 32 (ofBytes bs)
            (∀ i rest, decodeBytes bs = .ok (i, rest) → step s = settled (pulled s (exec i s1))) ∧
            (decodeBytes bs = .error .illegal → step s = settled (pulled s (.next (s1.trap (Exc.illegal (ofBytes bs)))))) ∧
            (decodeBytes bs = .error .notExtension →
              (∀ t, s1.baseRun w = some t → step s = settled (pulled s (.next t))) ∧
              (s1.baseRun w = none → step s = .refused (.baseIsa w)))) ∧
          (∀ e, s.hartRead s.cur .fetch false (piecesOf (s.hart s.cur).pc.toNat 4) = (s1, .error e) → step s = settled (pulled s (.next (s1.trap e)))))))) ∧
  (∀ s t : State, t.dune.asked = none → pulled s (.next t) = .next t) ∧
  (∀ (s t : State) (asid va : Nat), t.dune.asked = some (asid, va) → ∃ u : State, pulled s (.next t) = .next u ∧ u.dune.asked = none) ∧
  (∀ t : State, settled (.next t) = .next t.settleRegs ∧ (t.regOps = [] → settled (.next t) = .next t)) ∧
  (∀ s f, settled (pulled s (.fault f)) = .fault f) ∧ (∀ s f, settled (pulled s (.refused f)) = .refused f)

/-- The environment's turns come first (the model's own choice, log entry 1): an event is run by exec with the turn taken off; a turn of a control core
is its own fetch and form; with no turn and the current core off, one fc passes with 1 ns. A step whose walk met a page that a migration has yet to move asks for it instead (log entry 122), and
device registers that were written take effect as the step ends (log entry 74). -/
def Obligations.StepRunsEvents : Prop :=
  ∀ (s : State) (rest : List Turn),
    (∀ i, s.agenda = .event i :: rest →
      step s = settled (pulled { s with agenda := rest } (exec i { s with agenda := rest })) ∧
      (∀ t : State, exec i { s with agenda := rest } = .next t → t.dune.asked = none → step s = settled (.next t))) ∧
    (∀ h, s.agenda = .hart h :: rest →
      step s = settled (pulled { s with agenda := rest, cur := h } (hartStep { s with agenda := rest, cur := h }))) ∧
    (∀ ns, s.agenda = .tick ns :: rest → step s = .next (State.tick { s with agenda := rest } ns).settleRegs) ∧
    (s.agenda = [] → (s.hart s.cur).on = false → step s = .next (s.tick 1).settleRegs)

/-- The model's own helper that places a word where the current core fetches (log entry 6): from the reset state, with a word that decodes to a form i, the next step is exec
of i. Where exec asks for no page of a migration (log entry 122), the registers that it writes take effect as the step ends (log entry 74) and nothing else is added. -/
def Obligations.WithFetchWordRuns : Prop :=
  ∀ (w : W32) (i : Instr), decodeWord w = .ok i →
    let s := State.reset.withFetchWord 32 w.toNat
    step s = settled (pulled s (exec i s)) ∧ (∀ t : State, exec i s = .next t → t.dune.asked = none → step s = .next t.settleRegs)

/-- Right after reset every control core has oxdl = 50 (R243), oxtnt = 0 (R242) and is held in reset; every VCP word vc0 reads 0x0003_0000_0000_0000 and
vc1 reads 0 (R306); every partition's watchdog limit is 2000 ms (R352); PLIM is 2800 W (R453), and no region, trace or
policy exists. Memory has nothing listed before the first boot clears it, and State.reset is the module before its boot (log entries 13 and 5). That the registers of a core and its pc are 0 is the model's choice (log entry 4). -/
def Obligations.ResetLeaves : Prop :=
  (∀ h, h < 64 → ((State.reset.hart h).oxdl = 50 ∧ (State.reset.hart h).oxtnt = 0 ∧ (State.reset.hart h).on = false)) ∧
  (∀ v, (State.reset.vcp v).vc0 = 0x0003000000000000 ∧ (State.reset.vcp v).vc1 = 0) ∧
  (∀ p, (State.reset.frBlock p).wdl = 2000) ∧ State.reset.mgmt.plim = 2800 ∧
  State.reset.mem = [] ∧ State.reset.regions = [] ∧ State.reset.traces = [] ∧ State.reset.policies = []

/-- The invariant that every step keeps holds at State.reset. -/
def Obligations.ResetMeetsInvariant : Prop := Inv State.reset

/-- From every state whose memory lists rising addresses and no byte equal to what an unlisted byte reads as, a step that answers a next
state gives such a memory again: whatever step of the table runs. -/
def Obligations.StepKeepsMemoryCanonical : Prop := ∀ s s' : State, Inv s → step s = .next s' → Inv s'

/-- Each of the HS-only forms of R101 raises the virtual-instruction exception (cause 22) in VS and VU mode and the illegal-instruction exception
(cause 2) in U mode, with the word as its value, and does nothing else. RGNQRY, in custom-0, is not HS-only. That the cause numbers and the
entry are the RISC-V family's is the model's reading (log entry 8). -/
def Obligations.HsOnlyFormsTrap : Prop :=
  ∀ (i : Instr) (w : W32) (s : State), encode i = some w →
    (fld w.toNat 6 0 = 0x0B ∧ fld w.toNat 31 25 ≠ 0x08) ∨ (fld w.toNat 6 0 = 0x7B ∧ fld w.toNat 14 12 = 1) →
    (((s.hart s.cur).mode = .vs ∨ (s.hart s.cur).mode = .vu) → exec i s = .next (s.trap (Exc.virtualInst w.toNat))) ∧
    ((s.hart s.cur).mode = .u → exec i s = .next (s.trap (Exc.illegal w.toNat)))

/-- Taking an exception on the current core. From M mode: mepc takes the pc, mcause the cause, mtval the value, the mode stays M and the pc goes to mtvec with
its low two bits 0. From every other mode: sepc, scause and stval take them, spp takes the mode, the mode becomes HS, the pc goes to stvec likewise,
and htval takes the value shifted right by 2 on a guest-page fault (causes 20, 21, 23) only. Interrupts are disabled, and the return
gives their enable back. The general registers, oxtnt, oxdl, the token FIFOs and
every other core stay as they were; and the return gives back the mode and the pc saved. The entry is the RISC-V family's (log entry 8). -/
def Obligations.TrapEntry : Prop :=
  ∀ (s : State) (e : Exc), s.cur < s.harts.length →
    let c := s.hart s.cur
    let d := (s.trap e).hart s.cur
    d.ie = false ∧ d.trapReturn.ie = c.ie ∧
    (c.mode = .m → d.mepc = c.pc ∧ d.mcause = .ofNat 64 e.cause ∧ d.mtval = .ofNat 64 e.tval ∧ d.mode = .m ∧
      d.pc = .ofNat 64 (c.mtvec.toNat / 4 * 4) ∧ d.trapReturn.mode = c.mode ∧ d.trapReturn.pc = c.pc) ∧
    (c.mode ≠ .m → d.sepc = c.pc ∧ d.scause = .ofNat 64 e.cause ∧ d.stval = .ofNat 64 e.tval ∧ d.spp = c.mode ∧ d.mode = .hs ∧
      d.pc = .ofNat 64 (c.stvec.toNat / 4 * 4) ∧
      d.htval = (if e.cause = 20 ∨ e.cause = 21 ∨ e.cause = 23 then .ofNat 64 (e.tval / 4) else c.htval) ∧
      d.trapReturn.mode = (if c.mode = .m then .m else c.mode) ∧ d.trapReturn.pc = c.pc) ∧
    d.x = c.x ∧ d.oxtnt = c.oxtnt ∧ d.oxdl = c.oxdl ∧ d.tf = c.tf ∧ (∀ k, k ≠ s.cur → (s.trap e).hart k = s.hart k) ∧
    s.trap e = { s with harts := (s.trap e).harts }

/-- A form that retires on the current core writes its result to rd once, and only there: rd reads the result cut to 64 bits, x0 stays 0,
every other register keeps its value, the pc passes the word, and no other field of the core, no other core and no other part of the state changes. -/
def Obligations.RetireWrites : Prop :=
  ∀ (s : State) (rd : BitVec 5) (v : Nat), s.cur < s.harts.length → (s.hart s.cur).x.length = 32 →
    let c := s.hart s.cur
    let d := (s.retire rd v).hart s.cur
    (rd ≠ 0 → d.reg rd = v % 2 ^ 64) ∧ d.reg 0 = 0 ∧ (∀ q, q ≠ rd → d.reg q = c.reg q) ∧ d.pc = c.pc + 4 ∧
    d = { c with x := d.x, pc := c.pc + 4, wait := .none } ∧ (∀ k, k ≠ s.cur → (s.retire rd v).hart k = s.hart k) ∧
    s.retire rd v = { s with harts := (s.retire rd v).harts }

/-- In M or HS mode, with a handle that names a region of the caller. RGNGO with rs2 = 0 on a region, no shadow, that is resident with RUN = 0 and not
stopping, frozen, or rolled back, and with rs2 = 1 on one faulted by a resumable fault: it retires with 0, the region is resident with
RUN = 1 and no freeze; on a loading region it retires with 0 and only records that the region starts when emit ends. RGNDRN on a region that is
resident with RUN = 1, no shadow and holding none, with a save area: it retires with 0, and the region drains with the deadline rs2 µs, 50 for 0, in freeze mode from the start
where a freeze other than a debug stop is under way (R252, R361).
RGNSLC on such a region and its shadow, loading or resident: it retires with 0, and the region drains towards the shadow with the deadline oxdl, likewise. While a freeze of a resident region settles, RGNGO holds its core. -/
def Obligations.LifecycleStartsAndDrains : Prop :=
  ∀ (s : State) (rd rs1 rs2 : BitVec 5) (slot : Nat) (r : Region), (s.hart s.cur).mode.high = true →
    s.byHandle (s.xreg rs1) s.guestTid = .ok (slot, r) →
    (r.shadowOf = none →
      (s.xreg rs2 = 0 ∧ ((r.state = .resident ∧ r.run = false ∧ r.settling = false) ∨ r.state = .frozen ∨ r.state = .rolledBack)) ∨
        (s.xreg rs2 = 1 ∧ r.state = .faulted ∧ resumable r.lastFault = true) →
      ∃ (t : State) (q : Region), exec (.rgngo rd rs1 rs2) s = .next (t.retire rd 0) ∧ t = s.go slot ∧ t.region slot = some q ∧
        q.state = .resident ∧ q.run = true ∧ q.freeze = none ∧ q.tiles = r.tiles) ∧
    (r.shadowOf = none → r.state = .loading → s.xreg rs2 < 2 →
      exec (.rgngo rd rs1 rs2) s = .next ((s.setRegion slot { r with goWhenEmitted := true }).retire rd 0)) ∧
    (r.shadowOf = none → r.state = .resident → r.settling = true → s.xreg rs2 < 2 →
      exec (.rgngo rd rs1 rs2) s = .next (s.modHart s.cur fun c => { c with wait := .form })) ∧
    (r.state = .resident → r.run = true → r.shadowOf = none → r.shadow = none → r.save.addr ≠ 0 →
      ∃ (t : State) (q : Region), exec (.rgndrn rd rs1 rs2) s = .next (t.retire rd 0) ∧ t.region slot = some q ∧ q.state = .draining ∧
        q.switchOut = some { incoming := none, deadline := s.ns + 1000 * (if s.xreg rs2 = 0 then 50 else s.xreg rs2)
                             freeze := (r.freeze.map fun z => decide (z.why ≠ .stop)).getD false }) ∧
    (∀ k p, s.byHandle (s.xreg rs2) s.guestTid = .ok (k, p) → r.state = .resident → r.run = true → r.shadowOf = none → r.shadow = some k →
      p.state = .loading ∨ p.state = .resident → r.save.addr ≠ 0 →
      ∃ (t : State) (q : Region), exec (.rgnslc rd rs1 rs2) s = .next (t.retire rd 0) ∧ t.region slot = some q ∧ q.state = .draining ∧
        q.switchOut = some { incoming := some k, deadline := s.ns + 1000 * (s.hart s.cur).oxdl.toNat
                             freeze := (r.freeze.map fun z => decide (z.why ≠ .stop)).getD false })

/-- In M or HS mode, with a handle that names a region of the caller and a core that waits for none. While another core waits in the same form on the region, this
one waits where it stands. Otherwise RGNFRZ on a region stopped at a breakpoint retires with 0 and leaves
it frozen. On a running region, and on a draining one, the request to freeze is made and the core waits, its pc unmoved, until the front has settled (the wait is
the model's form of the stall, log entry 10). RGNKIL on a killed region retires with 0 and frees its slot; on a region that neither settles nor switches nor
enters, it ends the region as killed (4) and retires with 0; on one whose front is settling the kill is kept for later and the core waits. -/
def Obligations.LifecycleFreezesAndKills : Prop :=
  ∀ (s : State) (rd rs1 : BitVec 5) (slot : Nat) (r : Region), (s.hart s.cur).mode.high = true → s.inSettle = false →
    s.byHandle (s.xreg rs1) s.guestTid = .ok (slot, r) →
    (s.settleWaiter slot false = true → exec (.rgnfrz rd rs1) s = .next s) ∧ (s.settleWaiter slot true = true → exec (.rgnkil rd rs1) s = .next s) ∧
    (s.settleWaiter slot false = false →
    (r.state = .resident → r.run = true → r.stp = true →
      ∃ (t : State) (q : Region), exec (.rgnfrz rd rs1) s = .next (t.retire rd 0) ∧ t.region slot = some q ∧ q.state = .frozen ∧ q.run = false ∧ q.stp = false) ∧
    (r.state = .resident → r.run = true → r.stp = false → r.freeze = none →
      exec (.rgnfrz rd rs1) s = .next ((s.setRegion slot { r with freeze := some { why := .form } }).modHart s.cur
        fun c => { c with wait := .settle slot rd false })) ∧
    (r.state = .draining → ∃ (t : State) (q : Region), exec (.rgnfrz rd rs1) s = .next (t.modHart s.cur fun c => { c with wait := .settle slot rd false }) ∧
        t.region slot = some q ∧ q.freeze.isSome = true ∧ q.switchOut = r.switchOut.map fun o => { o with freeze := true })) ∧
    (s.settleWaiter slot true = false →
    (r.state = .killed → exec (.rgnkil rd rs1) s = .next ((s.freeSlot slot).retire rd 0)) ∧
    (r.state ≠ .killed → r.settling = false → r.switchBegun = false → r.shadowOf = none →
      exec (.rgnkil rd rs1) s = .next ((s.endRegion slot 4 r.lastFault).retire rd 0)) ∧
    (r.state ≠ .killed → r.settling = true →
      exec (.rgnkil rd rs1) s = .next ((s.setRegion slot { r with killWhenDone := some 4 }).modHart s.cur fun c => { c with wait := .settle slot rd true })))

/-- In M or HS mode. RGNLD with a descriptor at a 64-byte-aligned local address that the core can load, whose words keep their limits, whose placement names no
occupant, or a resident or frozen region that holds no shadow and is none (its origin then counted from the occupant's: the model's reading, log entry 39), with a slot free: it retires with the new region's handle; the new region, in state loading,
has been validated, and an occupant holds it as its shadow. RGNSAV of a frozen or
faulted region without a shadow, and not in the midst of being switched in, to the area at rs2 or the one named at load, once the whole save has been written: it retires with 0 and the
region is saved there. RGNRST of a saved region, alone or as the shadow of a fit occupant, whose area reads back without fault, once a place is found and the state is installed: it retires with 0 and the
region is resident. RGNMOV of a region resident with RUN = 0, or frozen, no shadow and holding none: the search, the save and the restore follow one another; it retires with 0, its commands that are done retire beside it, and a
frozen region is frozen again at its new place. The slot and the first generation in the handle are log entry 18. -/
def Obligations.LifecycleLoadsAndSaves : Prop :=
  ∀ (s : State) (rd rs1 rs2 : BitVec 5), (s.hart s.cur).mode.high = true →
    (∀ bs occ at_ s2 k, s.xreg rs1 % 64 = 0 → s.formLoad true (s.xreg rs1) 64 = (s, .ok bs) →
      let l := words64 8 bs
      let part := fld (wd l 1) 30 28
      fld (wd l 0) 63 47 = 0 → fld (wd l 0) 5 0 = 0 → fld (wd l 1) 63 31 = 0 → fld (wd l 3) 63 47 = 0 → fld (wd l 3) 11 0 = 0 →
      wd l 5 = 0 → wd l 6 = 0 → wd l 7 = 0 → s.isPart part = true → s.plcOk part (wd l 2) = true →
      s.occupant (wd l 2) = .ok occ → s.placeWord part (wd l 2) occ = some at_ →
      s.addRegion { gen := 0, tid := fld (wd l 1) 15 0, asid := fld (wd l 1) 27 16, part := part, plc := at_,
                     img := { addr := wd l 0 }, save := { addr := wd l 3 }, fq := wd l 4, shadowOf := occ } = some (s2, k) →
      let s3 := match occ with
        | some o => s2.modRegion o fun x => { x with shadow := some k }
        | none => s2
      exec (.rgnld rd rs1) s = .next ((s3.checkImage k).retire rd (s2.handle k))) ∧
    (∀ plc k o, plcShadow plc = true → s.byHandle (plcOccupant plc) none = .ok (k, o) → o.state = .resident ∨ o.state = .frozen →
      o.shadow = none → o.shadowOf = none → s.occupant plc = .ok (some k)) ∧ (∀ plc, plcShadow plc = false → s.occupant plc = .ok none) ∧
    (∀ slot r, s.byHandle (s.xreg rs1) s.guestTid = .ok (slot, r) →
      (∀ sp s1, s.xreg rs2 % 4096 = 0 → s.xreg rs2 < 2 ^ 47 → r.state = .frozen ∨ r.state = .faulted → r.shadow = none → r.midSwitch = false →
        r.areaFor (s.xreg rs2) = some sp → s.areaWrite r.part sp 0 (r.saveBytes slot 1) = (s1, none) →
        exec (.rgnsav rd rs1 rs2) s = .next ((s1.becomeSaved slot sp).retire rd 0)) ∧
      (∀ occ s1 i a s2 p s3 at_, r.state = .saved → s.plcOk r.part (s.xreg rs2) = true → s.occupant (s.xreg rs2) = .ok occ →
        s.placeWord r.part (s.xreg rs2) occ = some at_ → s.readBack slot r r.savedAt = (s1, .ok (i, a)) →
        s1.search { self := some slot, occupant := occ } slot { r with shadowOf := occ } i at_ = .placed s2 p →
        s2.installArea slot { r with shadowOf := occ, ownedAt := ((s2.region slot).map (·.ownedAt)).getD [] } p i (a.rehost r s.cur) = some s3 →
        let s4 := match occ with
          | some o => s3.modRegion o fun x => { x with shadow := some slot }
          | none => s3
        exec (.rgnrst rd rs1 rs2) s = .next ((s4.toState slot .resident).retire rd 0)) ∧
      (∀ i s1 p s2 s3 i2 a s4, (r.state = .resident ∧ r.run = false ∧ r.settling = false) ∨ r.state = .frozen →
        r.shadow = none → r.shadowOf = none → r.save.addr ≠ 0 → s.plcOk r.part (s.xreg rs2) = true →
        plcShadow (s.xreg rs2) = false → r.image = some i →
        (s.clearOwned slot).search { self := some slot } slot r i (s.xreg rs2) = .placed s1 p →
        s1.areaWrite r.part r.save 0 (r.saveBytes slot 1) = (s2, none) → s2.readBack slot r r.save = (s3, .ok (i2, a)) →
        s3.installArea slot { r with ownedAt := ((s3.region slot).map (·.ownedAt)).getD [] } p i2 a = some s4 →
        exec (.rgnmov rd rs1 rs2) s = .next (((s4.retireApart slot r).modRegion slot fun x =>
          { x with freeze := if r.state = .frozen then some { why := .form, settled := true } else none }).retire rd 0)))

/-- In every mode, with a handle that names a region of the caller: selector 0 retires with the state word, whose fields are the state code in [3:0], RUN in [4], SHD in [5]
(the region is a shadow: the model's reading, log entry 12), a stop at a breakpoint in [7], the last fault code in [15:8] and the ASID in [51:40]; selector 1 with the rejection status; selector 4 with the region-active time; selector 2
(outside VS and VU) with the save-area address of a region that is not saved; in VS and VU selectors 2 and 3 give DENIED; a selector above 4 gives BADARG. Nothing but
rd and the pc changes. -/
def Obligations.RegionQueryWords : Prop :=
  ∀ (s : State) (rd rs1 rs2 : BitVec 5) (slot : Nat) (r : Region), s.byHandle (s.xreg rs1) s.guestTid = .ok (slot, r) →
    let virt := (s.hart s.cur).mode.virt
    (s.xreg rs2 = 0 → ∃ v, exec (.rgnqry rd rs1 rs2) s = .next (s.retire rd v) ∧ fld v 3 0 = r.state.code ∧ bitN v 4 = r.run ∧
      bitN v 5 = r.shadowOf.isSome ∧ bitN v 7 = r.stp ∧ fld v 15 8 = r.lastFault % 256 ∧ fld v 51 40 = r.asid % 4096 ∧ v < 2 ^ 55) ∧
    (s.xreg rs2 = 1 → exec (.rgnqry rd rs1 rs2) s = .next (s.retire rd (fld r.reject 62 0))) ∧
    (s.xreg rs2 = 4 → exec (.rgnqry rd rs1 rs2) s = .next (s.retire rd (fld r.active 62 0))) ∧
    (s.xreg rs2 = 2 → virt = false → r.state ≠ .saved → exec (.rgnqry rd rs1 rs2) s = .next (s.retire rd r.save.addr)) ∧
    (s.xreg rs2 = 2 ∨ s.xreg rs2 = 3 → virt = true → exec (.rgnqry rd rs1 rs2) s = .next (s.retire rd (2 ^ 63 + 5 * 2 ^ 56))) ∧
    (4 < s.xreg rs2 → exec (.rgnqry rd rs1 rs2) s = .next (s.retire rd (2 ^ 63 + 2 ^ 56)))

/-- In M or HS mode: RGNGO with rs2 below 2, RGNDRN, RGNQRY, STRMQ with any word, SARM and TRCOFF with a handle that has a bit set outside [31:16] and [8:0] give BADARG,
and with one whose slot is empty or of another generation give NOHANDLE. In every mode: STRM, STRMB, CPY, CPYT and COLL with an address that is not a multiple of 128, BINIT, BARV,
BARVX, BWAIT and BTEST with one that is not a multiple of 32, and TRCON with one that is not a multiple of 64, give ALIGN (TRCON also lets go of units it waits for, log entry 79); in M or HS mode so do RGNLD, DUNEGO and JRNRD (64). Where several refusals
hold at once, which of them the form answers is the model's order (log entry 56). -/
def Obligations.HandleAndAlignmentRefusals : Prop :=
  ∀ (s : State) (rd rs1 rs2 : BitVec 5),
    let no (i : Instr) (c : Nat) : Prop := exec i s = .next (s.retire rd (2 ^ 63 + c * 2 ^ 56))
    ((s.hart s.cur).mode.high = true →
      (fld (s.xreg rs1) 63 32 ≠ 0 ∨ fld (s.xreg rs1) 15 9 ≠ 0 →
        (s.xreg rs2 < 2 → no (.rgngo rd rs1 rs2) 1) ∧ no (.rgndrn rd rs1 rs2) 1 ∧ no (.rgnqry rd rs1 rs2) 1 ∧ no (.strmqCommand rd rs1 rs2) 1 ∧
        no (.sarm rd rs1 rs2) 1 ∧ no (.trcoff rd rs1) 1) ∧
      (fld (s.xreg rs1) 63 32 = 0 → fld (s.xreg rs1) 15 9 = 0 →
        (∀ r, s.region (fld (s.xreg rs1) 8 0) = some r → r.gen ≠ fld (s.xreg rs1) 31 16) →
        (s.xreg rs2 < 2 → no (.rgngo rd rs1 rs2) 2) ∧ no (.rgndrn rd rs1 rs2) 2 ∧ no (.rgnqry rd rs1 rs2) 2 ∧ no (.strmqCommand rd rs1 rs2) 2 ∧
        no (.sarm rd rs1 rs2) 2 ∧ no (.trcoff rd rs1) 2) ∧
      (s.xreg rs1 % 64 ≠ 0 → no (.rgnld rd rs1) 11 ∧ no (.dunego rd rs1) 11) ∧ (s.xreg rs2 % 64 ≠ 0 → no (.jrnrd rd rs1 rs2) 11)) ∧
    (s.xreg rs2 % 128 ≠ 0 → no (.strmCommand rd rs1 rs2) 11 ∧ no (.strmb rd rs1 rs2) 11) ∧
    (s.xreg rs1 % 128 ≠ 0 → no (.cpy rd rs1 rs2) 11 ∧ no (.cpyt rd rs1 rs2) 11 ∧ no (.coll rd rs1 rs2) 11) ∧
    (s.xreg rs1 % 32 ≠ 0 → no (.binit rd rs1 rs2) 11 ∧ no (.barv rd rs1 rs2) 11 ∧ no (.barvx rd rs1 rs2) 11 ∧ no (.bwait rd rs1 rs2) 11 ∧ no (.btest rd rs1 rs2) 11) ∧
    (s.xreg rs2 % 64 ≠ 0 → exec (.trcon rd rs1 rs2) s = .next (s.dropTraceClaim.retire rd (2 ^ 63 + 11 * 2 ^ 56)))

/-- When a control core's load of n bytes passes, n bytes come back. For a core that uses no address map and for the
local physical reads of the HS-only forms: where the range lies below the registers of device space, the state after it is the state before it, and the bytes are memory's bytes from that address up, a host window's from the host memory behind it;
where it lies in one 64 KiB piece of the registers, the bytes are the registers', and the state is as a read of them leaves it, which for a withheld debug block sets WH (R438; log entry 74). Wherever the load goes, it changes no byte of memory, no core, no region and no queue, and so
nothing but debug blocks. -/
def Obligations.OperandBlockReads : Prop :=
  ∀ (s s1 : State) (phys : Bool) (va n : Nat) (bs : List Byte), s.formLoad phys va n = (s1, .ok bs) →
    bs.length = n ∧ s1 = { s with debug := s1.debug } ∧
    (phys = true ∨ (s.hart s.cur).mode = .m ∨ (s.hart s.cur).maps = none →
      (va + n ≤ regSpace → s1 = s ∧ bs = (piecesOf va n).flatMap fun p => memReadBytes s.mem (s.localKey p.1) p.2) ∧
      (va + n ≤ 0x400000000000 → bs = memReadBytes s.mem va n) ∧
      (regSpace ≤ va → n ≠ 0 → va % 65536 + n ≤ 65536 → bs = s.regBytes va n ∧ s1 = s.readEffect va n))

/-- In every mode, with a command block at a 128-byte-aligned address that the core can load, a handle that names a region of the caller in a state that takes commands and that is not in the
midst of being switched in, a target that is an ME of the region (or any, while it loads), a good header, and fewer than 16 commands on every stream named. STRM (kind 1, one stream in c3[14:12], words from c12 on 0)
and STRMB (kind 2, the streams whose bits are set in c3[22:15], words from c4 on 0) complete: the command, under the core's tenant and the region's address space and partition and with the issuing core, stands at
the end of each stream's queue, and the form retires with the ticket of class 1 of the (lowest) stream, under that stream's next number. That the command carries the core's tenant in every mode is log entry 49,
the parity recorded at acceptance log entry 53, and the ticket of the lowest stream of a STRMB the model's choice (log entry 125). -/
def Obligations.StreamCommandForms : Prop :=
  ∀ (s : State) (rd rs1 rs2 : BitVec 5) (bs : List Byte) (slot : Nat) (r : Region), s.xreg rs2 % 128 = 0 →
    s.formLoad false (s.xreg rs2) 128 = (s, .ok bs) → s.byHandle (s.xreg rs1) s.guestTid = .ok (slot, r) → r.state.takesStrm = true → r.midSwitch = false →
    let c := words64 16 bs
    let x := fld (wd c 3) 6 0
    let y := fld (wd c 3) 11 7
    (r.state = .loading ∨ (r.me x y).isSome = true) →
    (let i := fld (wd c 3) 14 12
     let p := s.recordPar (.stream slot x y i) { kind := 1, c := c, seq := r.nextSeq x y i % 2 ^ 32, hart := s.cur, tid := s.curTid, asid := r.asid, part := r.part }
     headerRefuse c 1 true = none → fld (wd c 3) 63 15 = 0 → (c.drop 12).all (· == 0) = true → r.cmdsAt x y i < 16 →
     exec (.strmCommand rd rs1 rs2) s =
       .next ((p.1.modRegion slot fun q => q.enqueue x y i p.2 true).retire rd (streamTicket x y i (r.nextSeq x y i % 2 ^ 32)))) ∧
    (let ks := (List.range 8).filter fun k => bitN (wd c 3) (15 + k)
     let i := ks.headD 0
     let p := s.recordPar (.stream slot x y i) { kind := 2, c := c, seq := r.nextSeq x y i % 2 ^ 32, hart := s.cur, tid := s.curTid, asid := r.asid, part := r.part }
     headerRefuse c 2 true = none → fld (wd c 3) 63 23 = 0 → fld (wd c 3) 14 12 = 0 → fld (wd c 3) 22 15 ≠ 0 → (c.drop 4).all (· == 0) = true →
     (∀ k ∈ ks, r.cmdsAt x y k < 16) →
     exec (.strmb rd rs1 rs2) s =
       .next ((p.1.modRegion slot fun q => ks.foldl (fun a k => a.enqueue x y k p.2 (k == i)) q).retire rd (streamTicket x y i (r.nextSeq x y i % 2 ^ 32))))

/-- In every mode, with a handle that names a region of the caller, which is not in the midst of being switched in. STRMQ with a target word whose bits [63:15] are 0 and that names an ME of the region (or any, while it loads): it retires with a word that holds the commands on
the stream in [6:2] cut to five bits, and for a region loading nothing else; nothing but rd and the pc changes. SARM of a resident, frozen or faulted region with bits [31:14] of
the arm word 0 and an MX at (x, y): it retires with 0 and the arm of the context in [13:12] with the count in [63:32] stands last of those that take effect at the end of the fc. -/
def Obligations.StreamQueryAndArm : Prop :=
  ∀ (s : State) (rd rs1 rs2 : BitVec 5) (slot : Nat) (r : Region), s.byHandle (s.xreg rs1) s.guestTid = .ok (slot, r) → r.midSwitch = false →
    let w := s.xreg rs2
    let x := fld w 6 0
    let y := fld w 11 7
    (fld w 63 15 = 0 → r.state = .loading ∨ (r.me x y).isSome = true →
      ∃ v, exec (.strmqCommand rd rs1 rs2) s = .next (s.retire rd v) ∧ fld v 6 2 = r.cmdsAt x y (fld w 14 12) % 32 ∧
        ((r.me x y).isNone = true → v < 128)) ∧
    (r.state = .resident ∨ r.state = .frozen ∨ r.state = .faulted → fld w 31 14 = 0 → (r.elem x y .mx).isSome = true →
      exec (.sarm rd rs1 rs2) s = .next ((s.setRegion slot (r.modCtx x y (fld w 13 12) fun m => { m with pend := m.pend ++ [fld w 63 32] })).retire rd 0))

/-- In every mode, with a 32-byte-aligned address whose access passes, at domain address da. BINIT with 1 ≤ n < 2^32 writes the four words n, 0, 0, 0 (memory reads them below the registers of device space) and retires with 0. BARV counts one arrival and BARVX none:
with a good arrive word whose parity is PH, ARR + count ≤ EXP, and room in the notify table where a notify is asked for, they add the bytes k and check the barrier; they retire with
PHC after the operation. BWAIT with the parity p retires at once when PH ≠ p: with PHC, or FAULTED and PHC when LFF is set; with INTR when an enabled interrupt has been pending since an earlier fc (one of the same fc leaves the phase its turn, R271: log entry 123); else the
core waits in it, its pc unmoved; one that the completion of its phase has released retires with the latest completed phase whatever PH is by then. BTEST retires with PH ≠ p in bit 0 and LFF in bit 1. -/
def Obligations.BarrierForms : Prop :=
  ∀ (s : State) (rd rs1 rs2 : BitVec 5) (pa : Nat), s.xreg rs1 % 32 = 0 →
    let da := s.domainOf pa
    let w := s.xreg rs2
    (s.hartPiece s.cur .amo false (s.xreg rs1) 32 = (s, .ok pa) →
      (w ≠ 0 → w < 2 ^ 32 → Inv s → ∃ t : State, exec (.binit rd rs1 rs2) s = .next (t.retire rd 0) ∧ (pa < regSpace → t.memGet da 32 = toBytes 8 w ++ toBytes 8 0 ++ toBytes 8 0 ++ toBytes 8 0)) ∧
      (arriveOk w = true → bitN w 63 = s.barPh da →
        (bitN w 59 = true → (s.notifies.filter fun m => m.home == s.barHome da).length < 256) →
        let n : Notify := { addr := da, home := s.barHome da, hart := s.cur, fifo := fld w 58 56, tid := s.curTid }
        let s2 : State := if bitN w 59 then { s with notifies := s.notifies ++ [n] } else s
        let arr := s.barWord da 1 % 2 ^ 32
        let pb := s.barWord da 2 + fld w 47 0
        (arr + 1 ≤ s.barWord da 0 % 2 ^ 32 →
          exec (.barv rd rs1 rs2) s = .next ((s2.barSet da (arr + 1) pb).retire rd (fld ((s2.barSet da (arr + 1) pb).barPhc da) 62 0))) ∧
        (arr ≤ s.barWord da 0 % 2 ^ 32 →
          exec (.barvx rd rs1 rs2) s = .next ((s2.barSet da arr pb).retire rd (fld ((s2.barSet da arr pb).barPhc da) 62 0))))) ∧
    (s.hartPiece s.cur .load false (s.xreg rs1) 32 = (s, .ok pa) → w < 2 →
      ((∀ a q, (s.hart s.cur).wait ≠ .released a q) →
        (s.barPh da ≠ (w == 1) → s.barLff da = false → exec (.bwait rd rs1 rs2) s = .next (s.retire rd (fld (s.barPhc da) 62 0))) ∧
        (s.barPh da ≠ (w == 1) → s.barLff da = true →
          exec (.bwait rd rs1 rs2) s = .next (s.retire rd (2 ^ 63 + 13 * 2 ^ 56 + s.barPhc da % 2 ^ 48))) ∧
        (s.barPh da = (w == 1) → (s.hart s.cur).irqDue s.fc = true → exec (.bwait rd rs1 rs2) s = .next (s.retire rd (2 ^ 63 + 9 * 2 ^ 56))) ∧
        (s.barPh da = (w == 1) → (s.hart s.cur).irqDue s.fc = false →
          exec (.bwait rd rs1 rs2) s = .next (s.modHart s.cur fun c => { c with wait := .bwait da (w == 1) rd }))) ∧
      (∀ a q, (s.hart s.cur).wait = .released a q → exec (.bwait rd rs1 rs2) s =
        .next (s.retire rd (if s.barLff a then 2 ^ 63 + 13 * 2 ^ 56 + s.barPhc a % 2 ^ 48 else fld (s.barPhc a) 62 0))) ∧
      exec (.btest rd rs1 rs2) s = .next (s.retire rd (b2n (s.barPh da != (w == 1)) + 2 * b2n (s.barLff da))))

/-- The sole writer's update of a barrier at a 32-byte-aligned address of the module's memory (not of its registers), in a canonical memory whose words are given: with the new arrivals arr and pending bytes pb, the phase
completes exactly when arr = EXP and pb = 0. If it does, PH flips, LFF is 0, ARR and PB are 0, PHC counts one more, every notify registration of the barrier leaves the table and
becomes one push of PHC without poison, and every core that waits in a BWAIT for the old parity is released (with INTR where an enabled interrupt has been pending since an earlier fc, log entry 123), the others staying as they were; if it does not, ARR and PB are as given and PH, LFF, EXP, PHC, the registrations
and the cores stay. -/
def Obligations.BarrierPhaseRule : Prop :=
  ∀ (s : State) (da arr pb : Nat), Inv s → da % 32 = 0 → (s.memKey da < regSpace ∨ 2 ^ 47 ≤ s.memKey da) → arr < 2 ^ 32 → pb < 2 ^ 64 →
    let b0 := s.barWord da 0
    let phc := s.barWord da 3
    let t := s.barSet da arr pb
    if arr = b0 % 2 ^ 32 ∧ pb = 0 then
      t.barPh da = !s.barPh da ∧ t.barLff da = false ∧ t.barWord da 0 % 2 ^ 32 = b0 % 2 ^ 32 ∧ t.barWord da 1 % 2 ^ 32 = 0 ∧ t.barWord da 2 = 0 ∧
        t.barPhc da = (phc + 1) % 2 ^ 64 ∧ t.notifies = s.notifies.filter (fun n => n.addr != da) ∧
        t.pushes = s.pushes ++ (s.notifies.filter fun n => n.addr == da).map (fun n => n.push ((phc + 1) % 2 ^ 64) false) ∧ t.harts = s.harts.map (fun c => c.freed da (s.barPh da) s.fc)
    else
      t.barWord da 0 = b0 ∧ t.barWord da 1 % 2 ^ 32 = arr ∧ t.barWord da 2 = pb ∧ t.barPhc da = phc ∧ t.notifies = s.notifies ∧ t.pushes = s.pushes ∧ t.harts = s.harts

/-- In every mode, with an index f below 8. TFPSH with a token word below 2^33 and room puts one token (word, poison bit, current tenant) at the end of FIFO f and retires with 0; at 64 tokens it gives
FULL. TFPOP lets the engine commands that wait on the FIFO issue first, where they may; it then drops the heads of other tenants, takes the first token of the current tenant and retires with its word and its poison bit in [32]; when no token of the tenant is left
it gives EMPTY. TFQRY retires with the count of the tenant's tokens in [6:0] and the engine commands that wait on the FIFO, at most 255, in [15:8]. An index above 7 gives BADARG from each. Where no engine waits on the FIFO, no other core, no memory and no other FIFO changes. That engines go first and that heads of other tenants go also before an EMPTY is log entry 54. -/
def Obligations.TokenFifoForms : Prop :=
  ∀ (s : State) (rd rs1 rs2 : BitVec 5),
    let f := s.xreg rs1
    let c := s.hart s.cur
    (f < 8 →
      (s.xreg rs2 < 2 ^ 33 → c.fifoFull f = false →
        exec (.tfpsh rd rs1 rs2) s = .next ((s.modHart s.cur fun h =>
          h.setFifo f (h.fifo f ++ [{ word := .ofNat 32 (s.xreg rs2), psn := bitN (s.xreg rs2) 32, tid := s.curTid }])).retire rd 0)) ∧
      (s.xreg rs2 < 2 ^ 33 → c.fifoFull f = true → exec (.tfpsh rd rs1 rs2) s = .next (s.retire rd (2 ^ 63 + 8 * 2 ^ 56))) ∧
      (let s1 := (s.headsOn s.cur f).foldl State.issue s
       (∀ skipped t rest, (s1.hart s1.cur).fifo f = skipped ++ t :: rest → (∀ u ∈ skipped, u.tid ≠ s1.curTid) → t.tid = s1.curTid →
         exec (.tfpop rd rs1) s = .next ((s1.modHart s1.cur fun h => h.setFifo f rest).retire rd (t.word.toNat + 2 ^ 32 * b2n t.psn))) ∧
       ((∀ u ∈ (s1.hart s1.cur).fifo f, u.tid ≠ s1.curTid) →
         exec (.tfpop rd rs1) s = .next ((s1.modHart s1.cur fun h => h.setFifo f []).retire rd (2 ^ 63 + 7 * 2 ^ 56))) ∧
       ((∀ e ∈ s.queueHeads, waitsToken s.cur f e.2 = false) → s1 = s)) ∧
      (∃ v, exec (.tfqry rd rs1) s = .next (s.retire rd v) ∧ ((c.fifo f).length ≤ 64 → fld v 6 0 = ((c.fifo f).filter fun t => t.tid == s.curTid).length ∧
        fld v 15 8 = min 255 (s.headsOn s.cur f).length))) ∧
    (8 ≤ f → exec (.tfpsh rd rs1 rs2) s = .next (s.retire rd (2 ^ 63 + 2 ^ 56)) ∧ exec (.tfpop rd rs1) s = .next (s.retire rd (2 ^ 63 + 2 ^ 56)) ∧
      exec (.tfqry rd rs1) s = .next (s.retire rd (2 ^ 63 + 2 ^ 56)))

/-- In every mode, with a command block at a 128-byte-aligned address that the core can load, a good header, operands within their limits, an address space the caller may use, and a queue with fewer than
256 commands. CPY and CPYT (with its two tensor-store blocks read) put the command at the end of the queue of the engine selected, COLL (with its group block and rank table read) of the engine of the strip; the
command carries the issuing core, its tenant and its partition and the queue's next number, and the form retires with its ticket, of class 2 or 3. Which of several engines with queues of one length is selected is log entry 58, the recorded parity log entry 53. -/
def Obligations.EngineCommandForms : Prop :=
  ∀ (s : State) (rd rs1 rs2 : BitVec 5) (bs : List Byte), s.xreg rs1 % 128 = 0 → s.formLoad false (s.xreg rs1) 128 = (s, .ok bs) →
    let c := words64 16 bs
    let u := s.askHart
    let asid := fld (wd c 0) 39 28
    s.mayUse u asid = true →
    (∀ n, headerRefuse c 3 false = none → s.selectEngine u.die (s.xreg rs2) = some n → wd c 3 = 0 → wd c 6 ≠ 0 → wd c 6 ≤ 2 ^ 40 → (c.drop 7).all (· == 0) = true →
      let v := (s.copyEngine n).cmds
      v.q.length < 256 →
      exec (.cpy rd rs1 rs2) s = .next ((s.enqueueCmd (.copy n) { kind := 3, c := c, seq := v.next, hart := s.cur, tid := s.curTid, asid := asid, part := u.part }).retire rd
        (2 * 2 ^ 48 + put 47 32 n + put 31 0 v.next))) ∧
    (∀ n s2 s3 a b, headerRefuse c 4 false = none → s.selectEngine u.die (s.xreg rs2) = some n → wd c 3 < 2 → (c.drop 6).all (· == 0) = true →
      s.takeBlock u.part asid (wd c 4) 64 = (s2, .ok a) → s2.takeBlock u.part asid (wd c 5) 64 = (s3, .ok b) → tsOk a = true → tsOk b = true →
      pairOk (tsType a) (tsType b) = true → (wd c 3 = 1 → addTypeOk (tsType b) = true) →
      let v := (s3.copyEngine n).cmds
      v.q.length < 256 →
      exec (.cpyt rd rs1 rs2) s = .next ((s3.enqueueCmd (.copy n)
        { kind := 4, c := c, seq := v.next, hart := s.cur, tid := s.curTid, asid := asid, part := u.part, blocks := [a, b] }).retire rd
        (2 * 2 ^ 48 + put 47 32 n + put 31 0 v.next))) ∧
    (∀ s2 g t, headerRefuse c 5 false = none → s.xreg rs2 < 8 → (s.partRange u.part).1 ≤ s.xreg rs2 → s.xreg rs2 ≤ (s.partRange u.part).2 → collWordsOk c = true →
      wd c 5 % 64 = 0 → wd c 6 % 64 = 0 → s.takeGroup u.part asid (wd c 4) = (s2, .ok (g, t)) → groupOk g (fld (wd c 7) 3 0) = true → groupAligned g = true →
      ranksOk t (gNr g) (gMyr g) s2.xlat.xmod (s.xreg rs2) = true →
      let v := (s2.collEngine (s.xreg rs2)).cmds
      v.q.length < 256 →
      exec (.coll rd rs1 rs2) s = .next ((s2.enqueueCmd (.coll (s.xreg rs2))
        { kind := 5, c := c, seq := v.next, hart := s.cur, tid := s.curTid, asid := asid, part := u.part, blocks := [g, t] }).retire rd
        (3 * 2 ^ 48 + put 47 32 (s.xreg rs2) + put 31 0 v.next))) ∧
    (∀ (t : State) (q : QueueId) (cmd : Cmd), t.enqueueCmd q cmd = (t.recordPar q cmd).1.modCmds q fun v => { v with q := v.q ++ [(t.recordPar q cmd).2], next := (v.next + 1) % 2 ^ 32 })

/-- CPYQ and COLLQ in every mode, DUNEQ in M or HS mode: with a ticket of class 2, 3 and 4 whose upper bits are 0 and that names a command still held (for a guest, one of its tenant), they retire with its state word; a ticket of
another class, or with an upper bit set, gives BADARG from each; one that is not held gives NOTFOUND. Nothing but rd and the pc changes. -/
def Obligations.TicketQueryForms : Prop :=
  ∀ (s : State) (rd rs1 : BitVec 5),
    let t := s.xreg rs1
    let cls := fld t 51 48
    (fld t 63 52 = 0 →
      (∀ w, s.cmdState t s.guestTid = .ok w → (cls = 2 → exec (.cpyq rd rs1) s = .next (s.retire rd w)) ∧ (cls = 3 → exec (.collq rd rs1) s = .next (s.retire rd w))) ∧
      (s.cmdState t s.guestTid = .error .notFound →
        (cls = 2 → exec (.cpyq rd rs1) s = .next (s.retire rd (2 ^ 63 + 12 * 2 ^ 56))) ∧ (cls = 3 → exec (.collq rd rs1) s = .next (s.retire rd (2 ^ 63 + 12 * 2 ^ 56)))) ∧
      (cls ≠ 2 → exec (.cpyq rd rs1) s = .next (s.retire rd (2 ^ 63 + 2 ^ 56))) ∧ (cls ≠ 3 → exec (.collq rd rs1) s = .next (s.retire rd (2 ^ 63 + 2 ^ 56))) ∧
      ((s.hart s.cur).mode.high = true → cls = 4 → fld t 47 32 = 0 →
        (∀ tid w, s.dune.stateWord (fld t 31 0) = some (tid, w) → exec (.duneq rd rs1) s = .next (s.retire rd w)) ∧
        (s.dune.stateWord (fld t 31 0) = none → exec (.duneq rd rs1) s = .next (s.retire rd (2 ^ 63 + 12 * 2 ^ 56)))) ∧
      ((s.hart s.cur).mode.high = true → cls ≠ 4 ∨ fld t 47 32 ≠ 0 → exec (.duneq rd rs1) s = .next (s.retire rd (2 ^ 63 + 2 ^ 56)))) ∧
    (fld t 63 52 ≠ 0 → exec (.cpyq rd rs1) s = .next (s.retire rd (2 ^ 63 + 2 ^ 56)) ∧ exec (.collq rd rs1) s = .next (s.retire rd (2 ^ 63 + 2 ^ 56)) ∧
      ((s.hart s.cur).mode.high = true → exec (.duneq rd rs1) s = .next (s.retire rd (2 ^ 63 + 2 ^ 56))))

/-- In every mode. FENCEX with a good fence word retires with 0 when it does not wait for the core's commands, or none is left, and changes nothing else (in a model whose accesses are each performed whole, log entry 11); while
commands are left it holds the core where it stands. CBINV takes the cached copy of one control block of an address space away, CBSYNC every copy of the address space; both
retire with 0, give BADARG for an ASID of 4096 or more, and DENIED for an address space that a guest may not use. -/
def Obligations.FenceAndCacheForms : Prop :=
  ∀ (s : State) (rd rs1 rs2 : BitVec 5),
    (fenceOk (s.xreg rs1) = true →
      (bitN (s.xreg rs1) 8 = false ∨ s.hartCmds s.cur = false → exec (.fencex rd rs1) s = .next (s.retire rd 0)) ∧
      (bitN (s.xreg rs1) 8 = true → s.hartCmds s.cur = true → exec (.fencex rd rs1) s = .next s)) ∧
    (s.xreg rs2 < 4096 → s.mayUse s.askHart (s.xreg rs2) = true →
      exec (.cbinv rd rs1 rs2) s = .next (({ s with cbcache := s.cbcache.filter fun e => !(e.1.1 == s.xreg rs1 && s.ownBlock (s.xreg rs2) e.1) } : State).retire rd 0)) ∧
    (s.xreg rs1 < 4096 → s.mayUse s.askHart (s.xreg rs1) = true →
      exec (.cbsync rd rs1) s = .next (({ s with cbcache := s.cbcache.filter fun e => !s.ownBlock (s.xreg rs1) e.1 } : State).retire rd 0)) ∧
    (4096 ≤ s.xreg rs2 → exec (.cbinv rd rs1 rs2) s = .next (s.retire rd (2 ^ 63 + 2 ^ 56))) ∧
    (s.xreg rs2 < 4096 → s.mayUse s.askHart (s.xreg rs2) = false → exec (.cbinv rd rs1 rs2) s = .next (s.retire rd (2 ^ 63 + 5 * 2 ^ 56))) ∧
    (4096 ≤ s.xreg rs1 → exec (.cbsync rd rs1) s = .next (s.retire rd (2 ^ 63 + 2 ^ 56))) ∧
    (s.xreg rs1 < 4096 → s.mayUse s.askHart (s.xreg rs1) = false → exec (.cbsync rd rs1) s = .next (s.retire rd (2 ^ 63 + 5 * 2 ^ 56)))

/-- In every mode. CTRSEL with bit 8 set frees the bank its selector holds (or nothing) and retires with 0. With bit 8 clear, an event block that can be loaded, every event allowed, a bank that no other tenant has reserved and no
other party holds, and a selector that holds no other tenant's bank: a guest's, and an operator's of a bank that is its own, binds the bank to the selector and retires with 0; an operator's of a free bank holds its core as a request, and retires likewise
once the fc of the request has passed, so that a guest's of the same fc goes before it (the model's reading of a meeting, log entry 109). A grant puts the bank, with the caller's tenant and its events, in the place of what the bank and the selector held. CTRRD of a bound bank the
caller may use retires with the status word when bit 9 is set (MIG is cleared by it), and else, for an event that is present, with
the counter's value. CTRCLR in a guest's view sets every counter of the bank to 0 at once and retires with 0. -/
def Obligations.CounterForms : Prop :=
  ∀ (s : State) (rd rs1 rs2 : BitVec 5),
    let w := s.xreg rs1
    let sel := fld w 3 0
    let bank := fld w 7 4
    let part := s.hartPart s.cur
    let u := s.dropBankClaim
    (s.bankClaim = none → u = s) ∧
    (w < 512 → bitN w 8 = true → u.selBank sel = none → exec (.ctrsel rd rs1 rs2) s = .next (u.retire rd 0)) ∧
    (∀ b, w < 512 → bitN w 8 = true → u.selBank sel = some b → u.bankDenied b = false →
      exec (.ctrsel rd rs1 rs2) s = .next ((u.freeBank part b.bank).retire rd 0)) ∧
    (∀ bs, w < 512 → bitN w 8 = false → u.formLoad false (s.xreg rs2) 256 = (u, .ok bs) →
      let ev := words64 32 bs
      ev.findSome? (u.eventRefuse s.guestTid part) = none → u.bankOwner part bank = none ∨ u.bankOwner part bank = s.guestTid → u.bankHeld part bank = false →
      (∀ b, u.selBank sel = some b → u.bankDenied b = false) →
      (s.guestTid.isSome = true ∨ (∃ b, u.findBank part bank = some b ∧ b.prov = false) ∨
          (∃ b, s.bankClaim = some b ∧ b.fc < s.fc ∧ b.bank = bank ∧ b.part = part) →
        exec (.ctrsel rd rs1 rs2) s = .next ((u.grantBank part bank sel ev).retire rd 0) ∧
        ∃ l, (u.grantBank part bank sel ev).banks = l ++ [{ part := part, bank := bank, tid := s.guestTid, hart := s.cur, ctrs := ev.map (u.bindCounter s.guestTid part), fc := s.fc }] ∧
          ∀ b ∈ l, b ∈ u.banks ∧ ¬ (b.part = part ∧ b.bank = bank)) ∧
      (s.guestTid = none → u.findBank part bank = none → s.bankClaim = none →
        exec (.ctrsel rd rs1 rs2) s = .next (({ s with banks := s.banks ++ [{ part := part, bank := bank, tid := none, hart := s.cur, ctrs := [], fc := s.fc, prov := true }] } : State).modHart s.cur
          fun c => { c with wait := .form }))) ∧
    (∀ b, w < 1024 → s.selBank sel = some b → s.bankDenied b = false →
      (bitN w 9 = true → exec (.ctrrd rd rs1) s = .next ((s.setBank { b with mig := false }).retire rd b.status)) ∧
      (bitN w 9 = false → bitN b.abs.toNat (fld w 8 4) = false →
        exec (.ctrrd rd rs1) s = .next ((s.readCounter b (fld w 8 4)).1.retire rd (s.readCounter b (fld w 8 4)).2))) ∧
    (∀ b t, w < 16 → s.selBank w = some b → s.bankDenied b = false → s.guestTid = some t →
      exec (.ctrclr rd rs1) s = .next ((s.setBank { b with ctrs := b.ctrs.map fun c => { c with live := 0, released := 0, clear := false } }).retire rd 0))

/-- TRCON with a trace block at a 64-byte-aligned address that the core can load, a handle that names a region of the caller with tiles, not in the midst of being switched in, good words, the right to trace (no TRC 2 of the tenant in the operator's view), and the strips' units
free, or waited for by an operator's request of the same fc that gives way to a guest: a guest's retires with 0 and a trace of that block is on for the region; an operator's holds its core as a request, and retires likewise once the fc of the request has passed (log entry 109).
TRCOFF with a handle that names a region of the caller, not in the midst of being switched in, whose trace the caller may stop: it stops the trace and retires with 0. -/
def Obligations.TraceForms : Prop :=
  (∀ (s : State) (rd rs1 rs2 : BitVec 5) (bs : List Byte) (slot pa : Nat) (r : Region), s.xreg rs2 % 64 = 0 →
    let u := s.dropTraceClaim
    u.formLoad false (s.xreg rs2) 64 = (u, .ok bs) → s.byHandle (s.xreg rs1) s.guestTid = .ok (slot, r) → r.strips ≠ [] → r.midSwitch = false →
    let tb := words64 8 bs
    let virt := (s.hart s.cur).mode.virt
    traceBlockOk tb virt = true → (virt = true → s.mayUse s.askHart (tbAsid tb) = true) → (virt = false → s.trc r.tid ≠ 2) → u.unitsBusy r.strips = false →
    u.hartPiece s.cur .load false (s.xreg rs2) 64 = (u, .ok pa) →
    let t : Trace := { slot := slot, hart := s.cur, mid := (s.hart s.cur).oxmid.toNat, part := s.hartPart s.cur, blk := pa, tb := tb, op := !virt, fc := s.fc }
    let u2 := u.outbidTraces r.strips
    (virt = true → exec (.trcon rd rs1 rs2) s = .next (({ u2 with traces := u2.traces ++ [t] } : State).retire rd 0)) ∧
    (virt = false → s.traceClaim slot = none →
      exec (.trcon rd rs1 rs2) s = .next (({ u with traces := u.traces ++ [{ t with prov := true }] } : State).modHart s.cur fun c => { c with wait := .form })) ∧
    (∀ c, virt = false → s.traceClaim slot = some c → c.fc < s.fc →
      exec (.trcon rd rs1 rs2) s = .next (({ u with traces := u.traces ++ [t] } : State).retire rd 0)) ∧
    ((s.traces.filter (fun c => c.prov && s.traceOver r.strips c)) = [] → u2 = u)) ∧
  (∀ (s : State) (rd rs1 : BitVec 5) (slot : Nat) (r : Region), s.byHandle (s.xreg rs1) s.guestTid = .ok (slot, r) → r.midSwitch = false →
    (∀ t, s.traces.find? (fun u => u.slot == slot) = some t → (s.hart s.cur).mode.virt = false ∨ t.op = false) →
    exec (.trcoff rd rs1) s = .next ((s.stopTrace slot).retire rd 0))

/-- In M or HS mode. DUNEGO with a descriptor at a 64-byte-aligned local address that can be loaded, whose words keep their limits and whose region is resident or frozen, with no shadow and no migration, and a page stream free: the stream holds the
migration with the next number and the issuer, the region is marked as migrating, and the form retires with the ticket of class 4; a post-copy of a tenant without a policy freezes its region at once, and the policy of a tenant that has one goes out to the destination,
for whose answer the migration waits (log entry 107). SVPOL with a 4-KiB-aligned policy and an 8-byte-aligned result address, fewer than four waiting: it queues the pair and retires with 0. JRNRD of a
record that the partition's journal holds to a 64-byte-aligned destination whose store passes: it stores the record there and retires with the newest number. -/
def Obligations.HardpanForms : Prop :=
  ∀ (s : State) (rd rs1 rs2 : BitVec 5), (s.hart s.cur).mode.high = true →
    (∀ bs slot r k, s.xreg rs1 % 64 = 0 → s.formLoad true (s.xreg rs1) 64 = (s, .ok bs) →
      let m := words64 8 bs
      migBad m = false → fld (wd m 0) 44 32 ≠ s.xlat.xmod → migUnaligned m = false → s.byHandle (fld (wd m 0) 31 0) s.askHart.only = .ok (slot, r) →
      r.state = .resident ∨ r.state = .frozen → r.shadow = none → r.shadowOf = none → r.migrating = false → s.dune.freeStream = some k →
      let g : Migration := { seq := s.dune.next, m := m, hart := s.cur, tid := s.curTid, slot := slot, todo := List.range (migPages m), ending := migMode m = 1,
                             polWait := (s.signedPolicy r.tid).isSome }
      let s2 : State := { s with dune := { s.dune with streams := insertKV s.dune.streams k g, next := (s.dune.next + 1) % 2 ^ 32 } }
      let s3 := s2.setRegion slot { r with migrating := true }
      (s.signedPolicy r.tid = none → exec (.dunego rd rs1) s = .next ((if migMode m = 1 then s3.migFreeze slot else s3).retire rd (migTicket g.seq))) ∧
      (∀ pol, s.signedPolicy r.tid = some pol →
        exec (.dunego rd rs1) s = .next ((s3.sendTo { part := r.part, tid := r.tid, mod := migModule m } pol.length).retire rd (migTicket g.seq)))) ∧
    (s.xreg rs1 % 4096 = 0 → s.xreg rs2 % 8 = 0 → s.polWait.length < 4 →
      exec (.svpol rd rs1 rs2) s = .next (({ s with polWait := s.polWait ++ [(s.xreg rs1, s.xreg rs2)] } : State).retire rd 0)) ∧
    (∀ rec newest s1, s.xreg rs2 % 64 = 0 → s.journalRec (s.hartPart s.cur) (s.xreg rs1) = some (rec, newest) →
      s.hartStore s.cur true (piecesOf (s.xreg rs2) 64) (bytesOf64 rec) = (s1, none) →
      exec (.jrnrd rd rs1 rs2) s = .next (s1.retire rd newest))

/-- JRNRD copies record number n of the partition of its core and returns the number of the newest. In a journal as the writer keeps it (it holds the last 65,536 records at most, numbered from 0), with count records written: for n below count and above
count − 1 − 65,536 the record found is the one that was written as number n, and with a store that passes the form retires with count − 1; for every other n, and for an empty journal, the form retires with NOTFOUND and nothing but rd and the pc changes. -/
def Obligations.JournalRecordsHeld : Prop :=
  ∀ (s : State) (rd rs1 rs2 : BitVec 5) (j : Journal), (s.hart s.cur).mode.high = true → s.xreg rs2 % 64 = 0 →
    s.journals.find? (fun k => k.first == s.hartPart s.cur) = some j → j.recs.length = min j.count 65536 →
    let n := s.xreg rs1
    (n < j.count → j.count ≤ n + 65536 → ∃ rec, j.recs[n - (j.count - j.recs.length)]? = some rec ∧
      ∀ s1, s.hartStore s.cur true (piecesOf (s.xreg rs2) 64) (bytesOf64 rec) = (s1, none) → exec (.jrnrd rd rs1 rs2) s = .next (s1.retire rd (j.count - 1))) ∧
    (j.count ≤ n ∨ n + 65536 < j.count → exec (.jrnrd rd rs1 rs2) s = .next (s.retire rd (2 ^ 63 + 12 * 2 ^ 56)))

/-- A selection of an element that is in no run. When no transition passes the conditions of R26, no run begins. When one is picked, it passes them, and: if a runnable transition has been passed over 512 times, the one
picked has too and no overdue one has a lower index; if none is overdue, no runnable transition comes before the one picked in the order of effective priority, arrival of the trigger head, index. -/
def Obligations.SelectionChoosesByTheRules : Prop :=
  ∀ (e : Element) (fc : Nat), e.run = none →
    ((∀ j, j < 32 → e.stallOf j fc ≠ none) → (e.select fc).run = none) ∧
    (∀ u, (e.select fc).run = some u →
      u.tran < 32 ∧ e.stallOf u.tran fc = none ∧ u.beat = 0 ∧
      (∀ k, k < 32 → e.stallOf k fc = none → 512 ≤ e.pass.getD k 0 → 512 ≤ e.pass.getD u.tran 0 ∧ u.tran ≤ k) ∧
      ((∀ k, k < 32 → e.stallOf k fc = none → e.pass.getD k 0 < 512) →
        ∀ k, k < 32 → e.stallOf k fc = none → keyLt (e.choiceKey k) (e.choiceKey u.tran) = false))

/-- On an element of a region whose tile is in place. SELECTION of an element in no run that goes on, not halted, that has not selected in this fc: the element's state becomes that of the selection, and nothing outside the region changes. BEAT of a run issued before this fc that is not
over, on an intact store, with every head and port there that a later beat or a beat begun again needs, and with the two firings of Grit alike: when its evaluation, over the scale register file as the start of the beat saw it (R169), commits, the next state is the commit of exactly that evaluation; so it is for a beat in progress whose element the freeze request has reached. That a beat begins with its selection is log entry 127, that it is evaluated and committed in one step log entry 3. -/
def Obligations.SelectionAndBeatAct : Prop :=
  ∀ (s : State) (e : EltAt) (r : Region) (el : Element), s.region e.slot = some r → r.elem e.x e.y e.elt = some el →
    (r.acts e.x e.y (.elt e.x e.y e.elt) = true → (∀ u, el.run = some u → el.runOver u s.fc = true) → el.halted = false → el.selFc ≠ some s.fc →
      ∃ (t : State) (q : Region), exec (.selection e) s = .next t ∧ t = s.setRegion e.slot q ∧ q.elem e.x e.y e.elt = some (el.select s.fc)) ∧
    (∀ run effs sends ports rng flags mx, el.run = some run →
      r.acts e.x e.y (.elt e.x e.y e.elt) = true ∨ (run.inProgress = true ∧ r.live e.x e.y = true) → run.issued < s.fc → el.runOver run (s.fc - 1) = false → el.storeBad = false →
      (run.inProgress = true ∨ el.beatWaits run s.fc = none) →
      fireBeat (r.beatEnv e.x e.y el.atStart run) (el.tran run.tran).badr = .commit effs sends ports rng flags mx →
      exec (.beat e .match_) s = .next (s.commitBeat e r el run effs sends ports rng flags mx))

/-- In a region whose units move, at a switch in place. TOKEN_ARRIVAL of a token at the head of an input whose entry ends, without a delay line, in a channel of an element that takes it: the token leaves its input and stands among the arrivals that enter the channel at the end of the fc. SCALE_TRANSFER_ARRIVAL
likewise of a scale transfer, for which a window credit of the block-format channel is outstanding. A data token that enters stands at the end of the FIFO with the fc of its arrival, and returns no credit. CREDIT_RETURN and WINDOW_CREDIT_RETURN: a credit on its way to a channel that is no span leaves the way and is held by the channel's source. Nothing outside the region changes. That arrivals take effect at the end of their fc, behind its commits, is log entry 92. -/
def Obligations.ArrivalsAndCredits : Prop :=
  (∀ (s : State) (i : InAt) (r : Region) (w : W64) (x y : Nat) (e : Elt) (el : Element), s.region i.slot = some r → r.moving = true → r.holdsAt i.col i.row = true →
    r.spanPort i = false → r.localRoute i = some w → r.imageOf i.col i.row = some (x, y) → Elt.ofCode (rtDst w) = some e → rtDst w ≤ 3 → rtDle w = false →
    (r.takeInput i).elem x y e = some el →
    (∀ tok, r.inputHead i = some (.token tok) → cfgDef (el.cfg (rtDix w)) = true →
      (tok.eosl ≠ 0 ∧ cfgEosh (el.cfg (rtDix w)) = 1) ∨ (el.chan (rtDix w)).fifo.length + (el.chan (rtDix w)).coming < 8 →
      exec (.tokenArrival (.input i)) s =
        .next ((s.setRegion i.slot (r.takeInput i)).setRegion i.slot ((r.takeInput i).modElem x y e fun _ => el.arrive (rtDix w) (.token tok)))) ∧
    (∀ c9, r.inputHead i = some (.scale c9) → cfgDef (el.cfg (rtDix w)) = true → (cfgBlock (el.cfg (rtDix w))).isSome = true → (el.chan (rtDix w)).comingScales < (el.chan (rtDix w)).win.crd →
      exec (.scaleTransferArrival (.input i)) s =
        .next ((s.setRegion i.slot (r.takeInput i)).setRegion i.slot ((r.takeInput i).modElem x y e fun a => a.arrive (rtDix w) (.scale c9))))) ∧
  (∀ (el : Element) (ch fc : Nat) (tok : Token), tok.eosl = 0 →
    el.enter ch fc (.token tok) = (el.modChan ch fun x => { x with fifo := x.fifo ++ [{ tok := el.stamp ch tok, arrived := fc }] }, 0)) ∧
  (∀ (s : State) (slot : Nat) (r : Region) (dst : DestId) (src : SourceId) (cs : List (DestId × Bool)), s.region slot = some r → (∀ n, dst ≠ .span n) → r.sourceOf dst = some src →
    (takeFirst r.credits (dst, false) = some cs →
      exec (.creditReturn slot dst) s = .next (s.setRegion slot (({ r with credits := cs } : Region).giveCredit src dst false))) ∧
    (takeFirst r.credits (dst, true) = some cs →
      exec (.windowCreditReturn slot dst) s = .next (s.setRegion slot (({ r with credits := cs } : Region).giveCredit src dst true))))

/-- In a region whose units move, at a place whose configuration is in. TOKEN_HOP with one input ready for the direction, towards a tile not flipped, with no delay line on its entry: the item leaves its input and stands at the end of the neighbour's buffer of that circuit, and the link's round-robin pointer names the circuit. LANE_DRIVER_INPUT: the driver
of the lane takes the token at the head as the driver's rule says. LANE_TRANSFER_ARRIVAL: the oldest transfer of the lane that an MX has yet to receive stands, with its scale transfers, among the arrivals of the MX's lane channel that take effect at the end of the fc, and is no longer owed to it. CCU_EMIT: a running chain with credit that has sent nothing in this fc sends its next token. CCU_ARM: an idle unit takes a clean
arm token that arrived before this fc and begins a chain. That arrivals take effect at the end of their fc is log entry 92. -/
def Obligations.CircuitsAndLanesMove : Prop :=
  ∀ (s : State) (slot : Nat) (r : Region), s.region slot = some r →
    (∀ col row dir n i w it c2 w2, r.moving = true → r.holdsAt col row = true → s.readyHops slot r col row dir = [(n, i, w)] → r.inputHead i = some it →
      neighbour col row dir = some (c2, w2) → rtDle w = false → it ≠ .furrow → r.flipped c2 w2 = false →
      ∃ (t : State) (q : Region), exec (.tokenHop slot col row dir) s = .next t ∧ t.region slot = some q ∧ look t.pointers (col, row, dir) = some n ∧
        q = (r.takeInput i).modSwitch c2 w2 (fun a => a.setBuf (opposite dir, n) (a.buf (opposite dir, n) ++ [{ item := it, par := r.inputPar i }])) ∧
        t = { s with pointers := t.pointers, regions := t.regions }) ∧
    (∀ i w x y l d f tok q, i.slot = slot → r.moving = true → r.holdsAt i.col i.row = true → r.inputHead i = some (.token tok) → r.localRoute i = some w →
      r.imageOf i.col i.row = some (x, y) → (rtDst w = 9 ∧ l = .row y) ∨ (rtDst w = 10 ∧ l = .col x) → r.driver l = some d → fmtOf d.fmt = some f → rtDle w = false →
      (r.takeInput i).driverTakes d f tok = some q → exec (.laneDriverInput i) s = .next (s.setRegion slot q)) ∧
    (∀ l x y f e c, r.moving = true → r.holds x y = true → r.fly.find? (fun a => a.lane == l && a.left.contains (x, y)) = some f → r.elem x y .mx = some e → e.laneChan l = some c →
      ∃ (t : State) (q : Region), exec (.laneTransferArrival slot l x y) s = .next t ∧ t = s.setRegion slot q ∧
        q.elem x y .mx = some (e.arrive c (.lane f.scales f.val)) ∧ q.credits = r.credits ∧
        (∃ pre post, r.fly = pre ++ f :: post ∧ q.fly = (pre ++ { f with left := f.left.filter (· != (x, y)) } :: post).filter fun g => !g.left.isEmpty) ∧
        q.switches = r.switches ∧ q.drivers = r.drivers) ∧
    (∀ x y c, r.ccu x y = some c → r.acts x y (.ccu x y) = true → c.stopped = false →
      (c.running = true → c.fcred ≠ 0 → c.emitFc ≠ some s.fc →
        exec (.ccuEmit ⟨slot, x, y⟩) s = .next (s.setRegion slot (r.modCcu x y fun _ =>
          { c.emit.2 with fcred := c.fcred - 1, out := c.out ++ [c.emit.1], emitFc := some s.fc, stopped := r.state == .draining && decide (2 ≤ c.emit.1.eosl.toNat) }))) ∧
      (∀ a rest, c.armq = a :: rest → c.running = false → a.arrived < s.fc → a.tok.psn = false → a.tok.eosl = 0 →
        ∃ (t : State) (q : Region), exec (.ccuArm ⟨slot, x, y⟩) s = .next t ∧ t.region slot = some q ∧
          q.ccu x y = some { ({ c with armq := rest } : Ccu).begin_ (c.bounds.mapIdx fun i v => if c.ovm i then toSigned 32 (lane 32 i a.tok.word) else v) with emitFc := some s.fc } ∧
          q.credits = r.credits ++ [(.arm x y, false)]))

/-- A running chain with its bounds. Where counter 0 may be stepped, the token sent carries the four counters in its lanes of 32 bits and level 0, and only counter 0 moves, by its step. Where counter 0 may not be stepped and counter 1 may, the same index token is sent and the end-of-stream token of
level 1 stands next. When the end-of-stream token of level 4 stands, it is sent, and the unit is idle and has run. The index token's lanes are the counters in two's complement. -/
def Obligations.CounterChainTokens : Prop :=
  ∀ (c : Ccu) (v0 v1 v2 v3 : Int), c.val = [v0, v1, v2, v3] →
    (c.eos = none → c.inRange c.bound 0 (v0 + c.stepOf 0) = true →
      c.emit.1.eosl = 0 ∧ c.emit.2.val = [v0 + c.stepOf 0, v1, v2, v3] ∧ c.emit.2.eos = none ∧ c.emit.2.running = c.running) ∧
    (c.eos = none → c.inRange c.bound 0 (v0 + c.stepOf 0) = false → c.inRange c.bound 1 (v1 + c.stepOf 1) = true →
      c.emit.1.eosl = 0 ∧ c.emit.2.val = [v0, v1 + c.stepOf 1, v2, v3] ∧ c.emit.2.eos = some 1) ∧
    (c.eos = none → ∀ i, i < 4 → lane 32 i c.emit.1.word = ofInt 32 ([v0, v1, v2, v3].getD i 0)) ∧
    (c.eos = some 4 → c.emit.1 = { eosl := 4 } ∧ c.emit.2.running = false ∧ c.emit.2.ranOnce = true ∧ c.emit.2.eos = none)

/-- On the ME of a tile. REQUEST_SEND of the chain's first queued request, no ORD, CMPL, clean eviction and not poisoned, once its order allows, its banks are in and, when it is global, it has a translation or accesses nothing: it is on its way to its target, with the master ID of its translation, a dirty eviction with its slot's lines as they stand. REQUEST_PERFORM at the target of a scratchpad load: its reply is the bytes there; of a global store whose checks pass:
the masked bytes are written at the home, and the request is performed. ATOMIC_APPLY of an atomic whose checks pass (at the host window, one that goes out as a PCIe AtomicOp): the operation is applied whole at the home and the old value is the reply. REMOTE_ACK: the request of another module that has been performed is acknowledged. REPLY_DELIVERY of the oldest reply, once it is ready and the port has
room: the reply stands at the end of the chain's port, and its entry is free. -/
def Obligations.ChainRequestsProceed : Prop :=
  ∀ (s : State) (t : TileAt) (chain : Nat) (r : Region) (m : Me) (q : Req), s.region t.slot = some r → r.me t.x t.y = some m →
    ((m.chain chain).reqs.find? (fun p => p.st == .queued) = some q → r.acts t.x t.y (.chain t.x t.y chain) = true → m.banksIn q = true → q.psn = false →
      q.op ≠ .ord → q.op ≠ .cmpl → (∀ a b, q.op ≠ .tevc a b false) →
      let pa := s.reqPage r t.x t.y q
      let q1 : Req := { q with paddr := if q.op.translates then pa.map (·.1) else none, mid := (pa.map (·.2)).getD q.mid }
      s.maySend m chain q1 = true → (q.op.translates = true → pa ≠ none) →
      exec (.requestSend t chain) s = .next (s.setRegion t.slot (r.modReq t.x t.y chain q.seq fun p =>
        { p with lines := (match p.op with | .tevc slot _ _ => m.spadLines (slot * 512) 8 | _ => [])
                 paddr := q1.paddr, mid := q1.mid, st := .sent, remote := p.remote || (q1.paddr.map fun da => (s.localOf da).isNone).getD false }))) ∧
    (m.atTarget chain = some q → r.moving = true →
      (∀ n, q.op = .ld n → exec (.requestPerform t chain) s =
        .next (s.donePerform t chain q false (.ofNat 128 (ofBytes (m.spadRead q.addr n))) (m.spadPsn q.addr n))) ∧
      (∀ n mask da s1, q.op = .stg n mask → q.paddr = some da → s.check (r.whoAt t.x t.y q.mid) da .write q.op.bytes.2 = (s1, none) →
        exec (.requestPerform t chain) s = .next ((s1.memPutMasked da mask (toBytes n q.data.toNat) q.dpsn).donePerform t chain q (s1.localOf da).isNone 0 false)) ∧
      (∀ o ret ty b c da s1, q.op = .atom o ret ty b c → q.paddr = some da → s.check (r.whoAt t.x t.y q.mid) da .atomic ty.bytes (hostAtomicOk o ret ty) = (s1, none) →
        exec (.atomicApply t chain) s = .next ((s1.atomicAt da o ty b c q.dpsn).1.donePerform t chain q (s1.localOf da).isNone
          (lane0 (8 * ty.bytes) (s1.atomicAt da o ty b c q.dpsn).2.1) (s1.atomicAt da o ty b c q.dpsn).2.2))) ∧
    (∀ seq, exec (.remoteAck t chain seq) s = .next (s.setRegion t.slot
      ((r.modReq t.x t.y chain seq fun p => if p.remote && p.st == .performed then { p with st := .acked } else p).modChain t.x t.y chain Chain.sweep))) ∧
    (∀ e tok, r.elem t.x t.y .me = some e → (e.me.chain chain).reqs.find? (fun p => p.op.replies && p.inUse) = some q → q.reply = some tok →
      r.acts t.x t.y (.chain t.x t.y chain) = true → (e.me.chain chain).replyReady q = true → (e.port (8 + chain)).queue.length < 4 →
      exec (.replyDelivery t chain) s = .next (s.setRegion t.slot
        ((r.modElem t.x t.y .me fun a => a.modPort (8 + chain) fun p => { p with queue := p.queue ++ [{ tok := tok }] }).modChain t.x t.y chain fun c =>
          { c with reqs := c.reqs.filterMap fun p =>
              if p.seq = q.seq then (if p.remote && p.st != .acked && !p.op.reads then some { p with reply := none } else none) else some p })))

/-- An atomic operation at an address of a canonical memory: the answer is the number whose little-endian bytes stood there, and the location then holds the new value: the sum modulo the width for ADD, B for SWAP, C for a compare-and-swap whose comparison holds and the old value for one whose does not, the smaller or the
larger by the type's sign for MIN and MAX, the floating-point sum, smaller or larger of the type for FADD, FMIN and FMAX, the bit-by-bit results for AND, OR and XOR; every byte outside the location stays. At a register of this module the answer is the register's bytes, memory stays, and the
new value joins the register writes that take effect as the step ends (the model's choice, log entry 74). -/
def Obligations.AtomicOperations : Prop :=
  ∀ (s : State) (da b c : Nat) (o : AtomOp) (ty : AtomTy) (psn : Bool), Inv s → b < 2 ^ (8 * ty.bytes) → c < 2 ^ (8 * ty.bytes) →
    let w := 8 * ty.bytes
    let old := ofBytes (s.memGet da ty.bytes)
    let t := (s.atomicAt da o ty b c psn).1
    let new := ofBytes (t.memGet da ty.bytes)
    (s.atomicAt da o ty b c psn).2.1 = old ∧
    (regSpace ≤ s.memKey da → s.memKey da < 2 ^ 47 →
      t = { s with regOps := s.regOps ++ regWrites (s.memKey da) (2 ^ ty.bytes - 1) (toBytes ty.bytes (atomNew o ty old b c)) }) ∧
    (s.memKey da < regSpace ∨ 2 ^ 47 ≤ s.memKey da →
    (o = .add → new = (old + b) % 2 ^ w) ∧ (o = .swap → new = b) ∧ (o = .cas → new = if old = b then c else old) ∧
    (o = .min → ty = .i32 ∨ ty = .i64 → new = if toSigned w old < toSigned w b then old else b) ∧ (o = .min → ty = .n32 ∨ ty = .n64 → new = min old b) ∧
    (o = .max → ty = .i32 ∨ ty = .i64 → new = if toSigned w old < toSigned w b then b else old) ∧ (o = .max → ty = .n32 ∨ ty = .n64 → new = max old b) ∧
    (o = .fadd → new = (ty.fpTy.addV (ty.fpTy.decode old) (ty.fpTy.decode b)).1 % 2 ^ w) ∧
    (o = .fmin → new = (ty.fpTy.minMax false old b).1 % 2 ^ w) ∧ (o = .fmax → new = (ty.fpTy.minMax true old b).1 % 2 ^ w) ∧
    (o = .and → new = old &&& b) ∧ (o = .or → new = old ||| b) ∧ (o = .xor → new = old ^^^ b) ∧
    (∀ a, a < s.memKey da ∨ s.memKey da + ty.bytes ≤ a → memRead t.mem a = memRead s.mem a)) ∧ Inv t

/-- On the ME of a tile. TRANSLATION_WALK for a request of a chain whose walk succeeds: the request has its address and the master ID of its walk. STREAM_DESCRIPTOR_START with nothing running and a descriptor pending that keeps the limits: the stream runs the 64 bytes at its offset, and it is pending no more; one that a rollback has put back runs before those pending (R417). STREAM_LOAD_UNIT with an
end-of-stream token due: it enters the port's queue with the descriptor's CTAG; with the next 16-byte unit of a lane format in the scratchpad: its word enters the queue with the descriptor's CTAG and the poison of its line, and the units moved rise by 1. STREAM_STORE_UNIT with a lane word at the head: the word leaves the channel and becomes the unit
to move, and a commit-marked one marks the loads that name the channel; with that word taken and its place in the scratchpad: the 16 bytes stand there, and the units moved rise by 1. STREAM_COMPLETION_TOKEN with a tracking entry free, beside the two that a beat in progress was selected for: the token with the stream's number and its units is issued to the chain, and the stream ends. Each load or store step of a command's stream then credits the command's barrier for the units performed. When a unit of a stream command is credited is log entry 51. -/
def Obligations.StreamSteps : Prop :=
  ∀ (s : State) (t : TileAt) (i : Nat) (r : Region) (e : Element), s.region t.slot = some r → r.elem t.x t.y .me = some e →
    (∀ c q s1 k, (e.me.chain c).reqs.find? (fun p => p.needsWalk) = some q → r.moving = true → r.holds t.x t.y = true → (q.st == .queued && r.stopped (.chain t.x t.y c)) = false →
      (s.countAt t.slot t.x t.y 2 2 3 (b2n (s.startsWalk (r.dieAt t.x t.y) r.asid q.nextAddr q.op.akind))).translate (some (r.dieAt t.x t.y)) (some (r.stripAt t.x t.y)) (some r.part) r.asid q.nextAddr q.op.akind = (s1, .ok k) →
      exec (.translationWalk t.slot (.chain t.x t.y c)) s = .next (s1.modRegion t.slot fun a => a.modReq t.x t.y c q.seq fun p => { p with paddr := some k.da, mid := k.mid })) ∧
    (r.acts t.x t.y (.stream t.x t.y i) = true →
      (∀ g rest, (e.me.stream i).run = none → (e.me.stream i).redo = g :: rest → e.me.swapped = 16 → (e.me.stream i).stopped = false →
        exec (.streamDescriptorStart t i) s = .next (s.setRegion t.slot (r.modStream t i fun x => { (x.begin g) with redo := rest }))) ∧
      (∀ off rest, (e.me.stream i).run = none → (e.me.stream i).redo = [] → (e.me.stream i).pend = off :: rest → e.me.swapped = 16 → (e.me.stream i).stopped = false →
        let g : SRun := { q := words64 8 (e.me.spadRead off 64), fromCmd := false, units := 0, markUnits := 0 }
        let e1 : Element := { e with me := e.me.modStream i fun x => { x with pend := rest } }
        let r1 : Region := r.modStream t i fun x => { x with pend := rest }
        r1.streamBad t.x t.y e1 g = none →
        ∃ (u : State) (q : Region) (m : Me), exec (.streamDescriptorStart t i) s = .next u ∧ u.region t.slot = some q ∧ q.me t.x t.y = some m ∧ (m.stream i).run = some g ∧ (m.stream i).pend = rest) ∧
      (∀ g, (e.me.stream i).run = some g → e.me.fencesMet e.me.nfence = true → g.ended = false →
        (g.store = false → (e.me.stream i).stopped = false → g.replay = [] → 0 < e.portRoom g.pc → g.pc < e.ports.length →
          (∀ l, g.eos = some l → ∃ (u : State) (q : Region) (d : Element), exec (.streamLoadUnit t i) s = .next ((u.checkEnd t i).creditStream t i) ∧ u.region t.slot = some q ∧ q.elem t.x t.y .me = some d ∧
            (d.port g.pc).queue = (e.port g.pc).queue ++ [{ tok := { eosl := .ofNat 3 l, ctag := g.ctag } }] ∧ ((d.me.stream i).run.map fun h => (h.eos, h.units)) = some (none, g.units)) ∧
          (let a := (g.addrs g.units).1
           g.eos = none → g.block = none → g.part = [] → g.spad = true → spadCheck a 16 = none → a + 16 ≤ 0x60000 → e.me.swapped = 16 → g.partPsn = false →
           ∃ (u : State) (q : Region) (d : Element), exec (.streamLoadUnit t i) s = .next ((u.checkEnd t i).creditStream t i) ∧ u.region t.slot = some q ∧ q.elem t.x t.y .me = some d ∧
            (d.port g.pc).queue = (e.port g.pc).queue ++ [{ tok := { word := .ofNat 128 (ofBytes (e.me.spadRead a 16)), ctag := g.ctag, psn := e.me.spadPsn a 16 } }] ∧
            ((d.me.stream i).run.map fun h => (h.eos, h.units)) = some (g.levelAfter g.units, g.units + 1))) ∧
        (g.store = true → g.rel = 0 → g.block = none →
          (∀ f rest, g.burst = [] → g.units < g.total → e.words g.pc s.fc ≠ 0 → (e.chan g.pc).fifo = f :: rest → f.tok.eosl = 0 → (cfgPsnf (e.cfg g.pc) && f.tok.psn) = false →
            (g.hold = true ∨ (g.spad = true ∧ spadCheck (g.addrs g.units).1 16 = none ∧ (g.addrs g.units).1 + 16 ≤ 0x60000 ∧ e.me.swapped = 16)) →
            let r1 := ((r.modElem t.x t.y .me fun _ => (e.popChan g.pc).1).addCredits (.chan t.x t.y .me g.pc) (e.popChan g.pc).2.1 (e.popChan g.pc).2.2).modRun t i fun h => { h with burst := [f.tok] }
            exec (.streamStoreUnit t i) s = .next ((s.setRegion t.slot (if f.tok.cmk then r1.loadMark t.x t.y g.pc else r1)).creditStream t i)) ∧
          (∀ k, let a := (g.addrs g.units).1
           g.burst = [k] → g.hold = false → g.part = [] → g.spad = true → spadCheck a 16 = none → a + 16 ≤ 0x60000 → e.me.swapped = 16 →
           ∃ (u : State) (q : Region) (m : Me), exec (.streamStoreUnit t i) s = .next ((u.checkEnd t i).creditStream t i) ∧ u.region t.slot = some q ∧ q.me t.x t.y = some m ∧
             m.spad = (e.me.spadWrite a (toBytes 16 k.word.toNat) k.psn).spad ∧ ((m.stream i).run.map fun h => (h.burst, h.units)) = some ([], g.units + 1)))) ∧
      (∀ g, (e.me.stream i).run = some g → g.ended = true → e.chainRoom g.cch ≠ 0 →
        exec (.streamCompletionToken t i) s = .next ((s.setRegion t.slot (r.modMe t.x t.y fun m => m.issue g.cch
          { seq := 0, op := .strmDone, st := .performed, ctag := g.ctag, reply := some { word := n32x4 i g.units 0 0, ctag := g.ctag, psn := g.psn } } 0)).endStream t i g)))

/-- ME_BANK_SWAP where fewer than 16 banks are swapped: one more is, and after the sixteenth the MX of the tile may select MMAS again. MX_DRAIN_WORD for a named port with room, for which no drain of the element has a word in this fc: the port stands among those that the drain serves at the end of the fc. A word placed at word w: word w of the drain buffer, or after word 63 the end-of-stream token of the drain's level, enters the port's queue with the drain's CTAG and
poison, and the port is one word further; the buffer is free once every port has had its last token. MDRC_ELEMENT_WRITE of the tile at the head of the engine's queue when no tile waits to enter it: the record is read when its bytes keep the rules; then the next element inside the extents is written in the record's type at its tensor address and counted (R428), while a later one remains; with no element
left and no counter, the drain buffer is free and the engine takes the next tile. That a drain's word enters at the end of its fc is log entry 92. -/
def Obligations.TileSteps : Prop :=
  (∀ (s : State) (t : TileAt) (r : Region), s.region t.slot = some r →
    (∀ m, r.me t.x t.y = some m → m.swapped < 16 → r.holds t.x t.y = true →
      ∃ q : Region, exec (.meBankSwap t) s = .next (s.setRegion t.slot q) ∧ q.me t.x t.y = some { m with swapped := m.swapped + 1 } ∧
        ∀ e, r.elem t.x t.y .mx = some e → q.elem t.x t.y .mx = some (if m.swapped = 15 then { e with holdMmas := false } else e)) ∧
    (∀ c port e d n, r.elem t.x t.y .mx = some e → (e.mx.getD c {}).drain = some d → look d.pos port = some n → d.copy = false → r.acts t.x t.y (.drain t.x t.y c) = true → n < d.len →
      e.dueAt port = false → 0 < e.portRoom port →
      exec (.mxDrainWord t c port) s = .next (s.setRegion t.slot (r.modCtx t.x t.y c fun m => { m with drain := some { d with due := d.due ++ [port] } })))) ∧
  (∀ (e : Element) (c port n : Nat) (d : Drain), look d.pos port = some n → n < d.len → port < e.ports.length → c < e.mx.length →
    let e1 := e.placeWord c port d
    (e1.port port).queue = (e.port port).queue ++ [{ tok := if n < 64 then { word := d.word n, psn := d.psn, ctag := d.ctag } else { eosl := .ofNat 3 d.level, psn := d.psn, ctag := d.ctag } }] ∧
    (e1.mx.getD c {}).drain = if ((insertKV d.pos port (n + 1)).all fun p => decide (d.len ≤ p.2)) = true then none else some { d with pos := insertKV d.pos port (n + 1) }) ∧
  (∀ (s : State) (n slot x y c : Nat) (rest : List (Nat × Nat × Nat × Nat)) (r : Region) (d : Drain), s.waitingTiles n = [] → (s.copyEngine n).handoff = (slot, x, y, c) :: rest → s.region slot = some r → (r.ctx x y c).bind (·.drain) = some d →
    r.acts x y (.drain x y c) = true → (s.copyEngine n).turn = true ∨ (s.copyEngine n).busyCmd = false →
    (∀ s1 bs, d.blk = [] → vaCheck d.recA 8 = none → s.controlBlock r.part r.asid d.recA 64 = (s1, .ok bs) → tsOk (words64 8 bs) = true → mdrcTypeOk d.isInt (tsType (words64 8 bs)) = true → d.ctr % 8 = 0 → d.ctr < 2 ^ 52 →
      exec (.mdrcElementWrite n) s = .next (s1.modRegion slot fun q => q.modCtx x y c fun m => { m with drain := some { d with blk := words64 8 bs } })) ∧
    (∀ k k2 ty s1 da, d.blk ≠ [] → d.nextElt d.elt = some k → d.nextElt (k + 1) = some k2 → d.add = false → tlOf (tsType d.blk) = some ty →
      s.engineAcc r x y (tsAddr d.blk (d.coord k)) (ty.width / 8) .write = (s1, .ok da) →
      exec (.mdrcElementWrite n) s = .next ((((s1.memPut da (toBytes (ty.width / 8) (mdrcValue (tsType d.blk) (d.buf.getD k 0).toNat)) d.psn).countAt slot x y 3 2 1 (ty.width / 8)).modCopy n fun g => { g with turn := false }).modRegion slot fun q =>
        (q.modCtx x y c fun m => { m with drain := some { d with elt := k + 1 } }).dirtied)) ∧
    (d.blk ≠ [] → d.nextElt d.elt = none → d.ctr = 0 →
      exec (.mdrcElementWrite n) s = .next ((s.modCopy n fun e => { e with handoff := rest, turn := false }).modRegion slot fun q => q.modCtx x y c fun m => { m with drain := none, dwp := 0 })))

/-- FREEZE_RECEIPT by a unit of the region that has not had the request: the unit is counted among those that act no further. FRONT_SETTLE, once every unit has acted and nothing is in flight: with a fault that has frozen the region, the fault is delivered and the region becomes faulted with RUN = 0; asked for by a control core and without a fault, it becomes frozen with RUN = 0; the commands that
wait for the front go on; for a debug stop it stands stopped, and its debug block holds the stop's cause, node and place. Before the front is settled nothing happens. WATCHDOG_EXPIRY of a running region that is not stopped and does not freeze for a fault or a rollback: at WDL milliseconds of active time it freezes with 0x52, DET 1; before that, or with WDL 0, nothing happens. NO_PROGRESS_REPORT at 2^24 fc without a commit: 0x52 with DET 2 is reported, the region keeps running, and no further report follows: while it is not armed again, or before 2^24 fc, nothing happens. Of a region that does not run neither does anything. -/
def Obligations.FreezeSteps : Prop :=
  ∀ (s : State) (slot : Nat) (r : Region), s.region slot = some r →
    (∀ z u, r.freeze = some z → z.settled = false → z.got.contains u = false → r.units.contains u = true →
      exec (.freezeReceipt slot u) s = .next (s.setRegion slot { r with freeze := some { z with got := z.got ++ [u] } })) ∧
    (∀ z, r.freeze = some z → z.settled = false → r.settledNow z = true → r.killWhenDone = none →
      let s1 := s.setRegion slot { r with freeze := some { z with settled := true } }
      (∀ f, z.why = .fault → r.fault = some f → exec (.frontSettle slot) s = .next ((((s1.deliverFault slot f).modRegion slot fun x => { x with run := false, stp := false, stopAt := none }).toState slot .faulted).releaseSettle slot 0)) ∧
      (z.why ≠ .rollback → z.why ≠ .switch → z.why ≠ .stop → r.fault = none → exec (.frontSettle slot) s = .next
        (((s1.modRegion slot fun x => { x with run := false, stp := false, stopAt := none }).toState slot .frozen).releaseSettle slot 0)) ∧
      (∀ a, z.why = .stop → r.fault = none → r.stopAt = some a → exec (.frontSettle slot) s = .next
        (((s1.modRegion slot fun x => { x with stp := true }).modDebug slot fun d => { d with bkn := a.1, snode := a.2.1, sloc := a.2.2.1 }).traceStop slot a))) ∧
    (∀ z, r.freeze = some z → z.settled = true ∨ r.settledNow z = false → exec (.frontSettle slot) s = .next s) ∧
    (r.state ≠ .resident ∨ r.run = false → exec (.watchdogExpiry slot) s = .next s ∧ exec (.noProgressReport slot) s = .next s) ∧
    (r.state = .resident → r.run = true → r.stp = false →
      ((∀ z, r.freeze = some z → z.why ≠ .fault ∧ z.why ≠ .rollback) → (s.frBlock r.part).wdl ≠ 0 → (s.frBlock r.part).wdl.toNat * 1000000 ≤ r.active →
        exec (.watchdogExpiry slot) s = .next (s.raiseFault slot { code := 0x52, det := 1, src := 10, xna := true, info := r.active })) ∧
      ((s.frBlock r.part).wdl = 0 ∨ r.active < (s.frBlock r.part).wdl.toNat * 1000000 → exec (.watchdogExpiry slot) s = .next s) ∧
      (r.noProgArmed = true → 2 ^ 24 ≤ r.noProg → exec (.noProgressReport slot) s =
        .next ((s.reportFault slot { code := 0x52, det := 2, src := 10, xna := true, info := r.noProg }).modRegion slot fun x => { x with noProgArmed := false })) ∧
      (r.noProgArmed = false ∨ r.noProg < 2 ^ 24 → exec (.noProgressReport slot) s = .next s))

/-- On a draining region. FURROW_PASS of a quiet element other than an ME that holds its configuration and has not passed the Furrow, where the elements of lower stages have and no quiet one of its stage in an earlier tile waits: it enters every connected port of the element, and the element has passed it. TILE_FLIP of a tile that is drained and whose incoming configuration, if any, has reached the slip planes: tokens that stand in its switch go to the late-token section with the scale transfers ahead of them, the switch is empty, the tile has flipped, the
incoming region takes it, and the switch ends with the last tile. DRAIN_DEADLINE_EXPIRY at the deadline, unless every tile left can flip: the switch goes into freeze mode, the overrun is counted, and 0x51 is reported with the tiles that have not flipped; before the deadline, and where the last flip can fall in the same fc, nothing happens. REGION_COMPLETE of a running region that has no shadow role and nothing left to do: with every stream idle it ends completed, with status 3; with only held writes left,
they are released. The order among units of one stage is log entry 100, the late scale transfers log entry 137. -/
def Obligations.SwitchSteps : Prop :=
  ∀ (s : State) (slot : Nat) (r : Region), s.region slot = some r →
    (∀ o, r.state = .draining → r.switchOut = some o →
      (∀ x y k e, o.freeze = false → r.hasPassed (.elt x y k) = false → k ≠ .me → r.elem x y k = some e → r.holds x y = true → r.eltQuiet x y e = true → r.lowerPassed x y e.stage = true →
        exec (.furrowPass slot (.elt x y k)) s = .next (s.setRegion slot
          (r.passFurrow x y (.elt x y k) (((List.range 16).filter fun q => (r.destOf (.port x y k q)).isSome).map fun q => (k.code, q))))) ∧
      (∀ col row, r.unflipped.contains (col, row) = true → s.slipReady o = true → (o.freeze = false → r.tileDrained col row = true) →
        (o.freeze = true → r.settling = false ∧ r.freeze.isSome = true ∧ r.nextSweep = some (col, row)) →
        let s1 := (r.itemsAt slot col row).foldl (fun (a : State) p => a.captureItem slot p.1 p.2) s
        let s2 := s1.modRegion slot fun x =>
          { (x.modSwitch col row fun w => { w with bufs := [] }) with switchOut := x.switchOut.map fun p => { p with flipped := p.flipped ++ [(col, row)] } }
        let s3 := (o.incoming.map fun k => s2.flipTo k r.par col row).getD s2
        ∀ q p, s3.region slot = some q → q.switchOut = some p →
          (q.unflipped ≠ [] → exec (.tileFlip slot col row) s = .next s3) ∧ (q.unflipped = [] → exec (.tileFlip slot col row) s = .next (s3.endSwitch slot q p))) ∧
      (o.freeze = false → o.deadline ≤ s.ns → (s.slipReady o = false ∨ ∃ k ∈ r.unflipped, r.tileDrained k.1 k.2 = false) → exec (.drainDeadlineExpiry slot) s =
        .next ((s.setRegion slot (({ r with switchOut := some { o with freeze := true, overrun := true }, overruns := r.overruns + 1 } : Region).startFreeze .switch)).reportFault slot
          { code := 0x51, src := 10, xna := true, info := r.unflipped.length })) ∧
      (s.ns < o.deadline ∨ (o.freeze = false ∧ s.slipReady o = true ∧ ∀ k ∈ r.unflipped, r.tileDrained k.1 k.2 = true) → exec (.drainDeadlineExpiry slot) s = .next s)) ∧
    (r.state = .resident → r.run = true → r.freeze = none → r.shadowOf = none → r.doneButStreams = true →
      let streams := r.tiles.flatMap fun t => t.elts.flatMap fun e => if e.elt = .me then e.me.streams else []
      ((∀ x ∈ streams, x.idle = true) → exec (.regionComplete slot) s = .next (s.endRegion slot 3 0)) ∧
      ((∃ x ∈ streams, x.idle = false) → (∀ x ∈ streams, x.idle = true ∨ (x.pend = [] ∧ (x.run.map (·.heldOnly)) = some true)) →
        exec (.regionComplete slot) s = .next (s.setRegion slot r.releaseAll)))

/-- ROLLBACK of a region that a second Grit mismatch stopped, with its image readable and no LAUNCH accepted before it still to be searched for (R341). When the search over its whole partition finds a placement for it, the region stands on the new placement with its activation values, is rolled back, and the 0x40 record is delivered; when it finds none, the record is delivered with INFO[63] and the region is killed with 0x40. DEFECT_MARK_PERSIST: the marks of a
tile stand in flash. SCRUB_READ of a line of memory: the pass goes on; a corrected error puts the line up for write-back and is counted; an uncorrectable one gives the line the poison marker and is counted. Of a structure of an element, a CCU or a switch, the switch of a skipped column among them (its record has no image column, R331), an uncorrectable error is counted; one of configuration or tables freezes the region with 0x01, DET 3 (its INFO, the failing word, is a free value: log entry 43); one of another structure strikes that structure. Of a dirty line of a hart's caches it stands with the hart, whose accesses to the line fault from then on (how long is the model's choice, log entry 119). SCRUB_WRITEBACK: the line is written as read, when nothing has changed it since, and in each case
memory reads as before. The order and count of scrub lines are log entry 41. -/
def Obligations.RecoverySteps : Prop :=
  (∀ (s s1 : State) (slot : Nat) (r : Region) (z : Freeze) (img : Image), s.region slot = some r → r.freeze = some z → z.why = .rollback → z.settled = true → r.state = .resident ∨ r.state = .draining → s.launchBefore r.part z.order = false →
    s.readImageAt r.part r.img = (s1, .ok img) →
    (∀ s2, (s1.clearOwned slot).search { self := some slot } slot r img (2 ^ 63) = .none_ s2 → exec (.rollback slot) s = .next ((s2.report40 slot r (2 ^ 63)).faultKill slot 0x40)) ∧
    (∀ s2 p j, (s1.clearOwned slot).search { self := some slot } slot r img (2 ^ 63) = .placed s2 p → s2.relocate r.part p img = some j →
      let s3 := (r.shadow.map fun k => s2.endOne k 4 0x40).getD s2
      let s4 := s3.setRegion slot { r with image := some img, ownedAt := ((s2.region slot).map (·.ownedAt)).getD [], shadow := none, shadowOf := none }
      exec (.rollback slot) s = .next ((((s4.report40 slot r 0).modRegion slot fun x => x.rolled p j).toState slot .rolledBack).releaseSettle slot 0))) ∧
  (∀ (s : State) (col row m : Nat), look s.defects (col, row) = some m →
    ∃ t : State, exec (.defectMarkPersist col row) s = .next t ∧ look t.flash.defects (col, row) = some m ∧ t = { s with flash := { s.flash with defects := t.flash.defects } }) ∧
  (∀ (s : State) (a k : Nat), targetOf a = some k → k < 32 →
    let s1 := s.modScrub k fun x => x.advance k (scrubLineNo k (a / 64 * 64)) s.ns
    exec (.scrubRead (.line a) .clean) s = .next s1 ∧
    exec (.scrubRead (.line a) .corrected) s = .next ((s1.modScrub k fun x => { x with pending := some (a / 64 * 64, memReadBytes s.mem (a / 64 * 64) 64) }).corrected k ((targetStrip k).getD 0)) ∧
    ∃ t : State, exec (.scrubRead (.line a) .uncorrectable) s = .next (t.uncorrected k) ∧ t.poison.contains (a / 64) = true ∧ t = { s1 with poison := t.poison }) ∧
  (∀ (s : State) (w : ScrubOf) (e : EltAt) (r : Region), w.elt = some e → w.isStore = false → s.region e.slot = some r → (r.elem e.x e.y e.elt).isSome = true →
    exec (.scrubRead w .uncorrectable) s = .next ((s.setRegion e.slot (r.modElem e.x e.y e.elt fun el => el.struck w)).uncorrected (64 + r.stripAt e.x e.y))) ∧
  (∀ (s : State) (w : ScrubOf) (e : EltAt) (r : Region), w.elt = some e → w.isStore = true → s.region e.slot = some r → (r.elem e.x e.y e.elt).isSome = true →
    let s1 := (s.setRegion e.slot (r.modElem e.x e.y e.elt fun el => el.struck w)).uncorrected (64 + r.stripAt e.x e.y)
    exec (.scrubRead w .uncorrectable) s = .next (({ s1 with draws := s1.draws + 1 } : State).raiseFault e.slot
      { code := 0x01, det := 3, src := 0, x := e.x, y := e.y, elt := e.elt.code, info := freeStoreWord s1.draws })) ∧
  (∀ (s : State) (w : ScrubOf) (slot x y elt : Nat) (r : Region), w.unit = some (slot, x, y, elt) → s.region slot = some r → (if elt = 5 then (r.switch (r.phys x y).1 (r.phys x y).2).isSome else (r.tile x y).isSome) = true →
    let s1 := s.uncorrected (64 + r.stripAt x y)
    exec (.scrubRead w .uncorrectable) s = .next (({ s1 with draws := s1.draws + 1 } : State).raiseFault slot
      { code := 0x01, det := 3, src := 0, x := x, y := y, elt := elt, info := freeStoreWord s1.draws })) ∧
  (∀ (s : State) (slot col row : Nat) (r : Region), s.region slot = some r → (r.switch col row).isSome = true → r.imageOf col row = none →
    let s1 := s.uncorrected (64 + stripOfCol col)
    exec (.scrubRead (.through slot col row) .uncorrectable) s = .next (({ s1 with draws := s1.draws + 1 } : State).raiseFault slot
      { code := 0x01, det := 3, src := 0, x := 0, y := row - ((r.place.map (·.orow)).getD 0), elt := 5, xna := true, info := freeStoreWord s1.draws })) ∧
  (∀ (s : State) (h a : Nat), h < 64 → ∃ t : State, exec (.scrubRead (.cache h a) .uncorrectable) s = .next (t.uncorrected (64 + hartStrip h)) ∧
    t = { s with harts := t.harts } ∧ t.harts.length = s.harts.length ∧ (h < s.harts.length → (t.hart h).lost.contains (a / 64) = true)) ∧
  (∀ (s : State) (k a : Nat) (bs : List Byte), (s.scrubOf k).pending = some (a, bs) → Inv s →
    ∃ t : State, exec (.scrubWriteback k) s = .next t ∧ (t.scrubOf k).pending = none ∧ ∀ b, memRead t.mem b = memRead s.mem b)

/-- COMMAND_ISSUE of the head of a copy engine's queue: when it need not wait for a token, or the FIFO it names holds one of its tenant, the token leaves the FIFO and the command runs; with no such token nothing happens, and a poisoned one fails it. Of a stream command whose descriptor may start: its descriptor runs from the units it has moved. Of a stream barrier whose streams may all take it: it is done at once. Of a collective: its engine starts afresh, but for the headers that its neighbours have sent. COPY_UNIT of a running command, no tile of an MX having its turn:
the next unit is moved, its bytes are credited to the command's barrier, the command counts one unit more, and it is done with its last. COMMAND_RETIRE of a done command whose barrier step is over: with no counter named, it waits for its token push, or has retired. With its barrier message still on its way it goes no further. ENGINE_TOKEN_PUSH once the FIFO has room: the token with the command's tag, its poison saying whether it failed,
stands at the end of the FIFO, and the command has retired. That retirement takes two steps is log entry 52. -/
def Obligations.EngineSteps : Prop :=
  (∀ (s : State) (n : Nat) (c : Cmd) (rest : List Cmd), (s.copyEngine n).cmds.q = c :: rest →
    (c.issued = false → c.done = false →
      let go (u : State) : State := (c.pkt.map fun p => u.due p 2 0 (ticketOf (.copy n) c) 0 (ticketOf (.copy n) c) true).getD u
      (c.wte = false ∨ c.popped = true → exec (.commandIssue (.copy n)) s = .next (go (s.modCmds (.copy n) fun u => { u with q := { c with issued := true } :: rest }))) ∧
      (c.wte = true → c.popped = false →
        (takeToken c.tid ((s.hart c.hart).fifo c.wtf) = none → exec (.commandIssue (.copy n)) s = .next s) ∧
        (∀ k l, takeToken c.tid ((s.hart c.hart).fifo c.wtf) = some (k, l) → k.psn = false → exec (.commandIssue (.copy n)) s =
          .next (go ((s.modHart c.hart fun h => h.setFifo c.wtf l).modCmds (.copy n) fun u => { u with q := { c with popped := true, issued := true } :: rest }))) ∧
        (∀ k l, takeToken c.tid ((s.hart c.hart).fifo c.wtf) = some (k, l) → k.psn = true → exec (.commandIssue (.copy n)) s =
          .next ((s.modHart c.hart fun h => h.setFifo c.wtf l).modCmds (.copy n) fun u => { u with q := { c.failed 256 with popped := true, issued := true } :: rest })))) ∧
    (∀ s1, c.issued = true → c.done = false → c.paused = false → (s.copyEngine n).turn = false ∨ s.mdrcReady n = false → (c.kind = 3 → s.bytesUnit (.copy n) c = (s1, none)) → (c.kind ≠ 3 → s.elemsUnit (.copy n) c = (s1, none)) →
      let p := s1.sendBar (.copy n) c false (c.bytesOfUnit c.units)
      exec (.copyUnit n) s = .next (((p.1.count 4 0 { part := c.part, tid := c.tid } 1).setHead (.copy n) { p.2 with units := c.units + 1, done := p.2.done || decide (c.totalUnits ≤ c.units + 1) }).modCopy n
        fun e => { e with turn := true }))) ∧
  (∀ (s s1 : State) (slot x y i : Nat) (c : Cmd), s.orphanAt (.stream slot x y i) = none → (s.cmdQueue (.stream slot x y i)).q.head? = some c → c.issued = false → c.done = false → c.kind = 1 → c.wte = false →
    s.mayIssue (.stream slot x y i) c = true → (s.setHead (.stream slot x y i) { c with issued := true }).startStream ⟨slot, x, y⟩ i ((c.c.drop 4).take 8) true c.units = (s1, true) →
    exec (.commandIssue (.stream slot x y i)) s = .next s1) ∧
  (∀ (s : State) (slot x y i : Nat) (c : Cmd), s.orphanAt (.stream slot x y i) = none → (s.cmdQueue (.stream slot x y i)).q.head? = some c → c.issued = false → c.done = false → c.kind = 2 → c.wte = false →
    s.mayIssue (.stream slot x y i) c = true →
    exec (.commandIssue (.stream slot x y i)) s = .next ((s.setHead (.stream slot x y i) { c with issued := true }).setHead (.stream slot x y i) { c with issued := true, done := true })) ∧
  (∀ (s : State) (k : Nat) (c : Cmd), (s.collEngine k).cmds.q.head? = some c → c.issued = false → c.done = false → c.wte = false → c.pkt = none →
    exec (.commandIssue (.coll k)) s = .next ((s.setHead (.coll k) { c with issued := true }).modColl k fun e => { ({} : CollEngine) with cmds := e.cmds, hdrs := e.hdrs })) ∧
  (∀ (s : State) (q : QueueId) (c : Cmd), s.headCmd q = some c →
    (c.done = true → c.counted = false → c.credited = true →
      (s.barPending q c = true → exec (.commandRetire q) s = .next (s.setHead q c)) ∧
      (s.barPending q c = false → c.cca = 0 →
        (c.pte = true → exec (.commandRetire q) s = .next (s.setHead q { c with counted := true })) ∧
        (c.pte = false → exec (.commandRetire q) s = .next ((s.setHead q { c with counted := true }).endCmd q { c with counted := true })))) ∧
    (c.counted = true → c.pte = true → (s.hart c.hart).fifoFull c.ptf = false → exec (.engineTokenPush q) s =
      .next ((s.modHart c.hart fun h => h.setFifo c.ptf (h.fifo c.ptf ++ [{ word := .ofNat 32 c.tag, psn := c.fail != 0, tid := c.tid }])).endCmd q c)))

/-- On a canonical memory, at a barrier's address in the module's memory (not in its registers). BARRIER_CREDIT of the phase's parity: the bytes leave PB modulo 2^64; when PB is then 0 and every arrival is in, the phase completes: PH flips, LFF is 0, PHC rises by 1, PB is 0 and the cores that wait in a BWAIT for the phase are released; otherwise PH and PHC stay. A credit of the other parity changes no memory. BARRIER_FAIL of the phase's parity: PH flips, LFF is 1, PHC rises by 1, the cores that wait for the phase are released, and 0x70 is delivered with the
command's ticket; of the other parity it is dropped. BARRIER_NOTIFY_PUSH into a FIFO with room: the token stands at its end. BWAIT_WAKE of a hart that waits for a phase that has flipped, or that the completion of its phase has released: the wait retires with PHC, or with FAULTED and PHC when the latest phase failed; with the phase not flipped it retires with INTR when an enabled interrupt has been pending since an earlier fc (R271: log entry 123), and else the hart waits on. -/
def Obligations.BarrierSteps : Prop :=
  (∀ (s : State) (n : Nat) (m : BarMsg), Inv s → m.addr % 32 = 0 → (s.memKey m.addr < regSpace ∨ 2 ^ 47 ≤ s.memKey m.addr) →
    (s.credits[n]? = some m →
      ∃ t : State, exec (.barrierCredit n) s = .next t ∧ t.credits = s.credits.eraseIdx n ∧ Inv t ∧
        (m.par ≠ s.barPh m.addr → t = { s with credits := s.credits.eraseIdx n }) ∧
        (m.par = s.barPh m.addr →
          let pb := (s.barWord m.addr 2 + 2 ^ 64 - m.bytes % 2 ^ 64) % 2 ^ 64
          let all := s.barWord m.addr 1 % 2 ^ 32 = s.barWord m.addr 0 % 2 ^ 32
          (¬ all ∨ pb ≠ 0 → t.barWord m.addr 2 = pb ∧ t.barPh m.addr = s.barPh m.addr ∧ t.barPhc m.addr = s.barPhc m.addr ∧ t.harts = s.harts) ∧
          (all → pb = 0 → t.barWord m.addr 2 = 0 ∧ t.barPh m.addr = !s.barPh m.addr ∧ t.barLff m.addr = false ∧ t.barPhc m.addr = (s.barPhc m.addr + 1) % 2 ^ 64 ∧
            t.harts = s.harts.map (fun c => c.freed m.addr (s.barPh m.addr) s.fc)) ∧
          ∀ a, a < s.memKey m.addr ∨ s.memKey m.addr + 32 ≤ a → memRead t.mem a = memRead s.mem a)) ∧
    (s.fails[n]? = some m →
      (m.par ≠ s.barPh m.addr → exec (.barrierFail n) s = .next { s with fails := s.fails.eraseIdx n }) ∧
      (m.par = s.barPh m.addr → ∃ u : State, exec (.barrierFail n) s = .next (u.deliverFor m.hdl (issuerRing m.pkt m.fq) m.part m.tid m.asid { code := 0x70, src := 8, f4 := m.ticket, info := m.va }) ∧
        u.fails = s.fails.eraseIdx n ∧ u.barPh m.addr = !s.barPh m.addr ∧ u.barLff m.addr = true ∧ u.barPhc m.addr = (s.barPhc m.addr + 1) % 2 ^ 64 ∧
        u.harts = s.harts.map (fun c => c.freed m.addr (s.barPh m.addr) s.fc)))) ∧
  (∀ (s : State) (n : Nat) (p : NotifyPush), s.pushes[n]? = some p →
    ((s.hart p.hart).fifoFull p.fifo = false → exec (.barrierNotifyPush n) s =
      .next ({ s with pushes := s.pushes.eraseIdx n, harts := (s.modHart p.hart fun c => c.setFifo p.fifo (c.fifo p.fifo ++ [p.tok])).harts })) ∧
    ((s.hart p.hart).fifoFull p.fifo = true → exec (.barrierNotifyPush n) s = .next s)) ∧
  (∀ (s : State) (h da : Nat) (par : Bool) (rd : BitVec 5), (s.hart h).wait = .bwait da par rd →
    (s.barPh da ≠ par → s.barLff da = false → exec (.bwaitWake h) s = .next (s.retireAt h rd (fld (s.barPhc da) 62 0))) ∧
    (s.barPh da ≠ par → s.barLff da = true → exec (.bwaitWake h) s = .next (s.retireAt h rd (refuseWord .faulted (s.barPhc da % 2 ^ 48)))) ∧
    (s.barPh da = par → (s.hart h).irqDue s.fc = true → exec (.bwaitWake h) s = .next (s.retireAt h rd (refuseWord .intr))) ∧
    (s.barPh da = par → (s.hart h).irqDue s.fc = false → exec (.bwaitWake h) s = .next s)) ∧
  (∀ (s : State) (h da : Nat) (rd : BitVec 5), (s.hart h).wait = .released da rd →
    (s.barLff da = false → exec (.bwaitWake h) s = .next (s.retireAt h rd (fld (s.barPhc da) 62 0))) ∧
    (s.barLff da = true → exec (.bwaitWake h) s = .next (s.retireAt h rd (refuseWord .faulted (s.barPhc da % 2 ^ 48)))))

/-- With a collective command c running on a strip's engine. COLL_START_EXCHANGE sends the engine's header to both neighbours, once; with the neighbours' headers known (of a rank on this module the one its engine has sent, else the one received) they are used up: with both equal to the engine's the exchange is over, and the engine goes on (it sends what it can, and ends when nothing is left); with one that differs the command meets 0x01, DET 1; while a
neighbour on this module has sent none, nothing else happens. COLL_HOP_UNIT of the next number n of the exchange, 64 bytes, which a neighbour on this module that runs the same collective keeps as its unit n, with room, is acknowledged: of KV rotation, the bytes join the incoming block; of all-gather, they are written at the previous rank's place of the receive buffer and, but in the last hop, wait to be relayed; of reduce-scatter, the own chunk's elements are added to the
partials, and the sums wait to be relayed, or in the last hop are written as results. Another number changes nothing. COLL_HOP_ACK of a unit that is kept and that a next rank on this module has acknowledged: it is kept no longer. COLL_HOP_TIMEOUT of a hop that has not progressed for HTO, its neighbour not paused and no lane group of it due to be lost in the fc (log entry 60): the command meets 0x60; of one that has, nothing. KV_STEP_WRITE of a whole incoming block, its slot read
by the own send and free by the consumer's unmarked count: the block stands in slot s mod 2 of the receive buffer, 1 has been added at STEPC, and the engine works on the next step. How many units may be unacknowledged is log entry 59. -/
def Obligations.CollectiveSteps : Prop :=
  ∀ (s : State) (k : Nat) (c : Cmd), s.collCmd k = some c →
    let e := s.collEngine k
    let prevRank := c.rankBefore 1
    let nextRank := c.rankAfter 1
    (∀ prev next, e.exchanged = false →
      let s0 := s.tellHeader k c
      (e.told = true → s0 = s) ∧ (s0.collEngine k).told = true ∧
      (s0.rankHeader k c prevRank 0 prev = some c.header → s0.rankHeader k c nextRank 1 next = some c.header →
        exec (.collStartExchange k prev next) s = .next (((s0.dropHeaders k c).modColl k fun e => { e with exchanged := true, lastIn := s.ns, lastOut := s.ns }).goOn k)) ∧
      (∀ p n, s0.rankHeader k c prevRank 0 prev = some p → s0.rankHeader k c nextRank 1 next = some n → p ≠ c.header ∨ n ≠ c.header →
        exec (.collStartExchange k prev next) s = .next ((s0.dropHeaders k c).cmdFault (.coll k) c { code := 1, det := 1 })) ∧
      (s0.rankHeader k c prevRank 0 prev = none ∨ s0.rankHeader k c nextRank 1 next = none → exec (.collStartExchange k prev next) s = .next s0)) ∧
    (∀ n unit, n ≠ e.nextRecv → exec (.collHopUnit k n unit) s = .next s) ∧
    (∀ unit, e.exchanged = true → e.nextRecv < c.hopTotal → unit.length = 64 → (∀ p, s.localRank c prevRank = some p → s.sameColl c prevRank = true ∧ look p.unacked e.nextRecv = some unit) →
      let n := e.nextRecv
      let u := c.hopUnits
      let took (a : State) (inc : List Byte) (out : List (Nat × List Byte)) : State :=
        a.modColl k fun e => { e with nextRecv := n + 1, lastIn := s.ns, incoming := e.incoming ++ inc, relayed := e.relayed ++ out }
      (c.op = 0 → e.incoming.length < c.count → exec (.collHopUnit k n unit) s = .next ((((took s unit []).setHead (.coll k) c).ackHop c n).goOn k)) ∧
      (∀ s1, c.op = 2 → e.relayed.length < 64 → s.cmdWrite (.coll k) c (wd c.c 6 + c.count * c.rankBefore (n / u + 1) + 64 * (n % u)) unit = (s1, none) →
        let p := (took s1 [] (if n + u < c.hopTotal then [(n + u, unit)] else [])).delivered k c 64
        exec (.collHopUnit k n unit) s = .next (((p.1.setHead (.coll k) p.2).ackHop c n).goOn k)) ∧
      (∀ s1 own, c.op = 1 → e.relayed.length < 64 → s.cmdRead (.coll k) c (c.chunkAddr (c.rankBefore (n / u + 2)) (n % u)) (2 * c.perHop) = (s1, .ok own) →
        let sums := ((if c.f32 then codes32 unit else codes16 unit).zip (codes16 own)).map fun p => addPartial c.f32 p.1 p.2
        (n + u < c.hopTotal → exec (.collHopUnit k n unit) s =
          .next ((((took s1 [] [(n + u, bytesOfCodes (if c.f32 then 4 else 2) sums)]).setHead (.coll k) c).ackHop c n).goOn k)) ∧
        (∀ s2, c.hopTotal ≤ n + u → s1.cmdWrite (.coll k) c (wd c.c 6 + 2 * c.perHop * (n % u)) (bytesOfCodes 2 (sums.map (resultOf c.f32))) = (s2, none) →
          let p := (took s2 [] []).delivered k c (2 * c.perHop)
          exec (.collHopUnit k n unit) s = .next (((p.1.setHead (.coll k) p.2).ackHop c n).goOn k)))) ∧
    (∀ n, s.localRank c nextRank = none ∨ e.acks.contains n = true → (look e.unacked n).isSome = true →
      exec (.collHopAck k n) s = .next ((s.modColl k fun e => { e with unacked := eraseKV e.unacked n, acks := e.acks.erase n, lastOut := s.ns }).goOn k)) ∧
    (let limit := gHto c.grp * 1000000
     (e.exchanged = true → (e.nextRecv < c.hopTotal ∧ e.lastIn + limit ≤ s.ns ∧ s.rankPaused c prevRank = false ∧ e.inPaused = false) ∨
        (e.unacked ≠ [] ∧ e.lastOut + limit ≤ s.ns ∧ s.rankPaused c nextRank = false ∧ e.outPaused = false ∧ s.hopLossDue e = false) →
       exec (.collHopTimeout k) s = .next (s.cmdFault (.coll k) c { code := 0x60 })) ∧
     (s.ns < e.lastIn + limit → s.ns < e.lastOut + limit → exec (.collHopTimeout k) s = .next s)) ∧
    (∀ s1 s2 s3 da step, c.op = 0 → e.step < gNr c.grp → c.count ≤ e.incoming.length → (e.step - 1) * c.hopUnits ≤ e.nextSend → s.cmdAcc (.coll k) c (wd c.grp 3) 8 .read = (s1, .ok da) → s1.memPsn da 8 = false →
      e.step ≤ ofBytes (s1.memGet da 8) + 2 → s1.cmdAcc (.coll k) c (wd c.grp 2) 8 .atomic = (s2, .ok step) → s2.cmdWrite (.coll k) c (wd c.c 6 + c.count * (e.step % 2)) e.incoming = (s3, none) →
      let s4 := ((s3.atomicAt step .add .n64 1 0 false).1).modColl k fun g => { g with step := e.step + 1, incoming := [], lastIn := s.ns }
      exec (.kvStepWrite k) s = .next (((s4.delivered k c c.count).1.setHead (.coll k) (s4.delivered k c c.count).2).goOn k))

/-- DUNE_PAGE_COPY of a source whose policy, if it has one, has been answered for and whose region stands. In a round, for the next page i of the list whose record can be read and whose leaf has been cleared in the round (or has none), the requests of that clearing settled, and that moves: the page leaves the round's list and 1,024 units are counted; for a page whose leaf has not been cleared, with requests to wait for,
the leaf is cleared of D and its translations go. At the end of a round, the dirty pages make the next one, or, after the last or when they are few, the region is asked to freeze. With the region frozen, the save is written, and then, of pre-copy, the next page of the remaining set is moved. POSTCOPY_PUSH of a source that has notified, for the next page that moves and whose leaf value the destination takes: the page
leaves the list, and with the last one the ticket ends with no fault. POSTCOPY_DEMAND_PULL of a listed page at the destination whose accesses pass: the page's 64 KiB stand at DPG with the markers of its lines and the leaf value at DLE, the page is listed no more, an attempt to pull it is over, and the collectives of the module go on; with the last page the migration ends. PULL_ATTEMPT_TIMEOUT at PTO: another attempt
begins, or after the last, or with no route to the source up, the page is lost; before PTO nothing happens. What passes between the two modules is log entry 82. -/
def Obligations.MigrationSteps : Prop :=
  ∀ (s : State) (stream : Nat) (g : Migration), look s.dune.streams stream = some g →
    (∀ r, g.atDest = false → s.region g.slot = some r →
      (g.notified = false → g.polWait = false → r.migFails g = none →
        (∀ i rest w s1, g.ending = false → g.todo = i :: rest → s.pageRec r g i = (s1, .ok w) →
          (∀ s2, (∀ l, s1.leafOf r.asid (recVa w) = some l → g.cleared.contains l.1 = true ∧ g.waits.all s1.reqSettled = true) → s1.pageRec r g i = (s1, .ok w) → s1.movePage r w = (s2, none) →
            exec (.dunePageCopy stream) s = .next (s2.modMig stream fun x => { x with todo := rest, units := x.units + pageUnits })) ∧
          (∀ l s2 ws, s1.leafOf r.asid (recVa w) = some l → g.cleared.contains l.1 = false → s1.cleanLeaf r (recVa w) l = (s2, ws) →
            let s3 := s2.modMig stream fun x => { x with cleared := x.cleared ++ [l.1], waits := ws }
            ws.all s3.reqSettled = false → exec (.dunePageCopy stream) s = .next s3)) ∧
        (g.ending = false → g.todo = [] →
          let d := s.dirtyRecs g r
          (g.round = migRounds g.m ∨ d.length ≤ migDirty g.m → exec (.dunePageCopy stream) s = .next ((s.modMig stream fun x => { x with todo := d, ending := true }).migFreeze g.slot)) ∧
          (g.round ≠ migRounds g.m → migDirty g.m < d.length → exec (.dunePageCopy stream) s = .next (s.modMig stream fun x => { x with todo := d, round := g.round + 1, cleared := [], waits := [] }))) ∧
        (g.ending = true → r.state = .frozen →
          (∀ s1, let bs := r.saveBytes g.slot 1
            g.saved = false → s.physWrite (s.migWho r) .write (piecesOf (2 ^ 60 + migDsav g.m) bs.length) bs = (s1, none) →
            exec (.dunePageCopy stream) s = .next (((s1.stopTrace g.slot).sendSessions g r).modMig stream fun x => { x with saved := true })) ∧
          (∀ i rest w s1 s2, g.saved = true → migMode g.m = 0 → g.todo = i :: rest → s.pageRec r g i = (s1, .ok w) → s1.movePage r w = (s2, none) →
            exec (.dunePageCopy stream) s = .next (s2.modMig stream fun x => { x with todo := rest, units := x.units + pageUnits })))) ∧
      (g.notified = true →
        (∀ i rest w s1 s2 s3, g.todo = i :: rest → s.pageRec r g i = (s1, .ok w) → s1.movePage r w = (s2, none) →
          s2.physWrite (migSelf r) .write [(2 ^ 60 + migModule g.m * 2 ^ 47 + fld (wd w 2) 46 3 * 8, 8)] (toBytes 8 (wd w 3)) = (s3, none) →
          let g1 := { g with todo := rest, units := g.units + pageUnits }
          (rest = [] → exec (.postcopyPush stream) s = .next (s3.endMigration stream g1 0)) ∧
          (rest ≠ [] → exec (.postcopyPush stream) s = .next (s3.modMig stream fun _ => g1))) ∧
        (g.todo = [] → exec (.postcopyPush stream) s = .next (s.endMigration stream g 0)))) ∧
    (∀ rec page s1 s3, g.atDest = true → g.todo.contains rec = true →
      let w := g.recs.getD rec []
      let dst := fld (wd w 1) 59 16 * 65536
      s.check (s.destWho g) dst .write 65536 = (s1, none) →
      let s2 := s1.putPage dst page.bytes page.marked
      s2.physWrite { s2.destWho g with mid := 0 } .write [(fld (wd w 2) 46 3 * 8, 8)] (toBytes 8 (wd w 3)) = (s3, none) →
      let mine := (g.pull.map fun p => p.1 == rec).getD false
      let g1 := { g with todo := g.todo.filter (· != rec), units := g.units + pageUnits, pull := if mine then none else g.pull, attempts := if mine then 0 else g.attempts }
      (g1.todo = [] → exec (.postcopyDemandPull stream rec page) s = .next ((List.range 8).foldl State.goOn (s3.endMigration stream g1 0))) ∧
      (g1.todo ≠ [] → exec (.postcopyDemandPull stream rec page) s = .next ((List.range 8).foldl State.goOn (s3.modMig stream fun _ => g1)))) ∧
    (∀ i t0, g.atDest = true → g.pull = some (i, t0) →
      (s.ns < t0 + 1000 * migTimeout g.m → exec (.pullAttemptTimeout stream) s = .next s) ∧
      (t0 + 1000 * migTimeout g.m ≤ s.ns → g.attempts + 1 < migTries g.m → s.routeTo (((s.migTarget g).map (·.2.part)).getD 0) g.src ≠ some none → exec (.pullAttemptTimeout stream) s =
        .next (s.modMig stream fun x => { x with pull := some (i, s.ns), attempts := g.attempts + 1 })) ∧
      (t0 + 1000 * migTimeout g.m ≤ s.ns → migTries g.m ≤ g.attempts + 1 ∨ s.routeTo (((s.migTarget g).map (·.2.part)).getD 0) g.src = some none → exec (.pullAttemptTimeout stream) s = .next (s.pageLost stream g)))

/-- NOTIFY of an enabled VCP: its pending mask takes the queues (all four for an empty mask), and it stands in the service list, at the end if it was not there. VCP_CONFIG_WRITE by a hart or the Hardpan core whom the block and the device table admit: vc0 takes EN, PRV and bits 50 to 20, vc1 bits 51 to 12, and the VCP's queues are no more stopped and are to be validated afresh. VCP_SCAN when a VCP of the lowest class with any waits: it leaves the
list, its pending queues are scanned in rising order, the scan counter rises by 1, and it joins the list again when packets are left; fetched packets of an undefined opcode are refused as their turn comes; one that is not enabled only leaves the list. COMPLETION_ENTRY_WRITE of the oldest due entry, the GUEST word read with a CHEAD inside the ring: with room in the ring and a write that passes, the entry with its phase
stands at CTAIL, it is due no more, CTAIL moves past it and goes to the DEV word, and the vector of the queue is raised in the virtual function (R408; log entry 124); with a full ring it stays due; with none due nothing happens. The class of a VCP before its first scan is log entry 66, the stage of fetched packets log entry 104. -/
def Obligations.VcpSteps : Prop :=
  ∀ (s : State) (v : Nat),
    (∀ qmsk, v < 256 → (s.vcp v).en = true →
      ∃ t : State, exec (.notify v qmsk) s = .next t ∧ (t.vcp v).scan = (s.vcp v).scan ||| (if qmsk % 16 = 0 then 15 else qmsk % 16) ∧
        (s.service.contains v = true → t.service = s.service) ∧ (s.service.contains v = false → t.service = s.service ++ [v]) ∧ ∀ u, u ≠ v → t.vcp u = s.vcp u) ∧
    (∀ m word value, v < 256 → s.powered = true → (m = .hardpan ∨ ∃ h, m = .hart h) → s.permits (s.regWho m) (vcpBase v + 8 * word) .write = true →
      (word = 0 → ∃ t : State, exec (.vcpConfigWrite m v word value) s = .next t ∧ (t.vcp v).vc0 = .ofNat 64 (put 63 62 (fld value.toNat 63 62) + put 50 20 (fld value.toNat 50 20)) ∧
        (t.vcp v).vc1 = (s.vcp v).vc1 ∧ (∀ q, q ∈ (t.vcp v).queues → q.valid = false ∧ q.stop = none) ∧ t = { s with vcps := t.vcps }) ∧
      (word = 1 → ∃ t : State, exec (.vcpConfigWrite m v word value) s = .next t ∧ (t.vcp v).vc1 = .ofNat 64 (put 51 12 (fld value.toNat 51 12)) ∧
        (t.vcp v).vc0 = (s.vcp v).vc0 ∧ (∀ q, q ∈ (t.vcp v).queues → q.valid = false ∧ q.stop = none) ∧ t = { s with vcps := t.vcps })) ∧
    (s.nextVcp = some v →
      let s1 : State := ({ s with service := s.service.filter (· != v) } : State).modVcp v fun c => { c with scan := 0 }
      ((s.vcp v).en = false → exec .vcpScan s = .next s1) ∧
      ((s.vcp v).en = true →
        let p := ((List.range 4).filter (bitN (s.vcp v).scan ·)).foldl (fun (a : State × Nat) q => ((a.1.scanQueue v q).1, if (a.1.scanQueue v q).2 then a.2 + 2 ^ q else a.2)) (s1, 0)
        let s3 := p.1.modVcp v fun c => { c with nseq := (c.nseq + 1) % 2 ^ 32, scan := c.scan ||| p.2 }
        (p.2 = 0 → exec .vcpScan s = .next (s3.refuseUndefined s3.pipe.length)) ∧
        (p.2 ≠ 0 → exec .vcpScan s = .next (({ s3 with service := s3.service ++ [v] } : State).refuseUndefined s3.pipe.length)))) ∧
    (∀ q, ((s.vcp v).queue q).due = [] → exec (.completionEntryWrite v q) s = .next s) ∧
    (∀ q d rest g s1, ((s.vcp v).queue q).due = d :: rest → s.guestWord v q d.view = (s1, some g) → fld g 47 32 < d.view.rsize →
      let n := d.view.rsize
      let x := (s1.vcp v).queue q
      let s2 := s1.modQueue v q fun y => { y with chead := fld g 47 32 }
      ((x.ctail + n - fld g 47 32) % n = n - 1 → exec (.completionEntryWrite v q) s = .next s2) ∧
      (∀ s3, let entry := bytesOf64 [BitVec.ofNat 64 (put 63 63 (b2n (x.ctotal / n % 2 == 0)) + wd d.words 0), d.words.getD 1 0, d.words.getD 2 0, d.words.getD 3 0]
        (x.ctail + n - fld g 47 32) % n ≠ n - 1 → s2.vcpWrite d.view (d.view.cring + 32 * x.ctail) entry = (s3, none) →
        exec (.completionEntryWrite v q) s = .next (((s3.modQueue v q fun y => { y with due := rest, ctail := (y.ctail + 1) % n, ctotal := (y.ctotal + 1) % (2 * n) }).writeDev v q d.view).raiseVector v q)))

/-- With a packet of the event's opcode that is accepted next, not cancelled before, its unnamed words and bits 0 (words 6 and 7 of a LAUNCH, 3 to 7 of the others). A packet that goes is accepted (its accepted record with an OBJ, HEAD past it) and has its effect; one that is refused is accepted and faulted with the status; packets of an undefined opcode that come next are then refused too. LAUNCH whose words keep the limits, of a live address space of the tenant: its image is read and checked in the space
of the VCP, and from acceptance on its region is loading, in the lowest free slot, or waits for one; with no slot and NOWAIT it is refused with BUSY. ARM of a handle of the tenant whose region may start: RUN is granted, and the packet is completed with the handle. SIGNAL of a barrier whose parity stands: the arrival is made with no hart to notify, and the packet is completed with PHC. WAIT: its queue waits for the phase. WAIT_COMPLETE
of a WAIT whose phase has flipped: the packet is completed with PHC, or faulted with FAULTED when the phase failed. A packet with an unnamed bit set is refused with BADARG and has no other effect. The stage of fetched packets is log entry 104, the records of a refused packet log entry 62, a LAUNCH without a slot log entry 64. -/
def Obligations.PacketsOfRegionsAndBarriers : Prop :=
  (∀ (s : State) (p : Packet), s.nextPacket = some p → p.gone = false →
    let outcome (c : Checked) : State := (s.handOver p c).refuseUndefined s.pipe.length
    (∀ a obj f, s.handOver p (.go a obj f) = f (a.accept p obj).1 (a.accept p obj).2) ∧
    (∀ e low, s.handOver p (.refused s e low) = (s.accept p 0).1.finish (s.accept p 0).2 4 0 0 (refuseWord e low) 0) ∧
    (p.opc = 1 → packetClean p.pw 5 = true →
      let u := p.asker
      let plc := s.launchPlc u.part (wd p.pw 2)
      wd p.pw 1 < 2 ^ 52 → wd p.pw 4 < 2 ^ 52 → wd p.pw 3 < 4096 → wd p.pw 5 < 8 → plcShadow (wd p.pw 2) = false → fld (wd p.pw 2) 47 16 = 0 → s.plcOk u.part plc = true →
      wd p.pw 1 % 64 = 0 → wd p.pw 4 % 4096 = 0 → s.asidOf (wd p.pw 3) u.tid = true →
      let sp : Option Nat := some p.view.asid
      let r : Region := { gen := 0, tid := u.tid, asid := wd p.pw 3, part := u.part, plc := plc, img := { addr := wd p.pw 1, asid := sp }, save := if wd p.pw 4 = 0 then {} else { addr := wd p.pw 4, asid := sp },
                          early := bitN (wd p.pw 5) 1, nowait := bitN (wd p.pw 5) 2, goWhenEmitted := bitN (wd p.pw 5) 0 }
      (∀ s1 i, s.readImageFor u.part plc r.img = (s1, i) →
        (∀ k, s.freeSlotAt = some k → exec .launch s = .next (outcome (.go s1 (handleOf k ((look s.gens k).getD 0)) fun a q => a.startLaunch { r with owner := some q } i))) ∧
        (s.freeSlotAt = none → bitN (wd p.pw 5) 2 = false → exec .launch s = .next (outcome (.go s1 0 fun a q => a.startLaunch { r with owner := some q } i)))) ∧
      (∀ (a : State) q i, a.addRegion { r with owner := some q } = none → a.startLaunch { r with owner := some q } (.ok i) = { a with launches := a.launches ++ [{ r with owner := some q, image := some i }] }) ∧
      (s.freeSlotAt = none → bitN (wd p.pw 5) 2 = true → exec .launch s = .next (outcome (.refused s .busy)))) ∧
    (∀ h slot r s1, p.opc = 2 → packetClean p.pw 2 = true → s.armHandle p = some h → s.byHandle h (some p.view.tid) = .ok (slot, r) → s.armRegion slot r (wd p.pw 2) = .ok s1 →
      exec .arm s = .next (outcome (.go s1 h fun a q => a.finish q 3 0 0 0 h))) ∧
    (wd p.pw 1 % 32 = 0 → packetClean p.pw 2 = true → s.packetSpace p = true →
      (∀ s1 s2 da, p.opc = 3 → arriveOk (wd p.pw 2) = true → s.packetBarrier p (wd p.pw 1) .atomic = (s1, .ok da) → s1.arrive da (wd p.pw 2) 1 64 p.view.tid = .ok s2 →
        exec .signal s = .next (outcome (.go s2 0 fun a q => a.finish q 3 0 (s2.barPhc da) 0 0))) ∧
      (∀ s1 da, p.opc = 4 → wd p.pw 2 < 2 → s.packetBarrier p (wd p.pw 1) .read = (s1, .ok da) →
        exec .wait s = .next (outcome (.go s1 0 fun a q => a.modQueue p.v p.q fun x => { x with waiting := some (da, wd p.pw 2 == 1, q) })))) ∧
    (packetClean p.pw 5 = false → p.opc = 1 → exec .launch s = .next (outcome (.refused s .badArg))) ∧
    (packetClean p.pw 2 = false → (p.opc = 2 → exec .arm s = .next (outcome (.refused s .badArg))) ∧
      (p.opc = 3 → exec .signal s = .next (outcome (.refused s .badArg))) ∧ (p.opc = 4 → exec .wait s = .next (outcome (.refused s .badArg))))) ∧
  (∀ (s : State) (seq v q da : Nat) (par : Bool) (p : PktRef), (s.waits.find? fun w => w.2.2.2.2.seq == seq && s.barPh w.2.2.1 != w.2.2.2.1) = some (v, q, da, par, p) →
    let s1 := s.modQueue v q fun x => { x with waiting := none }
    (s.barLff da = false → exec (.waitComplete seq) s = .next (s1.finish p 3 0 (s.barPhc da) 0 0)) ∧
    (s.barLff da = true → exec (.waitComplete seq) s = .next (s1.finish p 4 0 (s.barPhc da) (refuseWord .faulted (s.barPhc da % 2 ^ 48)) 0)))

/-- With a packet of the event's opcode that is accepted next, not cancelled before, its unnamed words and bits 0. COPY and COLL whose command block can be read: it is read once, before the packet is accepted; the command is accepted as CPY, CPYT or COLL accepts it, for the VCP's tenant and its queue's partition, with its ticket as OBJ; its ticket finishes the packet later. MIGRATE from a VCP with PRV set: its descriptor is read at the physical address and
the migration accepted; without PRV it is refused with DENIED. QUERY of a ticket with selector 0x10: its state word; of a handle with selector 0, 1 or 4: the word of RGNQRY, and with 2 or 3 DENIED, as a form of the tenant (the model's reading, log entry 63). CANCEL of a LAUNCH that waits for placement: the region ends cancelled and its slot is free; of one that waits for a slot: it waits no more and is cancelled; of a region: it is killed
with the code of a cancellation; of the WAITs of the queue: they are cancelled; each completes the packet. The stage of fetched packets is log entry 104, the records of a refused packet log entry 62, the one reading of a command block log entry 69. -/
def Obligations.PacketsOfEnginesAndQueries : Prop :=
  ∀ (s : State) (p : Packet), s.nextPacket = some p → p.gone = false →
    let outcome (c : Checked) : State := (s.handOver p c).refuseUndefined s.pipe.length
    let done (a : State) (res obj : Nat) (f : State → State) : Checked := .go a obj fun b q => (f b).finish q 3 0 res 0 obj
    (∀ s1 bs, wd p.pw 1 % 128 = 0 → packetClean p.pw 2 = true → s.packetSpace p = true → vaCheck (wd p.pw 1) 1 = none → s.vcpRead p.view (wd p.pw 1) 128 .control = (s1, .ok bs) →
      let c := words64 16 bs
      (∀ s2 n k, p.opc = 5 → s1.checkCopy p.asker (if fld (wd c 0) 63 56 = 4 then 4 else 3) c (wd p.pw 2) = .ok s2 n k →
        exec .copy s = .next (outcome (.go s2 (ticketOf n k) fun a q => a.enqueueCmd n { k with pkt := some q }))) ∧
      (∀ s2 e low, p.opc = 5 → s1.checkCopy p.asker (if fld (wd c 0) 63 56 = 4 then 4 else 3) c (wd p.pw 2) = .refused s2 e low → exec .copy s = .next (outcome (.refused s2 e low))) ∧
      (∀ s2 n k, p.opc = 6 → s1.checkColl p.asker c (wd p.pw 2) = .ok s2 n k →
        exec .collPacket s = .next (outcome (.go s2 (ticketOf n k) fun a q => a.enqueueCmd n { k with pkt := some q })))) ∧
    (p.opc = 7 → packetClean p.pw 1 = true →
      ((s.vcp p.v).prv = false → exec .migrate s = .next (outcome (.refused s .denied))) ∧
      (∀ s1 s2 s3 bs pz ticket again, (s.vcp p.v).prv = true → wd p.pw 1 < 2 ^ 47 → wd p.pw 1 % 64 = 0 → s.physRead { mid := 0, part := some p.asker.part } .read [(wd p.pw 1, 64)] = (s1, .ok (bs, pz)) →
        s1.acceptMigration p.asker (words64 8 bs) = .ok (s2, ticket) →
        (s1.accept p ticket).1.acceptMigration { p.asker with pkt := some (s1.accept p ticket).2 } (words64 8 bs) = .ok (s3, again) → exec .migrate s = .next (s3.refuseUndefined s.pipe.length))) ∧
    (p.opc = 8 → packetClean p.pw 2 = true →
      (∀ w, wd p.pw 2 = 16 → s.ticketState (wd p.pw 1) p.view.tid = .ok w → exec .query s = .next (outcome (done s w 0 id))) ∧
      (∀ slot r w, wd p.pw 2 < 5 → wd p.pw 2 ≠ 2 → wd p.pw 2 ≠ 3 → s.byHandle (wd p.pw 1) (some p.view.tid) = .ok (slot, r) → r.query slot (wd p.pw 2) = some w → exec .query s = .next (outcome (done s w (wd p.pw 1) id))) ∧
      (∀ slot r, (wd p.pw 2 = 2 ∨ wd p.pw 2 = 3) → s.byHandle (wd p.pw 1) (some p.view.tid) = .ok (slot, r) → exec .query s = .next (outcome (.refused s .denied))) ∧
      (∀ e, wd p.pw 2 < 5 → s.byHandle (wd p.pw 1) (some p.view.tid) = .error e → exec .query s = .next (outcome (.refused s e))) ∧
      (5 ≤ wd p.pw 2 → wd p.pw 2 ≠ 16 → exec .query s = .next (outcome (.refused s .badArg)))) ∧
    (p.opc = 9 → packetClean p.pw 2 = true →
      (∀ slot, wd p.pw 1 = 0 → s.waitingLaunch p (wd p.pw 2) = some slot → exec .cancel s = .next (outcome (done s 0 0 fun a => (a.endRegion slot 5 0).freeSlot slot))) ∧
      (∀ o, wd p.pw 1 = 0 → s.waitingLaunch p (wd p.pw 2) = none → s.slotlessLaunch p (wd p.pw 2) = some o →
        exec .cancel s = .next (outcome (done s 0 0 fun a => ({ a with launches := a.launches.filter fun r => r.owner != some o } : State).finish o 5 0 0 0 0))) ∧
      (wd p.pw 1 = 0 → s.waitingLaunch p (wd p.pw 2) = none → s.slotlessLaunch p (wd p.pw 2) = none → exec .cancel s = .next (outcome (.refused s .state))) ∧
      (∀ slot r, wd p.pw 1 = 1 → s.byHandle (wd p.pw 2) (some p.view.tid) = .ok (slot, r) → r.state ≠ .killed → exec .cancel s = .next (outcome (done s 0 (wd p.pw 2) fun a => (a.kill slot r 5).1))) ∧
      (wd p.pw 1 = 2 → wd p.pw 2 = 0 → exec .cancel s = .next (outcome (done s 0 0 fun a => a.cancelWaits p.v p.q))) ∧
      (3 ≤ wd p.pw 1 → exec .cancel s = .next (outcome (.refused s .badArg))))

/-- PLACEMENT_SEARCH of a loading region with its image and no place, no LAUNCH accepted earlier and no earlier rollback of the partition still to be placed: the place that the search finds is the region's; where it finds none, a LAUNCH with NOWAIT is refused with BUSY and its slot is free, and the others wait; where it rejects the image, the region ends with the status; on the lowest free slot, the first LAUNCH that waits for a slot takes it and is its queue's latest. EMIT of a placed
one whose configuration can be relocated, no earlier LAUNCH still to be emitted: its tiles take it, the region is resident, the commands that waited are admitted, its packet is completed with the handle unless it was completed early, and RUN is granted when the LAUNCH asked for it. BEDROCK_FAULT: Bedrock is its ROM image again, the packet in flight (the first accepted LAUNCH that is placed or emitted, else the first fetched
packet: the model's choice, log entry 70) is faulted with 0x01, and the reload is journalled; with none in flight the reload is journalled for each partition. BEDROCK_UPDATE: with no packet in any stage and a right signature, the image is taken; otherwise nothing happens. A LAUNCH that waits for a slot is log entry 64, the slot of one refused for NOWAIT log entry 35. -/
def Obligations.BedrockSteps : Prop :=
  (∀ (s : State) (slot : Nat) (r : Region) (i : Image), s.region slot = some r → r.state = .loading → r.image = some i →
    (r.place = none → s.stageBefore r false = false → s.rollbackBefore r = false →
      (∀ s1 p, s.search (r.tenancy slot) slot r i r.plc = .placed s1 p → exec (.placementSearch slot) s = .next (s1.modRegion slot fun x => { x with place := some p })) ∧
      (∀ s1, s.search (r.tenancy slot) slot r i r.plc = .none_ s1 → r.nowait = false → exec (.placementSearch slot) s = .next (s1.modRegion slot fun x => { x with searched := true })) ∧
      (∀ s1 q, s.search (r.tenancy slot) slot r i r.plc = .none_ s1 → r.nowait = true → r.owner = some q →
        exec (.placementSearch slot) s = .next ((s1.finish q 4 0 0 (refuseWord .busy) 0).freeSlot slot)) ∧
      (∀ s1 st, s.search (r.tenancy slot) slot r i r.plc = .reject s1 st → exec (.placementSearch slot) s = .next (s1.rejectRegion slot st))) ∧
    (∀ p s1, r.place = some p → s.stageBefore r true = false → s.configureAt slot r p i = some s1 →
      let s3 := r.waitCmds.foldl (fun (a : State) e => a.admitCmd slot e) ((s1.modRegion slot fun x => { x with waitCmds := [] }).toState slot .resident)
      let h := handleOf slot r.gen
      (∀ q, r.owner = some q → exec (.emit slot) s = .next (if r.goWhenEmitted then (s3.due q 1 0 h 0 h (!r.early)).beginRun slot else s3.due q 1 0 h 0 h (!r.early))) ∧
      (r.owner = none → exec (.emit slot) s = .next (if r.goWhenEmitted then s3.beginRun slot else s3)))) ∧
  (∀ (s : State) (slot : Nat) (r : Region) (rest : List Region) (s1 : State) (k : Nat) (q : PktRef), s.freeSlotAt = some slot → s.launches = r :: rest → r.owner = some q →
    ({ s with launches := rest } : State).addRegion r = some (s1, k) →
    k = slot ∧ exec (.placementSearch slot) s = .next (s1.modQueue q.v q.q fun x => { x with latest := some (s1.handle k) })) ∧
  (∀ (s : State), let s0 : State := { s with bedrock := [] }
    (∀ slot o, s.firstStaged = some (some slot, o) → exec .bedrockFault s =
      .next (((s0.reportFault slot { code := 0x01, src := 9, xna := true }).faultKill slot 0x01).reloadRecord o.view.part o.view.tid o.v o.q o.seq)) ∧
    (∀ o, s.firstStaged = some (none, o) → exec .bedrockFault s =
      .next ((({ s0 with launches := s.launches.filter fun r => r.owner != some o } : State).faultPacket o { code := 0x01 }).reloadRecord o.view.part o.view.tid o.v o.q o.seq)) ∧
    (∀ p, s.firstStaged = none → s.nextPacket = some p →
      let o := (s0.accept p 0).2
      exec .bedrockFault s = .next (((s0.accept p 0).1.faultPacket o { code := 0x01 }).reloadRecord o.view.part o.view.tid o.v o.q o.seq)) ∧
    (s.firstStaged = none → s.nextPacket = none → exec .bedrockFault s = .next (s.journals.foldl (fun (a : State) j => a.reloadRecord j.first 0 0xFF 0 0) s0))) ∧
  (∀ (s : State) (image signature : List Byte),
    (s.pipe = [] → s.staged = [] → (∀ e ∈ s.vcps, ∀ x ∈ e.2.queues, x.due = []) → Config.falconVerify Config.updateKey image signature = true → exec (.bedrockUpdate image signature) s = .next { s with bedrock := image }) ∧
    (s.pipe ≠ [] ∨ s.staged ≠ [] ∨ (∃ e ∈ s.vcps, ∃ x ∈ e.2.queues, x.due ≠ []) ∨ Config.falconVerify Config.updateKey image signature = false → exec (.bedrockUpdate image signature) s = .next s))

/-- A store to XIVC by a hart that the device table admits, no earlier store waiting, with fewer than 16 invalidations pending. For a page of a defined size that XIVA names in alignment: no die cache and no translation entry of a stream keeps a translation of that address space that meets the page, every other one stays, and the command is accepted and pending. For an ASID: none of its translations is kept in either place, the others stay. For all: none is kept. A size code of 3 or a
misaligned page sets ERR and does nothing else. With 16 pending, or with stores that wait already, a store waits behind those, and with it its hart. INVALIDATION_COMPLETE of the oldest, once its requests are performed: it is pending no more, the completed count rises by 1, and the stores that wait are performed in their order as far as they may be (those left keep their harts waiting: log entry 84); before that nothing happens. -/
def Obligations.InvalidationSteps : Prop :=
  (∀ (s : State) (h asid : Nat), s.powered = true → s.permits (s.hartWho h) (xlatBase + 0x10) .write = true →
    let entry (a : State) (slot x y i : Nat) : Option Stream := ((a.region slot).bind fun r => r.me x y).map fun m => m.stream i
    let kept (t : State) (gone : Trans → Prop) : Prop := (∀ k, k ∈ t.tcache ↔ k ∈ s.tcache ∧ ¬ gone k) ∧ ∀ slot x y i, match entry s slot x y i, entry t slot x y i with
      | some a, some b => (∀ k, b.teData = some k ↔ a.teData = some k ∧ ¬ gone k) ∧ (∀ k, b.teScale = some k ↔ a.teScale = some k ∧ ¬ gone k) ∧ { b with teData := a.teData, teScale := a.teScale } = a
      | none, none => True
      | _, _ => False
    (s.xlat.held = [] → s.xlat.pending.length < 16 →
      (∀ sz, sz < 3 → s.xlat.vpg * 65536 % szBytes sz = 0 → ∃ t : State, exec (.invalidatePage h asid sz) s = .next t ∧ t.xlat.acc = (s.xlat.acc + 1) % 2 ^ 31 ∧ t.xlat.pending.length = s.xlat.pending.length + 1 ∧ t.mem = s.mem ∧
        kept t fun k => k.asid = asid % 4096 ∧ k.va < s.xlat.vpg * 65536 + szBytes sz ∧ s.xlat.vpg * 65536 < k.va + k.size) ∧
      (∃ t : State, exec (.invalidateAsid h asid) s = .next t ∧ t.xlat.acc = (s.xlat.acc + 1) % 2 ^ 31 ∧ t.xlat.pending.length = s.xlat.pending.length + 1 ∧ t.mem = s.mem ∧ kept t fun k => k.asid = asid % 4096) ∧
      (∃ t : State, exec (.invalidateAll h) s = .next t ∧ t.xlat.acc = (s.xlat.acc + 1) % 2 ^ 31 ∧ t.xlat.pending.length = s.xlat.pending.length + 1 ∧ t.mem = s.mem ∧ t.tcache = [] ∧ kept t fun _ => True) ∧
      (∀ sz, sz = 3 ∨ (sz < 3 ∧ s.xlat.vpg * 65536 % szBytes sz ≠ 0) → exec (.invalidatePage h asid sz) s = .next { s with xlat := { s.xlat with err := true } })) ∧
    (16 ≤ s.xlat.pending.length ∨ s.xlat.held ≠ [] →
      (∀ sz, exec (.invalidatePage h asid sz) s = .next { s with xlat := { s.xlat with held := s.xlat.held ++ [(some h, 0x10, put 39 28 asid + put 3 2 sz)] } }) ∧
      exec (.invalidateAsid h asid) s = .next { s with xlat := { s.xlat with held := s.xlat.held ++ [(some h, 0x10, put 39 28 asid + 1)] } } ∧
      exec (.invalidateAll h) s = .next { s with xlat := { s.xlat with held := s.xlat.held ++ [(some h, 0x10, 2)] } } ∧
      ({ s with xlat := { s.xlat with held := s.xlat.held ++ [(some h, 0x10, 2)] } } : State).storeWaits h = true)) ∧
  (∀ (s : State) (p : Inval) (rest : List Inval), s.xlat.pending = p :: rest →
    ((∀ k ∈ p.reqs, s.reqSettled k = true) → 
      let s1 : State := { s with xlat := { s.xlat with pending := rest, done := (s.xlat.done + 1) % 2 ^ 31 } }
      exec .invalidationComplete s = .next s1.releaseXlat ∧ (s.xlat.held = [] → s1.releaseXlat = s1)) ∧
    ((∃ k ∈ p.reqs, s.reqSettled k = false) → exec .invalidationComplete s = .next s))

/-- For a hart or the Hardpan core, whom the rule of the block and the device table admit. A store of a ticket to RSM: the command paused on 0x10 that the ticket names is paused no more, and a collective counts HTO from then, its neighbours with it, and goes on; another ticket changes nothing. A write to the debug block of a region's slot, which only MID 0x000 and the Ilhus harts of the region's partition may make: SRQ asks for a stop when the policy lets it pass, and otherwise sets DNY; RSM lets a stopped region
run on (one that is being switched out in freeze mode keeps that freeze); word 0 sets the breakpoints. A write of oxdl by a hart in HS or M mode stores its low 16 bits, and 0 stores 50; of oxtnt its low 16 bits; from VS, VU or U mode the hart takes its exception; of oxmid nothing; each reads as it stands. A write of XIB sets its base and EN. A write to a debug block that is not admitted changes nothing but the record of the denial. How a denied write is recorded is log entry 73. -/
def Obligations.RegisterSteps : Prop :=
  ∀ (s : State) (m : Master), s.powered = true → (m = .hardpan ∨ ∃ h, m = .hart h) →
    let may (addr : Nat) : Prop := s.permits (s.regWho m) addr .write = true
    (∀ p ticket, s.isPart p = true → may (faultBase p + 0x28) →
      (∀ q c, s.pausedCmd (BitVec.toNat ticket) = some (q, c) → (∀ k, q ≠ .coll k) → exec (.rsm m p ticket) s = .next (s.setHead q { c with paused := false })) ∧
      (∀ k c, s.pausedCmd (BitVec.toNat ticket) = some (.coll k, c) → exec (.rsm m p ticket) s =
        .next (((s.setHead (.coll k) { c with paused := false }).resumeHops k c).goOn k)) ∧
      (s.pausedCmd (BitVec.toNat ticket) = none → exec (.rsm m p ticket) s = .next s)) ∧
    (∀ slot r, slot < 512 → s.region slot = some r →
      (∀ i, i < 8 → may (debugBase slot + 8 * i) → s.midOf m = 0 ∨ s.isIlhusOf r.part (s.midOf m) = true) ∧
      (may (debugBase slot + 8) →
        (s.dbg r.tid = true → exec (.srq m slot) s = .next (s.requestStop slot 0xFE 0xFFFFFFFF 0)) ∧
        (s.dbg r.tid = false → exec (.srq m slot) s = .next (s.modDebug slot fun d => { d with dny := true })) ∧
        (r.stp = true → exec (.resumeStoppedRegion m slot) s = .next (s.setRegion slot { r with stp := false, stopAt := none, freeze := if (r.switchOut.map (·.freeze)).getD false then r.freeze else none }))) ∧
      (∀ value, may (debugBase slot) → s.dbg r.tid = true → ∃ t : State, exec (.debugBlockWrite m slot 0 value) s = .next t ∧ (t.debugBlk slot).bke = value ∧ t = { s with debug := t.debug }) ∧
      (∀ i value, i < 8 → ¬ may (debugBase slot + 8 * i) → exec (.debugBlockWrite m slot i value) s = .next (s.recordDenial (s.regWho m) (debugBase slot + 8 * i) .write))) ∧
    (∀ value, may xlatBase → s.xlat.held = [] → exec (.registerWrite m (.mmio xlatBase) value) s =
      .next { s with xlat := { s.xlat with base := fld value.toNat 46 17, en := bitN value.toNat 0 } }) ∧
    (∀ h value, m = .hart h →
      ((s.hart h).mode.high = true →
        (value.toNat % 65536 ≠ 0 → exec (.registerWrite m (.csr 0x5C1) value) s = .next (s.modHart h fun x => { x with oxdl := value.setWidth 16 })) ∧
        (value.toNat % 65536 = 0 → exec (.registerWrite m (.csr 0x5C1) value) s = .next (s.modHart h fun x => { x with oxdl := 50 })) ∧
        exec (.registerWrite m (.csr 0x5C0) value) s = .next (s.modHart h fun x => { x with oxtnt := value.setWidth 16 }) ∧
        exec (.registerWrite m (.csr 0x5C2) value) s = .next s ∧
        s.readCsr h 0x5C0 = .ok (s.hart h).oxtnt.toNat ∧ s.readCsr h 0x5C1 = .ok (s.hart h).oxdl.toNat ∧ s.readCsr h 0x5C2 = .ok (s.hart h).oxmid.toNat) ∧
      ((s.hart h).mode.high = false → exec (.registerWrite m (.csr 0x5C1) value) s = .next (s.modHart h fun x => x.trap (if x.mode.virt then Exc.virtualInst 0 else Exc.illegal 0))))

/-- Writes by the Hardpan core. A strip's word: with a range that takes in the strip, no valid word of that range naming another range, no valid word of another strip naming a range that takes in the strip and differs, and no region or enabled queue of the strip whose word would change, it takes V, FST and LST; otherwise it keeps them and PERR is set (that a word with V = 0 contradicts none is log entry 71). PERR stays until 0 is written to it. A tenant word of a partition's block takes the value; HQOS takes its low byte, 0 standing for
1; a lane-group word whose groups no other list word names takes the value, and one that names a group twice, or that another list word names, is not taken. A lane-group control register: EN = 0 brings the group down; EN = 1 sends a group that is down or lost into training; while the group is up, a change of another field is ignored whole. -/
def Obligations.FabricTables : Prop :=
  ∀ (s : State), s.powered = true →
    (∀ k value, k < 8 →
      let old := s.partWord k
      let v := BitVec.toNat (value : W64)
      let perr := bitN old 62 && !(bitN v 62)
      let busy := s.stripBusy k
      let clash := (List.range 8).any fun j => j != k && bitN (s.partWord j) 63 && fld (s.partWord j) 5 0 != fld v 5 0 &&
        ((decide (fld v 5 3 ≤ j) && decide (j ≤ fld v 2 0)) || (decide (fld (s.partWord j) 5 3 ≤ k) && decide (k ≤ fld (s.partWord j) 2 0)))
      ∃ t : State, exec (.partitionTableWrite .hardpan k value) s = .next t ∧ t = { s with partTab := t.partTab } ∧ (∀ j, j ≠ k → t.partWord j = s.partWord j) ∧
        let same := bitN v 63 = bitN old 63 ∧ fld v 5 0 = fld old 5 0
        let taken := fld v 5 3 ≤ k ∧ k ≤ fld v 2 0 ∧ clash = false ∧ (busy = false ∨ same)
        (taken → bitN (t.partWord k) 63 = bitN v 63 ∧ fld (t.partWord k) 5 0 = fld v 5 0 ∧ bitN (t.partWord k) 62 = perr) ∧
        (¬ taken → bitN (t.partWord k) 63 = bitN old 63 ∧ fld (t.partWord k) 5 0 = fld old 5 0 ∧ bitN (t.partWord k) 62 = true)) ∧
    (∀ p i value, s.isPart p = true →
      ∃ t : State, exec (.partitionBlockWrite .hardpan p i value) s = .next t ∧ t = { s with partBlk := t.partBlk } ∧ (∀ o j, o ≠ p ∨ j ≠ i → t.partBlock o j = s.partBlock o j) ∧
        (i < 4 → t.partBlock p i = BitVec.toNat (value : W64)) ∧ (i = 6 → t.partBlock p i = if BitVec.toNat (value : W64) % 256 = 0 then 1 else BitVec.toNat (value : W64) % 256) ∧
        (i = 4 ∨ i = 5 →
          let w := maskBytes (BitVec.toNat (value : W64)) 0xBF
          let others := (List.range 8).flatMap fun o => [4, 5].flatMap fun j => if o = p ∧ j = i then [] else groupsIn (s.partBlock o j)
          ((groupsIn w ++ others).Nodup → t.partBlock p i = w) ∧ (¬ (groupsIn w).Nodup → t = s) ∧ (∀ g, g ∈ groupsIn w → g ∈ others → t = s))) ∧
    (∀ g value, g < 64 →
      let old := (look s.groups g).getD {}
      let v := BitVec.toNat (value : W64)
      ∃ (t : State) (lg : LaneGroup), exec (.laneGroupControlWrite .hardpan g value) s = .next t ∧ t = { s with groups := t.groups } ∧ look t.groups g = some lg ∧
        (old.lst = 2 → fld v 62 56 ≠ fld old.cfg.toNat 62 56 → lg = old) ∧
        (old.lst ≠ 2 ∨ fld v 62 56 = fld old.cfg.toNat 62 56 → lg.cfg.toNat = put 63 56 (fld v 63 56) ∧ (bitN v 63 = false → lg.lst = 0) ∧
          (bitN v 63 = true → lg.lst = if old.lst = 0 ∨ old.lst = 3 then 1 else old.lst)))

/-- LANE_GROUP_TRAINING_DONE of a group in training with a generation of 1 or 2: the group is up with that generation, knows its peer's module and group, receives from number 0, and the module has its number. FLIT_RECEIVE on a group that is up, no flit of its sub-link waiting to go out: a flit of the next number with a right CRC is taken, and the next number is expected; a repeated one is discarded; one with a wrong CRC is refused. In each case, of a flit of the next number that there is room to take, what it carries then has its effect (which kinds of messages there are is the model's choice, log entry 110), unless the flit moved here from a lost group and is held already. A flit that the peer refuses once more after 64 replays loses the group. Flits that the
peer acknowledges leave the replay buffer. LANE_GROUP_LOST of a group in training, or of one up with a flit that has had no acknowledgement for 100 µs: the group is lost. CXL_SNOOP changes nothing. How 64 failed replays are counted is log entry 75. -/
def Obligations.LinkSteps : Prop :=
  (∀ (s : State) (addr : Nat), exec (.cxlSnoop addr) s = .next s) ∧
  ∀ (s : State) (g : Nat) (lg : LaneGroup), look s.groups g = some lg →
    (∀ gen peerMod peerGroup own, lg.lst = 1 → gen = 1 ∨ gen = 2 → peerMod < 8192 → peerGroup < 64 → own < 8192 →
      ∃ (t : State) (n : LaneGroup), exec (.laneGroupTrainingDone g gen peerMod peerGroup own) s = .next t ∧ look t.groups g = some n ∧ t.xlat = { s.xlat with xmod := own } ∧
        n = { lg with lst := 2, gen := gen, pmod := peerMod, plg := peerGroup, rxSeq := 0, refused := none, replays := 0, ackAt := s.ns } ∧ t.mem = s.mem ∧ t.regions = s.regions) ∧
    ((∀ h, h ∈ s.stripes g → (((look s.groups h).map (·.waiting)).getD []) = []) →
      (∀ seq, lg.lst = 2 → lg.replays < 64 → lg.unacked = [] →
        ∃ (t : State) (n : LaneGroup), exec (.flitReceive g { seq := seq } true lg.tx false) s = .next t ∧ look t.groups g = some n ∧ t = { s with groups := t.groups } ∧
          (seq = lg.rxSeq → n.rxSeq = (lg.rxSeq + 1) % 65536 ∧ n.refused = none) ∧ (seq ≠ lg.rxSeq → n.rxSeq = lg.rxSeq ∧ n.refused = lg.refused)) ∧
      (∀ seq acked refused msg, lg.lst = 2 → lg.replays < 64 →
        ∃ (t : State) (n : LaneGroup), exec (.flitReceive g { seq := seq, msg := msg } false acked refused) s = .next t ∧ look t.groups g = some n ∧ t = { s with groups := t.groups } ∧ n = { lg with refused := some lg.rxSeq }) ∧
      (lg.lst = 2 → lg.replays < 63 → ∃ (t : State) (n : LaneGroup), exec (.flitReceive g { seq := lg.rxSeq } true lg.tx false) s = .next t ∧ look t.groups g = some n ∧ n.unacked = [] ∧ n.rxSeq = (lg.rxSeq + 1) % 65536)) ∧
    (∀ acked msg orig, lg.lst = 2 → lg.replays < 64 → s.noRoom msg = false →
      let s1 := (s.modGroup g fun _ => (lg.received lg.rxSeq true).acked acked false s.ns).refill g 512
      (s.heldAlready g orig = false → exec (.flitReceive g { seq := lg.rxSeq, msg := msg, orig := orig } true acked false) s = .next (s1.inbound g msg)) ∧
      (s.heldAlready g orig = true → exec (.flitReceive g { seq := lg.rxSeq, msg := msg, orig := orig } true acked false) s = .next s1)) ∧
    (∀ seq acked, lg.lst = 2 → (lg.unacked.head?.map (·.num)) = some acked → acked ≠ lg.tx → lg.replays = 64 →
      exec (.flitReceive g { seq := seq } true acked true) s = .next ((((s.modGroup g fun _ => (lg.received seq true).acked acked true s.ns).replay g).refill g 512).loseGroup g)) ∧
    (lg.lst = 1 ∨ (lg.lst = 2 ∧ lg.unacked ≠ [] ∧ lg.ackAt + 100000 ≤ s.ns) → exec (.laneGroupLost g) s = .next (s.loseGroup g)) ∧
    (lg.lst = 2 → s.ns < lg.ackAt + 100000 → exec (.laneGroupLost g) s = .next s)

/-- HART_PARITY_ERROR of a hart that runs: it is reset and does not run, with its MID kept; every Ilhus hart of its partition has an interrupt pending; a record is delivered to the partition. HARDPAN_PARITY_ERROR with no packet in a stage and no journal: Bedrock is its ROM image; with one fetched packet and none placed or emitted, that packet is accepted and faulted with 0x01, and each journal has the record of the reload. POLICY_CHECK of the oldest policy that waits, whose 3,344 bytes are read unpoisoned: the Hardpan core's code for it with bit 63 is
written to its result word; a block with the policy's MAG is checked and installed, and one that asks for newer rollback fuses raises them, and never lowers them (that this is the channel of R450 is log entry 47). RELEASE_INSTANT at an instant of the tenant: every counter whose tenants all have an instant in its bank's partition is released, policies that wait for the instant settle, and nothing else changes; without an instant nothing happens. TRACE_RECORD_WRITE of a trace: its oldest record is written or dropped as the ring's room says. The code of a hart's parity record is free and the hart stays off by log entry 44; that each journal has the reload's record is log entry 45. -/
def Obligations.ParityAndPolicySteps : Prop :=
  (∀ (s : State) (h : Nat), h < 64 → s.harts.length = 64 → (s.hart h).on = true →
    ∃ u : State, exec (.hartParityError h) s = .next (u.ilhusFault (s.hartPart h) ((parityRec s.draws s.ns).words 0 0 0)) ∧ u.hart h = { oxmid := (s.hart h).oxmid } ∧
      (∀ k, k < 64 → k ≠ h → s.hartPart k = s.hartPart h → s.isIlhus (s.hart k).oxmid.toNat = true → u.hart k = { s.hart k with irq := true, irqFc := if (s.hart k).irq then (s.hart k).irqFc else s.fc }) ∧
      (∀ k, k < 64 → k ≠ h → s.hartPart k ≠ s.hartPart h ∨ s.isIlhus (s.hart k).oxmid.toNat = false → u.hart k = s.hart k) ∧ u = { s with draws := s.draws + 1, harts := u.harts }) ∧
  (∀ (s : State), (s.pipe = [] → s.staged = [] → s.journals = [] → exec .hardpanParityError s = .next { s with bedrock := [] }) ∧
    (∀ p, s.pipe = [p] → s.staged = [] → exec .hardpanParityError s = .next
      (let a := ({ s with bedrock := [] } : State).accept p 0
       let s1 := a.1.faultPacket a.2 { code := 0x01 }
       s1.journals.foldl (fun (a : State) j => a.reloadRecord j.first 0 0xFF 0 0) s1))) ∧
  (∀ (s s1 s2 : State) (p w k : Nat) (rest : List (Nat × Nat)) (bs : List Byte), s.polWait = (p, w) :: rest →
    ({ s with polWait := rest } : State).physRead { mid := 0 } .read (piecesOf p 3344) = (s1, .ok (bs, false)) → s1.hardpanRequest bs = (s2, k) →
    exec .policyCheck s = .next (s2.physWrite { mid := 0 } .write (piecesOf w 8) (toBytes 8 (2 ^ 63 + k))).1) ∧
  (∀ (s : State) bs, (fld (ofBytes (bs.take 8)) 63 32 = 0x4F58504C → s.hardpanRequest bs = s.installPolicy bs) ∧
    (fld (ofBytes (bs.take 8)) 63 32 ≠ 0x4F58504C → s.hardpanRequest bs = match Config.fuseRequest bs with
      | some n => ({ s with fuseRollback := max s.fuseRollback n }, 0)
      | none => (s, 2))) ∧
  (∀ (s : State) (tid : Nat),
    (s.instantNow tid = false → exec (.releaseInstant tid) s = .next s) ∧
    (s.instantNow tid = true → exec (.releaseInstant tid) s = .next { s with banks := s.banks.map (fun b => b.release (s.instantIn b.part)), policies := s.policies.map (fun p => p.settle s.instantAny) })) ∧
  (∀ (s : State) (slot : Nat) (t : Trace), s.traces.find? (·.slot == slot) = some t →
    exec (.traceRecordWrite slot) s = .next { (s.writeTrace t).1 with traces := (s.writeTrace t).1.traces.map fun u => if u.slot = slot then (s.writeTrace t).2 else u })

/-- THROTTLE_EVALUATION of a powered module below 115 °C: at 105 °C and above the level is 7; otherwise above the limit power or 100 °C it rises by 1 up to 7; below 95 % of the limit and 95 °C it falls by 1 down to 0; otherwise it stays; the measured values are readable. At 115 °C and above it, and THERMAL_TRIP there, trip the module: it has no power, TRIP is set, and its volatile state is that of reset; a THERMAL_TRIP below it changes nothing. COLD_RESET with a manifest that passes
every step: boot ends complete, every hart is released with the MID of the manifest, Ilhus starts on hart 0 of each partition and the other harts wait (log entry 121), no region exists, the module's memory is clear (the host's and other modules' is not this module's: log entry 46), the component images are those of flash and so is the defect map. With a manifest whose signature or rollback number fails, boot stops at stage 2 and no hart runs; an image that does not match its hash stops it at stage 3. WARM_RESET by the Hardpan core keeps the journal of each partition of the manifest and the reference time; a partition that had none has an empty one. LOSS_OF_POWER: the module has no power and
only flash, fuses and straps are kept. That harts start in M mode at address 0 is the model's choice (log entry 5). -/
def Obligations.PowerSteps : Prop :=
  (∀ (s : State) (pnow tj tcool : Nat), s.powered = true → pnow < 65536 → tj < 115 → tcool < 256 → s.mgmt.tlvl ≤ 7 →
    ∃ t : State, exec (.throttleEvaluation pnow tj tcool) s = .next t ∧ t = { s with mgmt := { s.mgmt with pnow := pnow, tj := tj, tcool := tcool, tlvl := t.mgmt.tlvl } } ∧ t.mgmt.tlvl ≤ 7 ∧
      (105 ≤ tj → t.mgmt.tlvl = 7) ∧ (tj < 105 → s.mgmt.plim < pnow ∨ 100 < tj → t.mgmt.tlvl = min 7 (s.mgmt.tlvl + 1)) ∧
      (tj < 95 → 100 * pnow < 95 * s.mgmt.plim → t.mgmt.tlvl = s.mgmt.tlvl - 1) ∧
      (tj ≤ 100 → pnow ≤ s.mgmt.plim → 95 ≤ tj ∨ 95 * s.mgmt.plim ≤ 100 * pnow → t.mgmt.tlvl = s.mgmt.tlvl)) ∧
  (∀ (s : State) (tj : Nat),
    (s.powered = true → 115 ≤ tj → ∃ t : State, exec (.thermalTrip tj) s = .next t ∧ (∀ pnow tcool, exec (.throttleEvaluation pnow tj tcool) s = .next t) ∧
      t.powered = false ∧ t.mgmt.trip = true ∧ t.mgmt.tj = tj % 256 ∧ t.regions = [] ∧ t.journals = [] ∧ t.mem = outerMem s.mem ∧ t.flash = s.flash) ∧
    (tj < 115 → exec (.thermalTrip tj) s = .next s)) ∧
  (∀ (s : State),
    (∀ m, s.flash.manifest = some m → m.signed = true → s.fuseRollback ≤ m.rollback → s.flash.imagesOk m = true → s.flash.trains = true → s.flash.bedrockOk = true → m.fieldsOk = true →
      (∃ t : State, exec .coldReset s = .next t ∧ t.mgmt.stage = 8 ∧ t.mgmt.err = 0 ∧ t.powered = true ∧ t.regions = [] ∧ t.mem = outerMem s.mem ∧ t.components = s.flash.images ∧ t.defects = s.flash.defects ∧ t.flash = s.flash ∧
        (∀ h, h < 64 → (t.hart h).on = true ∧ (t.hart h).oxmid = .ofNat 12 (m.mids.getD h 0) ∧ (t.hart h).mode = .m ∧ (t.hart h).pc = 0 ∧
          ((∃ p ∈ m.parts, h = 8 * p.1) → (t.hart h).wait = .none) ∧ ((∀ p ∈ m.parts, h ≠ 8 * p.1) → (t.hart h).wait = .parked))) ∧
      (s.powered = true → ∃ t : State, exec (.warmReset .hardpan) s = .next t ∧ t.mgmt.stage = 8 ∧ t.ns = s.ns ∧ t.regions = [] ∧ t.mem = outerMem s.mem ∧
        (∀ j, j ∈ t.journals → (∃ l, (j.first, l) ∈ m.parts) ∧ (j ∈ s.journals ∨ j = { first := j.first })) ∧
        ∀ p ∈ m.parts, (∀ j, s.journals.find? (·.first == p.1) = some j → j ∈ t.journals) ∧ (s.journals.find? (·.first == p.1) = none → { first := p.1 } ∈ t.journals))) ∧
    (∀ m, s.flash.manifest = some m → m.signed = false ∨ m.rollback < s.fuseRollback →
      ∃ t : State, exec .coldReset s = .next t ∧ t.mgmt.stage = 2 ∧ t.mgmt.err = 2 ∧ ∀ h, (t.hart h).on = false) ∧
    (∀ m, s.flash.manifest = some m → m.signed = true → s.fuseRollback ≤ m.rollback → s.flash.imagesOk m = false →
      ∃ t : State, exec .coldReset s = .next t ∧ t.mgmt.stage = 3 ∧ t.mgmt.err = 3 ∧ ∀ h, (t.hart h).on = false) ∧
    (∃ t : State, exec .lossOfPower s = .next t ∧ t.powered = false ∧ t.regions = [] ∧ t.mem = outerMem s.mem ∧ t.journals = [] ∧ t.flash = s.flash ∧ t.fuseRollback = s.fuseRollback ∧ t.strap = s.strap))

/-- Whenever one of the forms named answers a next state. RGNQRY, STRMQ, TFQRY, CPYQ, COLLQ, DUNEQ and FENCEX: nothing outside the cores changes, no other core changes, no general register but rd changes; from M or HS mode nothing of the core changes but rd, the pc and its wait. TFPSH, and TFPOP after the engine commands that wait on its FIFO have had their turn: the same, but for the FIFO that rs1 names. CTRRD and CTRCLR: the same, but for the counter banks. But for what such commands do as they issue, none of them writes any byte of memory. -/
def Obligations.QueriesChangeOnlyTheirRegister : Prop :=
  ∀ (s t : State) (rd rs1 rs2 : BitVec 5), s.cur < s.harts.length →
    (∀ i ∈ [Instr.rgnqry rd rs1 rs2, .strmqCommand rd rs1 rs2, .tfqry rd rs1, .cpyq rd rs1, .collq rd rs1, .duneq rd rs1, .fencex rd rs1], exec i s = .next t →
      t = { s with harts := t.harts } ∧ (∀ h, h ≠ s.cur → t.hart h = s.hart h) ∧ (∀ q, q ≠ rd → (t.hart s.cur).reg q = (s.hart s.cur).reg q) ∧ (∀ a, memRead t.mem a = memRead s.mem a) ∧
      ((s.hart s.cur).mode.high = true → t.hart s.cur = { s.hart s.cur with x := (t.hart s.cur).x, pc := (t.hart s.cur).pc, wait := (t.hart s.cur).wait })) ∧
    (∀ (i : Instr) (u : State), (i = .tfpsh rd rs1 rs2 ∧ u = s) ∨ (i = .tfpop rd rs1 ∧ u = (s.headsOn s.cur (s.xreg rs1)).foldl State.issue s) → exec i s = .next t →
      t = { u with harts := t.harts } ∧ (∀ h, h ≠ u.cur → t.hart h = u.hart h) ∧ (∀ q, q ≠ rd → (t.hart u.cur).reg q = (u.hart u.cur).reg q) ∧ (∀ f, f ≠ s.xreg rs1 → (t.hart u.cur).fifo f = (u.hart u.cur).fifo f) ∧
      t.hart u.cur = { u.hart u.cur with x := (t.hart u.cur).x, pc := (t.hart u.cur).pc, wait := (t.hart u.cur).wait, tf := (t.hart u.cur).tf }) ∧
    (∀ i ∈ [Instr.ctrrd rd rs1, .ctrclr rd rs1], exec i s = .next t →
      t = { s with harts := t.harts, banks := t.banks } ∧ (∀ h, h ≠ s.cur → t.hart h = s.hart h) ∧ (∀ q, q ≠ rd → (t.hart s.cur).reg q = (s.hart s.cur).reg q) ∧
      t.hart s.cur = { s.hart s.cur with x := (t.hart s.cur).x, pc := (t.hart s.cur).pc, wait := (t.hart s.cur).wait })

/-- Whenever one of the steps named answers a next state. SELECTION, CCU_EMIT, REQUEST_SEND, REMOTE_ACK, REPLY_DELIVERY, ME_BANK_SWAP and MX_DRAIN_WORD at a tile: nothing outside the region changes, no other region changes, nothing of the region but its tiles, and no other tile of it. CREDIT_RETURN, WINDOW_CREDIT_RETURN, LANE_DRIVER_INPUT, LANE_TRANSFER_ARRIVAL, FREEZE_RECEIPT and FURROW_PASS: nothing outside the region
changes and no other region; so no byte of memory, no core, no table and no queue does. -/
def Obligations.UnitStepsStayInTheirTile : Prop :=
  ∀ (s t : State),
    (∀ (e : EltAt) (a : TileAt) (c k seq : Nat), (a.slot = e.slot ∧ a.x = e.x ∧ a.y = e.y) →
      ∀ i ∈ [Instr.selection e, .ccuEmit a, .requestSend a c, .remoteAck a c seq, .replyDelivery a c, .meBankSwap a, .mxDrainWord a c k], exec i s = .next t →
        t = { s with regions := t.regions } ∧ (∀ j, j ≠ e.slot → t.region j = s.region j) ∧
        ∀ r q, s.region e.slot = some r → t.region e.slot = some q → q = { r with tiles := q.tiles } ∧ ∀ x y, x ≠ e.x ∨ y ≠ e.y → q.tile x y = r.tile x y) ∧
    (∀ (slot x y : Nat) (dst : DestId) (l : LaneId) (u : UnitId) (n : InAt), n.slot = slot →
      ∀ i ∈ [Instr.creditReturn slot dst, .windowCreditReturn slot dst, .laneDriverInput n, .laneTransferArrival slot l x y, .freezeReceipt slot u, .furrowPass slot u], exec i s = .next t →
        t = { s with regions := t.regions } ∧ (∀ j, j ≠ slot → t.region j = s.region j) ∧ (s.region slot = none → t = s))

/-- For every integer lane type and every lane of it, without a mask. IADD, ISUB, IMUL and IMAD leave the sum, difference, product, and product plus C of the lanes' integers modulo 2 to the width; IMULH the integer part of the exact product divided by that power, modulo it; IMIN and IMAX the smaller and the larger; a saturating IADD the sum, held between the least and greatest integer of the type; SHL by the width or more
leaves 0. With a mask, a lane that the mask leaves out holds A's lane. -/
def Obligations.IntegerFormsByLane : Prop :=
  ∀ (t : LaneTy) (a b c : Word) (i : Nat), t ∈ [LaneTy.i8, .i16, .i32, .n8, .n16, .n32] → i < t.lanes →
    let w := t.width
    let m : Int := 2 ^ w
    let x := t.intVal (lane w i a)
    let y := t.intVal (lane w i b)
    let z := t.intVal (lane w i c)
    let out (o : IntOp) : Nat := lane w i (intWord o t false a b c none)
    (out .iadd : Int) = (x + y) % m ∧ (out .isub : Int) = (x - y) % m ∧ (out .imul : Int) = x * y % m ∧ (out .imad : Int) = (x * y + z) % m ∧ (out .imulh : Int) = (x * y / m) % m ∧
    t.intVal (out .imin) = min x y ∧ t.intVal (out .imax) = max x y ∧
    t.intVal (lane w i (intWord .iadd t true a b c none)) = max t.lo (min t.hi (x + y)) ∧
    (w ≤ lane w i b → out .shl = 0) ∧ (lane w i b < w → out .shl = lane w i a * 2 ^ lane w i b % 2 ^ w) ∧
    ∀ (o : IntOp) (sat : Bool) (p : Token), laneOn (some p) w i = false → lane w i (intWord o t sat a b c (some p)) = lane w i a
end

