-- ==== Sys2Proof/Laws/Mem.lean ====
section
/-! SUPPORT. Memory: a read after a write, and that every memory operation keeps the canonical form. -/

namespace Sys2Proof.Machine

theorem memRead_below {lo : Nat} {m : Memory} {a : Nat} (h : Memory.wfFrom lo m = true) (ha : a < lo) : memRead m a = unlisted := by
  induction m generalizing lo with
  | nil => rfl
  | cons e r ih =>
    obtain ⟨k, b⟩ := e
    simp [Memory.wfFrom] at h
    have : k ≠ a := by omega
    simp [memRead, this]
    exact ih h.2 (by omega)

/-- The byte written is the byte read. -/
theorem memRead_memWrite_self {m : Memory} (a : Nat) (b : Byte) (h : Memory.wf m = true) : memRead (memWrite m a b) a = b := by
  unfold Memory.wf at h
  generalize 0 = lo at h
  induction m generalizing lo with
  | nil =>
    by_cases hb : b = unlisted <;> simp [memWrite, memRead, hb]
  | cons e r ih =>
    obtain ⟨k, c⟩ := e
    simp [Memory.wfFrom] at h
    unfold memWrite
    split
    · next hlt =>
      split
      · next hb =>
        have hk : k ≠ a := by omega
        simp [memRead, hk, hb]
        exact memRead_below h.2 (by omega)
      · simp [memRead]
    · split
      · next heq =>
        split
        · next hb => subst heq; rw [hb]; exact memRead_below h.2 (by omega)
        · simp [memRead]
      · next hne =>
        have hk : k ≠ a := fun e => hne e.symm
        simp [memRead, hk]
        exact ih _ h.2

/-- A write leaves every other byte as it was. -/
theorem memRead_memWrite_ne (m : Memory) {a c : Nat} (b : Byte) (h : c ≠ a) : memRead (memWrite m a b) c = memRead m c := by
  induction m with
  | nil =>
    by_cases hb : b = unlisted <;> simp [memWrite, memRead, hb, Ne.symm h]
  | cons e r ih =>
    obtain ⟨k, v⟩ := e
    unfold memWrite
    split
    · split <;> simp [memRead, Ne.symm h]
    · split
      · next heq => subst heq; split <;> simp [memRead, Ne.symm h]
      · simp [memRead, ih]

theorem memWrite_wfFrom {lo : Nat} {m : Memory} (a : Nat) (b : Byte) (h : Memory.wfFrom lo m = true) (ha : lo ≤ a) :
    Memory.wfFrom lo (memWrite m a b) = true := by
  induction m generalizing lo with
  | nil => by_cases hb : b = unlisted <;> simp [memWrite, Memory.wfFrom, hb, ha]
  | cons e r ih =>
    obtain ⟨k, c⟩ := e
    simp [Memory.wfFrom] at h
    unfold memWrite
    split
    · split
      · simp [Memory.wfFrom, h]
      · next hb => simp [Memory.wfFrom, h, ha, hb]; omega
    · split
      · next heq =>
        subst heq
        split
        · have : Memory.wfFrom lo r = true := by
            have := h.2
            clear ih
            cases r with
            | nil => rfl
            | cons e' r' =>
              obtain ⟨k', c'⟩ := e'
              simp [Memory.wfFrom] at this ⊢
              exact ⟨⟨by omega, this.1.2⟩, this.2⟩
          exact this
        · next hb => simp [Memory.wfFrom, h, hb]
      · simp [Memory.wfFrom, h]
        exact ih h.2 (by omega)

/-- A write keeps the canonical form. -/
theorem memWrite_wf {m : Memory} (a : Nat) (b : Byte) (h : Memory.wf m = true) : Memory.wf (memWrite m a b) = true :=
  memWrite_wfFrom a b h (Nat.zero_le a)

theorem memWriteBytes_wf {m : Memory} (a : Nat) (bs : List Byte) (h : Memory.wf m = true) : Memory.wf (memWriteBytes m a bs) = true := by
  induction bs generalizing m a with
  | nil => exact h
  | cons b r ih => exact ih _ (memWrite_wf _ _ h)

theorem memWriteN_wf {m : Memory} (a n v : Nat) (h : Memory.wf m = true) : Memory.wf (memWriteN m a n v) = true := memWriteBytes_wf _ _ h

theorem memWriteMasked_wf {m : Memory} (a mask : Nat) (bs : List Byte) (h : Memory.wf m = true) :
    Memory.wf (memWriteMasked m a mask bs) = true := by
  induction bs generalizing m a mask with
  | nil => exact h
  | cons b r ih =>
    unfold memWriteMasked
    split
    · exact ih _ _ (memWrite_wf _ _ h)
    · exact ih _ _ h

/-- Bytes outside the written range stay as they were. -/
theorem memRead_memWriteBytes_out (m : Memory) (a : Nat) (bs : List Byte) {c : Nat} (h : c < a ∨ a + bs.length ≤ c) :
    memRead (memWriteBytes m a bs) c = memRead m c := by
  induction bs generalizing m a with
  | nil => rfl
  | cons b r ih =>
    simp at h
    unfold memWriteBytes
    rw [ih _ _ (by omega), memRead_memWrite_ne _ _ (by omega)]

/-- Bytes inside the written range read as written. -/
theorem memRead_memWriteBytes_in {m : Memory} (a : Nat) (bs : List Byte) {i : Nat} (h : Memory.wf m = true) (hi : i < bs.length) :
    memRead (memWriteBytes m a bs) (a + i) = bs.getD i 0 := by
  induction bs generalizing m a i with
  | nil => simp at hi
  | cons b r ih =>
    unfold memWriteBytes
    cases i with
    | zero =>
      rw [memRead_memWriteBytes_out _ _ _ (by omega)]
      simpa using memRead_memWrite_self a b h
    | succ j =>
      have := ih (m := memWrite m a b) (a := a + 1) (i := j) (memWrite_wf _ _ h) (by simpa using hi)
      rw [show a + (j + 1) = a + 1 + j by omega, this]
      simp

/-! ### Bytes and numbers -/

theorem toBytes_length (n x : Nat) : (toBytes n x).length = n := by
  induction n generalizing x with
  | zero => rfl
  | succ n ih => simp [toBytes, ih]

theorem ofBytes_toBytes (n x : Nat) : ofBytes (toBytes n x) = x % 256 ^ n := by
  induction n generalizing x with
  | zero => simp [toBytes, ofBytes]; omega
  | succ n ih =>
    simp only [toBytes, ofBytes, ih, BitVec.toNat_ofNat]
    have e : x % (256 * 256 ^ n) = x % 256 + 256 * (x / 256 % 256 ^ n) := Nat.mod_mul
    rw [show 256 ^ (n + 1) = 256 * 256 ^ n from Nat.pow_succ', e]

theorem memReadBytes_written {m : Memory} (a : Nat) (bs : List Byte) (h : Memory.wf m = true) :
    memReadBytes (memWriteBytes m a bs) a bs.length = bs := by
  apply List.ext_getElem
  · have : ∀ (m : Memory) (a n : Nat), (memReadBytes m a n).length = n := by
      intro m a n; induction n generalizing a with
      | zero => rfl
      | succ n ih => simp [memReadBytes, ih]
    exact this _ _ _
  · intro i h1 h2
    have : ∀ (m : Memory) (a n i : Nat) (h : i < (memReadBytes m a n).length), (memReadBytes m a n)[i] = memRead m (a + i) := by
      intro m a n i; induction n generalizing a i with
      | zero => intro h; simp [memReadBytes] at h
      | succ n ih =>
        intro h; cases i with
        | zero => simp [memReadBytes]
        | succ i => simp [memReadBytes]; rw [ih]; congr 1; omega
    rw [this, memRead_memWriteBytes_in a bs h h2]
    simp [List.getD_eq_getElem?_getD, h2]

/-- Memory right after reset is canonical. -/
theorem wf_nil : Memory.wf [] = true := rfl

end Sys2Proof.Machine
end

