-- ==== Sys2Proof/Laws/Harts.lean ====
section
/-! SUPPORT. What a control core's accesses give: a piece that passes, a read that passes, and the pieces of a range. -/

namespace Sys2Proof.Machine

/-- Below the debug blocks a read has no effect of its own. -/
theorem State.readEffect_of_lt {s : State} {a n : Nat} (h : a < regSpace) : s.readEffect a n = s := by
  unfold State.readEffect
  rw [if_neg (by unfold regSpace at h; omega)]

/-- A piece that passes leaves the state as it was, but for the effect of reading a debug block (R438). -/
theorem State.hartPiece_ok {s s1 : State} {h va n pa : Nat} {a : HartAcc} {phys : Bool} (hh : s.hartPiece h a phys va n = (s1, .ok pa)) :
    s1 = (if a == .store then s else s.readEffect pa n) ∧ (if phys then Except.ok va else (s.hart h).physAddr a va) = .ok pa := by
  unfold State.hartPiece at hh
  dsimp only at hh
  split at hh
  · cases hh
  · next pa' e =>
    split at hh
    · cases hh
    · split at hh
      · cases hh
      · split at hh
        · cases hh
        · injection hh with h1 h2; injection h2 with h2; subst h2; exact ⟨h1.symm, e⟩

theorem memReadBytes_length (m : Memory) (a n : Nat) : (memReadBytes m a n).length = n := by
  induction n generalizing a with
  | zero => rfl
  | succ n ih => simp [memReadBytes, ih]

theorem memReadBytes_append (m : Memory) (a n k : Nat) : memReadBytes m a n ++ memReadBytes m (a + n) k = memReadBytes m a (n + k) := by
  induction n generalizing a with
  | zero => simp [memReadBytes]
  | succ n ih =>
    rw [show n + 1 + k = (n + k) + 1 by omega]
    simp only [memReadBytes, List.cons_append]
    rw [← ih, show a + (n + 1) = a + 1 + n by omega]

theorem State.bytesAt_length (s : State) (a n : Nat) : (s.bytesAt a n).length = n := by
  unfold State.bytesAt
  split
  · simp [State.regBytes]
  · exact memReadBytes_length s.mem _ n

/-- Below the register space, bytes are those of memory, a host window's at their host address (R409). -/
theorem State.bytesAt_mem {s : State} {a n : Nat} (h : a < regSpace ∨ 2 ^ 47 ≤ a) : s.bytesAt a n = memReadBytes s.mem (s.localKey a) n := by
  unfold State.bytesAt
  rw [if_neg (by omega)]

/-- A read that passes gives as many bytes as its pieces hold; without an address map and below the register space they are the bytes
at their addresses, and the state is as it was. -/
theorem State.hartRead_ok {s s1 : State} {h : Nat} {a : HartAcc} {phys : Bool} {l : List (Nat × Nat)} {bs : List Byte}
    (hh : s.hartRead h a phys l = (s1, .ok bs)) :
    bs.length = (l.map (·.2)).sum ∧
      (phys = true ∨ (s.hart h).mode = .m ∨ (s.hart h).maps = none → (∀ p ∈ l, p.1 < regSpace) →
        s1 = s ∧ bs = l.flatMap fun p => s.bytesAt p.1 p.2) := by
  induction l generalizing s s1 bs with
  | nil => simp [State.hartRead] at hh; obtain ⟨h1, h2⟩ := hh; subst h1; subst h2; simp
  | cons p r ih =>
    obtain ⟨va, n⟩ := p
    unfold State.hartRead at hh
    split at hh
    · cases hh
    · next s2 pa hp =>
      obtain ⟨e1, e2⟩ := State.hartPiece_ok hp
      split at hh
      · next s3 bs' hr =>
        obtain ⟨f2, f3⟩ := ih hr
        injection hh with g1 g2; injection g2 with g2
        subst g1; subst g2
        refine ⟨by simp [State.bytesAt_length, f2], fun hm hl => ?_⟩
        have hpa : pa = va := by
          by_cases hphys : phys = true
          · simp [hphys] at e2; exact e2.symm
          · rcases hm with hm | hm | hm
            · exact absurd hm hphys
            · simp [hphys, Hart.physAddr, hm] at e2; exact e2.symm
            · simp [hphys, Hart.physAddr, hm] at e2; exact e2.symm
        subst hpa
        rw [State.readEffect_of_lt (hl (pa, n) (by simp)), ite_self] at e1
        subst e1
        obtain ⟨k1, k2⟩ := f3 hm fun p hp => hl p (by simp [hp])
        exact ⟨k1, by simp [k2]⟩
      · cases hh

/-- The pieces of a range cover it, with fuel enough. -/
theorem pieces_cover (m : Memory) (f a n : Nat) (h : n = 0 ∨ n + a % 65536 ≤ f * 65536) :
    ((pieces f a n).map (·.2)).sum = n ∧ ((pieces f a n).flatMap fun p => memReadBytes m p.1 p.2) = memReadBytes m a n := by
  induction f generalizing a n with
  | zero =>
    have : n = 0 := by omega
    subst this; simp [pieces, memReadBytes]
  | succ f ih =>
    unfold pieces
    split
    · next h0 => subst h0; simp [memReadBytes]
    · next h0 =>
      dsimp only
      have hlt : a % 65536 < 65536 := Nat.mod_lt _ (by decide)
      obtain ⟨i1, i2⟩ := ih (a + min n (65536 - a % 65536)) (n - min n (65536 - a % 65536)) (by
        by_cases hc : n ≤ 65536 - a % 65536
        · left; omega
        · right
          have e1 : min n (65536 - a % 65536) = 65536 - a % 65536 := by omega
          have e2 : (a + (65536 - a % 65536)) % 65536 = 0 := by omega
          rw [e1, e2]; omega)
      simp only [List.map_cons, List.sum_cons, i1, List.flatMap_cons, i2, memReadBytes_append]
      have : min n (65536 - a % 65536) + (n - min n (65536 - a % 65536)) = n := by omega
      rw [this]; exact ⟨rfl, rfl⟩

end Sys2Proof.Machine
end

