-- ==== Sys2Proof/Laws/Lists.lean ====
section
/-! SUPPORT. Reading after writing: association lists, updated lists, the registers of a control core, regions by their slot. -/

namespace Sys2Proof

@[simp] theorem look_insertKV_self {κ ν : Type} [DecidableEq κ] (l : List (κ × ν)) (k : κ) (v : ν) : look (insertKV l k v) k = some v := by
  induction l with
  | nil => simp [insertKV, look]
  | cons e r ih =>
    obtain ⟨k', v'⟩ := e
    by_cases h : k' = k <;> simp [insertKV, look, h, ih]

theorem look_insertKV_ne {κ ν : Type} [DecidableEq κ] (l : List (κ × ν)) {k j : κ} (v : ν) (h : j ≠ k) :
    look (insertKV l k v) j = look l j := by
  induction l with
  | nil => simp [insertKV, look, Ne.symm h]
  | cons e r ih =>
    obtain ⟨k', v'⟩ := e
    by_cases hk : k' = k
    · subst hk; simp [insertKV, look, Ne.symm h]
    · by_cases hj : k' = j
      · subst hj; simp [insertKV, look, hk]
      · simp [insertKV, look, hk, hj, ih]

@[simp] theorem upd_length {α : Type} (l : List α) (i : Nat) (f : α → α) : (upd l i f).length = l.length := by simp [upd]

theorem upd_getD_self {α : Type} (l : List α) (i : Nat) (f : α → α) (d : α) (h : i < l.length) : (upd l i f).getD i d = f (l.getD i d) := by
  simp [upd, List.getD_eq_getElem?_getD, List.getElem?_eq_getElem h]

theorem upd_getD_ne {α : Type} (l : List α) {i j : Nat} (f : α → α) (d : α) (h : j ≠ i) : (upd l i f).getD j d = l.getD j d := by
  simp [upd, List.getD_eq_getElem?_getD, Ne.symm h]

namespace Machine

@[simp] theorem State.region_setRegion (s : State) (k : Nat) (r : Region) : (s.setRegion k r).region k = some r := look_insertKV_self _ _ _

theorem State.region_setRegion_ne (s : State) {k j : Nat} (r : Region) (h : j ≠ k) : (s.setRegion k r).region j = s.region j :=
  look_insertKV_ne _ _ h

/-- Reading the core that was changed. -/
theorem State.hart_modHart (s : State) (h : Nat) (f : Hart → Hart) (hl : h < s.harts.length) : (s.modHart h f).hart h = f (s.hart h) :=
  upd_getD_self _ _ _ _ hl

/-- Every other core stays as it was. -/
theorem State.hart_modHart_ne (s : State) {h k : Nat} (f : Hart → Hart) (hk : k ≠ h) : (s.modHart h f).hart k = s.hart k :=
  upd_getD_ne _ _ _ hk

/-- A register that was written reads as the value written, cut to 64 bits. -/
theorem Hart.reg_setReg (c : Hart) (r : BitVec 5) (v : Nat) (hr : r ≠ 0) (hl : c.x.length = 32) : (c.setReg r v).reg r = v % 2 ^ 64 := by
  have h : r.toNat < c.x.length := by rw [hl]; exact r.isLt
  unfold Hart.setReg Hart.reg
  rw [if_neg hr, if_neg hr]
  simp [List.getD_eq_getElem?_getD, h]

/-- A write of x0 is discarded. -/
@[simp] theorem Hart.setReg_zero (c : Hart) (v : Nat) : c.setReg 0#5 v = c := by simp [Hart.setReg]

/-- x0 reads 0. -/
@[simp] theorem Hart.reg_zero (c : Hart) : c.reg 0#5 = 0 := by simp [Hart.reg]

/-- Every other register stays as it was. -/
theorem Hart.reg_setReg_ne (c : Hart) {r q : BitVec 5} (v : Nat) (h : q ≠ r) : (c.setReg r v).reg q = c.reg q := by
  have : r.toNat ≠ q.toNat := fun e => h (BitVec.eq_of_toNat_eq e.symm)
  unfold Hart.setReg Hart.reg
  by_cases hr : r = 0
  · simp [hr]
  · rw [if_neg hr]
    simp [List.getD_eq_getElem?_getD, this]

end Machine

end Sys2Proof
end

