-- ==== Sys2Proof/Laws/PerInstr.lean ====
section
/-! SUPPORT. Statements made per step. Family Words: a step that has an encoding is well-formed with every register, and its word carries
a custom major opcode in bits [6:0] (09 R101). -/

namespace Sys2Proof.Laws.Words

open Sys2Proof.Machine

/-- The word of a step that has one lies in the custom-0 to custom-3 opcodes, and the step is well-formed. -/
def Statement (i : Instr) : Prop :=
  ∀ w, encode i = some w → i.wf = true ∧ (fld w.toNat 6 0 = 0x0B ∨ fld w.toNat 6 0 = 0x2B ∨ fld w.toNat 6 0 = 0x5B ∨ fld w.toNat 6 0 = 0x7B)

/-- Bits [6:0] of a form's word are its major opcode. -/
theorem opcode_rType (f7 : BitVec 7) (rs2 rs1 : BitVec 5) (f3 : BitVec 3) (rd : BitVec 5) (opc : BitVec 7) :
    fld (rType f7 rs2 rs1 f3 rd opc).toNat 6 0 = opc.toNat := by
  have e : (rType f7 rs2 rs1 f3 rd opc).toNat =
      opc.toNat + 2 ^ 7 * (rd.toNat + 2 ^ 5 * (f3.toNat + 2 ^ 3 * (rs1.toNat + 2 ^ 5 * (rs2.toNat + 2 ^ 5 * f7.toNat)))) := by
    unfold rType
    simp only [BitVec.toNat_append, Nat.shiftLeft_eq]
    have h0 := opc.isLt; have h1 := rd.isLt; have h2 := f3.isLt; have h3 := rs1.isLt; have h4 := rs2.isLt
    repeat rw [← Nat.shiftLeft_eq, ← Nat.shiftLeft_add_eq_or_of_lt (by assumption)]
    simp only [Nat.shiftLeft_eq]; omega
  have h0 := opc.isLt
  unfold fld; rw [e]; omega

/-- A form with a word of a custom opcode keeps the statement. -/
theorem of_rType {i : Instr} {f7 : BitVec 7} {rs2 rs1 : BitVec 5} {f3 : BitVec 3} {rd : BitVec 5} {opc : BitVec 7} (hw : i.wf = true)
    (he : encode i = some (rType f7 rs2 rs1 f3 rd opc)) (ho : opc = 0x0B ∨ opc = 0x2B ∨ opc = 0x5B ∨ opc = 0x7B) : Statement i := by
  intro w h
  rw [he] at h; injection h with h; subst h
  rw [opcode_rType]
  exact ⟨hw, by rcases ho with rfl | rfl | rfl | rfl <;> simp⟩

theorem selection (e : EltAt) : Statement (.selection e) := fun _ h => nomatch h
theorem beat (e : EltAt) (g : Grit) : Statement (.beat e g) := fun _ h => nomatch h
theorem tokenArrival (a : ArriveFrom) : Statement (.tokenArrival a) := fun _ h => nomatch h
theorem scaleTransferArrival (a : ArriveFrom) : Statement (.scaleTransferArrival a) := fun _ h => nomatch h
theorem windowCreditReturn (slot : Nat) (dst : DestId) : Statement (.windowCreditReturn slot dst) := fun _ h => nomatch h
theorem creditReturn (slot : Nat) (dst : DestId) : Statement (.creditReturn slot dst) := fun _ h => nomatch h
theorem tokenHop (slot col row dir : Nat) : Statement (.tokenHop slot col row dir) := fun _ h => nomatch h
theorem laneDriverInput (i : InAt) : Statement (.laneDriverInput i) := fun _ h => nomatch h
theorem laneTransferArrival (slot : Nat) (l : LaneId) (x y : Nat) : Statement (.laneTransferArrival slot l x y) := fun _ h => nomatch h
theorem ccuEmit (t : TileAt) : Statement (.ccuEmit t) := fun _ h => nomatch h
theorem ccuArm (t : TileAt) : Statement (.ccuArm t) := fun _ h => nomatch h
theorem requestSend (t : TileAt) (chain : Nat) : Statement (.requestSend t chain) := fun _ h => nomatch h
theorem requestPerform (t : TileAt) (chain : Nat) : Statement (.requestPerform t chain) := fun _ h => nomatch h
theorem atomicApply (t : TileAt) (chain : Nat) : Statement (.atomicApply t chain) := fun _ h => nomatch h
theorem remoteAck (t : TileAt) (chain seq : Nat) : Statement (.remoteAck t chain seq) := fun _ h => nomatch h
theorem replyDelivery (t : TileAt) (chain : Nat) : Statement (.replyDelivery t chain) := fun _ h => nomatch h
theorem translationWalk (slot : Nat) (w : WalkFor) : Statement (.translationWalk slot w) := fun _ h => nomatch h
theorem streamDescriptorStart (t : TileAt) (s : Nat) : Statement (.streamDescriptorStart t s) := fun _ h => nomatch h
theorem streamLoadUnit (t : TileAt) (s : Nat) : Statement (.streamLoadUnit t s) := fun _ h => nomatch h
theorem streamStoreUnit (t : TileAt) (s : Nat) : Statement (.streamStoreUnit t s) := fun _ h => nomatch h
theorem streamCompletionToken (t : TileAt) (s : Nat) : Statement (.streamCompletionToken t s) := fun _ h => nomatch h
theorem meBankSwap (t : TileAt) : Statement (.meBankSwap t) := fun _ h => nomatch h
theorem mxDrainWord (t : TileAt) (ctx port : Nat) : Statement (.mxDrainWord t ctx port) := fun _ h => nomatch h
theorem mdrcElementWrite (engine : Nat) : Statement (.mdrcElementWrite engine) := fun _ h => nomatch h
theorem freezeReceipt (slot : Nat) (u : UnitId) : Statement (.freezeReceipt slot u) := fun _ h => nomatch h
theorem frontSettle (slot : Nat) : Statement (.frontSettle slot) := fun _ h => nomatch h
theorem watchdogExpiry (slot : Nat) : Statement (.watchdogExpiry slot) := fun _ h => nomatch h
theorem noProgressReport (slot : Nat) : Statement (.noProgressReport slot) := fun _ h => nomatch h
theorem furrowPass (slot : Nat) (u : UnitId) : Statement (.furrowPass slot u) := fun _ h => nomatch h
theorem tileFlip (slot col row : Nat) : Statement (.tileFlip slot col row) := fun _ h => nomatch h
theorem drainDeadlineExpiry (slot : Nat) : Statement (.drainDeadlineExpiry slot) := fun _ h => nomatch h
theorem regionComplete (slot : Nat) : Statement (.regionComplete slot) := fun _ h => nomatch h
theorem rollback (slot : Nat) : Statement (.rollback slot) := fun _ h => nomatch h
theorem defectMarkPersist (col row : Nat) : Statement (.defectMarkPersist col row) := fun _ h => nomatch h
theorem rgnld (rd rs1 : BitVec 5) : Statement (.rgnld rd rs1) := of_rType rfl rfl (by decide)
theorem rgngo (rd rs1 rs2 : BitVec 5) : Statement (.rgngo rd rs1 rs2) := of_rType rfl rfl (by decide)
theorem rgndrn (rd rs1 rs2 : BitVec 5) : Statement (.rgndrn rd rs1 rs2) := of_rType rfl rfl (by decide)
theorem rgnfrz (rd rs1 : BitVec 5) : Statement (.rgnfrz rd rs1) := of_rType rfl rfl (by decide)
theorem rgnsav (rd rs1 rs2 : BitVec 5) : Statement (.rgnsav rd rs1 rs2) := of_rType rfl rfl (by decide)
theorem rgnrst (rd rs1 rs2 : BitVec 5) : Statement (.rgnrst rd rs1 rs2) := of_rType rfl rfl (by decide)
theorem rgnmov (rd rs1 rs2 : BitVec 5) : Statement (.rgnmov rd rs1 rs2) := of_rType rfl rfl (by decide)
theorem rgnkil (rd rs1 : BitVec 5) : Statement (.rgnkil rd rs1) := of_rType rfl rfl (by decide)
theorem rgnqry (rd rs1 rs2 : BitVec 5) : Statement (.rgnqry rd rs1 rs2) := of_rType rfl rfl (by decide)
theorem rgnslc (rd rs1 rs2 : BitVec 5) : Statement (.rgnslc rd rs1 rs2) := of_rType rfl rfl (by decide)
theorem strmCommand (rd rs1 rs2 : BitVec 5) : Statement (.strmCommand rd rs1 rs2) := of_rType rfl rfl (by decide)
theorem strmb (rd rs1 rs2 : BitVec 5) : Statement (.strmb rd rs1 rs2) := of_rType rfl rfl (by decide)
theorem strmqCommand (rd rs1 rs2 : BitVec 5) : Statement (.strmqCommand rd rs1 rs2) := of_rType rfl rfl (by decide)
theorem sarm (rd rs1 rs2 : BitVec 5) : Statement (.sarm rd rs1 rs2) := of_rType rfl rfl (by decide)
theorem binit (rd rs1 rs2 : BitVec 5) : Statement (.binit rd rs1 rs2) := of_rType rfl rfl (by decide)
theorem barv (rd rs1 rs2 : BitVec 5) : Statement (.barv rd rs1 rs2) := of_rType rfl rfl (by decide)
theorem barvx (rd rs1 rs2 : BitVec 5) : Statement (.barvx rd rs1 rs2) := of_rType rfl rfl (by decide)
theorem bwait (rd rs1 rs2 : BitVec 5) : Statement (.bwait rd rs1 rs2) := of_rType rfl rfl (by decide)
theorem btest (rd rs1 rs2 : BitVec 5) : Statement (.btest rd rs1 rs2) := of_rType rfl rfl (by decide)
theorem tfpsh (rd rs1 rs2 : BitVec 5) : Statement (.tfpsh rd rs1 rs2) := of_rType rfl rfl (by decide)
theorem tfpop (rd rs1 : BitVec 5) : Statement (.tfpop rd rs1) := of_rType rfl rfl (by decide)
theorem tfqry (rd rs1 : BitVec 5) : Statement (.tfqry rd rs1) := of_rType rfl rfl (by decide)
theorem cpy (rd rs1 rs2 : BitVec 5) : Statement (.cpy rd rs1 rs2) := of_rType rfl rfl (by decide)
theorem cpyt (rd rs1 rs2 : BitVec 5) : Statement (.cpyt rd rs1 rs2) := of_rType rfl rfl (by decide)
theorem cpyq (rd rs1 : BitVec 5) : Statement (.cpyq rd rs1) := of_rType rfl rfl (by decide)
theorem coll (rd rs1 rs2 : BitVec 5) : Statement (.coll rd rs1 rs2) := of_rType rfl rfl (by decide)
theorem collq (rd rs1 : BitVec 5) : Statement (.collq rd rs1) := of_rType rfl rfl (by decide)
theorem fencex (rd rs1 : BitVec 5) : Statement (.fencex rd rs1) := of_rType rfl rfl (by decide)
theorem cbinv (rd rs1 rs2 : BitVec 5) : Statement (.cbinv rd rs1 rs2) := of_rType rfl rfl (by decide)
theorem cbsync (rd rs1 : BitVec 5) : Statement (.cbsync rd rs1) := of_rType rfl rfl (by decide)
theorem ctrsel (rd rs1 rs2 : BitVec 5) : Statement (.ctrsel rd rs1 rs2) := of_rType rfl rfl (by decide)
theorem ctrrd (rd rs1 : BitVec 5) : Statement (.ctrrd rd rs1) := of_rType rfl rfl (by decide)
theorem ctrclr (rd rs1 : BitVec 5) : Statement (.ctrclr rd rs1) := of_rType rfl rfl (by decide)
theorem trcon (rd rs1 rs2 : BitVec 5) : Statement (.trcon rd rs1 rs2) := of_rType rfl rfl (by decide)
theorem trcoff (rd rs1 : BitVec 5) : Statement (.trcoff rd rs1) := of_rType rfl rfl (by decide)
theorem dunego (rd rs1 : BitVec 5) : Statement (.dunego rd rs1) := of_rType rfl rfl (by decide)
theorem duneq (rd rs1 : BitVec 5) : Statement (.duneq rd rs1) := of_rType rfl rfl (by decide)
theorem svpol (rd rs1 rs2 : BitVec 5) : Statement (.svpol rd rs1 rs2) := of_rType rfl rfl (by decide)
theorem jrnrd (rd rs1 rs2 : BitVec 5) : Statement (.jrnrd rd rs1 rs2) := of_rType rfl rfl (by decide)
theorem commandIssue (q : QueueId) : Statement (.commandIssue q) := fun _ h => nomatch h
theorem copyUnit (engine : Nat) : Statement (.copyUnit engine) := fun _ h => nomatch h
theorem commandRetire (q : QueueId) : Statement (.commandRetire q) := fun _ h => nomatch h
theorem engineTokenPush (q : QueueId) : Statement (.engineTokenPush q) := fun _ h => nomatch h
theorem barrierCredit (n : Nat) : Statement (.barrierCredit n) := fun _ h => nomatch h
theorem barrierFail (n : Nat) : Statement (.barrierFail n) := fun _ h => nomatch h
theorem barrierNotifyPush (n : Nat) : Statement (.barrierNotifyPush n) := fun _ h => nomatch h
theorem bwaitWake (hart : Nat) : Statement (.bwaitWake hart) := fun _ h => nomatch h
theorem collStartExchange (strip : Nat) (prev next : CollHdr) : Statement (.collStartExchange strip prev next) := fun _ h => nomatch h
theorem collHopUnit (strip seq : Nat) (unit : List Byte) : Statement (.collHopUnit strip seq unit) := fun _ h => nomatch h
theorem collHopAck (strip seq : Nat) : Statement (.collHopAck strip seq) := fun _ h => nomatch h
theorem collHopTimeout (strip : Nat) : Statement (.collHopTimeout strip) := fun _ h => nomatch h
theorem kvStepWrite (strip : Nat) : Statement (.kvStepWrite strip) := fun _ h => nomatch h
theorem dunePageCopy (stream : Nat) : Statement (.dunePageCopy stream) := fun _ h => nomatch h
theorem postcopyDemandPull (stream rec : Nat) (page : PageIn) : Statement (.postcopyDemandPull stream rec page) := fun _ h => nomatch h
theorem postcopyPush (stream : Nat) : Statement (.postcopyPush stream) := fun _ h => nomatch h
theorem pullAttemptTimeout (stream : Nat) : Statement (.pullAttemptTimeout stream) := fun _ h => nomatch h
theorem notify (vcp qmsk : Nat) : Statement (.notify vcp qmsk) := fun _ h => nomatch h
theorem vcpConfigWrite (m : Master) (vcp word : Nat) (value : W64) : Statement (.vcpConfigWrite m vcp word value) := fun _ h => nomatch h
theorem vcpScan : Statement (.vcpScan) := fun _ h => nomatch h
theorem launch : Statement (.launch) := fun _ h => nomatch h
theorem arm : Statement (.arm) := fun _ h => nomatch h
theorem signal : Statement (.signal) := fun _ h => nomatch h
theorem wait : Statement (.wait) := fun _ h => nomatch h
theorem waitComplete (seq : Nat) : Statement (.waitComplete seq) := fun _ h => nomatch h
theorem copy : Statement (.copy) := fun _ h => nomatch h
theorem collPacket : Statement (.collPacket) := fun _ h => nomatch h
theorem migrate : Statement (.migrate) := fun _ h => nomatch h
theorem query : Statement (.query) := fun _ h => nomatch h
theorem cancel : Statement (.cancel) := fun _ h => nomatch h
theorem placementSearch (slot : Nat) : Statement (.placementSearch slot) := fun _ h => nomatch h
theorem emit (slot : Nat) : Statement (.emit slot) := fun _ h => nomatch h
theorem completionEntryWrite (vcp queue : Nat) : Statement (.completionEntryWrite vcp queue) := fun _ h => nomatch h
theorem bedrockFault : Statement (.bedrockFault) := fun _ h => nomatch h
theorem bedrockUpdate (image signature : List Byte) : Statement (.bedrockUpdate image signature) := fun _ h => nomatch h
theorem invalidatePage (hart asid size : Nat) : Statement (.invalidatePage hart asid size) := fun _ h => nomatch h
theorem invalidateAsid (hart asid : Nat) : Statement (.invalidateAsid hart asid) := fun _ h => nomatch h
theorem invalidateAll (hart : Nat) : Statement (.invalidateAll hart) := fun _ h => nomatch h
theorem invalidationComplete : Statement (.invalidationComplete) := fun _ h => nomatch h
theorem rsm (m : Master) (part : Nat) (ticket : W64) : Statement (.rsm m part ticket) := fun _ h => nomatch h
theorem srq (m : Master) (slot : Nat) : Statement (.srq m slot) := fun _ h => nomatch h
theorem resumeStoppedRegion (m : Master) (slot : Nat) : Statement (.resumeStoppedRegion m slot) := fun _ h => nomatch h
theorem debugBlockWrite (m : Master) (slot word : Nat) (value : W64) : Statement (.debugBlockWrite m slot word value) := fun _ h => nomatch h
theorem partitionTableWrite (m : Master) (strip : Nat) (value : W64) : Statement (.partitionTableWrite m strip value) := fun _ h => nomatch h
theorem partitionBlockWrite (m : Master) (first off : Nat) (value : W64) : Statement (.partitionBlockWrite m first off value) := fun _ h => nomatch h
theorem laneGroupControlWrite (m : Master) (group : Nat) (value : W64) : Statement (.laneGroupControlWrite m group value) := fun _ h => nomatch h
theorem registerWrite (m : Master) (r : RegTarget) (value : W64) : Statement (.registerWrite m r value) := fun _ h => nomatch h
theorem laneGroupTrainingDone (group gen peerMod peerGroup own : Nat) : Statement (.laneGroupTrainingDone group gen peerMod peerGroup own) := fun _ h => nomatch h
theorem flitReceive (group : Nat) (flit : FlitIn) (crcOk : Bool) (acked : Nat) (refused : Bool) : Statement (.flitReceive group flit crcOk acked refused) := fun _ h => nomatch h
theorem laneGroupLost (group : Nat) : Statement (.laneGroupLost group) := fun _ h => nomatch h
theorem cxlSnoop (addr : Nat) : Statement (.cxlSnoop addr) := fun _ h => nomatch h
theorem scrubRead (what : ScrubOf) (found : EccResult) : Statement (.scrubRead what found) := fun _ h => nomatch h
theorem scrubWriteback (target : Nat) : Statement (.scrubWriteback target) := fun _ h => nomatch h
theorem hartParityError (hart : Nat) : Statement (.hartParityError hart) := fun _ h => nomatch h
theorem hardpanParityError : Statement (.hardpanParityError) := fun _ h => nomatch h
theorem policyCheck : Statement (.policyCheck) := fun _ h => nomatch h
theorem releaseInstant (tid : Nat) : Statement (.releaseInstant tid) := fun _ h => nomatch h
theorem traceRecordWrite (slot : Nat) : Statement (.traceRecordWrite slot) := fun _ h => nomatch h
theorem throttleEvaluation (pnow tj tcool : Nat) : Statement (.throttleEvaluation pnow tj tcool) := fun _ h => nomatch h
theorem thermalTrip (tj : Nat) : Statement (.thermalTrip tj) := fun _ h => nomatch h
theorem warmReset (m : Master) : Statement (.warmReset m) := fun _ h => nomatch h
theorem coldReset : Statement (.coldReset) := fun _ h => nomatch h
theorem lossOfPower : Statement (.lossOfPower) := fun _ h => nomatch h

end Sys2Proof.Laws.Words
end

