-- ==== Sys2Proof/Laws/State.lean ====
section
/-! SUPPORT. What each named update of the state leaves as it was, one lemma per field. -/

namespace Sys2Proof.Machine

@[simp] theorem State.setRegion_agenda (s : State) (k : Nat) (r : Region) : (s.setRegion k r).agenda = s.agenda := rfl
@[simp] theorem State.setRegion_regOps (s : State) (k : Nat) (r : Region) : (s.setRegion k r).regOps = s.regOps := rfl
@[simp] theorem State.setRegion_cur (s : State) (k : Nat) (r : Region) : (s.setRegion k r).cur = s.cur := rfl
@[simp] theorem State.setRegion_draws (s : State) (k : Nat) (r : Region) : (s.setRegion k r).draws = s.draws := rfl
@[simp] theorem State.setRegion_fc (s : State) (k : Nat) (r : Region) : (s.setRegion k r).fc = s.fc := rfl
@[simp] theorem State.setRegion_ns (s : State) (k : Nat) (r : Region) : (s.setRegion k r).ns = s.ns := rfl
@[simp] theorem State.setRegion_powered (s : State) (k : Nat) (r : Region) : (s.setRegion k r).powered = s.powered := rfl
@[simp] theorem State.setRegion_mgmt (s : State) (k : Nat) (r : Region) : (s.setRegion k r).mgmt = s.mgmt := rfl
@[simp] theorem State.setRegion_flash (s : State) (k : Nat) (r : Region) : (s.setRegion k r).flash = s.flash := rfl
@[simp] theorem State.setRegion_fuseRollback (s : State) (k : Nat) (r : Region) : (s.setRegion k r).fuseRollback = s.fuseRollback := rfl
@[simp] theorem State.setRegion_components (s : State) (k : Nat) (r : Region) : (s.setRegion k r).components = s.components := rfl
@[simp] theorem State.setRegion_strap (s : State) (k : Nat) (r : Region) : (s.setRegion k r).strap = s.strap := rfl
@[simp] theorem State.setRegion_jtag (s : State) (k : Nat) (r : Region) : (s.setRegion k r).jtag = s.jtag := rfl
@[simp] theorem State.setRegion_harts (s : State) (k : Nat) (r : Region) : (s.setRegion k r).harts = s.harts := rfl
@[simp] theorem State.setRegion_mem (s : State) (k : Nat) (r : Region) : (s.setRegion k r).mem = s.mem := rfl
@[simp] theorem State.setRegion_poison (s : State) (k : Nat) (r : Region) : (s.setRegion k r).poison = s.poison := rfl
@[simp] theorem State.setRegion_ilhus (s : State) (k : Nat) (r : Region) : (s.setRegion k r).ilhus = s.ilhus := rfl
@[simp] theorem State.setRegion_xlat (s : State) (k : Nat) (r : Region) : (s.setRegion k r).xlat = s.xlat := rfl
@[simp] theorem State.setRegion_tcache (s : State) (k : Nat) (r : Region) : (s.setRegion k r).tcache = s.tcache := rfl
@[simp] theorem State.setRegion_access (s : State) (k : Nat) (r : Region) : (s.setRegion k r).access = s.access := rfl
@[simp] theorem State.setRegion_partTab (s : State) (k : Nat) (r : Region) : (s.setRegion k r).partTab = s.partTab := rfl
@[simp] theorem State.setRegion_partBlk (s : State) (k : Nat) (r : Region) : (s.setRegion k r).partBlk = s.partBlk := rfl
@[simp] theorem State.setRegion_groups (s : State) (k : Nat) (r : Region) : (s.setRegion k r).groups = s.groups := rfl
@[simp] theorem State.setRegion_routes (s : State) (k : Nat) (r : Region) : (s.setRegion k r).routes = s.routes := rfl
@[simp] theorem State.setRegion_slices (s : State) (k : Nat) (r : Region) : (s.setRegion k r).slices = s.slices := rfl
@[simp] theorem State.setRegion_msix (s : State) (k : Nat) (r : Region) : (s.setRegion k r).msix = s.msix := rfl
@[simp] theorem State.setRegion_resv (s : State) (k : Nat) (r : Region) : (s.setRegion k r).resv = s.resv := rfl
@[simp] theorem State.setRegion_far (s : State) (k : Nat) (r : Region) : (s.setRegion k r).far = s.far := rfl
@[simp] theorem State.setRegion_faultRegs (s : State) (k : Nat) (r : Region) : (s.setRegion k r).faultRegs = s.faultRegs := rfl
@[simp] theorem State.setRegion_scrubs (s : State) (k : Nat) (r : Region) : (s.setRegion k r).scrubs = s.scrubs := rfl
@[simp] theorem State.setRegion_debug (s : State) (k : Nat) (r : Region) : (s.setRegion k r).debug = s.debug := rfl
@[simp] theorem State.setRegion_defects (s : State) (k : Nat) (r : Region) : (s.setRegion k r).defects = s.defects := rfl
@[simp] theorem State.setRegion_pointers (s : State) (k : Nat) (r : Region) : (s.setRegion k r).pointers = s.pointers := rfl
@[simp] theorem State.setRegion_vcps (s : State) (k : Nat) (r : Region) : (s.setRegion k r).vcps = s.vcps := rfl
@[simp] theorem State.setRegion_service (s : State) (k : Nat) (r : Region) : (s.setRegion k r).service = s.service := rfl
@[simp] theorem State.setRegion_pipe (s : State) (k : Nat) (r : Region) : (s.setRegion k r).pipe = s.pipe := rfl
@[simp] theorem State.setRegion_accepts (s : State) (k : Nat) (r : Region) : (s.setRegion k r).accepts = s.accepts := rfl
@[simp] theorem State.setRegion_launches (s : State) (k : Nat) (r : Region) : (s.setRegion k r).launches = s.launches := rfl
@[simp] theorem State.setRegion_bedrock (s : State) (k : Nat) (r : Region) : (s.setRegion k r).bedrock = s.bedrock := rfl
@[simp] theorem State.setRegion_journals (s : State) (k : Nat) (r : Region) : (s.setRegion k r).journals = s.journals := rfl
@[simp] theorem State.setRegion_gens (s : State) (k : Nat) (r : Region) : (s.setRegion k r).gens = s.gens := rfl
@[simp] theorem State.setRegion_copies (s : State) (k : Nat) (r : Region) : (s.setRegion k r).copies = s.copies := rfl
@[simp] theorem State.setRegion_colls (s : State) (k : Nat) (r : Region) : (s.setRegion k r).colls = s.colls := rfl
@[simp] theorem State.setRegion_dune (s : State) (k : Nat) (r : Region) : (s.setRegion k r).dune = s.dune := rfl
@[simp] theorem State.setRegion_credits (s : State) (k : Nat) (r : Region) : (s.setRegion k r).credits = s.credits := rfl
@[simp] theorem State.setRegion_fails (s : State) (k : Nat) (r : Region) : (s.setRegion k r).fails = s.fails := rfl
@[simp] theorem State.setRegion_notifies (s : State) (k : Nat) (r : Region) : (s.setRegion k r).notifies = s.notifies := rfl
@[simp] theorem State.setRegion_pushes (s : State) (k : Nat) (r : Region) : (s.setRegion k r).pushes = s.pushes := rfl
@[simp] theorem State.setRegion_cbcache (s : State) (k : Nat) (r : Region) : (s.setRegion k r).cbcache = s.cbcache := rfl
@[simp] theorem State.setRegion_banks (s : State) (k : Nat) (r : Region) : (s.setRegion k r).banks = s.banks := rfl
@[simp] theorem State.setRegion_traces (s : State) (k : Nat) (r : Region) : (s.setRegion k r).traces = s.traces := rfl
@[simp] theorem State.setRegion_policies (s : State) (k : Nat) (r : Region) : (s.setRegion k r).policies = s.policies := rfl
@[simp] theorem State.setRegion_polWait (s : State) (k : Nat) (r : Region) : (s.setRegion k r).polWait = s.polWait := rfl
@[simp] theorem State.setRegion_lastNs (s : State) (k : Nat) (r : Region) : (s.setRegion k r).lastNs = s.lastNs := rfl
@[simp] theorem State.setRegion_sliceLens (s : State) (k : Nat) (r : Region) : (s.setRegion k r).sliceLens = s.sliceLens := rfl
@[simp] theorem State.setRegion_jobEnds (s : State) (k : Nat) (r : Region) : (s.setRegion k r).jobEnds = s.jobEnds := rfl
@[simp] theorem State.setRegion_orphans (s : State) (k : Nat) (r : Region) : (s.setRegion k r).orphans = s.orphans := rfl

@[simp] theorem State.modHart_agenda (s : State) (h : Nat) (f : Hart → Hart) : (s.modHart h f).agenda = s.agenda := rfl
@[simp] theorem State.modHart_regOps (s : State) (h : Nat) (f : Hart → Hart) : (s.modHart h f).regOps = s.regOps := rfl
@[simp] theorem State.modHart_cur (s : State) (h : Nat) (f : Hart → Hart) : (s.modHart h f).cur = s.cur := rfl
@[simp] theorem State.modHart_draws (s : State) (h : Nat) (f : Hart → Hart) : (s.modHart h f).draws = s.draws := rfl
@[simp] theorem State.modHart_fc (s : State) (h : Nat) (f : Hart → Hart) : (s.modHart h f).fc = s.fc := rfl
@[simp] theorem State.modHart_ns (s : State) (h : Nat) (f : Hart → Hart) : (s.modHart h f).ns = s.ns := rfl
@[simp] theorem State.modHart_powered (s : State) (h : Nat) (f : Hart → Hart) : (s.modHart h f).powered = s.powered := rfl
@[simp] theorem State.modHart_mgmt (s : State) (h : Nat) (f : Hart → Hart) : (s.modHart h f).mgmt = s.mgmt := rfl
@[simp] theorem State.modHart_flash (s : State) (h : Nat) (f : Hart → Hart) : (s.modHart h f).flash = s.flash := rfl
@[simp] theorem State.modHart_fuseRollback (s : State) (h : Nat) (f : Hart → Hart) : (s.modHart h f).fuseRollback = s.fuseRollback := rfl
@[simp] theorem State.modHart_components (s : State) (h : Nat) (f : Hart → Hart) : (s.modHart h f).components = s.components := rfl
@[simp] theorem State.modHart_strap (s : State) (h : Nat) (f : Hart → Hart) : (s.modHart h f).strap = s.strap := rfl
@[simp] theorem State.modHart_jtag (s : State) (h : Nat) (f : Hart → Hart) : (s.modHart h f).jtag = s.jtag := rfl
@[simp] theorem State.modHart_mem (s : State) (h : Nat) (f : Hart → Hart) : (s.modHart h f).mem = s.mem := rfl
@[simp] theorem State.modHart_poison (s : State) (h : Nat) (f : Hart → Hart) : (s.modHart h f).poison = s.poison := rfl
@[simp] theorem State.modHart_ilhus (s : State) (h : Nat) (f : Hart → Hart) : (s.modHart h f).ilhus = s.ilhus := rfl
@[simp] theorem State.modHart_xlat (s : State) (h : Nat) (f : Hart → Hart) : (s.modHart h f).xlat = s.xlat := rfl
@[simp] theorem State.modHart_tcache (s : State) (h : Nat) (f : Hart → Hart) : (s.modHart h f).tcache = s.tcache := rfl
@[simp] theorem State.modHart_access (s : State) (h : Nat) (f : Hart → Hart) : (s.modHart h f).access = s.access := rfl
@[simp] theorem State.modHart_partTab (s : State) (h : Nat) (f : Hart → Hart) : (s.modHart h f).partTab = s.partTab := rfl
@[simp] theorem State.modHart_partBlk (s : State) (h : Nat) (f : Hart → Hart) : (s.modHart h f).partBlk = s.partBlk := rfl
@[simp] theorem State.modHart_groups (s : State) (h : Nat) (f : Hart → Hart) : (s.modHart h f).groups = s.groups := rfl
@[simp] theorem State.modHart_routes (s : State) (h : Nat) (f : Hart → Hart) : (s.modHart h f).routes = s.routes := rfl
@[simp] theorem State.modHart_slices (s : State) (h : Nat) (f : Hart → Hart) : (s.modHart h f).slices = s.slices := rfl
@[simp] theorem State.modHart_msix (s : State) (h : Nat) (f : Hart → Hart) : (s.modHart h f).msix = s.msix := rfl
@[simp] theorem State.modHart_resv (s : State) (h : Nat) (f : Hart → Hart) : (s.modHart h f).resv = s.resv := rfl
@[simp] theorem State.modHart_far (s : State) (h : Nat) (f : Hart → Hart) : (s.modHart h f).far = s.far := rfl
@[simp] theorem State.modHart_faultRegs (s : State) (h : Nat) (f : Hart → Hart) : (s.modHart h f).faultRegs = s.faultRegs := rfl
@[simp] theorem State.modHart_scrubs (s : State) (h : Nat) (f : Hart → Hart) : (s.modHart h f).scrubs = s.scrubs := rfl
@[simp] theorem State.modHart_debug (s : State) (h : Nat) (f : Hart → Hart) : (s.modHart h f).debug = s.debug := rfl
@[simp] theorem State.modHart_defects (s : State) (h : Nat) (f : Hart → Hart) : (s.modHart h f).defects = s.defects := rfl
@[simp] theorem State.modHart_pointers (s : State) (h : Nat) (f : Hart → Hart) : (s.modHart h f).pointers = s.pointers := rfl
@[simp] theorem State.modHart_vcps (s : State) (h : Nat) (f : Hart → Hart) : (s.modHart h f).vcps = s.vcps := rfl
@[simp] theorem State.modHart_service (s : State) (h : Nat) (f : Hart → Hart) : (s.modHart h f).service = s.service := rfl
@[simp] theorem State.modHart_pipe (s : State) (h : Nat) (f : Hart → Hart) : (s.modHart h f).pipe = s.pipe := rfl
@[simp] theorem State.modHart_accepts (s : State) (h : Nat) (f : Hart → Hart) : (s.modHart h f).accepts = s.accepts := rfl
@[simp] theorem State.modHart_launches (s : State) (h : Nat) (f : Hart → Hart) : (s.modHart h f).launches = s.launches := rfl
@[simp] theorem State.modHart_bedrock (s : State) (h : Nat) (f : Hart → Hart) : (s.modHart h f).bedrock = s.bedrock := rfl
@[simp] theorem State.modHart_journals (s : State) (h : Nat) (f : Hart → Hart) : (s.modHart h f).journals = s.journals := rfl
@[simp] theorem State.modHart_regions (s : State) (h : Nat) (f : Hart → Hart) : (s.modHart h f).regions = s.regions := rfl
@[simp] theorem State.modHart_gens (s : State) (h : Nat) (f : Hart → Hart) : (s.modHart h f).gens = s.gens := rfl
@[simp] theorem State.modHart_copies (s : State) (h : Nat) (f : Hart → Hart) : (s.modHart h f).copies = s.copies := rfl
@[simp] theorem State.modHart_colls (s : State) (h : Nat) (f : Hart → Hart) : (s.modHart h f).colls = s.colls := rfl
@[simp] theorem State.modHart_dune (s : State) (h : Nat) (f : Hart → Hart) : (s.modHart h f).dune = s.dune := rfl
@[simp] theorem State.modHart_credits (s : State) (h : Nat) (f : Hart → Hart) : (s.modHart h f).credits = s.credits := rfl
@[simp] theorem State.modHart_fails (s : State) (h : Nat) (f : Hart → Hart) : (s.modHart h f).fails = s.fails := rfl
@[simp] theorem State.modHart_notifies (s : State) (h : Nat) (f : Hart → Hart) : (s.modHart h f).notifies = s.notifies := rfl
@[simp] theorem State.modHart_pushes (s : State) (h : Nat) (f : Hart → Hart) : (s.modHart h f).pushes = s.pushes := rfl
@[simp] theorem State.modHart_cbcache (s : State) (h : Nat) (f : Hart → Hart) : (s.modHart h f).cbcache = s.cbcache := rfl
@[simp] theorem State.modHart_banks (s : State) (h : Nat) (f : Hart → Hart) : (s.modHart h f).banks = s.banks := rfl
@[simp] theorem State.modHart_traces (s : State) (h : Nat) (f : Hart → Hart) : (s.modHart h f).traces = s.traces := rfl
@[simp] theorem State.modHart_policies (s : State) (h : Nat) (f : Hart → Hart) : (s.modHart h f).policies = s.policies := rfl
@[simp] theorem State.modHart_polWait (s : State) (h : Nat) (f : Hart → Hart) : (s.modHart h f).polWait = s.polWait := rfl
@[simp] theorem State.modHart_lastNs (s : State) (h : Nat) (f : Hart → Hart) : (s.modHart h f).lastNs = s.lastNs := rfl
@[simp] theorem State.modHart_sliceLens (s : State) (h : Nat) (f : Hart → Hart) : (s.modHart h f).sliceLens = s.sliceLens := rfl
@[simp] theorem State.modHart_jobEnds (s : State) (h : Nat) (f : Hart → Hart) : (s.modHart h f).jobEnds = s.jobEnds := rfl
@[simp] theorem State.modHart_orphans (s : State) (h : Nat) (f : Hart → Hart) : (s.modHart h f).orphans = s.orphans := rfl

@[simp] theorem State.retireAt_agenda (s : State) (h : Nat) (rd : BitVec 5) (v : Nat) : (s.retireAt h rd v).agenda = s.agenda := rfl
@[simp] theorem State.retireAt_regOps (s : State) (h : Nat) (rd : BitVec 5) (v : Nat) : (s.retireAt h rd v).regOps = s.regOps := rfl
@[simp] theorem State.retireAt_cur (s : State) (h : Nat) (rd : BitVec 5) (v : Nat) : (s.retireAt h rd v).cur = s.cur := rfl
@[simp] theorem State.retireAt_draws (s : State) (h : Nat) (rd : BitVec 5) (v : Nat) : (s.retireAt h rd v).draws = s.draws := rfl
@[simp] theorem State.retireAt_fc (s : State) (h : Nat) (rd : BitVec 5) (v : Nat) : (s.retireAt h rd v).fc = s.fc := rfl
@[simp] theorem State.retireAt_ns (s : State) (h : Nat) (rd : BitVec 5) (v : Nat) : (s.retireAt h rd v).ns = s.ns := rfl
@[simp] theorem State.retireAt_powered (s : State) (h : Nat) (rd : BitVec 5) (v : Nat) : (s.retireAt h rd v).powered = s.powered := rfl
@[simp] theorem State.retireAt_mgmt (s : State) (h : Nat) (rd : BitVec 5) (v : Nat) : (s.retireAt h rd v).mgmt = s.mgmt := rfl
@[simp] theorem State.retireAt_flash (s : State) (h : Nat) (rd : BitVec 5) (v : Nat) : (s.retireAt h rd v).flash = s.flash := rfl
@[simp] theorem State.retireAt_fuseRollback (s : State) (h : Nat) (rd : BitVec 5) (v : Nat) : (s.retireAt h rd v).fuseRollback = s.fuseRollback := rfl
@[simp] theorem State.retireAt_components (s : State) (h : Nat) (rd : BitVec 5) (v : Nat) : (s.retireAt h rd v).components = s.components := rfl
@[simp] theorem State.retireAt_strap (s : State) (h : Nat) (rd : BitVec 5) (v : Nat) : (s.retireAt h rd v).strap = s.strap := rfl
@[simp] theorem State.retireAt_jtag (s : State) (h : Nat) (rd : BitVec 5) (v : Nat) : (s.retireAt h rd v).jtag = s.jtag := rfl
@[simp] theorem State.retireAt_mem (s : State) (h : Nat) (rd : BitVec 5) (v : Nat) : (s.retireAt h rd v).mem = s.mem := rfl
@[simp] theorem State.retireAt_poison (s : State) (h : Nat) (rd : BitVec 5) (v : Nat) : (s.retireAt h rd v).poison = s.poison := rfl
@[simp] theorem State.retireAt_ilhus (s : State) (h : Nat) (rd : BitVec 5) (v : Nat) : (s.retireAt h rd v).ilhus = s.ilhus := rfl
@[simp] theorem State.retireAt_xlat (s : State) (h : Nat) (rd : BitVec 5) (v : Nat) : (s.retireAt h rd v).xlat = s.xlat := rfl
@[simp] theorem State.retireAt_tcache (s : State) (h : Nat) (rd : BitVec 5) (v : Nat) : (s.retireAt h rd v).tcache = s.tcache := rfl
@[simp] theorem State.retireAt_access (s : State) (h : Nat) (rd : BitVec 5) (v : Nat) : (s.retireAt h rd v).access = s.access := rfl
@[simp] theorem State.retireAt_partTab (s : State) (h : Nat) (rd : BitVec 5) (v : Nat) : (s.retireAt h rd v).partTab = s.partTab := rfl
@[simp] theorem State.retireAt_partBlk (s : State) (h : Nat) (rd : BitVec 5) (v : Nat) : (s.retireAt h rd v).partBlk = s.partBlk := rfl
@[simp] theorem State.retireAt_groups (s : State) (h : Nat) (rd : BitVec 5) (v : Nat) : (s.retireAt h rd v).groups = s.groups := rfl
@[simp] theorem State.retireAt_routes (s : State) (h : Nat) (rd : BitVec 5) (v : Nat) : (s.retireAt h rd v).routes = s.routes := rfl
@[simp] theorem State.retireAt_slices (s : State) (h : Nat) (rd : BitVec 5) (v : Nat) : (s.retireAt h rd v).slices = s.slices := rfl
@[simp] theorem State.retireAt_msix (s : State) (h : Nat) (rd : BitVec 5) (v : Nat) : (s.retireAt h rd v).msix = s.msix := rfl
@[simp] theorem State.retireAt_resv (s : State) (h : Nat) (rd : BitVec 5) (v : Nat) : (s.retireAt h rd v).resv = s.resv := rfl
@[simp] theorem State.retireAt_far (s : State) (h : Nat) (rd : BitVec 5) (v : Nat) : (s.retireAt h rd v).far = s.far := rfl
@[simp] theorem State.retireAt_faultRegs (s : State) (h : Nat) (rd : BitVec 5) (v : Nat) : (s.retireAt h rd v).faultRegs = s.faultRegs := rfl
@[simp] theorem State.retireAt_scrubs (s : State) (h : Nat) (rd : BitVec 5) (v : Nat) : (s.retireAt h rd v).scrubs = s.scrubs := rfl
@[simp] theorem State.retireAt_debug (s : State) (h : Nat) (rd : BitVec 5) (v : Nat) : (s.retireAt h rd v).debug = s.debug := rfl
@[simp] theorem State.retireAt_defects (s : State) (h : Nat) (rd : BitVec 5) (v : Nat) : (s.retireAt h rd v).defects = s.defects := rfl
@[simp] theorem State.retireAt_pointers (s : State) (h : Nat) (rd : BitVec 5) (v : Nat) : (s.retireAt h rd v).pointers = s.pointers := rfl
@[simp] theorem State.retireAt_vcps (s : State) (h : Nat) (rd : BitVec 5) (v : Nat) : (s.retireAt h rd v).vcps = s.vcps := rfl
@[simp] theorem State.retireAt_service (s : State) (h : Nat) (rd : BitVec 5) (v : Nat) : (s.retireAt h rd v).service = s.service := rfl
@[simp] theorem State.retireAt_pipe (s : State) (h : Nat) (rd : BitVec 5) (v : Nat) : (s.retireAt h rd v).pipe = s.pipe := rfl
@[simp] theorem State.retireAt_accepts (s : State) (h : Nat) (rd : BitVec 5) (v : Nat) : (s.retireAt h rd v).accepts = s.accepts := rfl
@[simp] theorem State.retireAt_launches (s : State) (h : Nat) (rd : BitVec 5) (v : Nat) : (s.retireAt h rd v).launches = s.launches := rfl
@[simp] theorem State.retireAt_bedrock (s : State) (h : Nat) (rd : BitVec 5) (v : Nat) : (s.retireAt h rd v).bedrock = s.bedrock := rfl
@[simp] theorem State.retireAt_journals (s : State) (h : Nat) (rd : BitVec 5) (v : Nat) : (s.retireAt h rd v).journals = s.journals := rfl
@[simp] theorem State.retireAt_regions (s : State) (h : Nat) (rd : BitVec 5) (v : Nat) : (s.retireAt h rd v).regions = s.regions := rfl
@[simp] theorem State.retireAt_gens (s : State) (h : Nat) (rd : BitVec 5) (v : Nat) : (s.retireAt h rd v).gens = s.gens := rfl
@[simp] theorem State.retireAt_copies (s : State) (h : Nat) (rd : BitVec 5) (v : Nat) : (s.retireAt h rd v).copies = s.copies := rfl
@[simp] theorem State.retireAt_colls (s : State) (h : Nat) (rd : BitVec 5) (v : Nat) : (s.retireAt h rd v).colls = s.colls := rfl
@[simp] theorem State.retireAt_dune (s : State) (h : Nat) (rd : BitVec 5) (v : Nat) : (s.retireAt h rd v).dune = s.dune := rfl
@[simp] theorem State.retireAt_credits (s : State) (h : Nat) (rd : BitVec 5) (v : Nat) : (s.retireAt h rd v).credits = s.credits := rfl
@[simp] theorem State.retireAt_fails (s : State) (h : Nat) (rd : BitVec 5) (v : Nat) : (s.retireAt h rd v).fails = s.fails := rfl
@[simp] theorem State.retireAt_notifies (s : State) (h : Nat) (rd : BitVec 5) (v : Nat) : (s.retireAt h rd v).notifies = s.notifies := rfl
@[simp] theorem State.retireAt_pushes (s : State) (h : Nat) (rd : BitVec 5) (v : Nat) : (s.retireAt h rd v).pushes = s.pushes := rfl
@[simp] theorem State.retireAt_cbcache (s : State) (h : Nat) (rd : BitVec 5) (v : Nat) : (s.retireAt h rd v).cbcache = s.cbcache := rfl
@[simp] theorem State.retireAt_banks (s : State) (h : Nat) (rd : BitVec 5) (v : Nat) : (s.retireAt h rd v).banks = s.banks := rfl
@[simp] theorem State.retireAt_traces (s : State) (h : Nat) (rd : BitVec 5) (v : Nat) : (s.retireAt h rd v).traces = s.traces := rfl
@[simp] theorem State.retireAt_policies (s : State) (h : Nat) (rd : BitVec 5) (v : Nat) : (s.retireAt h rd v).policies = s.policies := rfl
@[simp] theorem State.retireAt_polWait (s : State) (h : Nat) (rd : BitVec 5) (v : Nat) : (s.retireAt h rd v).polWait = s.polWait := rfl
@[simp] theorem State.retireAt_lastNs (s : State) (h : Nat) (rd : BitVec 5) (v : Nat) : (s.retireAt h rd v).lastNs = s.lastNs := rfl
@[simp] theorem State.retireAt_sliceLens (s : State) (h : Nat) (rd : BitVec 5) (v : Nat) : (s.retireAt h rd v).sliceLens = s.sliceLens := rfl
@[simp] theorem State.retireAt_jobEnds (s : State) (h : Nat) (rd : BitVec 5) (v : Nat) : (s.retireAt h rd v).jobEnds = s.jobEnds := rfl
@[simp] theorem State.retireAt_orphans (s : State) (h : Nat) (rd : BitVec 5) (v : Nat) : (s.retireAt h rd v).orphans = s.orphans := rfl

@[simp] theorem State.retire_agenda (s : State) (rd : BitVec 5) (v : Nat) : (s.retire rd v).agenda = s.agenda := rfl
@[simp] theorem State.retire_regOps (s : State) (rd : BitVec 5) (v : Nat) : (s.retire rd v).regOps = s.regOps := rfl
@[simp] theorem State.retire_cur (s : State) (rd : BitVec 5) (v : Nat) : (s.retire rd v).cur = s.cur := rfl
@[simp] theorem State.retire_draws (s : State) (rd : BitVec 5) (v : Nat) : (s.retire rd v).draws = s.draws := rfl
@[simp] theorem State.retire_fc (s : State) (rd : BitVec 5) (v : Nat) : (s.retire rd v).fc = s.fc := rfl
@[simp] theorem State.retire_ns (s : State) (rd : BitVec 5) (v : Nat) : (s.retire rd v).ns = s.ns := rfl
@[simp] theorem State.retire_powered (s : State) (rd : BitVec 5) (v : Nat) : (s.retire rd v).powered = s.powered := rfl
@[simp] theorem State.retire_mgmt (s : State) (rd : BitVec 5) (v : Nat) : (s.retire rd v).mgmt = s.mgmt := rfl
@[simp] theorem State.retire_flash (s : State) (rd : BitVec 5) (v : Nat) : (s.retire rd v).flash = s.flash := rfl
@[simp] theorem State.retire_fuseRollback (s : State) (rd : BitVec 5) (v : Nat) : (s.retire rd v).fuseRollback = s.fuseRollback := rfl
@[simp] theorem State.retire_components (s : State) (rd : BitVec 5) (v : Nat) : (s.retire rd v).components = s.components := rfl
@[simp] theorem State.retire_strap (s : State) (rd : BitVec 5) (v : Nat) : (s.retire rd v).strap = s.strap := rfl
@[simp] theorem State.retire_jtag (s : State) (rd : BitVec 5) (v : Nat) : (s.retire rd v).jtag = s.jtag := rfl
@[simp] theorem State.retire_mem (s : State) (rd : BitVec 5) (v : Nat) : (s.retire rd v).mem = s.mem := rfl
@[simp] theorem State.retire_poison (s : State) (rd : BitVec 5) (v : Nat) : (s.retire rd v).poison = s.poison := rfl
@[simp] theorem State.retire_ilhus (s : State) (rd : BitVec 5) (v : Nat) : (s.retire rd v).ilhus = s.ilhus := rfl
@[simp] theorem State.retire_xlat (s : State) (rd : BitVec 5) (v : Nat) : (s.retire rd v).xlat = s.xlat := rfl
@[simp] theorem State.retire_tcache (s : State) (rd : BitVec 5) (v : Nat) : (s.retire rd v).tcache = s.tcache := rfl
@[simp] theorem State.retire_access (s : State) (rd : BitVec 5) (v : Nat) : (s.retire rd v).access = s.access := rfl
@[simp] theorem State.retire_partTab (s : State) (rd : BitVec 5) (v : Nat) : (s.retire rd v).partTab = s.partTab := rfl
@[simp] theorem State.retire_partBlk (s : State) (rd : BitVec 5) (v : Nat) : (s.retire rd v).partBlk = s.partBlk := rfl
@[simp] theorem State.retire_groups (s : State) (rd : BitVec 5) (v : Nat) : (s.retire rd v).groups = s.groups := rfl
@[simp] theorem State.retire_routes (s : State) (rd : BitVec 5) (v : Nat) : (s.retire rd v).routes = s.routes := rfl
@[simp] theorem State.retire_slices (s : State) (rd : BitVec 5) (v : Nat) : (s.retire rd v).slices = s.slices := rfl
@[simp] theorem State.retire_msix (s : State) (rd : BitVec 5) (v : Nat) : (s.retire rd v).msix = s.msix := rfl
@[simp] theorem State.retire_resv (s : State) (rd : BitVec 5) (v : Nat) : (s.retire rd v).resv = s.resv := rfl
@[simp] theorem State.retire_far (s : State) (rd : BitVec 5) (v : Nat) : (s.retire rd v).far = s.far := rfl
@[simp] theorem State.retire_faultRegs (s : State) (rd : BitVec 5) (v : Nat) : (s.retire rd v).faultRegs = s.faultRegs := rfl
@[simp] theorem State.retire_scrubs (s : State) (rd : BitVec 5) (v : Nat) : (s.retire rd v).scrubs = s.scrubs := rfl
@[simp] theorem State.retire_debug (s : State) (rd : BitVec 5) (v : Nat) : (s.retire rd v).debug = s.debug := rfl
@[simp] theorem State.retire_defects (s : State) (rd : BitVec 5) (v : Nat) : (s.retire rd v).defects = s.defects := rfl
@[simp] theorem State.retire_pointers (s : State) (rd : BitVec 5) (v : Nat) : (s.retire rd v).pointers = s.pointers := rfl
@[simp] theorem State.retire_vcps (s : State) (rd : BitVec 5) (v : Nat) : (s.retire rd v).vcps = s.vcps := rfl
@[simp] theorem State.retire_service (s : State) (rd : BitVec 5) (v : Nat) : (s.retire rd v).service = s.service := rfl
@[simp] theorem State.retire_pipe (s : State) (rd : BitVec 5) (v : Nat) : (s.retire rd v).pipe = s.pipe := rfl
@[simp] theorem State.retire_accepts (s : State) (rd : BitVec 5) (v : Nat) : (s.retire rd v).accepts = s.accepts := rfl
@[simp] theorem State.retire_launches (s : State) (rd : BitVec 5) (v : Nat) : (s.retire rd v).launches = s.launches := rfl
@[simp] theorem State.retire_bedrock (s : State) (rd : BitVec 5) (v : Nat) : (s.retire rd v).bedrock = s.bedrock := rfl
@[simp] theorem State.retire_journals (s : State) (rd : BitVec 5) (v : Nat) : (s.retire rd v).journals = s.journals := rfl
@[simp] theorem State.retire_regions (s : State) (rd : BitVec 5) (v : Nat) : (s.retire rd v).regions = s.regions := rfl
@[simp] theorem State.retire_gens (s : State) (rd : BitVec 5) (v : Nat) : (s.retire rd v).gens = s.gens := rfl
@[simp] theorem State.retire_copies (s : State) (rd : BitVec 5) (v : Nat) : (s.retire rd v).copies = s.copies := rfl
@[simp] theorem State.retire_colls (s : State) (rd : BitVec 5) (v : Nat) : (s.retire rd v).colls = s.colls := rfl
@[simp] theorem State.retire_dune (s : State) (rd : BitVec 5) (v : Nat) : (s.retire rd v).dune = s.dune := rfl
@[simp] theorem State.retire_credits (s : State) (rd : BitVec 5) (v : Nat) : (s.retire rd v).credits = s.credits := rfl
@[simp] theorem State.retire_fails (s : State) (rd : BitVec 5) (v : Nat) : (s.retire rd v).fails = s.fails := rfl
@[simp] theorem State.retire_notifies (s : State) (rd : BitVec 5) (v : Nat) : (s.retire rd v).notifies = s.notifies := rfl
@[simp] theorem State.retire_pushes (s : State) (rd : BitVec 5) (v : Nat) : (s.retire rd v).pushes = s.pushes := rfl
@[simp] theorem State.retire_cbcache (s : State) (rd : BitVec 5) (v : Nat) : (s.retire rd v).cbcache = s.cbcache := rfl
@[simp] theorem State.retire_banks (s : State) (rd : BitVec 5) (v : Nat) : (s.retire rd v).banks = s.banks := rfl
@[simp] theorem State.retire_traces (s : State) (rd : BitVec 5) (v : Nat) : (s.retire rd v).traces = s.traces := rfl
@[simp] theorem State.retire_policies (s : State) (rd : BitVec 5) (v : Nat) : (s.retire rd v).policies = s.policies := rfl
@[simp] theorem State.retire_polWait (s : State) (rd : BitVec 5) (v : Nat) : (s.retire rd v).polWait = s.polWait := rfl
@[simp] theorem State.retire_lastNs (s : State) (rd : BitVec 5) (v : Nat) : (s.retire rd v).lastNs = s.lastNs := rfl
@[simp] theorem State.retire_sliceLens (s : State) (rd : BitVec 5) (v : Nat) : (s.retire rd v).sliceLens = s.sliceLens := rfl
@[simp] theorem State.retire_jobEnds (s : State) (rd : BitVec 5) (v : Nat) : (s.retire rd v).jobEnds = s.jobEnds := rfl
@[simp] theorem State.retire_orphans (s : State) (rd : BitVec 5) (v : Nat) : (s.retire rd v).orphans = s.orphans := rfl

@[simp] theorem State.trap_agenda (s : State) (e : Exc) : (s.trap e).agenda = s.agenda := rfl
@[simp] theorem State.trap_regOps (s : State) (e : Exc) : (s.trap e).regOps = s.regOps := rfl
@[simp] theorem State.trap_cur (s : State) (e : Exc) : (s.trap e).cur = s.cur := rfl
@[simp] theorem State.trap_draws (s : State) (e : Exc) : (s.trap e).draws = s.draws := rfl
@[simp] theorem State.trap_fc (s : State) (e : Exc) : (s.trap e).fc = s.fc := rfl
@[simp] theorem State.trap_ns (s : State) (e : Exc) : (s.trap e).ns = s.ns := rfl
@[simp] theorem State.trap_powered (s : State) (e : Exc) : (s.trap e).powered = s.powered := rfl
@[simp] theorem State.trap_mgmt (s : State) (e : Exc) : (s.trap e).mgmt = s.mgmt := rfl
@[simp] theorem State.trap_flash (s : State) (e : Exc) : (s.trap e).flash = s.flash := rfl
@[simp] theorem State.trap_fuseRollback (s : State) (e : Exc) : (s.trap e).fuseRollback = s.fuseRollback := rfl
@[simp] theorem State.trap_components (s : State) (e : Exc) : (s.trap e).components = s.components := rfl
@[simp] theorem State.trap_strap (s : State) (e : Exc) : (s.trap e).strap = s.strap := rfl
@[simp] theorem State.trap_jtag (s : State) (e : Exc) : (s.trap e).jtag = s.jtag := rfl
@[simp] theorem State.trap_mem (s : State) (e : Exc) : (s.trap e).mem = s.mem := rfl
@[simp] theorem State.trap_poison (s : State) (e : Exc) : (s.trap e).poison = s.poison := rfl
@[simp] theorem State.trap_ilhus (s : State) (e : Exc) : (s.trap e).ilhus = s.ilhus := rfl
@[simp] theorem State.trap_xlat (s : State) (e : Exc) : (s.trap e).xlat = s.xlat := rfl
@[simp] theorem State.trap_tcache (s : State) (e : Exc) : (s.trap e).tcache = s.tcache := rfl
@[simp] theorem State.trap_access (s : State) (e : Exc) : (s.trap e).access = s.access := rfl
@[simp] theorem State.trap_partTab (s : State) (e : Exc) : (s.trap e).partTab = s.partTab := rfl
@[simp] theorem State.trap_partBlk (s : State) (e : Exc) : (s.trap e).partBlk = s.partBlk := rfl
@[simp] theorem State.trap_groups (s : State) (e : Exc) : (s.trap e).groups = s.groups := rfl
@[simp] theorem State.trap_routes (s : State) (e : Exc) : (s.trap e).routes = s.routes := rfl
@[simp] theorem State.trap_slices (s : State) (e : Exc) : (s.trap e).slices = s.slices := rfl
@[simp] theorem State.trap_msix (s : State) (e : Exc) : (s.trap e).msix = s.msix := rfl
@[simp] theorem State.trap_resv (s : State) (e : Exc) : (s.trap e).resv = s.resv := rfl
@[simp] theorem State.trap_far (s : State) (e : Exc) : (s.trap e).far = s.far := rfl
@[simp] theorem State.trap_faultRegs (s : State) (e : Exc) : (s.trap e).faultRegs = s.faultRegs := rfl
@[simp] theorem State.trap_scrubs (s : State) (e : Exc) : (s.trap e).scrubs = s.scrubs := rfl
@[simp] theorem State.trap_debug (s : State) (e : Exc) : (s.trap e).debug = s.debug := rfl
@[simp] theorem State.trap_defects (s : State) (e : Exc) : (s.trap e).defects = s.defects := rfl
@[simp] theorem State.trap_pointers (s : State) (e : Exc) : (s.trap e).pointers = s.pointers := rfl
@[simp] theorem State.trap_vcps (s : State) (e : Exc) : (s.trap e).vcps = s.vcps := rfl
@[simp] theorem State.trap_service (s : State) (e : Exc) : (s.trap e).service = s.service := rfl
@[simp] theorem State.trap_pipe (s : State) (e : Exc) : (s.trap e).pipe = s.pipe := rfl
@[simp] theorem State.trap_accepts (s : State) (e : Exc) : (s.trap e).accepts = s.accepts := rfl
@[simp] theorem State.trap_launches (s : State) (e : Exc) : (s.trap e).launches = s.launches := rfl
@[simp] theorem State.trap_bedrock (s : State) (e : Exc) : (s.trap e).bedrock = s.bedrock := rfl
@[simp] theorem State.trap_journals (s : State) (e : Exc) : (s.trap e).journals = s.journals := rfl
@[simp] theorem State.trap_regions (s : State) (e : Exc) : (s.trap e).regions = s.regions := rfl
@[simp] theorem State.trap_gens (s : State) (e : Exc) : (s.trap e).gens = s.gens := rfl
@[simp] theorem State.trap_copies (s : State) (e : Exc) : (s.trap e).copies = s.copies := rfl
@[simp] theorem State.trap_colls (s : State) (e : Exc) : (s.trap e).colls = s.colls := rfl
@[simp] theorem State.trap_dune (s : State) (e : Exc) : (s.trap e).dune = s.dune := rfl
@[simp] theorem State.trap_credits (s : State) (e : Exc) : (s.trap e).credits = s.credits := rfl
@[simp] theorem State.trap_fails (s : State) (e : Exc) : (s.trap e).fails = s.fails := rfl
@[simp] theorem State.trap_notifies (s : State) (e : Exc) : (s.trap e).notifies = s.notifies := rfl
@[simp] theorem State.trap_pushes (s : State) (e : Exc) : (s.trap e).pushes = s.pushes := rfl
@[simp] theorem State.trap_cbcache (s : State) (e : Exc) : (s.trap e).cbcache = s.cbcache := rfl
@[simp] theorem State.trap_banks (s : State) (e : Exc) : (s.trap e).banks = s.banks := rfl
@[simp] theorem State.trap_traces (s : State) (e : Exc) : (s.trap e).traces = s.traces := rfl
@[simp] theorem State.trap_policies (s : State) (e : Exc) : (s.trap e).policies = s.policies := rfl
@[simp] theorem State.trap_polWait (s : State) (e : Exc) : (s.trap e).polWait = s.polWait := rfl
@[simp] theorem State.trap_lastNs (s : State) (e : Exc) : (s.trap e).lastNs = s.lastNs := rfl
@[simp] theorem State.trap_sliceLens (s : State) (e : Exc) : (s.trap e).sliceLens = s.sliceLens := rfl
@[simp] theorem State.trap_jobEnds (s : State) (e : Exc) : (s.trap e).jobEnds = s.jobEnds := rfl
@[simp] theorem State.trap_orphans (s : State) (e : Exc) : (s.trap e).orphans = s.orphans := rfl

@[simp] theorem State.modVcp_agenda (s : State) (v : Nat) (f : Vcp → Vcp) : (s.modVcp v f).agenda = s.agenda := rfl
@[simp] theorem State.modVcp_regOps (s : State) (v : Nat) (f : Vcp → Vcp) : (s.modVcp v f).regOps = s.regOps := rfl
@[simp] theorem State.modVcp_cur (s : State) (v : Nat) (f : Vcp → Vcp) : (s.modVcp v f).cur = s.cur := rfl
@[simp] theorem State.modVcp_draws (s : State) (v : Nat) (f : Vcp → Vcp) : (s.modVcp v f).draws = s.draws := rfl
@[simp] theorem State.modVcp_fc (s : State) (v : Nat) (f : Vcp → Vcp) : (s.modVcp v f).fc = s.fc := rfl
@[simp] theorem State.modVcp_ns (s : State) (v : Nat) (f : Vcp → Vcp) : (s.modVcp v f).ns = s.ns := rfl
@[simp] theorem State.modVcp_powered (s : State) (v : Nat) (f : Vcp → Vcp) : (s.modVcp v f).powered = s.powered := rfl
@[simp] theorem State.modVcp_mgmt (s : State) (v : Nat) (f : Vcp → Vcp) : (s.modVcp v f).mgmt = s.mgmt := rfl
@[simp] theorem State.modVcp_flash (s : State) (v : Nat) (f : Vcp → Vcp) : (s.modVcp v f).flash = s.flash := rfl
@[simp] theorem State.modVcp_fuseRollback (s : State) (v : Nat) (f : Vcp → Vcp) : (s.modVcp v f).fuseRollback = s.fuseRollback := rfl
@[simp] theorem State.modVcp_components (s : State) (v : Nat) (f : Vcp → Vcp) : (s.modVcp v f).components = s.components := rfl
@[simp] theorem State.modVcp_strap (s : State) (v : Nat) (f : Vcp → Vcp) : (s.modVcp v f).strap = s.strap := rfl
@[simp] theorem State.modVcp_jtag (s : State) (v : Nat) (f : Vcp → Vcp) : (s.modVcp v f).jtag = s.jtag := rfl
@[simp] theorem State.modVcp_harts (s : State) (v : Nat) (f : Vcp → Vcp) : (s.modVcp v f).harts = s.harts := rfl
@[simp] theorem State.modVcp_mem (s : State) (v : Nat) (f : Vcp → Vcp) : (s.modVcp v f).mem = s.mem := rfl
@[simp] theorem State.modVcp_poison (s : State) (v : Nat) (f : Vcp → Vcp) : (s.modVcp v f).poison = s.poison := rfl
@[simp] theorem State.modVcp_ilhus (s : State) (v : Nat) (f : Vcp → Vcp) : (s.modVcp v f).ilhus = s.ilhus := rfl
@[simp] theorem State.modVcp_xlat (s : State) (v : Nat) (f : Vcp → Vcp) : (s.modVcp v f).xlat = s.xlat := rfl
@[simp] theorem State.modVcp_tcache (s : State) (v : Nat) (f : Vcp → Vcp) : (s.modVcp v f).tcache = s.tcache := rfl
@[simp] theorem State.modVcp_access (s : State) (v : Nat) (f : Vcp → Vcp) : (s.modVcp v f).access = s.access := rfl
@[simp] theorem State.modVcp_partTab (s : State) (v : Nat) (f : Vcp → Vcp) : (s.modVcp v f).partTab = s.partTab := rfl
@[simp] theorem State.modVcp_partBlk (s : State) (v : Nat) (f : Vcp → Vcp) : (s.modVcp v f).partBlk = s.partBlk := rfl
@[simp] theorem State.modVcp_groups (s : State) (v : Nat) (f : Vcp → Vcp) : (s.modVcp v f).groups = s.groups := rfl
@[simp] theorem State.modVcp_routes (s : State) (v : Nat) (f : Vcp → Vcp) : (s.modVcp v f).routes = s.routes := rfl
@[simp] theorem State.modVcp_slices (s : State) (v : Nat) (f : Vcp → Vcp) : (s.modVcp v f).slices = s.slices := rfl
@[simp] theorem State.modVcp_msix (s : State) (v : Nat) (f : Vcp → Vcp) : (s.modVcp v f).msix = s.msix := rfl
@[simp] theorem State.modVcp_resv (s : State) (v : Nat) (f : Vcp → Vcp) : (s.modVcp v f).resv = s.resv := rfl
@[simp] theorem State.modVcp_far (s : State) (v : Nat) (f : Vcp → Vcp) : (s.modVcp v f).far = s.far := rfl
@[simp] theorem State.modVcp_faultRegs (s : State) (v : Nat) (f : Vcp → Vcp) : (s.modVcp v f).faultRegs = s.faultRegs := rfl
@[simp] theorem State.modVcp_scrubs (s : State) (v : Nat) (f : Vcp → Vcp) : (s.modVcp v f).scrubs = s.scrubs := rfl
@[simp] theorem State.modVcp_debug (s : State) (v : Nat) (f : Vcp → Vcp) : (s.modVcp v f).debug = s.debug := rfl
@[simp] theorem State.modVcp_defects (s : State) (v : Nat) (f : Vcp → Vcp) : (s.modVcp v f).defects = s.defects := rfl
@[simp] theorem State.modVcp_pointers (s : State) (v : Nat) (f : Vcp → Vcp) : (s.modVcp v f).pointers = s.pointers := rfl
@[simp] theorem State.modVcp_service (s : State) (v : Nat) (f : Vcp → Vcp) : (s.modVcp v f).service = s.service := rfl
@[simp] theorem State.modVcp_pipe (s : State) (v : Nat) (f : Vcp → Vcp) : (s.modVcp v f).pipe = s.pipe := rfl
@[simp] theorem State.modVcp_accepts (s : State) (v : Nat) (f : Vcp → Vcp) : (s.modVcp v f).accepts = s.accepts := rfl
@[simp] theorem State.modVcp_launches (s : State) (v : Nat) (f : Vcp → Vcp) : (s.modVcp v f).launches = s.launches := rfl
@[simp] theorem State.modVcp_bedrock (s : State) (v : Nat) (f : Vcp → Vcp) : (s.modVcp v f).bedrock = s.bedrock := rfl
@[simp] theorem State.modVcp_journals (s : State) (v : Nat) (f : Vcp → Vcp) : (s.modVcp v f).journals = s.journals := rfl
@[simp] theorem State.modVcp_regions (s : State) (v : Nat) (f : Vcp → Vcp) : (s.modVcp v f).regions = s.regions := rfl
@[simp] theorem State.modVcp_gens (s : State) (v : Nat) (f : Vcp → Vcp) : (s.modVcp v f).gens = s.gens := rfl
@[simp] theorem State.modVcp_copies (s : State) (v : Nat) (f : Vcp → Vcp) : (s.modVcp v f).copies = s.copies := rfl
@[simp] theorem State.modVcp_colls (s : State) (v : Nat) (f : Vcp → Vcp) : (s.modVcp v f).colls = s.colls := rfl
@[simp] theorem State.modVcp_dune (s : State) (v : Nat) (f : Vcp → Vcp) : (s.modVcp v f).dune = s.dune := rfl
@[simp] theorem State.modVcp_credits (s : State) (v : Nat) (f : Vcp → Vcp) : (s.modVcp v f).credits = s.credits := rfl
@[simp] theorem State.modVcp_fails (s : State) (v : Nat) (f : Vcp → Vcp) : (s.modVcp v f).fails = s.fails := rfl
@[simp] theorem State.modVcp_notifies (s : State) (v : Nat) (f : Vcp → Vcp) : (s.modVcp v f).notifies = s.notifies := rfl
@[simp] theorem State.modVcp_pushes (s : State) (v : Nat) (f : Vcp → Vcp) : (s.modVcp v f).pushes = s.pushes := rfl
@[simp] theorem State.modVcp_cbcache (s : State) (v : Nat) (f : Vcp → Vcp) : (s.modVcp v f).cbcache = s.cbcache := rfl
@[simp] theorem State.modVcp_banks (s : State) (v : Nat) (f : Vcp → Vcp) : (s.modVcp v f).banks = s.banks := rfl
@[simp] theorem State.modVcp_traces (s : State) (v : Nat) (f : Vcp → Vcp) : (s.modVcp v f).traces = s.traces := rfl
@[simp] theorem State.modVcp_policies (s : State) (v : Nat) (f : Vcp → Vcp) : (s.modVcp v f).policies = s.policies := rfl
@[simp] theorem State.modVcp_polWait (s : State) (v : Nat) (f : Vcp → Vcp) : (s.modVcp v f).polWait = s.polWait := rfl
@[simp] theorem State.modVcp_lastNs (s : State) (v : Nat) (f : Vcp → Vcp) : (s.modVcp v f).lastNs = s.lastNs := rfl
@[simp] theorem State.modVcp_sliceLens (s : State) (v : Nat) (f : Vcp → Vcp) : (s.modVcp v f).sliceLens = s.sliceLens := rfl
@[simp] theorem State.modVcp_jobEnds (s : State) (v : Nat) (f : Vcp → Vcp) : (s.modVcp v f).jobEnds = s.jobEnds := rfl
@[simp] theorem State.modVcp_orphans (s : State) (v : Nat) (f : Vcp → Vcp) : (s.modVcp v f).orphans = s.orphans := rfl

@[simp] theorem State.modQueue_agenda (s : State) (v q : Nat) (f : VQueue → VQueue) : (s.modQueue v q f).agenda = s.agenda := rfl
@[simp] theorem State.modQueue_regOps (s : State) (v q : Nat) (f : VQueue → VQueue) : (s.modQueue v q f).regOps = s.regOps := rfl
@[simp] theorem State.modQueue_cur (s : State) (v q : Nat) (f : VQueue → VQueue) : (s.modQueue v q f).cur = s.cur := rfl
@[simp] theorem State.modQueue_draws (s : State) (v q : Nat) (f : VQueue → VQueue) : (s.modQueue v q f).draws = s.draws := rfl
@[simp] theorem State.modQueue_fc (s : State) (v q : Nat) (f : VQueue → VQueue) : (s.modQueue v q f).fc = s.fc := rfl
@[simp] theorem State.modQueue_ns (s : State) (v q : Nat) (f : VQueue → VQueue) : (s.modQueue v q f).ns = s.ns := rfl
@[simp] theorem State.modQueue_powered (s : State) (v q : Nat) (f : VQueue → VQueue) : (s.modQueue v q f).powered = s.powered := rfl
@[simp] theorem State.modQueue_mgmt (s : State) (v q : Nat) (f : VQueue → VQueue) : (s.modQueue v q f).mgmt = s.mgmt := rfl
@[simp] theorem State.modQueue_flash (s : State) (v q : Nat) (f : VQueue → VQueue) : (s.modQueue v q f).flash = s.flash := rfl
@[simp] theorem State.modQueue_fuseRollback (s : State) (v q : Nat) (f : VQueue → VQueue) : (s.modQueue v q f).fuseRollback = s.fuseRollback := rfl
@[simp] theorem State.modQueue_components (s : State) (v q : Nat) (f : VQueue → VQueue) : (s.modQueue v q f).components = s.components := rfl
@[simp] theorem State.modQueue_strap (s : State) (v q : Nat) (f : VQueue → VQueue) : (s.modQueue v q f).strap = s.strap := rfl
@[simp] theorem State.modQueue_jtag (s : State) (v q : Nat) (f : VQueue → VQueue) : (s.modQueue v q f).jtag = s.jtag := rfl
@[simp] theorem State.modQueue_harts (s : State) (v q : Nat) (f : VQueue → VQueue) : (s.modQueue v q f).harts = s.harts := rfl
@[simp] theorem State.modQueue_mem (s : State) (v q : Nat) (f : VQueue → VQueue) : (s.modQueue v q f).mem = s.mem := rfl
@[simp] theorem State.modQueue_poison (s : State) (v q : Nat) (f : VQueue → VQueue) : (s.modQueue v q f).poison = s.poison := rfl
@[simp] theorem State.modQueue_ilhus (s : State) (v q : Nat) (f : VQueue → VQueue) : (s.modQueue v q f).ilhus = s.ilhus := rfl
@[simp] theorem State.modQueue_xlat (s : State) (v q : Nat) (f : VQueue → VQueue) : (s.modQueue v q f).xlat = s.xlat := rfl
@[simp] theorem State.modQueue_tcache (s : State) (v q : Nat) (f : VQueue → VQueue) : (s.modQueue v q f).tcache = s.tcache := rfl
@[simp] theorem State.modQueue_access (s : State) (v q : Nat) (f : VQueue → VQueue) : (s.modQueue v q f).access = s.access := rfl
@[simp] theorem State.modQueue_partTab (s : State) (v q : Nat) (f : VQueue → VQueue) : (s.modQueue v q f).partTab = s.partTab := rfl
@[simp] theorem State.modQueue_partBlk (s : State) (v q : Nat) (f : VQueue → VQueue) : (s.modQueue v q f).partBlk = s.partBlk := rfl
@[simp] theorem State.modQueue_groups (s : State) (v q : Nat) (f : VQueue → VQueue) : (s.modQueue v q f).groups = s.groups := rfl
@[simp] theorem State.modQueue_routes (s : State) (v q : Nat) (f : VQueue → VQueue) : (s.modQueue v q f).routes = s.routes := rfl
@[simp] theorem State.modQueue_slices (s : State) (v q : Nat) (f : VQueue → VQueue) : (s.modQueue v q f).slices = s.slices := rfl
@[simp] theorem State.modQueue_msix (s : State) (v q : Nat) (f : VQueue → VQueue) : (s.modQueue v q f).msix = s.msix := rfl
@[simp] theorem State.modQueue_resv (s : State) (v q : Nat) (f : VQueue → VQueue) : (s.modQueue v q f).resv = s.resv := rfl
@[simp] theorem State.modQueue_far (s : State) (v q : Nat) (f : VQueue → VQueue) : (s.modQueue v q f).far = s.far := rfl
@[simp] theorem State.modQueue_faultRegs (s : State) (v q : Nat) (f : VQueue → VQueue) : (s.modQueue v q f).faultRegs = s.faultRegs := rfl
@[simp] theorem State.modQueue_scrubs (s : State) (v q : Nat) (f : VQueue → VQueue) : (s.modQueue v q f).scrubs = s.scrubs := rfl
@[simp] theorem State.modQueue_debug (s : State) (v q : Nat) (f : VQueue → VQueue) : (s.modQueue v q f).debug = s.debug := rfl
@[simp] theorem State.modQueue_defects (s : State) (v q : Nat) (f : VQueue → VQueue) : (s.modQueue v q f).defects = s.defects := rfl
@[simp] theorem State.modQueue_pointers (s : State) (v q : Nat) (f : VQueue → VQueue) : (s.modQueue v q f).pointers = s.pointers := rfl
@[simp] theorem State.modQueue_service (s : State) (v q : Nat) (f : VQueue → VQueue) : (s.modQueue v q f).service = s.service := rfl
@[simp] theorem State.modQueue_pipe (s : State) (v q : Nat) (f : VQueue → VQueue) : (s.modQueue v q f).pipe = s.pipe := rfl
@[simp] theorem State.modQueue_accepts (s : State) (v q : Nat) (f : VQueue → VQueue) : (s.modQueue v q f).accepts = s.accepts := rfl
@[simp] theorem State.modQueue_launches (s : State) (v q : Nat) (f : VQueue → VQueue) : (s.modQueue v q f).launches = s.launches := rfl
@[simp] theorem State.modQueue_bedrock (s : State) (v q : Nat) (f : VQueue → VQueue) : (s.modQueue v q f).bedrock = s.bedrock := rfl
@[simp] theorem State.modQueue_journals (s : State) (v q : Nat) (f : VQueue → VQueue) : (s.modQueue v q f).journals = s.journals := rfl
@[simp] theorem State.modQueue_regions (s : State) (v q : Nat) (f : VQueue → VQueue) : (s.modQueue v q f).regions = s.regions := rfl
@[simp] theorem State.modQueue_gens (s : State) (v q : Nat) (f : VQueue → VQueue) : (s.modQueue v q f).gens = s.gens := rfl
@[simp] theorem State.modQueue_copies (s : State) (v q : Nat) (f : VQueue → VQueue) : (s.modQueue v q f).copies = s.copies := rfl
@[simp] theorem State.modQueue_colls (s : State) (v q : Nat) (f : VQueue → VQueue) : (s.modQueue v q f).colls = s.colls := rfl
@[simp] theorem State.modQueue_dune (s : State) (v q : Nat) (f : VQueue → VQueue) : (s.modQueue v q f).dune = s.dune := rfl
@[simp] theorem State.modQueue_credits (s : State) (v q : Nat) (f : VQueue → VQueue) : (s.modQueue v q f).credits = s.credits := rfl
@[simp] theorem State.modQueue_fails (s : State) (v q : Nat) (f : VQueue → VQueue) : (s.modQueue v q f).fails = s.fails := rfl
@[simp] theorem State.modQueue_notifies (s : State) (v q : Nat) (f : VQueue → VQueue) : (s.modQueue v q f).notifies = s.notifies := rfl
@[simp] theorem State.modQueue_pushes (s : State) (v q : Nat) (f : VQueue → VQueue) : (s.modQueue v q f).pushes = s.pushes := rfl
@[simp] theorem State.modQueue_cbcache (s : State) (v q : Nat) (f : VQueue → VQueue) : (s.modQueue v q f).cbcache = s.cbcache := rfl
@[simp] theorem State.modQueue_banks (s : State) (v q : Nat) (f : VQueue → VQueue) : (s.modQueue v q f).banks = s.banks := rfl
@[simp] theorem State.modQueue_traces (s : State) (v q : Nat) (f : VQueue → VQueue) : (s.modQueue v q f).traces = s.traces := rfl
@[simp] theorem State.modQueue_policies (s : State) (v q : Nat) (f : VQueue → VQueue) : (s.modQueue v q f).policies = s.policies := rfl
@[simp] theorem State.modQueue_polWait (s : State) (v q : Nat) (f : VQueue → VQueue) : (s.modQueue v q f).polWait = s.polWait := rfl
@[simp] theorem State.modQueue_lastNs (s : State) (v q : Nat) (f : VQueue → VQueue) : (s.modQueue v q f).lastNs = s.lastNs := rfl
@[simp] theorem State.modQueue_sliceLens (s : State) (v q : Nat) (f : VQueue → VQueue) : (s.modQueue v q f).sliceLens = s.sliceLens := rfl
@[simp] theorem State.modQueue_jobEnds (s : State) (v q : Nat) (f : VQueue → VQueue) : (s.modQueue v q f).jobEnds = s.jobEnds := rfl
@[simp] theorem State.modQueue_orphans (s : State) (v q : Nat) (f : VQueue → VQueue) : (s.modQueue v q f).orphans = s.orphans := rfl

@[simp] theorem State.modCopy_agenda (s : State) (n : Nat) (f : CopyEngine → CopyEngine) : (s.modCopy n f).agenda = s.agenda := rfl
@[simp] theorem State.modCopy_regOps (s : State) (n : Nat) (f : CopyEngine → CopyEngine) : (s.modCopy n f).regOps = s.regOps := rfl
@[simp] theorem State.modCopy_cur (s : State) (n : Nat) (f : CopyEngine → CopyEngine) : (s.modCopy n f).cur = s.cur := rfl
@[simp] theorem State.modCopy_draws (s : State) (n : Nat) (f : CopyEngine → CopyEngine) : (s.modCopy n f).draws = s.draws := rfl
@[simp] theorem State.modCopy_fc (s : State) (n : Nat) (f : CopyEngine → CopyEngine) : (s.modCopy n f).fc = s.fc := rfl
@[simp] theorem State.modCopy_ns (s : State) (n : Nat) (f : CopyEngine → CopyEngine) : (s.modCopy n f).ns = s.ns := rfl
@[simp] theorem State.modCopy_powered (s : State) (n : Nat) (f : CopyEngine → CopyEngine) : (s.modCopy n f).powered = s.powered := rfl
@[simp] theorem State.modCopy_mgmt (s : State) (n : Nat) (f : CopyEngine → CopyEngine) : (s.modCopy n f).mgmt = s.mgmt := rfl
@[simp] theorem State.modCopy_flash (s : State) (n : Nat) (f : CopyEngine → CopyEngine) : (s.modCopy n f).flash = s.flash := rfl
@[simp] theorem State.modCopy_fuseRollback (s : State) (n : Nat) (f : CopyEngine → CopyEngine) : (s.modCopy n f).fuseRollback = s.fuseRollback := rfl
@[simp] theorem State.modCopy_components (s : State) (n : Nat) (f : CopyEngine → CopyEngine) : (s.modCopy n f).components = s.components := rfl
@[simp] theorem State.modCopy_strap (s : State) (n : Nat) (f : CopyEngine → CopyEngine) : (s.modCopy n f).strap = s.strap := rfl
@[simp] theorem State.modCopy_jtag (s : State) (n : Nat) (f : CopyEngine → CopyEngine) : (s.modCopy n f).jtag = s.jtag := rfl
@[simp] theorem State.modCopy_harts (s : State) (n : Nat) (f : CopyEngine → CopyEngine) : (s.modCopy n f).harts = s.harts := rfl
@[simp] theorem State.modCopy_mem (s : State) (n : Nat) (f : CopyEngine → CopyEngine) : (s.modCopy n f).mem = s.mem := rfl
@[simp] theorem State.modCopy_poison (s : State) (n : Nat) (f : CopyEngine → CopyEngine) : (s.modCopy n f).poison = s.poison := rfl
@[simp] theorem State.modCopy_ilhus (s : State) (n : Nat) (f : CopyEngine → CopyEngine) : (s.modCopy n f).ilhus = s.ilhus := rfl
@[simp] theorem State.modCopy_xlat (s : State) (n : Nat) (f : CopyEngine → CopyEngine) : (s.modCopy n f).xlat = s.xlat := rfl
@[simp] theorem State.modCopy_tcache (s : State) (n : Nat) (f : CopyEngine → CopyEngine) : (s.modCopy n f).tcache = s.tcache := rfl
@[simp] theorem State.modCopy_access (s : State) (n : Nat) (f : CopyEngine → CopyEngine) : (s.modCopy n f).access = s.access := rfl
@[simp] theorem State.modCopy_partTab (s : State) (n : Nat) (f : CopyEngine → CopyEngine) : (s.modCopy n f).partTab = s.partTab := rfl
@[simp] theorem State.modCopy_partBlk (s : State) (n : Nat) (f : CopyEngine → CopyEngine) : (s.modCopy n f).partBlk = s.partBlk := rfl
@[simp] theorem State.modCopy_groups (s : State) (n : Nat) (f : CopyEngine → CopyEngine) : (s.modCopy n f).groups = s.groups := rfl
@[simp] theorem State.modCopy_routes (s : State) (n : Nat) (f : CopyEngine → CopyEngine) : (s.modCopy n f).routes = s.routes := rfl
@[simp] theorem State.modCopy_slices (s : State) (n : Nat) (f : CopyEngine → CopyEngine) : (s.modCopy n f).slices = s.slices := rfl
@[simp] theorem State.modCopy_msix (s : State) (n : Nat) (f : CopyEngine → CopyEngine) : (s.modCopy n f).msix = s.msix := rfl
@[simp] theorem State.modCopy_resv (s : State) (n : Nat) (f : CopyEngine → CopyEngine) : (s.modCopy n f).resv = s.resv := rfl
@[simp] theorem State.modCopy_far (s : State) (n : Nat) (f : CopyEngine → CopyEngine) : (s.modCopy n f).far = s.far := rfl
@[simp] theorem State.modCopy_faultRegs (s : State) (n : Nat) (f : CopyEngine → CopyEngine) : (s.modCopy n f).faultRegs = s.faultRegs := rfl
@[simp] theorem State.modCopy_scrubs (s : State) (n : Nat) (f : CopyEngine → CopyEngine) : (s.modCopy n f).scrubs = s.scrubs := rfl
@[simp] theorem State.modCopy_debug (s : State) (n : Nat) (f : CopyEngine → CopyEngine) : (s.modCopy n f).debug = s.debug := rfl
@[simp] theorem State.modCopy_defects (s : State) (n : Nat) (f : CopyEngine → CopyEngine) : (s.modCopy n f).defects = s.defects := rfl
@[simp] theorem State.modCopy_pointers (s : State) (n : Nat) (f : CopyEngine → CopyEngine) : (s.modCopy n f).pointers = s.pointers := rfl
@[simp] theorem State.modCopy_vcps (s : State) (n : Nat) (f : CopyEngine → CopyEngine) : (s.modCopy n f).vcps = s.vcps := rfl
@[simp] theorem State.modCopy_service (s : State) (n : Nat) (f : CopyEngine → CopyEngine) : (s.modCopy n f).service = s.service := rfl
@[simp] theorem State.modCopy_pipe (s : State) (n : Nat) (f : CopyEngine → CopyEngine) : (s.modCopy n f).pipe = s.pipe := rfl
@[simp] theorem State.modCopy_accepts (s : State) (n : Nat) (f : CopyEngine → CopyEngine) : (s.modCopy n f).accepts = s.accepts := rfl
@[simp] theorem State.modCopy_launches (s : State) (n : Nat) (f : CopyEngine → CopyEngine) : (s.modCopy n f).launches = s.launches := rfl
@[simp] theorem State.modCopy_bedrock (s : State) (n : Nat) (f : CopyEngine → CopyEngine) : (s.modCopy n f).bedrock = s.bedrock := rfl
@[simp] theorem State.modCopy_journals (s : State) (n : Nat) (f : CopyEngine → CopyEngine) : (s.modCopy n f).journals = s.journals := rfl
@[simp] theorem State.modCopy_regions (s : State) (n : Nat) (f : CopyEngine → CopyEngine) : (s.modCopy n f).regions = s.regions := rfl
@[simp] theorem State.modCopy_gens (s : State) (n : Nat) (f : CopyEngine → CopyEngine) : (s.modCopy n f).gens = s.gens := rfl
@[simp] theorem State.modCopy_colls (s : State) (n : Nat) (f : CopyEngine → CopyEngine) : (s.modCopy n f).colls = s.colls := rfl
@[simp] theorem State.modCopy_dune (s : State) (n : Nat) (f : CopyEngine → CopyEngine) : (s.modCopy n f).dune = s.dune := rfl
@[simp] theorem State.modCopy_credits (s : State) (n : Nat) (f : CopyEngine → CopyEngine) : (s.modCopy n f).credits = s.credits := rfl
@[simp] theorem State.modCopy_fails (s : State) (n : Nat) (f : CopyEngine → CopyEngine) : (s.modCopy n f).fails = s.fails := rfl
@[simp] theorem State.modCopy_notifies (s : State) (n : Nat) (f : CopyEngine → CopyEngine) : (s.modCopy n f).notifies = s.notifies := rfl
@[simp] theorem State.modCopy_pushes (s : State) (n : Nat) (f : CopyEngine → CopyEngine) : (s.modCopy n f).pushes = s.pushes := rfl
@[simp] theorem State.modCopy_cbcache (s : State) (n : Nat) (f : CopyEngine → CopyEngine) : (s.modCopy n f).cbcache = s.cbcache := rfl
@[simp] theorem State.modCopy_banks (s : State) (n : Nat) (f : CopyEngine → CopyEngine) : (s.modCopy n f).banks = s.banks := rfl
@[simp] theorem State.modCopy_traces (s : State) (n : Nat) (f : CopyEngine → CopyEngine) : (s.modCopy n f).traces = s.traces := rfl
@[simp] theorem State.modCopy_policies (s : State) (n : Nat) (f : CopyEngine → CopyEngine) : (s.modCopy n f).policies = s.policies := rfl
@[simp] theorem State.modCopy_polWait (s : State) (n : Nat) (f : CopyEngine → CopyEngine) : (s.modCopy n f).polWait = s.polWait := rfl
@[simp] theorem State.modCopy_lastNs (s : State) (n : Nat) (f : CopyEngine → CopyEngine) : (s.modCopy n f).lastNs = s.lastNs := rfl
@[simp] theorem State.modCopy_sliceLens (s : State) (n : Nat) (f : CopyEngine → CopyEngine) : (s.modCopy n f).sliceLens = s.sliceLens := rfl
@[simp] theorem State.modCopy_jobEnds (s : State) (n : Nat) (f : CopyEngine → CopyEngine) : (s.modCopy n f).jobEnds = s.jobEnds := rfl
@[simp] theorem State.modCopy_orphans (s : State) (n : Nat) (f : CopyEngine → CopyEngine) : (s.modCopy n f).orphans = s.orphans := rfl

@[simp] theorem State.modColl_agenda (s : State) (k : Nat) (f : CollEngine → CollEngine) : (s.modColl k f).agenda = s.agenda := rfl
@[simp] theorem State.modColl_regOps (s : State) (k : Nat) (f : CollEngine → CollEngine) : (s.modColl k f).regOps = s.regOps := rfl
@[simp] theorem State.modColl_cur (s : State) (k : Nat) (f : CollEngine → CollEngine) : (s.modColl k f).cur = s.cur := rfl
@[simp] theorem State.modColl_draws (s : State) (k : Nat) (f : CollEngine → CollEngine) : (s.modColl k f).draws = s.draws := rfl
@[simp] theorem State.modColl_fc (s : State) (k : Nat) (f : CollEngine → CollEngine) : (s.modColl k f).fc = s.fc := rfl
@[simp] theorem State.modColl_ns (s : State) (k : Nat) (f : CollEngine → CollEngine) : (s.modColl k f).ns = s.ns := rfl
@[simp] theorem State.modColl_powered (s : State) (k : Nat) (f : CollEngine → CollEngine) : (s.modColl k f).powered = s.powered := rfl
@[simp] theorem State.modColl_mgmt (s : State) (k : Nat) (f : CollEngine → CollEngine) : (s.modColl k f).mgmt = s.mgmt := rfl
@[simp] theorem State.modColl_flash (s : State) (k : Nat) (f : CollEngine → CollEngine) : (s.modColl k f).flash = s.flash := rfl
@[simp] theorem State.modColl_fuseRollback (s : State) (k : Nat) (f : CollEngine → CollEngine) : (s.modColl k f).fuseRollback = s.fuseRollback := rfl
@[simp] theorem State.modColl_components (s : State) (k : Nat) (f : CollEngine → CollEngine) : (s.modColl k f).components = s.components := rfl
@[simp] theorem State.modColl_strap (s : State) (k : Nat) (f : CollEngine → CollEngine) : (s.modColl k f).strap = s.strap := rfl
@[simp] theorem State.modColl_jtag (s : State) (k : Nat) (f : CollEngine → CollEngine) : (s.modColl k f).jtag = s.jtag := rfl
@[simp] theorem State.modColl_harts (s : State) (k : Nat) (f : CollEngine → CollEngine) : (s.modColl k f).harts = s.harts := rfl
@[simp] theorem State.modColl_mem (s : State) (k : Nat) (f : CollEngine → CollEngine) : (s.modColl k f).mem = s.mem := rfl
@[simp] theorem State.modColl_poison (s : State) (k : Nat) (f : CollEngine → CollEngine) : (s.modColl k f).poison = s.poison := rfl
@[simp] theorem State.modColl_ilhus (s : State) (k : Nat) (f : CollEngine → CollEngine) : (s.modColl k f).ilhus = s.ilhus := rfl
@[simp] theorem State.modColl_xlat (s : State) (k : Nat) (f : CollEngine → CollEngine) : (s.modColl k f).xlat = s.xlat := rfl
@[simp] theorem State.modColl_tcache (s : State) (k : Nat) (f : CollEngine → CollEngine) : (s.modColl k f).tcache = s.tcache := rfl
@[simp] theorem State.modColl_access (s : State) (k : Nat) (f : CollEngine → CollEngine) : (s.modColl k f).access = s.access := rfl
@[simp] theorem State.modColl_partTab (s : State) (k : Nat) (f : CollEngine → CollEngine) : (s.modColl k f).partTab = s.partTab := rfl
@[simp] theorem State.modColl_partBlk (s : State) (k : Nat) (f : CollEngine → CollEngine) : (s.modColl k f).partBlk = s.partBlk := rfl
@[simp] theorem State.modColl_groups (s : State) (k : Nat) (f : CollEngine → CollEngine) : (s.modColl k f).groups = s.groups := rfl
@[simp] theorem State.modColl_routes (s : State) (k : Nat) (f : CollEngine → CollEngine) : (s.modColl k f).routes = s.routes := rfl
@[simp] theorem State.modColl_slices (s : State) (k : Nat) (f : CollEngine → CollEngine) : (s.modColl k f).slices = s.slices := rfl
@[simp] theorem State.modColl_msix (s : State) (k : Nat) (f : CollEngine → CollEngine) : (s.modColl k f).msix = s.msix := rfl
@[simp] theorem State.modColl_resv (s : State) (k : Nat) (f : CollEngine → CollEngine) : (s.modColl k f).resv = s.resv := rfl
@[simp] theorem State.modColl_far (s : State) (k : Nat) (f : CollEngine → CollEngine) : (s.modColl k f).far = s.far := rfl
@[simp] theorem State.modColl_faultRegs (s : State) (k : Nat) (f : CollEngine → CollEngine) : (s.modColl k f).faultRegs = s.faultRegs := rfl
@[simp] theorem State.modColl_scrubs (s : State) (k : Nat) (f : CollEngine → CollEngine) : (s.modColl k f).scrubs = s.scrubs := rfl
@[simp] theorem State.modColl_debug (s : State) (k : Nat) (f : CollEngine → CollEngine) : (s.modColl k f).debug = s.debug := rfl
@[simp] theorem State.modColl_defects (s : State) (k : Nat) (f : CollEngine → CollEngine) : (s.modColl k f).defects = s.defects := rfl
@[simp] theorem State.modColl_pointers (s : State) (k : Nat) (f : CollEngine → CollEngine) : (s.modColl k f).pointers = s.pointers := rfl
@[simp] theorem State.modColl_vcps (s : State) (k : Nat) (f : CollEngine → CollEngine) : (s.modColl k f).vcps = s.vcps := rfl
@[simp] theorem State.modColl_service (s : State) (k : Nat) (f : CollEngine → CollEngine) : (s.modColl k f).service = s.service := rfl
@[simp] theorem State.modColl_pipe (s : State) (k : Nat) (f : CollEngine → CollEngine) : (s.modColl k f).pipe = s.pipe := rfl
@[simp] theorem State.modColl_accepts (s : State) (k : Nat) (f : CollEngine → CollEngine) : (s.modColl k f).accepts = s.accepts := rfl
@[simp] theorem State.modColl_launches (s : State) (k : Nat) (f : CollEngine → CollEngine) : (s.modColl k f).launches = s.launches := rfl
@[simp] theorem State.modColl_bedrock (s : State) (k : Nat) (f : CollEngine → CollEngine) : (s.modColl k f).bedrock = s.bedrock := rfl
@[simp] theorem State.modColl_journals (s : State) (k : Nat) (f : CollEngine → CollEngine) : (s.modColl k f).journals = s.journals := rfl
@[simp] theorem State.modColl_regions (s : State) (k : Nat) (f : CollEngine → CollEngine) : (s.modColl k f).regions = s.regions := rfl
@[simp] theorem State.modColl_gens (s : State) (k : Nat) (f : CollEngine → CollEngine) : (s.modColl k f).gens = s.gens := rfl
@[simp] theorem State.modColl_copies (s : State) (k : Nat) (f : CollEngine → CollEngine) : (s.modColl k f).copies = s.copies := rfl
@[simp] theorem State.modColl_dune (s : State) (k : Nat) (f : CollEngine → CollEngine) : (s.modColl k f).dune = s.dune := rfl
@[simp] theorem State.modColl_credits (s : State) (k : Nat) (f : CollEngine → CollEngine) : (s.modColl k f).credits = s.credits := rfl
@[simp] theorem State.modColl_fails (s : State) (k : Nat) (f : CollEngine → CollEngine) : (s.modColl k f).fails = s.fails := rfl
@[simp] theorem State.modColl_notifies (s : State) (k : Nat) (f : CollEngine → CollEngine) : (s.modColl k f).notifies = s.notifies := rfl
@[simp] theorem State.modColl_pushes (s : State) (k : Nat) (f : CollEngine → CollEngine) : (s.modColl k f).pushes = s.pushes := rfl
@[simp] theorem State.modColl_cbcache (s : State) (k : Nat) (f : CollEngine → CollEngine) : (s.modColl k f).cbcache = s.cbcache := rfl
@[simp] theorem State.modColl_banks (s : State) (k : Nat) (f : CollEngine → CollEngine) : (s.modColl k f).banks = s.banks := rfl
@[simp] theorem State.modColl_traces (s : State) (k : Nat) (f : CollEngine → CollEngine) : (s.modColl k f).traces = s.traces := rfl
@[simp] theorem State.modColl_policies (s : State) (k : Nat) (f : CollEngine → CollEngine) : (s.modColl k f).policies = s.policies := rfl
@[simp] theorem State.modColl_polWait (s : State) (k : Nat) (f : CollEngine → CollEngine) : (s.modColl k f).polWait = s.polWait := rfl
@[simp] theorem State.modColl_lastNs (s : State) (k : Nat) (f : CollEngine → CollEngine) : (s.modColl k f).lastNs = s.lastNs := rfl
@[simp] theorem State.modColl_sliceLens (s : State) (k : Nat) (f : CollEngine → CollEngine) : (s.modColl k f).sliceLens = s.sliceLens := rfl
@[simp] theorem State.modColl_jobEnds (s : State) (k : Nat) (f : CollEngine → CollEngine) : (s.modColl k f).jobEnds = s.jobEnds := rfl
@[simp] theorem State.modColl_orphans (s : State) (k : Nat) (f : CollEngine → CollEngine) : (s.modColl k f).orphans = s.orphans := rfl

@[simp] theorem State.modGroup_agenda (s : State) (g : Nat) (f : LaneGroup → LaneGroup) : (s.modGroup g f).agenda = s.agenda := rfl
@[simp] theorem State.modGroup_regOps (s : State) (g : Nat) (f : LaneGroup → LaneGroup) : (s.modGroup g f).regOps = s.regOps := rfl
@[simp] theorem State.modGroup_cur (s : State) (g : Nat) (f : LaneGroup → LaneGroup) : (s.modGroup g f).cur = s.cur := rfl
@[simp] theorem State.modGroup_draws (s : State) (g : Nat) (f : LaneGroup → LaneGroup) : (s.modGroup g f).draws = s.draws := rfl
@[simp] theorem State.modGroup_fc (s : State) (g : Nat) (f : LaneGroup → LaneGroup) : (s.modGroup g f).fc = s.fc := rfl
@[simp] theorem State.modGroup_ns (s : State) (g : Nat) (f : LaneGroup → LaneGroup) : (s.modGroup g f).ns = s.ns := rfl
@[simp] theorem State.modGroup_powered (s : State) (g : Nat) (f : LaneGroup → LaneGroup) : (s.modGroup g f).powered = s.powered := rfl
@[simp] theorem State.modGroup_mgmt (s : State) (g : Nat) (f : LaneGroup → LaneGroup) : (s.modGroup g f).mgmt = s.mgmt := rfl
@[simp] theorem State.modGroup_flash (s : State) (g : Nat) (f : LaneGroup → LaneGroup) : (s.modGroup g f).flash = s.flash := rfl
@[simp] theorem State.modGroup_fuseRollback (s : State) (g : Nat) (f : LaneGroup → LaneGroup) : (s.modGroup g f).fuseRollback = s.fuseRollback := rfl
@[simp] theorem State.modGroup_components (s : State) (g : Nat) (f : LaneGroup → LaneGroup) : (s.modGroup g f).components = s.components := rfl
@[simp] theorem State.modGroup_strap (s : State) (g : Nat) (f : LaneGroup → LaneGroup) : (s.modGroup g f).strap = s.strap := rfl
@[simp] theorem State.modGroup_jtag (s : State) (g : Nat) (f : LaneGroup → LaneGroup) : (s.modGroup g f).jtag = s.jtag := rfl
@[simp] theorem State.modGroup_harts (s : State) (g : Nat) (f : LaneGroup → LaneGroup) : (s.modGroup g f).harts = s.harts := rfl
@[simp] theorem State.modGroup_mem (s : State) (g : Nat) (f : LaneGroup → LaneGroup) : (s.modGroup g f).mem = s.mem := rfl
@[simp] theorem State.modGroup_poison (s : State) (g : Nat) (f : LaneGroup → LaneGroup) : (s.modGroup g f).poison = s.poison := rfl
@[simp] theorem State.modGroup_ilhus (s : State) (g : Nat) (f : LaneGroup → LaneGroup) : (s.modGroup g f).ilhus = s.ilhus := rfl
@[simp] theorem State.modGroup_xlat (s : State) (g : Nat) (f : LaneGroup → LaneGroup) : (s.modGroup g f).xlat = s.xlat := rfl
@[simp] theorem State.modGroup_tcache (s : State) (g : Nat) (f : LaneGroup → LaneGroup) : (s.modGroup g f).tcache = s.tcache := rfl
@[simp] theorem State.modGroup_access (s : State) (g : Nat) (f : LaneGroup → LaneGroup) : (s.modGroup g f).access = s.access := rfl
@[simp] theorem State.modGroup_partTab (s : State) (g : Nat) (f : LaneGroup → LaneGroup) : (s.modGroup g f).partTab = s.partTab := rfl
@[simp] theorem State.modGroup_partBlk (s : State) (g : Nat) (f : LaneGroup → LaneGroup) : (s.modGroup g f).partBlk = s.partBlk := rfl
@[simp] theorem State.modGroup_routes (s : State) (g : Nat) (f : LaneGroup → LaneGroup) : (s.modGroup g f).routes = s.routes := rfl
@[simp] theorem State.modGroup_slices (s : State) (g : Nat) (f : LaneGroup → LaneGroup) : (s.modGroup g f).slices = s.slices := rfl
@[simp] theorem State.modGroup_msix (s : State) (g : Nat) (f : LaneGroup → LaneGroup) : (s.modGroup g f).msix = s.msix := rfl
@[simp] theorem State.modGroup_resv (s : State) (g : Nat) (f : LaneGroup → LaneGroup) : (s.modGroup g f).resv = s.resv := rfl
@[simp] theorem State.modGroup_far (s : State) (g : Nat) (f : LaneGroup → LaneGroup) : (s.modGroup g f).far = s.far := rfl
@[simp] theorem State.modGroup_faultRegs (s : State) (g : Nat) (f : LaneGroup → LaneGroup) : (s.modGroup g f).faultRegs = s.faultRegs := rfl
@[simp] theorem State.modGroup_scrubs (s : State) (g : Nat) (f : LaneGroup → LaneGroup) : (s.modGroup g f).scrubs = s.scrubs := rfl
@[simp] theorem State.modGroup_debug (s : State) (g : Nat) (f : LaneGroup → LaneGroup) : (s.modGroup g f).debug = s.debug := rfl
@[simp] theorem State.modGroup_defects (s : State) (g : Nat) (f : LaneGroup → LaneGroup) : (s.modGroup g f).defects = s.defects := rfl
@[simp] theorem State.modGroup_pointers (s : State) (g : Nat) (f : LaneGroup → LaneGroup) : (s.modGroup g f).pointers = s.pointers := rfl
@[simp] theorem State.modGroup_vcps (s : State) (g : Nat) (f : LaneGroup → LaneGroup) : (s.modGroup g f).vcps = s.vcps := rfl
@[simp] theorem State.modGroup_service (s : State) (g : Nat) (f : LaneGroup → LaneGroup) : (s.modGroup g f).service = s.service := rfl
@[simp] theorem State.modGroup_pipe (s : State) (g : Nat) (f : LaneGroup → LaneGroup) : (s.modGroup g f).pipe = s.pipe := rfl
@[simp] theorem State.modGroup_accepts (s : State) (g : Nat) (f : LaneGroup → LaneGroup) : (s.modGroup g f).accepts = s.accepts := rfl
@[simp] theorem State.modGroup_launches (s : State) (g : Nat) (f : LaneGroup → LaneGroup) : (s.modGroup g f).launches = s.launches := rfl
@[simp] theorem State.modGroup_bedrock (s : State) (g : Nat) (f : LaneGroup → LaneGroup) : (s.modGroup g f).bedrock = s.bedrock := rfl
@[simp] theorem State.modGroup_journals (s : State) (g : Nat) (f : LaneGroup → LaneGroup) : (s.modGroup g f).journals = s.journals := rfl
@[simp] theorem State.modGroup_regions (s : State) (g : Nat) (f : LaneGroup → LaneGroup) : (s.modGroup g f).regions = s.regions := rfl
@[simp] theorem State.modGroup_gens (s : State) (g : Nat) (f : LaneGroup → LaneGroup) : (s.modGroup g f).gens = s.gens := rfl
@[simp] theorem State.modGroup_copies (s : State) (g : Nat) (f : LaneGroup → LaneGroup) : (s.modGroup g f).copies = s.copies := rfl
@[simp] theorem State.modGroup_colls (s : State) (g : Nat) (f : LaneGroup → LaneGroup) : (s.modGroup g f).colls = s.colls := rfl
@[simp] theorem State.modGroup_dune (s : State) (g : Nat) (f : LaneGroup → LaneGroup) : (s.modGroup g f).dune = s.dune := rfl
@[simp] theorem State.modGroup_credits (s : State) (g : Nat) (f : LaneGroup → LaneGroup) : (s.modGroup g f).credits = s.credits := rfl
@[simp] theorem State.modGroup_fails (s : State) (g : Nat) (f : LaneGroup → LaneGroup) : (s.modGroup g f).fails = s.fails := rfl
@[simp] theorem State.modGroup_notifies (s : State) (g : Nat) (f : LaneGroup → LaneGroup) : (s.modGroup g f).notifies = s.notifies := rfl
@[simp] theorem State.modGroup_pushes (s : State) (g : Nat) (f : LaneGroup → LaneGroup) : (s.modGroup g f).pushes = s.pushes := rfl
@[simp] theorem State.modGroup_cbcache (s : State) (g : Nat) (f : LaneGroup → LaneGroup) : (s.modGroup g f).cbcache = s.cbcache := rfl
@[simp] theorem State.modGroup_banks (s : State) (g : Nat) (f : LaneGroup → LaneGroup) : (s.modGroup g f).banks = s.banks := rfl
@[simp] theorem State.modGroup_traces (s : State) (g : Nat) (f : LaneGroup → LaneGroup) : (s.modGroup g f).traces = s.traces := rfl
@[simp] theorem State.modGroup_policies (s : State) (g : Nat) (f : LaneGroup → LaneGroup) : (s.modGroup g f).policies = s.policies := rfl
@[simp] theorem State.modGroup_polWait (s : State) (g : Nat) (f : LaneGroup → LaneGroup) : (s.modGroup g f).polWait = s.polWait := rfl
@[simp] theorem State.modGroup_lastNs (s : State) (g : Nat) (f : LaneGroup → LaneGroup) : (s.modGroup g f).lastNs = s.lastNs := rfl
@[simp] theorem State.modGroup_sliceLens (s : State) (g : Nat) (f : LaneGroup → LaneGroup) : (s.modGroup g f).sliceLens = s.sliceLens := rfl
@[simp] theorem State.modGroup_jobEnds (s : State) (g : Nat) (f : LaneGroup → LaneGroup) : (s.modGroup g f).jobEnds = s.jobEnds := rfl
@[simp] theorem State.modGroup_orphans (s : State) (g : Nat) (f : LaneGroup → LaneGroup) : (s.modGroup g f).orphans = s.orphans := rfl

@[simp] theorem State.modScrub_agenda (s : State) (t : Nat) (f : Scrub → Scrub) : (s.modScrub t f).agenda = s.agenda := rfl
@[simp] theorem State.modScrub_regOps (s : State) (t : Nat) (f : Scrub → Scrub) : (s.modScrub t f).regOps = s.regOps := rfl
@[simp] theorem State.modScrub_cur (s : State) (t : Nat) (f : Scrub → Scrub) : (s.modScrub t f).cur = s.cur := rfl
@[simp] theorem State.modScrub_draws (s : State) (t : Nat) (f : Scrub → Scrub) : (s.modScrub t f).draws = s.draws := rfl
@[simp] theorem State.modScrub_fc (s : State) (t : Nat) (f : Scrub → Scrub) : (s.modScrub t f).fc = s.fc := rfl
@[simp] theorem State.modScrub_ns (s : State) (t : Nat) (f : Scrub → Scrub) : (s.modScrub t f).ns = s.ns := rfl
@[simp] theorem State.modScrub_powered (s : State) (t : Nat) (f : Scrub → Scrub) : (s.modScrub t f).powered = s.powered := rfl
@[simp] theorem State.modScrub_mgmt (s : State) (t : Nat) (f : Scrub → Scrub) : (s.modScrub t f).mgmt = s.mgmt := rfl
@[simp] theorem State.modScrub_flash (s : State) (t : Nat) (f : Scrub → Scrub) : (s.modScrub t f).flash = s.flash := rfl
@[simp] theorem State.modScrub_fuseRollback (s : State) (t : Nat) (f : Scrub → Scrub) : (s.modScrub t f).fuseRollback = s.fuseRollback := rfl
@[simp] theorem State.modScrub_components (s : State) (t : Nat) (f : Scrub → Scrub) : (s.modScrub t f).components = s.components := rfl
@[simp] theorem State.modScrub_strap (s : State) (t : Nat) (f : Scrub → Scrub) : (s.modScrub t f).strap = s.strap := rfl
@[simp] theorem State.modScrub_jtag (s : State) (t : Nat) (f : Scrub → Scrub) : (s.modScrub t f).jtag = s.jtag := rfl
@[simp] theorem State.modScrub_harts (s : State) (t : Nat) (f : Scrub → Scrub) : (s.modScrub t f).harts = s.harts := rfl
@[simp] theorem State.modScrub_mem (s : State) (t : Nat) (f : Scrub → Scrub) : (s.modScrub t f).mem = s.mem := rfl
@[simp] theorem State.modScrub_poison (s : State) (t : Nat) (f : Scrub → Scrub) : (s.modScrub t f).poison = s.poison := rfl
@[simp] theorem State.modScrub_ilhus (s : State) (t : Nat) (f : Scrub → Scrub) : (s.modScrub t f).ilhus = s.ilhus := rfl
@[simp] theorem State.modScrub_xlat (s : State) (t : Nat) (f : Scrub → Scrub) : (s.modScrub t f).xlat = s.xlat := rfl
@[simp] theorem State.modScrub_tcache (s : State) (t : Nat) (f : Scrub → Scrub) : (s.modScrub t f).tcache = s.tcache := rfl
@[simp] theorem State.modScrub_access (s : State) (t : Nat) (f : Scrub → Scrub) : (s.modScrub t f).access = s.access := rfl
@[simp] theorem State.modScrub_partTab (s : State) (t : Nat) (f : Scrub → Scrub) : (s.modScrub t f).partTab = s.partTab := rfl
@[simp] theorem State.modScrub_partBlk (s : State) (t : Nat) (f : Scrub → Scrub) : (s.modScrub t f).partBlk = s.partBlk := rfl
@[simp] theorem State.modScrub_groups (s : State) (t : Nat) (f : Scrub → Scrub) : (s.modScrub t f).groups = s.groups := rfl
@[simp] theorem State.modScrub_routes (s : State) (t : Nat) (f : Scrub → Scrub) : (s.modScrub t f).routes = s.routes := rfl
@[simp] theorem State.modScrub_slices (s : State) (t : Nat) (f : Scrub → Scrub) : (s.modScrub t f).slices = s.slices := rfl
@[simp] theorem State.modScrub_msix (s : State) (t : Nat) (f : Scrub → Scrub) : (s.modScrub t f).msix = s.msix := rfl
@[simp] theorem State.modScrub_resv (s : State) (t : Nat) (f : Scrub → Scrub) : (s.modScrub t f).resv = s.resv := rfl
@[simp] theorem State.modScrub_far (s : State) (t : Nat) (f : Scrub → Scrub) : (s.modScrub t f).far = s.far := rfl
@[simp] theorem State.modScrub_faultRegs (s : State) (t : Nat) (f : Scrub → Scrub) : (s.modScrub t f).faultRegs = s.faultRegs := rfl
@[simp] theorem State.modScrub_debug (s : State) (t : Nat) (f : Scrub → Scrub) : (s.modScrub t f).debug = s.debug := rfl
@[simp] theorem State.modScrub_defects (s : State) (t : Nat) (f : Scrub → Scrub) : (s.modScrub t f).defects = s.defects := rfl
@[simp] theorem State.modScrub_pointers (s : State) (t : Nat) (f : Scrub → Scrub) : (s.modScrub t f).pointers = s.pointers := rfl
@[simp] theorem State.modScrub_vcps (s : State) (t : Nat) (f : Scrub → Scrub) : (s.modScrub t f).vcps = s.vcps := rfl
@[simp] theorem State.modScrub_service (s : State) (t : Nat) (f : Scrub → Scrub) : (s.modScrub t f).service = s.service := rfl
@[simp] theorem State.modScrub_pipe (s : State) (t : Nat) (f : Scrub → Scrub) : (s.modScrub t f).pipe = s.pipe := rfl
@[simp] theorem State.modScrub_accepts (s : State) (t : Nat) (f : Scrub → Scrub) : (s.modScrub t f).accepts = s.accepts := rfl
@[simp] theorem State.modScrub_launches (s : State) (t : Nat) (f : Scrub → Scrub) : (s.modScrub t f).launches = s.launches := rfl
@[simp] theorem State.modScrub_bedrock (s : State) (t : Nat) (f : Scrub → Scrub) : (s.modScrub t f).bedrock = s.bedrock := rfl
@[simp] theorem State.modScrub_journals (s : State) (t : Nat) (f : Scrub → Scrub) : (s.modScrub t f).journals = s.journals := rfl
@[simp] theorem State.modScrub_regions (s : State) (t : Nat) (f : Scrub → Scrub) : (s.modScrub t f).regions = s.regions := rfl
@[simp] theorem State.modScrub_gens (s : State) (t : Nat) (f : Scrub → Scrub) : (s.modScrub t f).gens = s.gens := rfl
@[simp] theorem State.modScrub_copies (s : State) (t : Nat) (f : Scrub → Scrub) : (s.modScrub t f).copies = s.copies := rfl
@[simp] theorem State.modScrub_colls (s : State) (t : Nat) (f : Scrub → Scrub) : (s.modScrub t f).colls = s.colls := rfl
@[simp] theorem State.modScrub_dune (s : State) (t : Nat) (f : Scrub → Scrub) : (s.modScrub t f).dune = s.dune := rfl
@[simp] theorem State.modScrub_credits (s : State) (t : Nat) (f : Scrub → Scrub) : (s.modScrub t f).credits = s.credits := rfl
@[simp] theorem State.modScrub_fails (s : State) (t : Nat) (f : Scrub → Scrub) : (s.modScrub t f).fails = s.fails := rfl
@[simp] theorem State.modScrub_notifies (s : State) (t : Nat) (f : Scrub → Scrub) : (s.modScrub t f).notifies = s.notifies := rfl
@[simp] theorem State.modScrub_pushes (s : State) (t : Nat) (f : Scrub → Scrub) : (s.modScrub t f).pushes = s.pushes := rfl
@[simp] theorem State.modScrub_cbcache (s : State) (t : Nat) (f : Scrub → Scrub) : (s.modScrub t f).cbcache = s.cbcache := rfl
@[simp] theorem State.modScrub_banks (s : State) (t : Nat) (f : Scrub → Scrub) : (s.modScrub t f).banks = s.banks := rfl
@[simp] theorem State.modScrub_traces (s : State) (t : Nat) (f : Scrub → Scrub) : (s.modScrub t f).traces = s.traces := rfl
@[simp] theorem State.modScrub_policies (s : State) (t : Nat) (f : Scrub → Scrub) : (s.modScrub t f).policies = s.policies := rfl
@[simp] theorem State.modScrub_polWait (s : State) (t : Nat) (f : Scrub → Scrub) : (s.modScrub t f).polWait = s.polWait := rfl
@[simp] theorem State.modScrub_lastNs (s : State) (t : Nat) (f : Scrub → Scrub) : (s.modScrub t f).lastNs = s.lastNs := rfl
@[simp] theorem State.modScrub_sliceLens (s : State) (t : Nat) (f : Scrub → Scrub) : (s.modScrub t f).sliceLens = s.sliceLens := rfl
@[simp] theorem State.modScrub_jobEnds (s : State) (t : Nat) (f : Scrub → Scrub) : (s.modScrub t f).jobEnds = s.jobEnds := rfl
@[simp] theorem State.modScrub_orphans (s : State) (t : Nat) (f : Scrub → Scrub) : (s.modScrub t f).orphans = s.orphans := rfl

@[simp] theorem State.modDebug_agenda (s : State) (k : Nat) (f : DebugBlk → DebugBlk) : (s.modDebug k f).agenda = s.agenda := rfl
@[simp] theorem State.modDebug_regOps (s : State) (k : Nat) (f : DebugBlk → DebugBlk) : (s.modDebug k f).regOps = s.regOps := rfl
@[simp] theorem State.modDebug_cur (s : State) (k : Nat) (f : DebugBlk → DebugBlk) : (s.modDebug k f).cur = s.cur := rfl
@[simp] theorem State.modDebug_draws (s : State) (k : Nat) (f : DebugBlk → DebugBlk) : (s.modDebug k f).draws = s.draws := rfl
@[simp] theorem State.modDebug_fc (s : State) (k : Nat) (f : DebugBlk → DebugBlk) : (s.modDebug k f).fc = s.fc := rfl
@[simp] theorem State.modDebug_ns (s : State) (k : Nat) (f : DebugBlk → DebugBlk) : (s.modDebug k f).ns = s.ns := rfl
@[simp] theorem State.modDebug_powered (s : State) (k : Nat) (f : DebugBlk → DebugBlk) : (s.modDebug k f).powered = s.powered := rfl
@[simp] theorem State.modDebug_mgmt (s : State) (k : Nat) (f : DebugBlk → DebugBlk) : (s.modDebug k f).mgmt = s.mgmt := rfl
@[simp] theorem State.modDebug_flash (s : State) (k : Nat) (f : DebugBlk → DebugBlk) : (s.modDebug k f).flash = s.flash := rfl
@[simp] theorem State.modDebug_fuseRollback (s : State) (k : Nat) (f : DebugBlk → DebugBlk) : (s.modDebug k f).fuseRollback = s.fuseRollback := rfl
@[simp] theorem State.modDebug_components (s : State) (k : Nat) (f : DebugBlk → DebugBlk) : (s.modDebug k f).components = s.components := rfl
@[simp] theorem State.modDebug_strap (s : State) (k : Nat) (f : DebugBlk → DebugBlk) : (s.modDebug k f).strap = s.strap := rfl
@[simp] theorem State.modDebug_jtag (s : State) (k : Nat) (f : DebugBlk → DebugBlk) : (s.modDebug k f).jtag = s.jtag := rfl
@[simp] theorem State.modDebug_harts (s : State) (k : Nat) (f : DebugBlk → DebugBlk) : (s.modDebug k f).harts = s.harts := rfl
@[simp] theorem State.modDebug_mem (s : State) (k : Nat) (f : DebugBlk → DebugBlk) : (s.modDebug k f).mem = s.mem := rfl
@[simp] theorem State.modDebug_poison (s : State) (k : Nat) (f : DebugBlk → DebugBlk) : (s.modDebug k f).poison = s.poison := rfl
@[simp] theorem State.modDebug_ilhus (s : State) (k : Nat) (f : DebugBlk → DebugBlk) : (s.modDebug k f).ilhus = s.ilhus := rfl
@[simp] theorem State.modDebug_xlat (s : State) (k : Nat) (f : DebugBlk → DebugBlk) : (s.modDebug k f).xlat = s.xlat := rfl
@[simp] theorem State.modDebug_tcache (s : State) (k : Nat) (f : DebugBlk → DebugBlk) : (s.modDebug k f).tcache = s.tcache := rfl
@[simp] theorem State.modDebug_access (s : State) (k : Nat) (f : DebugBlk → DebugBlk) : (s.modDebug k f).access = s.access := rfl
@[simp] theorem State.modDebug_partTab (s : State) (k : Nat) (f : DebugBlk → DebugBlk) : (s.modDebug k f).partTab = s.partTab := rfl
@[simp] theorem State.modDebug_partBlk (s : State) (k : Nat) (f : DebugBlk → DebugBlk) : (s.modDebug k f).partBlk = s.partBlk := rfl
@[simp] theorem State.modDebug_groups (s : State) (k : Nat) (f : DebugBlk → DebugBlk) : (s.modDebug k f).groups = s.groups := rfl
@[simp] theorem State.modDebug_routes (s : State) (k : Nat) (f : DebugBlk → DebugBlk) : (s.modDebug k f).routes = s.routes := rfl
@[simp] theorem State.modDebug_slices (s : State) (k : Nat) (f : DebugBlk → DebugBlk) : (s.modDebug k f).slices = s.slices := rfl
@[simp] theorem State.modDebug_msix (s : State) (k : Nat) (f : DebugBlk → DebugBlk) : (s.modDebug k f).msix = s.msix := rfl
@[simp] theorem State.modDebug_resv (s : State) (k : Nat) (f : DebugBlk → DebugBlk) : (s.modDebug k f).resv = s.resv := rfl
@[simp] theorem State.modDebug_far (s : State) (k : Nat) (f : DebugBlk → DebugBlk) : (s.modDebug k f).far = s.far := rfl
@[simp] theorem State.modDebug_faultRegs (s : State) (k : Nat) (f : DebugBlk → DebugBlk) : (s.modDebug k f).faultRegs = s.faultRegs := rfl
@[simp] theorem State.modDebug_scrubs (s : State) (k : Nat) (f : DebugBlk → DebugBlk) : (s.modDebug k f).scrubs = s.scrubs := rfl
@[simp] theorem State.modDebug_defects (s : State) (k : Nat) (f : DebugBlk → DebugBlk) : (s.modDebug k f).defects = s.defects := rfl
@[simp] theorem State.modDebug_pointers (s : State) (k : Nat) (f : DebugBlk → DebugBlk) : (s.modDebug k f).pointers = s.pointers := rfl
@[simp] theorem State.modDebug_vcps (s : State) (k : Nat) (f : DebugBlk → DebugBlk) : (s.modDebug k f).vcps = s.vcps := rfl
@[simp] theorem State.modDebug_service (s : State) (k : Nat) (f : DebugBlk → DebugBlk) : (s.modDebug k f).service = s.service := rfl
@[simp] theorem State.modDebug_pipe (s : State) (k : Nat) (f : DebugBlk → DebugBlk) : (s.modDebug k f).pipe = s.pipe := rfl
@[simp] theorem State.modDebug_accepts (s : State) (k : Nat) (f : DebugBlk → DebugBlk) : (s.modDebug k f).accepts = s.accepts := rfl
@[simp] theorem State.modDebug_launches (s : State) (k : Nat) (f : DebugBlk → DebugBlk) : (s.modDebug k f).launches = s.launches := rfl
@[simp] theorem State.modDebug_bedrock (s : State) (k : Nat) (f : DebugBlk → DebugBlk) : (s.modDebug k f).bedrock = s.bedrock := rfl
@[simp] theorem State.modDebug_journals (s : State) (k : Nat) (f : DebugBlk → DebugBlk) : (s.modDebug k f).journals = s.journals := rfl
@[simp] theorem State.modDebug_regions (s : State) (k : Nat) (f : DebugBlk → DebugBlk) : (s.modDebug k f).regions = s.regions := rfl
@[simp] theorem State.modDebug_gens (s : State) (k : Nat) (f : DebugBlk → DebugBlk) : (s.modDebug k f).gens = s.gens := rfl
@[simp] theorem State.modDebug_copies (s : State) (k : Nat) (f : DebugBlk → DebugBlk) : (s.modDebug k f).copies = s.copies := rfl
@[simp] theorem State.modDebug_colls (s : State) (k : Nat) (f : DebugBlk → DebugBlk) : (s.modDebug k f).colls = s.colls := rfl
@[simp] theorem State.modDebug_dune (s : State) (k : Nat) (f : DebugBlk → DebugBlk) : (s.modDebug k f).dune = s.dune := rfl
@[simp] theorem State.modDebug_credits (s : State) (k : Nat) (f : DebugBlk → DebugBlk) : (s.modDebug k f).credits = s.credits := rfl
@[simp] theorem State.modDebug_fails (s : State) (k : Nat) (f : DebugBlk → DebugBlk) : (s.modDebug k f).fails = s.fails := rfl
@[simp] theorem State.modDebug_notifies (s : State) (k : Nat) (f : DebugBlk → DebugBlk) : (s.modDebug k f).notifies = s.notifies := rfl
@[simp] theorem State.modDebug_pushes (s : State) (k : Nat) (f : DebugBlk → DebugBlk) : (s.modDebug k f).pushes = s.pushes := rfl
@[simp] theorem State.modDebug_cbcache (s : State) (k : Nat) (f : DebugBlk → DebugBlk) : (s.modDebug k f).cbcache = s.cbcache := rfl
@[simp] theorem State.modDebug_banks (s : State) (k : Nat) (f : DebugBlk → DebugBlk) : (s.modDebug k f).banks = s.banks := rfl
@[simp] theorem State.modDebug_traces (s : State) (k : Nat) (f : DebugBlk → DebugBlk) : (s.modDebug k f).traces = s.traces := rfl
@[simp] theorem State.modDebug_policies (s : State) (k : Nat) (f : DebugBlk → DebugBlk) : (s.modDebug k f).policies = s.policies := rfl
@[simp] theorem State.modDebug_polWait (s : State) (k : Nat) (f : DebugBlk → DebugBlk) : (s.modDebug k f).polWait = s.polWait := rfl
@[simp] theorem State.modDebug_lastNs (s : State) (k : Nat) (f : DebugBlk → DebugBlk) : (s.modDebug k f).lastNs = s.lastNs := rfl
@[simp] theorem State.modDebug_sliceLens (s : State) (k : Nat) (f : DebugBlk → DebugBlk) : (s.modDebug k f).sliceLens = s.sliceLens := rfl
@[simp] theorem State.modDebug_jobEnds (s : State) (k : Nat) (f : DebugBlk → DebugBlk) : (s.modDebug k f).jobEnds = s.jobEnds := rfl
@[simp] theorem State.modDebug_orphans (s : State) (k : Nat) (f : DebugBlk → DebugBlk) : (s.modDebug k f).orphans = s.orphans := rfl

@[simp] theorem State.memPut_agenda (s : State) (da : Nat) (bs : List Byte) (psn : Bool) : (s.memPut da bs psn).agenda = s.agenda := by unfold State.memPut; dsimp only; split <;> rfl
@[simp] theorem State.memPut_cur (s : State) (da : Nat) (bs : List Byte) (psn : Bool) : (s.memPut da bs psn).cur = s.cur := by unfold State.memPut; dsimp only; split <;> rfl
@[simp] theorem State.memPut_draws (s : State) (da : Nat) (bs : List Byte) (psn : Bool) : (s.memPut da bs psn).draws = s.draws := by unfold State.memPut; dsimp only; split <;> rfl
@[simp] theorem State.memPut_fc (s : State) (da : Nat) (bs : List Byte) (psn : Bool) : (s.memPut da bs psn).fc = s.fc := by unfold State.memPut; dsimp only; split <;> rfl
@[simp] theorem State.memPut_ns (s : State) (da : Nat) (bs : List Byte) (psn : Bool) : (s.memPut da bs psn).ns = s.ns := by unfold State.memPut; dsimp only; split <;> rfl
@[simp] theorem State.memPut_powered (s : State) (da : Nat) (bs : List Byte) (psn : Bool) : (s.memPut da bs psn).powered = s.powered := by unfold State.memPut; dsimp only; split <;> rfl
@[simp] theorem State.memPut_mgmt (s : State) (da : Nat) (bs : List Byte) (psn : Bool) : (s.memPut da bs psn).mgmt = s.mgmt := by unfold State.memPut; dsimp only; split <;> rfl
@[simp] theorem State.memPut_flash (s : State) (da : Nat) (bs : List Byte) (psn : Bool) : (s.memPut da bs psn).flash = s.flash := by unfold State.memPut; dsimp only; split <;> rfl
@[simp] theorem State.memPut_fuseRollback (s : State) (da : Nat) (bs : List Byte) (psn : Bool) : (s.memPut da bs psn).fuseRollback = s.fuseRollback := by unfold State.memPut; dsimp only; split <;> rfl
@[simp] theorem State.memPut_components (s : State) (da : Nat) (bs : List Byte) (psn : Bool) : (s.memPut da bs psn).components = s.components := by unfold State.memPut; dsimp only; split <;> rfl
@[simp] theorem State.memPut_strap (s : State) (da : Nat) (bs : List Byte) (psn : Bool) : (s.memPut da bs psn).strap = s.strap := by unfold State.memPut; dsimp only; split <;> rfl
@[simp] theorem State.memPut_jtag (s : State) (da : Nat) (bs : List Byte) (psn : Bool) : (s.memPut da bs psn).jtag = s.jtag := by unfold State.memPut; dsimp only; split <;> rfl
@[simp] theorem State.memPut_harts (s : State) (da : Nat) (bs : List Byte) (psn : Bool) : (s.memPut da bs psn).harts = s.harts := by unfold State.memPut; dsimp only; split <;> rfl
@[simp] theorem State.memPut_ilhus (s : State) (da : Nat) (bs : List Byte) (psn : Bool) : (s.memPut da bs psn).ilhus = s.ilhus := by unfold State.memPut; dsimp only; split <;> rfl
@[simp] theorem State.memPut_xlat (s : State) (da : Nat) (bs : List Byte) (psn : Bool) : (s.memPut da bs psn).xlat = s.xlat := by unfold State.memPut; dsimp only; split <;> rfl
@[simp] theorem State.memPut_tcache (s : State) (da : Nat) (bs : List Byte) (psn : Bool) : (s.memPut da bs psn).tcache = s.tcache := by unfold State.memPut; dsimp only; split <;> rfl
@[simp] theorem State.memPut_access (s : State) (da : Nat) (bs : List Byte) (psn : Bool) : (s.memPut da bs psn).access = s.access := by unfold State.memPut; dsimp only; split <;> rfl
@[simp] theorem State.memPut_partTab (s : State) (da : Nat) (bs : List Byte) (psn : Bool) : (s.memPut da bs psn).partTab = s.partTab := by unfold State.memPut; dsimp only; split <;> rfl
@[simp] theorem State.memPut_partBlk (s : State) (da : Nat) (bs : List Byte) (psn : Bool) : (s.memPut da bs psn).partBlk = s.partBlk := by unfold State.memPut; dsimp only; split <;> rfl
@[simp] theorem State.memPut_groups (s : State) (da : Nat) (bs : List Byte) (psn : Bool) : (s.memPut da bs psn).groups = s.groups := by unfold State.memPut; dsimp only; split <;> rfl
@[simp] theorem State.memPut_routes (s : State) (da : Nat) (bs : List Byte) (psn : Bool) : (s.memPut da bs psn).routes = s.routes := by unfold State.memPut; dsimp only; split <;> rfl
@[simp] theorem State.memPut_slices (s : State) (da : Nat) (bs : List Byte) (psn : Bool) : (s.memPut da bs psn).slices = s.slices := by unfold State.memPut; dsimp only; split <;> rfl
@[simp] theorem State.memPut_msix (s : State) (da : Nat) (bs : List Byte) (psn : Bool) : (s.memPut da bs psn).msix = s.msix := by unfold State.memPut; dsimp only; split <;> rfl
@[simp] theorem State.memPut_far (s : State) (da : Nat) (bs : List Byte) (psn : Bool) : (s.memPut da bs psn).far = s.far := by unfold State.memPut; dsimp only; split <;> rfl
@[simp] theorem State.memPut_faultRegs (s : State) (da : Nat) (bs : List Byte) (psn : Bool) : (s.memPut da bs psn).faultRegs = s.faultRegs := by unfold State.memPut; dsimp only; split <;> rfl
@[simp] theorem State.memPut_scrubs (s : State) (da : Nat) (bs : List Byte) (psn : Bool) : (s.memPut da bs psn).scrubs = s.scrubs := by unfold State.memPut; dsimp only; split <;> rfl
@[simp] theorem State.memPut_debug (s : State) (da : Nat) (bs : List Byte) (psn : Bool) : (s.memPut da bs psn).debug = s.debug := by unfold State.memPut; dsimp only; split <;> rfl
@[simp] theorem State.memPut_defects (s : State) (da : Nat) (bs : List Byte) (psn : Bool) : (s.memPut da bs psn).defects = s.defects := by unfold State.memPut; dsimp only; split <;> rfl
@[simp] theorem State.memPut_pointers (s : State) (da : Nat) (bs : List Byte) (psn : Bool) : (s.memPut da bs psn).pointers = s.pointers := by unfold State.memPut; dsimp only; split <;> rfl
@[simp] theorem State.memPut_vcps (s : State) (da : Nat) (bs : List Byte) (psn : Bool) : (s.memPut da bs psn).vcps = s.vcps := by unfold State.memPut; dsimp only; split <;> rfl
@[simp] theorem State.memPut_service (s : State) (da : Nat) (bs : List Byte) (psn : Bool) : (s.memPut da bs psn).service = s.service := by unfold State.memPut; dsimp only; split <;> rfl
@[simp] theorem State.memPut_pipe (s : State) (da : Nat) (bs : List Byte) (psn : Bool) : (s.memPut da bs psn).pipe = s.pipe := by unfold State.memPut; dsimp only; split <;> rfl
@[simp] theorem State.memPut_accepts (s : State) (da : Nat) (bs : List Byte) (psn : Bool) : (s.memPut da bs psn).accepts = s.accepts := by unfold State.memPut; dsimp only; split <;> rfl
@[simp] theorem State.memPut_launches (s : State) (da : Nat) (bs : List Byte) (psn : Bool) : (s.memPut da bs psn).launches = s.launches := by unfold State.memPut; dsimp only; split <;> rfl
@[simp] theorem State.memPut_bedrock (s : State) (da : Nat) (bs : List Byte) (psn : Bool) : (s.memPut da bs psn).bedrock = s.bedrock := by unfold State.memPut; dsimp only; split <;> rfl
@[simp] theorem State.memPut_journals (s : State) (da : Nat) (bs : List Byte) (psn : Bool) : (s.memPut da bs psn).journals = s.journals := by unfold State.memPut; dsimp only; split <;> rfl
@[simp] theorem State.memPut_regions (s : State) (da : Nat) (bs : List Byte) (psn : Bool) : (s.memPut da bs psn).regions = s.regions := by unfold State.memPut; dsimp only; split <;> rfl
@[simp] theorem State.memPut_gens (s : State) (da : Nat) (bs : List Byte) (psn : Bool) : (s.memPut da bs psn).gens = s.gens := by unfold State.memPut; dsimp only; split <;> rfl
@[simp] theorem State.memPut_copies (s : State) (da : Nat) (bs : List Byte) (psn : Bool) : (s.memPut da bs psn).copies = s.copies := by unfold State.memPut; dsimp only; split <;> rfl
@[simp] theorem State.memPut_colls (s : State) (da : Nat) (bs : List Byte) (psn : Bool) : (s.memPut da bs psn).colls = s.colls := by unfold State.memPut; dsimp only; split <;> rfl
@[simp] theorem State.memPut_dune (s : State) (da : Nat) (bs : List Byte) (psn : Bool) : (s.memPut da bs psn).dune = s.dune := by unfold State.memPut; dsimp only; split <;> rfl
@[simp] theorem State.memPut_credits (s : State) (da : Nat) (bs : List Byte) (psn : Bool) : (s.memPut da bs psn).credits = s.credits := by unfold State.memPut; dsimp only; split <;> rfl
@[simp] theorem State.memPut_fails (s : State) (da : Nat) (bs : List Byte) (psn : Bool) : (s.memPut da bs psn).fails = s.fails := by unfold State.memPut; dsimp only; split <;> rfl
@[simp] theorem State.memPut_notifies (s : State) (da : Nat) (bs : List Byte) (psn : Bool) : (s.memPut da bs psn).notifies = s.notifies := by unfold State.memPut; dsimp only; split <;> rfl
@[simp] theorem State.memPut_pushes (s : State) (da : Nat) (bs : List Byte) (psn : Bool) : (s.memPut da bs psn).pushes = s.pushes := by unfold State.memPut; dsimp only; split <;> rfl
@[simp] theorem State.memPut_cbcache (s : State) (da : Nat) (bs : List Byte) (psn : Bool) : (s.memPut da bs psn).cbcache = s.cbcache := by unfold State.memPut; dsimp only; split <;> rfl
@[simp] theorem State.memPut_banks (s : State) (da : Nat) (bs : List Byte) (psn : Bool) : (s.memPut da bs psn).banks = s.banks := by unfold State.memPut; dsimp only; split <;> rfl
@[simp] theorem State.memPut_traces (s : State) (da : Nat) (bs : List Byte) (psn : Bool) : (s.memPut da bs psn).traces = s.traces := by unfold State.memPut; dsimp only; split <;> rfl
@[simp] theorem State.memPut_policies (s : State) (da : Nat) (bs : List Byte) (psn : Bool) : (s.memPut da bs psn).policies = s.policies := by unfold State.memPut; dsimp only; split <;> rfl
@[simp] theorem State.memPut_polWait (s : State) (da : Nat) (bs : List Byte) (psn : Bool) : (s.memPut da bs psn).polWait = s.polWait := by unfold State.memPut; dsimp only; split <;> rfl
@[simp] theorem State.memPut_lastNs (s : State) (da : Nat) (bs : List Byte) (psn : Bool) : (s.memPut da bs psn).lastNs = s.lastNs := by unfold State.memPut; dsimp only; split <;> rfl
@[simp] theorem State.memPut_sliceLens (s : State) (da : Nat) (bs : List Byte) (psn : Bool) : (s.memPut da bs psn).sliceLens = s.sliceLens := by unfold State.memPut; dsimp only; split <;> rfl
@[simp] theorem State.memPut_jobEnds (s : State) (da : Nat) (bs : List Byte) (psn : Bool) : (s.memPut da bs psn).jobEnds = s.jobEnds := by unfold State.memPut; dsimp only; split <;> rfl
@[simp] theorem State.memPut_orphans (s : State) (da : Nat) (bs : List Byte) (psn : Bool) : (s.memPut da bs psn).orphans = s.orphans := by unfold State.memPut; dsimp only; split <;> rfl

/-! ### A change of one region -/

theorem State.modRegion_of_some {s : State} {k : Nat} {r : Region} (h : s.region k = some r) (f : Region → Region) :
    s.modRegion k f = s.setRegion k (f r) := by simp [State.modRegion, h]

theorem State.modRegion_of_none {s : State} {k : Nat} (h : s.region k = none) (f : Region → Region) : s.modRegion k f = s := by
  simp [State.modRegion, h]

/-- A change of one region changes nothing but the list of regions. -/
theorem State.modRegion_frame (s : State) (k : Nat) (f : Region → Region) :
    s.modRegion k f = { s with regions := (s.modRegion k f).regions } := by
  unfold State.modRegion
  split <;> rfl

@[simp] theorem State.modRegion_agenda (s : State) (k : Nat) (f : Region → Region) : (s.modRegion k f).agenda = s.agenda := by
  rw [State.modRegion_frame]

@[simp] theorem State.modRegion_regOps (s : State) (k : Nat) (f : Region → Region) : (s.modRegion k f).regOps = s.regOps := by
  rw [State.modRegion_frame]

@[simp] theorem State.modRegion_cur (s : State) (k : Nat) (f : Region → Region) : (s.modRegion k f).cur = s.cur := by
  rw [State.modRegion_frame]

@[simp] theorem State.modRegion_draws (s : State) (k : Nat) (f : Region → Region) : (s.modRegion k f).draws = s.draws := by
  rw [State.modRegion_frame]

@[simp] theorem State.modRegion_fc (s : State) (k : Nat) (f : Region → Region) : (s.modRegion k f).fc = s.fc := by
  rw [State.modRegion_frame]

@[simp] theorem State.modRegion_ns (s : State) (k : Nat) (f : Region → Region) : (s.modRegion k f).ns = s.ns := by
  rw [State.modRegion_frame]

@[simp] theorem State.modRegion_powered (s : State) (k : Nat) (f : Region → Region) : (s.modRegion k f).powered = s.powered := by
  rw [State.modRegion_frame]

@[simp] theorem State.modRegion_mgmt (s : State) (k : Nat) (f : Region → Region) : (s.modRegion k f).mgmt = s.mgmt := by
  rw [State.modRegion_frame]

@[simp] theorem State.modRegion_flash (s : State) (k : Nat) (f : Region → Region) : (s.modRegion k f).flash = s.flash := by
  rw [State.modRegion_frame]

@[simp] theorem State.modRegion_fuseRollback (s : State) (k : Nat) (f : Region → Region) : (s.modRegion k f).fuseRollback = s.fuseRollback := by
  rw [State.modRegion_frame]

@[simp] theorem State.modRegion_components (s : State) (k : Nat) (f : Region → Region) : (s.modRegion k f).components = s.components := by
  rw [State.modRegion_frame]

@[simp] theorem State.modRegion_strap (s : State) (k : Nat) (f : Region → Region) : (s.modRegion k f).strap = s.strap := by
  rw [State.modRegion_frame]

@[simp] theorem State.modRegion_jtag (s : State) (k : Nat) (f : Region → Region) : (s.modRegion k f).jtag = s.jtag := by
  rw [State.modRegion_frame]

@[simp] theorem State.modRegion_harts (s : State) (k : Nat) (f : Region → Region) : (s.modRegion k f).harts = s.harts := by
  rw [State.modRegion_frame]

@[simp] theorem State.modRegion_mem (s : State) (k : Nat) (f : Region → Region) : (s.modRegion k f).mem = s.mem := by
  rw [State.modRegion_frame]

@[simp] theorem State.modRegion_poison (s : State) (k : Nat) (f : Region → Region) : (s.modRegion k f).poison = s.poison := by
  rw [State.modRegion_frame]

@[simp] theorem State.modRegion_ilhus (s : State) (k : Nat) (f : Region → Region) : (s.modRegion k f).ilhus = s.ilhus := by
  rw [State.modRegion_frame]

@[simp] theorem State.modRegion_xlat (s : State) (k : Nat) (f : Region → Region) : (s.modRegion k f).xlat = s.xlat := by
  rw [State.modRegion_frame]

@[simp] theorem State.modRegion_tcache (s : State) (k : Nat) (f : Region → Region) : (s.modRegion k f).tcache = s.tcache := by
  rw [State.modRegion_frame]

@[simp] theorem State.modRegion_access (s : State) (k : Nat) (f : Region → Region) : (s.modRegion k f).access = s.access := by
  rw [State.modRegion_frame]

@[simp] theorem State.modRegion_partTab (s : State) (k : Nat) (f : Region → Region) : (s.modRegion k f).partTab = s.partTab := by
  rw [State.modRegion_frame]

@[simp] theorem State.modRegion_partBlk (s : State) (k : Nat) (f : Region → Region) : (s.modRegion k f).partBlk = s.partBlk := by
  rw [State.modRegion_frame]

@[simp] theorem State.modRegion_groups (s : State) (k : Nat) (f : Region → Region) : (s.modRegion k f).groups = s.groups := by
  rw [State.modRegion_frame]

@[simp] theorem State.modRegion_routes (s : State) (k : Nat) (f : Region → Region) : (s.modRegion k f).routes = s.routes := by
  rw [State.modRegion_frame]

@[simp] theorem State.modRegion_slices (s : State) (k : Nat) (f : Region → Region) : (s.modRegion k f).slices = s.slices := by
  rw [State.modRegion_frame]

@[simp] theorem State.modRegion_msix (s : State) (k : Nat) (f : Region → Region) : (s.modRegion k f).msix = s.msix := by
  rw [State.modRegion_frame]

@[simp] theorem State.modRegion_resv (s : State) (k : Nat) (f : Region → Region) : (s.modRegion k f).resv = s.resv := by
  rw [State.modRegion_frame]

@[simp] theorem State.modRegion_far (s : State) (k : Nat) (f : Region → Region) : (s.modRegion k f).far = s.far := by
  rw [State.modRegion_frame]

@[simp] theorem State.modRegion_faultRegs (s : State) (k : Nat) (f : Region → Region) : (s.modRegion k f).faultRegs = s.faultRegs := by
  rw [State.modRegion_frame]

@[simp] theorem State.modRegion_scrubs (s : State) (k : Nat) (f : Region → Region) : (s.modRegion k f).scrubs = s.scrubs := by
  rw [State.modRegion_frame]

@[simp] theorem State.modRegion_debug (s : State) (k : Nat) (f : Region → Region) : (s.modRegion k f).debug = s.debug := by
  rw [State.modRegion_frame]

@[simp] theorem State.modRegion_defects (s : State) (k : Nat) (f : Region → Region) : (s.modRegion k f).defects = s.defects := by
  rw [State.modRegion_frame]

@[simp] theorem State.modRegion_pointers (s : State) (k : Nat) (f : Region → Region) : (s.modRegion k f).pointers = s.pointers := by
  rw [State.modRegion_frame]

@[simp] theorem State.modRegion_vcps (s : State) (k : Nat) (f : Region → Region) : (s.modRegion k f).vcps = s.vcps := by
  rw [State.modRegion_frame]

@[simp] theorem State.modRegion_service (s : State) (k : Nat) (f : Region → Region) : (s.modRegion k f).service = s.service := by
  rw [State.modRegion_frame]

@[simp] theorem State.modRegion_pipe (s : State) (k : Nat) (f : Region → Region) : (s.modRegion k f).pipe = s.pipe := by
  rw [State.modRegion_frame]

@[simp] theorem State.modRegion_accepts (s : State) (k : Nat) (f : Region → Region) : (s.modRegion k f).accepts = s.accepts := by
  rw [State.modRegion_frame]

@[simp] theorem State.modRegion_launches (s : State) (k : Nat) (f : Region → Region) : (s.modRegion k f).launches = s.launches := by
  rw [State.modRegion_frame]

@[simp] theorem State.modRegion_bedrock (s : State) (k : Nat) (f : Region → Region) : (s.modRegion k f).bedrock = s.bedrock := by
  rw [State.modRegion_frame]

@[simp] theorem State.modRegion_journals (s : State) (k : Nat) (f : Region → Region) : (s.modRegion k f).journals = s.journals := by
  rw [State.modRegion_frame]

@[simp] theorem State.modRegion_gens (s : State) (k : Nat) (f : Region → Region) : (s.modRegion k f).gens = s.gens := by
  rw [State.modRegion_frame]

@[simp] theorem State.modRegion_copies (s : State) (k : Nat) (f : Region → Region) : (s.modRegion k f).copies = s.copies := by
  rw [State.modRegion_frame]

@[simp] theorem State.modRegion_colls (s : State) (k : Nat) (f : Region → Region) : (s.modRegion k f).colls = s.colls := by
  rw [State.modRegion_frame]

@[simp] theorem State.modRegion_dune (s : State) (k : Nat) (f : Region → Region) : (s.modRegion k f).dune = s.dune := by
  rw [State.modRegion_frame]

@[simp] theorem State.modRegion_credits (s : State) (k : Nat) (f : Region → Region) : (s.modRegion k f).credits = s.credits := by
  rw [State.modRegion_frame]

@[simp] theorem State.modRegion_fails (s : State) (k : Nat) (f : Region → Region) : (s.modRegion k f).fails = s.fails := by
  rw [State.modRegion_frame]

@[simp] theorem State.modRegion_notifies (s : State) (k : Nat) (f : Region → Region) : (s.modRegion k f).notifies = s.notifies := by
  rw [State.modRegion_frame]

@[simp] theorem State.modRegion_pushes (s : State) (k : Nat) (f : Region → Region) : (s.modRegion k f).pushes = s.pushes := by
  rw [State.modRegion_frame]

@[simp] theorem State.modRegion_cbcache (s : State) (k : Nat) (f : Region → Region) : (s.modRegion k f).cbcache = s.cbcache := by
  rw [State.modRegion_frame]

@[simp] theorem State.modRegion_banks (s : State) (k : Nat) (f : Region → Region) : (s.modRegion k f).banks = s.banks := by
  rw [State.modRegion_frame]

@[simp] theorem State.modRegion_traces (s : State) (k : Nat) (f : Region → Region) : (s.modRegion k f).traces = s.traces := by
  rw [State.modRegion_frame]

@[simp] theorem State.modRegion_policies (s : State) (k : Nat) (f : Region → Region) : (s.modRegion k f).policies = s.policies := by
  rw [State.modRegion_frame]

@[simp] theorem State.modRegion_polWait (s : State) (k : Nat) (f : Region → Region) : (s.modRegion k f).polWait = s.polWait := by
  rw [State.modRegion_frame]

@[simp] theorem State.modRegion_lastNs (s : State) (k : Nat) (f : Region → Region) : (s.modRegion k f).lastNs = s.lastNs := by
  rw [State.modRegion_frame]

@[simp] theorem State.modRegion_sliceLens (s : State) (k : Nat) (f : Region → Region) : (s.modRegion k f).sliceLens = s.sliceLens := by
  rw [State.modRegion_frame]

@[simp] theorem State.modRegion_jobEnds (s : State) (k : Nat) (f : Region → Region) : (s.modRegion k f).jobEnds = s.jobEnds := by
  rw [State.modRegion_frame]

@[simp] theorem State.modRegion_orphans (s : State) (k : Nat) (f : Region → Region) : (s.modRegion k f).orphans = s.orphans := by
  rw [State.modRegion_frame]

end Sys2Proof.Machine
end

