-- ==== Sys2Proof/Laws/Regions.lean ====
section
/-! SUPPORT. Regions: reading an element, a unit or a switch after a change, a handle's region, and the states a region passes through. -/

namespace Sys2Proof.Machine

/-- The first entry of a list that meets a test, after a change that keeps the test's answer and is made where the test holds. -/
theorem find?_map_if {α : Type} (l : List α) (p : α → Bool) (f : α → α) (hf : ∀ a, p a = true → p (f a) = true) :
    (l.map fun a => if p a then f a else a).find? p = (l.find? p).map f := by
  induction l with
  | nil => rfl
  | cons a r ih =>
    simp only [List.map_cons, List.find?_cons]
    cases h : p a with
    | true => simp [hf a h]
    | false => simp [h, ih]

theorem Region.tile_modTile (r : Region) (x y : Nat) (f : Tile → Tile) (hf : ∀ t, (f t).x = t.x ∧ (f t).y = t.y) :
    (r.modTile x y f).tile x y = (r.tile x y).map f := by
  refine find?_map_if r.tiles (fun t => t.x == x && t.y == y) f fun t h => ?_
  rw [(hf t).1, (hf t).2]; exact h

theorem Tile.elem_modElem (t : Tile) (k : Elt) (f : Element → Element) (hf : ∀ e, (f e).elt = e.elt) :
    (t.modElem k f).elem k = (t.elem k).map f := by
  refine find?_map_if t.elts (fun e => e.elt == k) f fun e h => ?_
  rw [hf e]; exact h

/-- Reading the element that was changed. -/
theorem Region.elem_modElem (r : Region) (x y : Nat) (k : Elt) (f : Element → Element) (hf : ∀ e, (f e).elt = e.elt) :
    (r.modElem x y k f).elem x y k = (r.elem x y k).map f := by
  unfold Region.elem Region.modElem
  rw [Region.tile_modTile r x y (·.modElem k f) fun t => ⟨rfl, rfl⟩]
  cases r.tile x y with
  | none => rfl
  | some t => exact Tile.elem_modElem t k f hf

/-- An element that is found at a place is of that kind. -/
theorem Region.elem_elt {r : Region} {x y : Nat} {k : Elt} {e : Element} (h : r.elem x y k = some e) : e.elt = k := by
  unfold Region.elem at h
  cases ht : r.tile x y with
  | none => simp [ht] at h
  | some t =>
    simp [ht, Tile.elem] at h
    simpa using List.find?_some h

/-- Reading the counter-chain unit that was changed. -/
theorem Region.ccu_modCcu (r : Region) (x y : Nat) (f : Ccu → Ccu) : (r.modCcu x y f).ccu x y = (r.ccu x y).map f := by
  unfold Region.ccu Region.modCcu
  rw [Region.tile_modTile r x y (fun t => { t with ccu := t.ccu.map f }) fun t => ⟨rfl, rfl⟩]
  cases r.tile x y <;> rfl

/-- Two changes of one region: the later one stands. -/
theorem State.setRegion_setRegion (s : State) (k : Nat) (r q : Region) : (s.setRegion k r).setRegion k q = s.setRegion k q := by
  have : ∀ l : List (Nat × Region), insertKV (insertKV l k r) k q = insertKV l k q := by
    intro l
    induction l with
    | nil => simp [insertKV]
    | cons e t ih =>
      obtain ⟨j, v⟩ := e
      by_cases h : j = k <;> simp [insertKV, h, ih]
  simp [State.setRegion, this]

/-- A handle that is good names the region of its slot. -/
theorem State.byHandle_region {s : State} {h slot : Nat} {t : Option Nat} {r : Region} (hh : s.byHandle h t = .ok (slot, r)) :
    s.region slot = some r := by
  unfold State.byHandle at hh
  split at hh
  · cases hh
  · dsimp only at hh
    split at hh
    · split at hh
      · cases hh
      · split at hh
        · split at hh
          · injection hh with hh; injection hh with h1 h2; subst h1; subst h2; assumption
          · cases hh
        · injection hh with hh; injection hh with h1 h2; subst h1; subst h2; assumption
    · cases hh

/-- A selection keeps the element's kind. -/
@[simp] theorem Element.select_elt (e : Element) (fc : Nat) : (e.select fc).elt = e.elt := by
  unfold Element.select; simp only; split <;> rfl

/-! ### Trace records and state changes -/

/-- A trace record touches the traces only. -/
theorem State.traceRec_frame (s : State) (k : Nat) (r : TrcRec) : s.traceRec k r = { s with traces := (s.traceRec k r).traces } := by
  unfold State.traceRec; split <;> rfl

@[simp] theorem State.traceRec_region (s : State) (k j : Nat) (r : TrcRec) : (s.traceRec k r).region j = s.region j := by
  rw [State.traceRec_frame]; rfl

/-- A state change touches the region and the traces only. -/
theorem State.toState_frame (s : State) (k : Nat) (st : RState) :
    s.toState k st = { s with regions := (s.toState k st).regions, traces := (s.toState k st).traces } := by
  unfold State.toState
  rw [State.traceRec_frame, State.modRegion_frame]

theorem State.toState_region {s : State} {k : Nat} {r : Region} (st : RState) (h : s.region k = some r) :
    (s.toState k st).region k = some { r with state := st } := by
  unfold State.toState; rw [State.traceRec_region, State.modRegion_of_some h]; simp

@[simp] theorem State.due_region (s : State) (p : PktRef) (st fc res sts obj : Nat) (q : Bool) (j : Nat) :
    (s.due p st fc res sts obj q).region j = s.region j := rfl

/-- A region that begins to run. -/
theorem State.beginRun_region {s : State} {k : Nat} {r : Region} (h : s.region k = some r) :
    (s.beginRun k).region k = some { r with run := true, started := true, active := if r.started then r.active else 0 } := by
  unfold State.beginRun; rw [h]; dsimp only; split <;> simp

/-- A region that starts or resumes: resident, running, without a freeze, its tiles as they were. -/
theorem State.go_region {s : State} {k : Nat} {r : Region} (h : s.region k = some r) :
    ∃ q, (s.go k).region k = some q ∧ q.state = .resident ∧ q.run = true ∧ q.freeze = none ∧ q.tiles = r.tiles := by
  unfold State.go
  dsimp only
  rw [State.modRegion_of_some h]
  simp only [State.region_setRegion]
  split
  · next hs => rw [State.beginRun_region (State.region_setRegion _ _ _)]; simp at hs; simp [hs]
  · rw [State.beginRun_region (State.toState_region _ (State.region_setRegion _ _ _))]; simp

end Sys2Proof.Machine
end

