-- ==== Sys2Proof/Laws/Steps.lean ====
section
/-! SUPPORT. What the shared operations of a step can do: writes to memory and to registers, arrivals, engine commands that wait on a
FIFO, and the end of a step. -/

namespace Sys2Proof.Machine

/-! ### Writes to memory and to registers -/

/-- A write below register space, or of another module's memory, changes memory, the poison markers and the reservations on its bytes only. -/
theorem State.memPut_mem {s : State} {da : Nat} (bs : List Byte) (psn : Bool) (h : s.memKey da < regSpace ∨ 2 ^ 47 ≤ s.memKey da) :
    s.memPut da bs psn = { s with mem := memWriteBytes s.mem (s.memKey da) bs, poison := poisonAfterWrite s.poison (s.memKey da) bs.length psn, resv := resvAfterWrite s.resv (s.memKey da) bs.length } := by
  unfold State.memPut; exact if_neg (by omega)

/-- A write to a register of this module waits for the end of the step. -/
theorem State.memPut_reg {s : State} {da : Nat} (bs : List Byte) (psn : Bool) (h : regSpace ≤ s.memKey da) (h2 : s.memKey da < 2 ^ 47) :
    s.memPut da bs psn = { s with regOps := s.regOps ++ regWrites (s.memKey da) (2 ^ bs.length - 1) bs } := by
  unfold State.memPut; exact if_pos ⟨h, h2⟩

theorem State.memPut_frame (s : State) (da : Nat) (bs : List Byte) (psn : Bool) :
    s.memPut da bs psn = { s with mem := (s.memPut da bs psn).mem, poison := (s.memPut da bs psn).poison, resv := (s.memPut da bs psn).resv, regOps := (s.memPut da bs psn).regOps } := by
  unfold State.memPut; dsimp only; split <;> rfl

theorem State.memPutMasked_frame (s : State) (da mask : Nat) (bs : List Byte) (psn : Bool) :
    s.memPutMasked da mask bs psn =
      { s with mem := (s.memPutMasked da mask bs psn).mem, poison := (s.memPutMasked da mask bs psn).poison, resv := (s.memPutMasked da mask bs psn).resv, regOps := (s.memPutMasked da mask bs psn).regOps } := by
  unfold State.memPutMasked; dsimp only; split <;> rfl

/-- Every write keeps the canonical form of memory. -/
theorem State.memPut_inv {s : State} (da : Nat) (bs : List Byte) (psn : Bool) (h : Memory.wf s.mem = true) : Memory.wf (s.memPut da bs psn).mem = true := by
  unfold State.memPut; dsimp only; split
  · exact h
  · exact memWriteBytes_wf _ _ h

theorem State.memPutMasked_inv {s : State} (da mask : Nat) (bs : List Byte) (psn : Bool) (h : Memory.wf s.mem = true) :
    Memory.wf (s.memPutMasked da mask bs psn).mem = true := by
  unfold State.memPutMasked; dsimp only; split
  · exact h
  · exact memWriteMasked_wf _ _ _ h

/-- A write leaves every byte outside it as it was. -/
theorem State.memPut_out {s : State} {da : Nat} (bs : List Byte) (psn : Bool) {a : Nat} (h : a < s.memKey da ∨ s.memKey da + bs.length ≤ a) :
    memRead (s.memPut da bs psn).mem a = memRead s.mem a := by
  unfold State.memPut; dsimp only; split
  · rfl
  · exact memRead_memWriteBytes_out _ _ _ h

/-! ### What a reset keeps of memory -/

theorem Memory.wfFrom_mono {lo k : Nat} {m : Memory} (hk : k ≤ lo) (h : Memory.wfFrom lo m = true) : Memory.wfFrom k m = true := by
  cases m with
  | nil => rfl
  | cons c r =>
    obtain ⟨a, b⟩ := c
    simp only [Memory.wfFrom, Bool.and_eq_true, decide_eq_true_eq] at h ⊢
    exact ⟨⟨by omega, h.1.2⟩, h.2⟩

theorem Memory.wfFrom_filter {lo : Nat} {m : Memory} (p : Host.Cell → Bool) (h : Memory.wfFrom lo m = true) : Memory.wfFrom lo (m.filter p) = true := by
  induction m generalizing lo with
  | nil => rfl
  | cons c r ih =>
    obtain ⟨a, b⟩ := c
    simp only [Memory.wfFrom, Bool.and_eq_true, decide_eq_true_eq] at h
    rw [List.filter_cons]
    split
    · simp only [Memory.wfFrom, Bool.and_eq_true, decide_eq_true_eq]
      exact ⟨h.1, ih h.2⟩
    · exact Memory.wfFrom_mono (by omega) (ih h.2)

/-- What a reset keeps of memory is in canonical form. -/
theorem outerMem_wf {m : Memory} (h : Memory.wf m = true) : Memory.wf (outerMem m) = true := Memory.wfFrom_filter _ h

/-! ### The end of a step -/

/-- Where no register was written, the end of a step changes nothing. -/
@[simp] theorem State.settleRegs_none {s : State} (h : s.regOps = []) : s.settleRegs = s := by
  unfold State.settleRegs; rw [h]; cases s; simp_all

theorem settled_next {s : State} (h : s.regOps = []) : settled (.next s) = .next s := by
  simp [settled, h]

/-! ### Arrivals -/

@[simp] theorem Element.arrive_elt (e : Element) (ch : Nat) (a : Arr) : (e.arrive ch a).elt = e.elt := rfl
@[simp] theorem Element.arrive_run (e : Element) (ch : Nat) (a : Arr) : (e.arrive ch a).run = e.run := rfl
@[simp] theorem Element.arrive_ports (e : Element) (ch : Nat) (a : Arr) : (e.arrive ch a).ports = e.ports := rfl
@[simp] theorem Element.arrive_banks (e : Element) (ch : Nat) (a : Arr) : (e.arrive ch a).banks = e.banks := rfl

/-! ### Engine commands that wait on a FIFO -/

/-- With no queue's head waiting on the FIFO, a pop finds it as it stands. -/
theorem State.headsOn_none {s : State} {h f : Nat} (hn : ∀ e ∈ s.queueHeads, waitsToken h f e.2 = false) : (s.headsOn h f).foldl State.issue s = s := by
  have : s.headsOn h f = [] := by
    unfold State.headsOn
    rw [List.filter_eq_nil_iff.mpr (by intro e he; simp [hn e he])]
    rfl
  rw [this]; rfl

/-! ### Packets -/

@[simp] theorem State.handOver_go (s0 : State) (p : Packet) (s : State) (obj : Nat) (f : State → PktRef → State) :
    s0.handOver p (.go s obj f) = f (s.accept p obj).1 (s.accept p obj).2 := rfl

theorem State.handOver_refused (s : State) (p : Packet) (e : Refuse) (low : Nat) :
    s.handOver p (.refused s e low) = (s.accept p 0).1.finish (s.accept p 0).2 4 0 0 (refuseWord e low) 0 := rfl

end Sys2Proof.Machine
end

