-- ==== Sys2Proof/Tests/Slice0.lean ====
section
/-! SUPPORT. Tests of the model: ill-formed terms, words written out from the encodings of spec/02 and spec/09, values from the tables of spec/04 and
spec/05, and for every obligation with hypotheses states and operands that meet them. Expected values come from the spec or by hand from it. -/

namespace Sys2Proof.Tests

set_option Elab.async false
open Machine

/-- An entry of a target's access table that grants every kind to every MID on every unit. -/
def grant : W64 × W64 := (.ofNat 64 (put 63 60 15 + put 46 35 0xFFF), .ofNat 64 (put 62 32 0x7FFFFFFF))

def le64 (ws : List Nat) : List Byte := ws.flatMap (toBytes 8)

/-- Put 64-bit words into memory. -/
def withWords (s : State) (a : Nat) (ws : List Nat) : State := { s with mem := memWriteBytes s.mem a (le64 ws) }

/-- Give registers of hart 0. -/
def withRegs (s : State) (l : List (Nat × Nat)) : State :=
  s.modHart 0 fun c => { c with x := l.foldl (fun a p => a.set p.1 (.ofNat 64 p.2)) c.x }

/-- A machine whose harts run: one partition of strip 0, target 0 and the device space open to all, address space 1
(tenant 7, MID 1) mapped to itself below 16 GiB. -/
def mach : State :=
  withWords (withWords (withWords
    { State.reset with
      harts := List.replicate 64 { on := true }
      partTab := [(0, .ofNat 64 (2 ^ 63))]
      access := [((0, 0), grant), ((40, 0), grant)]
      xlat := { base := 0, en := true } } 32 [2 ^ 63 + 0x40000, put 63 48 7 + put 43 32 1 + 0xFF, 0, 0]) 0x40000 [0x41000 + 1]) 0x41000 [0xFF]

/-- An answer that is `.ok`. -/
def okOf {ε α : Type} : Except ε α → Option α
  | .ok a => some a
  | .error _ => none

theorem eq_ok {σ ε α : Type} {p : σ × Except ε α} {s : σ} {a : α} (h1 : p.1 = s) (h2 : okOf p.2 = some a) : p = (s, .ok a) := by
  obtain ⟨x, y⟩ := p
  cases y with
  | ok b => simp [okOf] at h1 h2; simp [h1, h2]
  | error e => simp [okOf] at h2


def errOf {ε α : Type} : Except ε α → Option ε
  | .ok _ => none
  | .error e => some e

theorem eq_err {σ ε α : Type} {p : σ × Except ε α} {s : σ} {e : ε} (h1 : p.1 = s) (h2 : errOf p.2 = some e) : p = (s, .error e) := by
  obtain ⟨x, y⟩ := p
  cases y with
  | ok b => simp [errOf] at h2
  | error e => simp [errOf] at h1 h2; simp [h1, h2]

/-- The same for an answer that holds no state. -/
theorem eq_ok1 {ε α : Type} {p : Except ε α} {a : α} (h : okOf p = some a) : p = .ok a := by cases p <;> simp_all [okOf]

theorem eq_err1 {ε α : Type} {p : Except ε α} {e : ε} (h : errOf p = some e) : p = .error e := by cases p <;> simp_all [errOf]


theorem eq_get {σ ε α : Type} {p : σ × Except ε α} (h : (okOf p.2).isSome = true) : p = (p.1, .ok ((okOf p.2).get h)) := by
  obtain ⟨x, y⟩ := p
  cases y with
  | ok b => rfl
  | error e => simp [okOf] at h

theorem eq_some {α : Type} {o : Option α} (h : o.isSome = true) : o = some (o.get h) := by cases o <;> simp_all

/-- What a placement search found. -/
def placedOf : Found → Option (State × Place)
  | .placed s p => some (s, p)
  | _ => none

theorem eq_placed {f : Found} {s : State} {p : Place} (h : placedOf f = some (s, p)) : f = .placed s p := by
  cases f with
  | placed s p => simp only [placedOf, Option.some.injEq, Prod.mk.injEq] at h; rw [h.1, h.2]
  | none_ s => simp [placedOf] at h
  | fault s c => simp [placedOf] at h
  | reject s => simp [placedOf] at h

theorem eq_snd {α β : Type} {p : α × β} {b : β} (h : p.2 = b) : p = (p.1, b) := by rw [← h]


theorem eq_get2 {σ ε α β : Type} {p : σ × Except ε (α × β)} (h : (okOf p.2).isSome = true) : p = (p.1, .ok (((okOf p.2).get h).1, ((okOf p.2).get h).2)) :=
  eq_get h

theorem eq_ex {ε α : Type} {p : Except ε α} (h : (okOf p).isSome = true) : ∃ a, p = .ok a := by cases p <;> simp_all [okOf]

def noneOf : Found → Option State
  | .none_ s => some s
  | _ => none

theorem eq_none {f : Found} (h : (noneOf f).isSome = true) : ∃ s, f = .none_ s := by cases f <;> simp_all [noneOf]
/-! ### Well-formedness: an ill-formed term for each check, and a good one at the bound -/

theorem test_wf_elements : Instr.wf (.selection ⟨512, 0, 0, .pe0⟩) = false ∧ Instr.wf (.beat ⟨0, 128, 0, .me⟩ .match_) = false ∧
    Instr.wf (.selection ⟨0, 0, 32, .mx⟩) = false ∧ Instr.wf (.selection ⟨511, 127, 31, .mx⟩) = true := by decide

theorem test_wf_switches : Instr.wf (.tokenArrival (.input ⟨0, 0, 0, 9, 0⟩)) = false ∧ Instr.wf (.tokenArrival (.input ⟨0, 0, 0, 3, 16⟩)) = false ∧
    Instr.wf (.scaleTransferArrival (.span 0 4096 .furrow)) = false ∧ Instr.wf (.creditReturn 0 (.chan 0 0 .me 32)) = false ∧
    Instr.wf (.windowCreditReturn 0 (.lane (.row 32))) = false ∧ Instr.wf (.tokenHop 0 0 0 4) = false ∧ Instr.wf (.tokenHop 511 127 31 8) = true ∧
    Instr.wf (.laneDriverInput ⟨0, 0, 0, 4, 1⟩) = false ∧ Instr.wf (.laneTransferArrival 0 (.col 128) 0 0) = false ∧ Instr.wf (.ccuEmit ⟨0, 0, 32⟩) = false ∧
    Instr.wf (.ccuArm ⟨512, 0, 0⟩) = false := by decide

theorem test_wf_memory : Instr.wf (.requestSend ⟨0, 0, 0⟩ 8) = false ∧ Instr.wf (.requestPerform ⟨0, 0, 0⟩ 7) = true ∧ Instr.wf (.atomicApply ⟨0, 128, 0⟩ 0) = false ∧
    Instr.wf (.remoteAck ⟨0, 0, 0⟩ 0 65536) = false ∧ Instr.wf (.replyDelivery ⟨0, 0, 0⟩ 8) = false ∧ Instr.wf (.translationWalk 0 (.streamData 0 0 8)) = false ∧
    Instr.wf (.translationWalk 512 (.pref 0 0)) = false ∧ Instr.wf (.streamDescriptorStart ⟨0, 0, 0⟩ 8) = false ∧ Instr.wf (.streamLoadUnit ⟨0, 0, 0⟩ 7) = true ∧
    Instr.wf (.streamStoreUnit ⟨0, 0, 0⟩ 8) = false ∧ Instr.wf (.streamCompletionToken ⟨0, 0, 0⟩ 8) = false ∧ Instr.wf (.meBankSwap ⟨0, 0, 32⟩) = false ∧
    Instr.wf (.mxDrainWord ⟨0, 0, 0⟩ 0 13) = false ∧ Instr.wf (.mxDrainWord ⟨0, 0, 0⟩ 4 0) = false ∧ Instr.wf (.mdrcElementWrite 64) = false := by decide

theorem test_wf_regions : Instr.wf (.freezeReceipt 0 (.drain 0 0 4)) = false ∧ Instr.wf (.furrowPass 0 (.switch 0 32)) = false ∧ Instr.wf (.frontSettle 512) = false ∧
    Instr.wf (.watchdogExpiry 512) = false ∧ Instr.wf (.noProgressReport 512) = false ∧ Instr.wf (.drainDeadlineExpiry 512) = false ∧ Instr.wf (.regionComplete 512) = false ∧
    Instr.wf (.rollback 512) = false ∧ Instr.wf (.placementSearch 512) = false ∧ Instr.wf (.emit 512) = false ∧ Instr.wf (.traceRecordWrite 512) = false ∧
    Instr.wf (.tileFlip 0 128 0) = false ∧ Instr.wf (.defectMarkPersist 129 0) = false ∧ Instr.wf (.defectMarkPersist 128 31) = true := by decide

theorem test_wf_engines : Instr.wf (.commandIssue (.copy 64)) = false ∧ Instr.wf (.commandRetire (.coll 8)) = false ∧ Instr.wf (.engineTokenPush (.stream 0 0 0 8)) = false ∧
    Instr.wf (.copyUnit 64) = false ∧ Instr.wf (.bwaitWake 64) = false ∧ Instr.wf (.collHopAck 8 0) = false ∧ Instr.wf (.collHopUnit 0 0 []) = false ∧
    Instr.wf (.collHopTimeout 8) = false ∧ Instr.wf (.kvStepWrite 8) = false ∧ Instr.wf (.collStartExchange 8 ⟨0, 2, 0, 0, 0⟩ ⟨0, 2, 0, 0, 0⟩) = false ∧
    Instr.wf (.dunePageCopy 16) = false ∧ Instr.wf (.postcopyDemandPull 0 0 ⟨[], []⟩) = false ∧ Instr.wf (.postcopyPush 16) = false ∧ Instr.wf (.pullAttemptTimeout 15) = true := by decide

theorem test_wf_registers : Instr.wf (.notify 256 0) = false ∧ Instr.wf (.vcpConfigWrite .hardpan 0 2 0) = false ∧ Instr.wf (.completionEntryWrite 0 4) = false ∧
    Instr.wf (.invalidatePage 64 0 0) = false ∧ Instr.wf (.invalidateAsid 0 4096) = false ∧ Instr.wf (.invalidateAll 64) = false ∧ Instr.wf (.rsm (.hart 64) 0 0) = false ∧
    Instr.wf (.srq .hardpan 512) = false ∧ Instr.wf (.resumeStoppedRegion .hardpan 512) = false ∧ Instr.wf (.debugBlockWrite .hardpan 0 8 0) = false ∧
    Instr.wf (.partitionTableWrite .hardpan 8 0) = false ∧ Instr.wf (.partitionBlockWrite .hardpan 0 7 0) = false ∧ Instr.wf (.laneGroupControlWrite .hardpan 64 0) = false ∧
    Instr.wf (.registerWrite .hardpan (.csr 4096) 0) = false ∧ Instr.wf (.laneGroupTrainingDone 0 3 0 0 0) = false ∧ Instr.wf (.flitReceive 64 { seq := 0 } true 0 false) = false ∧
    Instr.wf (.laneGroupLost 64) = false ∧ Instr.wf (.cxlSnoop (2 ^ 64)) = false ∧ Instr.wf (.scrubWriteback 72) = false ∧ Instr.wf (.scrubRead (.sram 8 0 1) .clean) = false ∧ Instr.wf (.tokenArrival (.failed ⟨512, 0, 0, .me⟩)) = false ∧ Instr.wf (.hartParityError 64) = false ∧
    Instr.wf (.releaseInstant 65536) = false ∧ Instr.wf (.warmReset (.hart 64)) = false := by decide

/-- Fields of a fabric slot (R94): an index out of range, a type the form does not take, a consumer of a form without a result, a retag above 3. -/
theorem test_wf_slots : Slot.wf { op := .recv 32 } = false ∧ Slot.wf { op := .recv 31, con0 := some (63, .p), con1 := some (0, .a) } = true ∧
    Slot.wf { op := .int .iand .i8 true } = false ∧ Slot.wf { op := .flt .fadd .i32 } = false ∧ Slot.wf { op := .send 0 none false, con0 := some (1, .a) } = false ∧
    Slot.wf { op := .recv 0, con0 := some (64, .a) } = false ∧ Slot.wf { op := .send 0 (some 4) false } = false ∧ Slot.wf { op := .cvt .f32 .f32 .rne } = false ∧
    Slot.wf { op := .acc .gth 0 4 } = false ∧ Slot.wf { op := .atom .fadd true 0 .i32 } = false ∧ Slot.wf { op := .mmas (.block .bx4) } = false ∧
    Slot.wf { op := .cvt .b16 .f32 .sto, con0 := some (4, .a), con1 := some (5, .a) } = false := by decide

/-! ### Decoding: words written out from the encodings of the spec (03 R79, R80, R91 to R95, R101) -/

/-- custom-0 (R101): rs2 = 12, rs1 = 11, rd = 10; rs2 is 0 where the form does not use it. -/
theorem test_decode_custom0 :
    decodeWord 0b0000000_00000_01011_000_01010_0001011#32 = .ok (.rgnld 10 11) ∧ decodeWord 0b0000001_01100_01011_000_01010_0001011#32 = .ok (.rgngo 10 11 12) ∧
    decodeWord 0b0000010_01100_01011_000_01010_0001011#32 = .ok (.rgndrn 10 11 12) ∧ decodeWord 0b0000011_00000_01011_000_01010_0001011#32 = .ok (.rgnfrz 10 11) ∧
    decodeWord 0b0000100_01100_01011_000_01010_0001011#32 = .ok (.rgnsav 10 11 12) ∧ decodeWord 0b0000101_01100_01011_000_01010_0001011#32 = .ok (.rgnrst 10 11 12) ∧
    decodeWord 0b0000110_01100_01011_000_01010_0001011#32 = .ok (.rgnmov 10 11 12) ∧ decodeWord 0b0000111_00000_01011_000_01010_0001011#32 = .ok (.rgnkil 10 11) ∧
    decodeWord 0b0001000_01100_01011_000_01010_0001011#32 = .ok (.rgnqry 10 11 12) ∧ decodeWord 0b0001001_01100_01011_000_01010_0001011#32 = .ok (.rgnslc 10 11 12) ∧
    decodeWord 0b0001010_01100_01011_000_01010_0001011#32 = .error .illegal ∧ decodeWord 0b0000000_00001_01011_000_01010_0001011#32 = .error .illegal :=
  ⟨rfl, rfl, rfl, rfl, rfl, rfl, rfl, rfl, rfl, rfl, rfl, rfl⟩

/-- custom-1 (R101). -/
theorem test_decode_custom1 :
    decodeWord 0b0000000_01100_01011_000_01010_0101011#32 = .ok (.strmCommand 10 11 12) ∧ decodeWord 0b0000001_01100_01011_000_01010_0101011#32 = .ok (.strmb 10 11 12) ∧
    decodeWord 0b0000010_01100_01011_000_01010_0101011#32 = .ok (.strmqCommand 10 11 12) ∧ decodeWord 0b0000011_01100_01011_000_01010_0101011#32 = .ok (.sarm 10 11 12) ∧
    decodeWord 0b0000000_01100_01011_001_01010_0101011#32 = .ok (.binit 10 11 12) ∧ decodeWord 0b0000001_01100_01011_001_01010_0101011#32 = .ok (.barv 10 11 12) ∧
    decodeWord 0b0000010_01100_01011_001_01010_0101011#32 = .ok (.barvx 10 11 12) ∧ decodeWord 0b0000011_01100_01011_001_01010_0101011#32 = .ok (.bwait 10 11 12) ∧
    decodeWord 0b0000100_01100_01011_001_01010_0101011#32 = .ok (.btest 10 11 12) ∧ decodeWord 0b0000000_01100_01011_010_01010_0101011#32 = .ok (.tfpsh 10 11 12) ∧
    decodeWord 0b0000001_00000_01011_010_01010_0101011#32 = .ok (.tfpop 10 11) ∧ decodeWord 0b0000010_00000_01011_010_01010_0101011#32 = .ok (.tfqry 10 11) ∧
    decodeWord 0b0000000_00000_00000_011_00000_0101011#32 = .error .illegal :=
  ⟨rfl, rfl, rfl, rfl, rfl, rfl, rfl, rfl, rfl, rfl, rfl, rfl, rfl⟩

/-- custom-2 (R101). -/
theorem test_decode_custom2 :
    decodeWord 0b0000000_01100_01011_000_01010_1011011#32 = .ok (.cpy 10 11 12) ∧ decodeWord 0b0000001_01100_01011_000_01010_1011011#32 = .ok (.cpyt 10 11 12) ∧
    decodeWord 0b0000010_00000_01011_000_01010_1011011#32 = .ok (.cpyq 10 11) ∧ decodeWord 0b0000000_01100_01011_001_01010_1011011#32 = .ok (.coll 10 11 12) ∧
    decodeWord 0b0000001_00000_01011_001_01010_1011011#32 = .ok (.collq 10 11) ∧ decodeWord 0b0000000_00000_01011_010_01010_1011011#32 = .ok (.fencex 10 11) ∧
    decodeWord 0b0000001_01100_01011_010_01010_1011011#32 = .ok (.cbinv 10 11 12) ∧ decodeWord 0b0000010_00000_01011_010_01010_1011011#32 = .ok (.cbsync 10 11) ∧
    decodeWord 0b0000010_00001_01011_010_01010_1011011#32 = .error .illegal :=
  ⟨rfl, rfl, rfl, rfl, rfl, rfl, rfl, rfl, rfl⟩

/-- custom-3 (R101); a word of another major opcode is no form. -/
theorem test_decode_custom3 :
    decodeWord 0b0000000_01100_01011_000_01010_1111011#32 = .ok (.ctrsel 10 11 12) ∧ decodeWord 0b0000001_00000_01011_000_01010_1111011#32 = .ok (.ctrrd 10 11) ∧
    decodeWord 0b0000010_00000_01011_000_01010_1111011#32 = .ok (.ctrclr 10 11) ∧ decodeWord 0b0000011_01100_01011_000_01010_1111011#32 = .ok (.trcon 10 11 12) ∧
    decodeWord 0b0000100_00000_01011_000_01010_1111011#32 = .ok (.trcoff 10 11) ∧ decodeWord 0b0000000_00000_01011_001_01010_1111011#32 = .ok (.dunego 10 11) ∧
    decodeWord 0b0000001_00000_01011_001_01010_1111011#32 = .ok (.duneq 10 11) ∧ decodeWord 0b0000010_01100_01011_001_01010_1111011#32 = .ok (.svpol 10 11 12) ∧
    decodeWord 0b0000011_01100_01011_001_01010_1111011#32 = .ok (.jrnrd 10 11 12) ∧ decodeWord 0b0000101_00000_01011_000_01010_1111011#32 = .error .illegal ∧
    decodeWord 0b0000000_00010_00001_000_00011_0110011#32 = .error .notExtension :=
  ⟨rfl, rfl, rfl, rfl, rfl, rfl, rfl, rfl, rfl, rfl, rfl⟩

/-- Common and integer forms: the words of 04, at R124 and R130. -/
theorem test_decode_common : decodeSlot .pe 0x0C140000#32 = .ok { op := .state (some 5) } ∧ decodeSlot .me 0x0D940000#32 = .ok { op := .tmsk true 5 } ∧
    decodeSlot .mx 0xC0200143#32 = .ok { op := .ldi .i32 false, con0 := some (3, .b) } ∧ decodeSlot .pe 0x050C5000#32 = .ok { op := .sende 3 none true 2 } ∧
    decodeSlot .pe 0x0E440145#32 = .ok { op := .int .iadd .i32 true, con0 := some (5, .b) } ∧
    decodeSlot .pe 0x21280186#32 = .ok { op := .icmp .i16 .lt, con0 := some (6, .c) } := ⟨rfl, rfl, rfl, rfl, rfl, rfl⟩

/-- Floating-point and conversion forms: the words of 05. On an ME they are kind-illegal (R92). -/
theorem test_decode_float : decodeSlot .pe 0x43200105#32 = .ok { op := .flt .ffma .b16, con0 := some (5, .a) } ∧
    decodeSlot .pe 0x4B080183#32 = .ok { op := .fcmp .f16 .lt, con0 := some (3, .c) } ∧ decodeSlot .pe 0x4D440102#32 = .ok { op := .frnd .f32 .rtz, con0 := some (2, .a) } ∧
    decodeSlot .pe 0x58722904#32 = .ok { op := .cvt .b16 .f32 .sto, con0 := some (4, .a) } ∧ decodeSlot .pe 0x59420106#32 = .ok { op := .qnt .mxe2m1 .f32 .rne, con0 := some (6, .a) } ∧
    decodeSlot .pe 0x5A820103#32 = .ok { op := .dqt .bx9 .f32 .rne, con0 := some (3, .a) } ∧ decodeSlot .pe 0x65800000#32 = .ok { op := .red .rsum .f32 } ∧
    decodeSlot .pe 0x6A000102#32 = .ok { op := .ldot .i8, con0 := some (2, .a) } ∧ decodeSlot .me 0x43200105#32 = .error (0x02, 0x02) :=
  ⟨rfl, rfl, rfl, rfl, rfl, rfl, rfl, rfl, rfl⟩

/-- Scale forms: the words of 06. -/
theorem test_decode_scale : decodeSlot .me 0xC1140000#32 = .ok { op := .sldi 5 } ∧ decodeSlot .pe 0x331C0104#32 = .ok { op := .scale .ssum 7, con0 := some (4, .a) } ∧
    decodeSlot .pe 0x3A080103#32 = .ok { op := .scale .sbnd 2, con0 := some (3, .a) } ∧ decodeSlot .mx 0x3610_0105#32 = .ok { op := .scale .scmp 4, con0 := some (5, .a) } ∧
    decodeSlot .pe 0x3D400142#32 = .ok { op := .scale .szq 16, con0 := some (2, .b) } ∧ decodeSlot .pe 0x38FC0101#32 = .ok { op := .scale .sget 63, con0 := some (1, .a) } ∧
    decodeSlot .pe 0x3B200000#32 = .ok { op := .scale .srel 8 } := ⟨rfl, rfl, rfl, rfl, rfl, rfl, rfl⟩

/-- Memory forms: the words of 07. -/
theorem test_decode_memory : decodeSlot .me 0x80300000#32 = .ok { op := .acc .ld 1 4 } ∧ decodeSlot .me 0x81100000#32 = .ok { op := .acc .st 0 4 } ∧
    decodeSlot .me 0x82480000#32 = .ok { op := .acc .ldg 2 2 } ∧ decodeSlot .me 0x84640000#32 = .ok { op := .acc .gth 3 1 } ∧
    decodeSlot .me 0x86200000#32 = .ok { op := .atom .add true 1 .i32 } ∧ decodeSlot .me 0x900C0000#32 = .ok { op := .atom .cas true 0 .n64 } ∧
    decodeSlot .pe 0x80300000#32 = .error (0x02, 0x02) := ⟨rfl, rfl, rfl, rfl, rfl, rfl, rfl⟩
/-- Memory and matrix forms: further words of 07 and 08. -/
theorem test_decode_chains : decodeSlot .me 0x92780000#32 = .ok { op := .atom .fadd false 3 .f32 } ∧ decodeSlot .me 0x98800000#32 = .ok { op := .ord 4 } ∧
    decodeSlot .me 0x99400000#32 = .ok { op := .cmpl 2 } ∧ decodeSlot .me 0x9A080000#32 = .ok { op := .fence .rel .device } ∧
    decodeSlot .me 0x9A8C0000#32 = .ok { op := .fence .ar .domain } ∧ decodeSlot .me 0x9BAC0000#32 = .ok { op := .fencef 5 .domain } ∧
    decodeSlot .me 0x9C000104#32 = .ok { op := .tlk, con0 := some (4, .a) } ∧ decodeSlot .me 0xA10C0102#32 = .ok { op := .strmq 3, con0 := some (2, .a) } :=
  ⟨rfl, rfl, rfl, rfl, rfl, rfl, rfl, rfl⟩

theorem test_decode_matrix : decodeSlot .mx 0xB0400000#32 = .ok { op := .mldb (.block .mxe4m3) } ∧ decodeSlot .mx 0xB1000000#32 = .ok { op := .mma (.lane .i8) } ∧
    decodeSlot .mx 0xB1600000#32 = .ok { op := .mma (.block .bx9) } ∧ decodeSlot .mx 0xB2500000#32 = .ok { op := .mmas (.block .mxe2m1) } ∧
    decodeSlot .mx 0xB5040000#32 = .ok { op := .mdrc true } ∧ decodeSlot .mx 0xB6080000#32 = .ok { op := .mctx 2 } ∧
    decodeSlot .mx 0xB8000103#32 = .ok { op := .mstat, con0 := some (3, .a) } ∧ decodeSlot .pe 0xB3000000#32 = .error (0x02, 0x02) ∧
    decodeSlot .mx 0xB2580000#32 = .error (0x01, 0x10) := ⟨rfl, rfl, rfl, rfl, rfl, rfl, rfl, rfl, rfl⟩

/-! ### Values: the tables of exact results (04 at R130, 05 at R165, 06 at R182) -/

def w1 (x : Nat) : Word := .ofNat 128 x

theorem test_integer_wraps_and_saturates :
    lane 8 0 (intWord .iadd .i8 false (w1 0x7F) (w1 1) 0 none) = 0x80 ∧ lane 8 0 (intWord .iadd .i8 true (w1 0x7F) (w1 1) 0 none) = 0x7F ∧
    lane 8 0 (intWord .iadd .n8 true (w1 0xF0) (w1 0x20) 0 none) = 0xFF ∧ lane 16 0 (intWord .isub .n16 false (w1 1) (w1 2) 0 none) = 0xFFFF ∧
    lane 16 0 (intWord .isub .n16 true (w1 1) (w1 2) 0 none) = 0 ∧ lane 16 0 (intWord .iabs .i16 false (w1 0x8000) 0 0 none) = 0x8000 ∧
    lane 16 0 (intWord .iabs .i16 true (w1 0x8000) 0 0 none) = 0x7FFF ∧ lane 8 0 (intWord .ineg .n8 false (w1 5) 0 0 none) = 0xFB ∧
    lane 8 0 (intWord .ineg .n8 true (w1 5) 0 0 none) = 0 := by decide +kernel

theorem test_integer_shifts_and_fields :
    lane 32 0 (intWord .imulh .i32 false (w1 0x80000000) (w1 0x80000000) 0 none) = 0x40000000 ∧
    lane 32 0 (intWord .imulh .n32 false (w1 0xFFFFFFFF) (w1 0xFFFFFFFF) 0 none) = 0xFFFFFFFE ∧ lane 8 0 (intWord .sar .i8 false (w1 0x80) (w1 9) 0 none) = 0xFF ∧
    lane 8 0 (intWord .shr .i8 false (w1 0x80) (w1 9) 0 none) = 0 ∧ lane 8 0 (intWord .rol .i8 false (w1 0x81) (w1 9) 0 none) = 3 ∧
    lane 32 0 (intWord .clz .i32 false 0 0 0 none) = 0x20 ∧ lane 8 0 (isatWord .i32 .i8 (w1 0x190) none) = 0x7F := by decide +kernel

theorem test_float_rounds_once :
    fltLane .ffma fpF32 0x3F800001 0x3F800001 0xBF800002 = (0x28800000, 0) ∧ fltLane .fmin fpF32 0x80000000 0 0 = (0x80000000, 0) ∧
    fltLane .fmax fpF32 0x7F800001 0x3F800000 0 = (0x3F800000, flInvalid) ∧ fltLane .fdiv fpF32 0x3F800000 0x80000000 0 = (0xFF800000, flDivZero) ∧
    fltLane .fsqt fpF32 0x80000000 0 0 = (0x80000000, 0) ∧ fcmpLane fpF32 .lt 0x7FC00000 0x3F800000 = (false, flInvalid) ∧
    fcmpLane fpF32 .eq 0x7FC00000 0x3F800000 = (false, 0) ∧ fpF16.classBit 1 = 0x20 := by decide +kernel

theorem test_float_integral_and_special :
    fpF32.roundIntegral .rne 0 0x40200000 = (0x40000000, flInexact) ∧ fpF32.roundIntegral .rna 0 0x40200000 = (0x40400000, flInexact) ∧
    fpF32.special .flg2 0x41000000 = (0x40400000, 0) ∧ fpF32.special .fsig 0 = (0x3F000000, 0) := by decide +kernel

theorem test_float_narrow_and_dot :
    lane 8 0 (packWord .e4m3 (w1 0x5FD0) 0 0).word = 0x7E ∧ lane 16 0 (unpkWord .e4m3 false (w1 0x38) 0).word = 0x3C00 ∧
    lane 32 0 (ldotWord .i8 (w1 0x0201807F) (w1 0x10FF0202) (w1 10) 0).word = 0x27 := by decide +kernel

/-- RSUM's tree (02, at R78): 2^24, 1.0, −2^24, 1.0 sum to 1.0. -/
theorem test_rsum_tree : lane 32 0 (redWord .rsum .f32 (w1 0x3F800000_CB800000_3F800000_4B800000) 0).word = 0x3F800000 := by decide +kernel

theorem test_scale_arithmetic :
    scaleArith .sadd 0xFF 3 = (0x102, 0) ∧ scaleArith .sadd 0xFF 0xFFFFFED4 = (0, flUnderflow + flInexact) ∧ scaleArith .ssub 0x104 0x101 = (0x102, 0) ∧
    scaleArith .ssub 0x104 0 = (0x1FF, flDivZero) ∧ scaleArith .ssum 0x17E 0x17E = (0x1FD, 0) ∧ scaleArith .ssum 0x1FE 0x1FE = (0x1FE, flOverflow + flInexact) ∧
    scaleArith .ssum 0 0x1FF = (0x1FF, 0) ∧ scaleArith .smin 0 0x81 = (0, 0) ∧ scaleArith .smax 0 0x81 = (0x81, 0) ∧ scaleArith .sfrm 0x40C00000 2 = (0xFF, 0) ∧
    scaleArith .sfrm 1 0 = (0x6A, 0) ∧ scaleArith .sfrm 0x7F800000 2 = (0x17C, flOverflow) ∧ scmpCode 0xFF 0x102 = 1 ∧ scmpCode 0x1FF 0x102 = 3 := by decide +kernel

/-- The MXFP4 block with ties (02, at R65): elements 5.0, 2.5, 0.25, 0.75, 1.75, 3.5, 6.0, −1.0 and 24 zeros. -/
theorem test_quantize_block :
    let xs := ([0x40A00000, 0x40200000, 0x3E800000, 0x3F400000, 0x3FE00000, 0x40600000, 0x40C00000, 0xBF800000] ++ List.replicate 24 0).map fpF32.decode
    (qnt .mxe2m1 .rne true 0 xs 0).word = w1 0xA7642046 ∧ byteOfScale false (qnt .mxe2m1 .rne true 0 xs 0).entry = some 0x7F := by decide +kernel

/-- Dequantizing a BX9 word (05): MEXP 0xF6, entry 0x0FF, groups 0 and 1. -/
theorem test_dequantize_word :
    let a : Token := { word := wordOfLanes 8 [0x60, 0x90, 0x26, 0x00, 0x7F, 0x40, 0x7F, 0xC0], mexp := 0xF6 }
    let v (g : Nat) : Option Word := (dqtWord .bx9 .f32 .rne 0xFF g a 0).map (·.word)
    v 0 = some 0x000000003E980000BE8000003FC00000#128 ∧ v 1 = some 0xBF8000003FFE00003F0000003F7E0000#128 := by decide +kernel

/-- The chain of 01, at R38: cc0 and cc1 both 0, 1, bound 2; the counters not configured make one trip. -/
theorem test_counter_chain :
    let c0 : Ccu := ({ words := [0, 1, 2, 0, 1, 2, 0, 1, 1, 0, 1, 1, 0x80000000] } : Ccu)
    let c1 := c0.begin_ c0.bounds
    let outs := (List.range 6).foldl (fun (a : List Token × Ccu) _ => (a.1 ++ [a.2.emit.1], a.2.emit.2)) ([], c1)
    outs.1.map (fun t => (t.eosl.toNat, lane 32 0 t.word, lane 32 1 t.word)) = [(0, 0, 0), (0, 1, 0), (1, 0, 0), (0, 0, 1), (0, 1, 1), (4, 0, 0)] ∧
      outs.2.running = false := by decide +kernel

/-- The MDRC record of 13, at R377: element (0, 0) of the tile with row0 = 32, col0 = 8 goes to 0x1000620, and row 0 ends after column 3. -/
theorem test_mdrc_address :
    let blk : List W64 := [0x01000000, 0x8400000000000000, 0x000000280000000C, 0, 4, 48, 0, 0]
    let d : Drain := { buf := List.replicate 256 0, psn := false, isInt := false, row0 := 32, col0 := 8, blk := blk }
    tsAddr blk (d.coord 0) = 0x01000620 ∧ d.nextElt 4 = some 8 ∧ d.nextElt 59 = some 59 := by decide +kernel
/-! ### Witnesses: states and operands that meet the hypotheses of the obligations -/

def inMode (md : Mode) (s : State) : State := s.modHart 0 fun c => { c with mode := md }

/-- One state for each case of `StepRunsDecodedForm`: TFQRY x10, x11 at the pc; a word that is illegal; a base word; no fetch. -/
def atPc (w : Nat) : State := { mach with mem := memWriteN mach.mem 0 4 w }

theorem witness_StepRunsDecodedForm :
    (atPc 0x0405A52B).agenda = [] ∧ ((atPc 0x0405A52B).hart (atPc 0x0405A52B).cur).on = true ∧
    (atPc 0x0405A52B).hartRead 0 .fetch false (piecesOf ((atPc 0x0405A52B).hart 0).pc.toNat 4) = (atPc 0x0405A52B, .ok [0x2B, 0xA5, 0x05, 0x04]) ∧
    decodeBytes [0x2B, 0xA5, 0x05, 0x04] = .ok (.tfqry 10 11, []) ∧
    (atPc 0x3000002B).hartRead 0 .fetch false (piecesOf 0 4) = (atPc 0x3000002B, .ok [0x2B, 0, 0, 0x30]) ∧ decodeBytes [0x2B, 0, 0, 0x30] = .error .illegal ∧
    (atPc 0x33).hartRead 0 .fetch false (piecesOf 0 4) = (atPc 0x33, .ok [0x33, 0, 0, 0]) ∧ decodeBytes [0x33, 0, 0, 0] = .error .notExtension ∧
    { mach with access := [] }.hartRead 0 .fetch false (piecesOf 0 4) = ({ mach with access := [] }.recordDenial { mid := 0, strip := some 0, part := some 0 } 0 .read, .error { cause := 1 }) :=
  ⟨rfl, rfl, eq_ok (by decide +kernel) (by decide +kernel), rfl, eq_ok (by decide +kernel) (by decide +kernel), rfl, eq_ok (by decide +kernel) (by decide +kernel), rfl, eq_err (by decide +kernel) (by decide +kernel)⟩

/-- Between forms without an interrupt; with one pending in M mode, enabled, and in U mode. -/
theorem witness_StepRunsDecodedForm_interrupt :
    ((atPc 0).hart 0).wait = .none ∧ ((atPc 0).hart 0).irqReady = false ∧
    (let s := mach.modHart 0 fun c => { c with irq := true, ie := true }
     (s.hart s.cur).wait = .none ∧ (s.hart s.cur).irqReady = true) ∧
    (((inMode .u mach).modHart 0 fun c => { c with irq := true }).hart 0).irqReady = true ∧ mach.regOps = [] := by decide +kernel

theorem witness_StepRunsEvents : { mach with agenda := [.event .vcpScan] }.agenda = .event .vcpScan :: [] ∧ { mach with agenda := [.hart 63] }.agenda = .hart 63 :: [] ∧
    { mach with agenda := [.tick 1] }.agenda = .tick 1 :: [] ∧ State.reset.agenda = [] ∧ (State.reset.hart State.reset.cur).on = false := ⟨rfl, rfl, rfl, rfl, rfl⟩

theorem witness_FormsDecodeEncode : encode (.rgngo 31 1 0) = some 0x02008F8B#32 ∧ decodeWord 0x02008F8B#32 = .ok (.rgngo 31 1 0) := ⟨rfl, rfl⟩

theorem witness_FabricSlotsDecodeEncode : ∃ ok : Kind → Bool, Slot.wf { op := .cvt .b16 .f32 .sto, con0 := some (63, .p) } = true ∧
    opKinds (encodeOp (.cvt .b16 .f32 .sto)).1 = some ok ∧ ok .pe = true := ⟨_, rfl, rfl, rfl⟩

theorem witness_FabricOpcodesKinds : (∃ sl, decodeSlot .mx 0xB8000103#32 = .ok sl) ∧ (∃ sl, decodeSlot .pe 0x6A000102#32 = .ok sl) ∧ (∃ sl, decodeSlot .me 0x9BAC0000#32 = .ok sl) ∧
    (0xB8000103#32).toNat / 2 ^ 24 = 0xB8 ∧ Kind.me ≠ Kind.mx := ⟨⟨_, rfl⟩, ⟨_, rfl⟩, ⟨_, rfl⟩, rfl, by decide⟩

theorem witness_WithFetchWordRuns : decodeWord 0x02008F8B#32 = .ok (.rgngo 31 1 0) := rfl

theorem witness_StepKeepsMemoryCanonical : Memory.wf mach.mem = true ∧ ∃ s', step { mach with agenda := [.event .lossOfPower] } = .next s' := ⟨by decide +kernel, ⟨_, rfl⟩⟩

theorem witness_HsOnlyFormsTrap : encode (.rgnld 1 2) = some 0x0001008B#32 ∧ fld (0x0001008B#32).toNat 6 0 = 0x0B ∧ fld (0x0001008B#32).toNat 31 25 ≠ 8 ∧
    encode (.jrnrd 1 2 3) = some 0x063110FB#32 ∧ fld (0x063110FB#32).toNat 6 0 = 0x7B ∧ fld (0x063110FB#32).toNat 14 12 = 1 ∧
    ((inMode .vs mach).hart 0).mode = .vs ∧ ((inMode .vu mach).hart 0).mode = .vu ∧ ((inMode .u mach).hart 0).mode = .u := by decide +kernel

theorem witness_TrapEntry : mach.cur < mach.harts.length ∧ (mach.hart 0).mode = .m ∧ ((inMode .vs mach).hart 0).mode ≠ .m := by decide +kernel

theorem witness_RetireWrites : mach.cur < mach.harts.length ∧ (mach.hart mach.cur).x.length = 32 ∧ (31 : BitVec 5) ≠ 0 := by decide +kernel

/-! #### Regions -/

/-- An ME with its 32 channels and 16 ports, a PE and an MX of one tile. -/
def elts : List Element := [{ elt := .pe0 }, { elt := .me }, { elt := .mx }]

/-- A region of one tile in a placement, with a save area. -/
def reg : Region :=
  { gen := 3, state := .resident, tid := 7, asid := 1, part := 0, save := { addr := 0x10000 }
    image := some { w := 1, h := 1 }, place := some { ocol := 0, orow := 0, wm1 := 0, hm1 := 0 }
    tiles := [{ x := 0, y := 0, elts := elts }], switches := [{ col := 0, row := 0 }] }

/-- `mach` with region `r` in slot 0 and, in x11, its handle; x12 as given. -/
def holding (r : Region) (x12 : Nat := 0) : State := withRegs (mach.setRegion 0 r) [(11, handleOf 0 r.gen), (12, x12)]

def run : Region := { reg with run := true }

theorem byHandle_holding (r : Region) (v : Nat) (h : r.gen = 3) : (holding r v).byHandle ((holding r v).xreg 11) (holding r v).guestTid = .ok (0, r) := by
  have h1 : (holding r v).xreg 11 = 0x30000 := by simp only [holding, h]; rfl
  have h2 : (holding r v).guestTid = none := rfl
  have h3 : (holding r v).region 0 = some r := rfl
  rw [h1, h2]
  simp [State.byHandle, fld, h3, h]

theorem witness_LifecycleStartsAndDrains :
    ((holding reg).hart 0).mode.high = true ∧ (holding reg).byHandle ((holding reg).xreg 11) (holding reg).guestTid = .ok (0, reg) ∧
    (holding reg).xreg 12 = 0 ∧ reg.shadowOf = none ∧ reg.state = .resident ∧ reg.run = false ∧ reg.settling = false ∧
    (let f : Region := { reg with state := .faulted, lastFault := 0x10 }
     (holding f 1).byHandle ((holding f 1).xreg 11) (holding f 1).guestTid = .ok (0, f) ∧ (holding f 1).xreg 12 = 1 ∧ resumable f.lastFault = true) ∧
    (let l : Region := { reg with state := .loading }
     (holding l).byHandle ((holding l).xreg 11) (holding l).guestTid = .ok (0, l) ∧ (holding l).xreg 12 < 2) ∧
    (holding run).byHandle ((holding run).xreg 11) (holding run).guestTid = .ok (0, run) ∧ run.drainable = true ∧ run.shadow = none ∧ run.save.addr ≠ 0 ∧
    (let b : Region := { run with shadow := some 1 }
     let p : Region := { reg with shadowOf := some 0 }
     let s := withRegs ((mach.setRegion 0 b).setRegion 1 p) [(11, 0x30000), (12, 0x30001)]
     s.byHandle (s.xreg 11) s.guestTid = .ok (0, b) ∧ s.byHandle (s.xreg 12) s.guestTid = .ok (1, p) ∧ b.drainable = true ∧ b.shadow = some 1) :=
  ⟨rfl, byHandle_holding _ _ rfl, rfl, rfl, rfl, rfl, rfl, ⟨byHandle_holding _ _ rfl, rfl, rfl⟩, ⟨byHandle_holding _ _ rfl, by decide +kernel⟩, byHandle_holding _ _ rfl, rfl, rfl,
    by decide +kernel, ⟨rfl, rfl, rfl, rfl⟩⟩

theorem witness_LifecycleFreezesAndKills :
    ((holding run).hart 0).mode.high = true ∧ (holding run).inSettle = false ∧ (holding run).byHandle ((holding run).xreg 11) (holding run).guestTid = .ok (0, run) ∧
    run.state = .resident ∧ run.run = true ∧ run.stp = false ∧ run.freeze = none ∧ run.settling = false ∧ run.switchBegun = false ∧ run.shadowOf = none ∧
    (let q : Region := { run with stp := true }
     (holding q).byHandle ((holding q).xreg 11) (holding q).guestTid = .ok (0, q) ∧ q.stp = true) ∧
    (let q : Region := { run with state := .draining, switchOut := some {} }
     (holding q).byHandle ((holding q).xreg 11) (holding q).guestTid = .ok (0, q)) ∧
    (let q : Region := { reg with state := .killed }
     (holding q).byHandle ((holding q).xreg 11) (holding q).guestTid = .ok (0, q)) ∧
    (holding run).settleWaiter 0 false = false ∧ (holding run).settleWaiter 0 true = false ∧
    (let s (k : Bool) := (holding run).modHart 1 fun c => { c with wait := .settle 0 5 k }
     (s false).settleWaiter 0 false = true ∧ (s true).settleWaiter 0 true = true ∧ (s true).inSettle = false) ∧
    (let q : Region := { run with freeze := some { why := .form } }
     (holding q).byHandle ((holding q).xreg 11) (holding q).guestTid = .ok (0, q) ∧ q.settling = true) :=
  ⟨rfl, rfl, byHandle_holding _ _ rfl, rfl, rfl, rfl, rfl, rfl, rfl, rfl, ⟨byHandle_holding _ _ rfl, rfl⟩, byHandle_holding _ _ rfl, byHandle_holding _ _ rfl,
    by decide +kernel, by decide +kernel, by decide +kernel, byHandle_holding _ _ rfl, rfl⟩
/-- An image of no tiles at 0x20000, and a region of it. -/
def withImage : State := withWords mach 0x20000 [0x4F58494D + 2 * 2 ^ 32, 0, 80 + 2 ^ 32, 0, 0, 0, 0, 0, 1, 80]

def bare : Region := { reg with img := { addr := 0x20000 }, tiles := [], switches := [], state := .frozen }

def frozenAt : State := withRegs (withImage.setRegion 0 bare) [(11, handleOf 0 3), (12, 0x10000)]

def saveOut : State × Option AccFault := frozenAt.areaWrite 0 { addr := 0x10000 } 0 (bare.saveBytes 0 1)

/-- The same machine once the region is saved. -/
def savedAt : State := withRegs (saveOut.1.becomeSaved 0 { addr := 0x10000 }) [(12, 0)]

def savedReg : Region := { bare with state := .saved, savedAt := { addr := 0x10000 } }

def readOut : State × Except RestoreFail (Image × Restored) := savedAt.readBack 0 savedReg savedReg.savedAt

theorem readOut_eq : readOut = (savedAt, .ok ({ w := 1, h := 1 }, { stamp := 1 })) := eq_ok (by decide +kernel) (by decide +kernel)

def homePlace : Place := { ocol := 0, orow := 0, wm1 := 0, hm1 := 0, img := 0x20000 }

theorem witness_LifecycleLoads :
    (let s := withRegs mach [(11, 0x1000)]
     (s.hart s.cur).mode.high = true ∧ s.xreg 11 % 64 = 0 ∧ s.formLoad true (s.xreg 11) 64 = (s, .ok (List.replicate 64 0)) ∧ s.isPart 0 = true ∧ s.plcOk 0 0 = true ∧
      s.occupant 0 = .ok none ∧ s.placeWord 0 0 none = some 0 ∧ ∃ q, s.addRegion { gen := 0, part := 0, plc := 0 } = some q) :=
  ⟨rfl, by decide +kernel, eq_ok (by decide +kernel) (by decide +kernel), by decide +kernel, by decide +kernel, eq_ok1 (by decide +kernel), by decide +kernel, ⟨_, eq_some (by decide +kernel)⟩⟩

theorem witness_LifecycleSaves :
    (frozenAt.hart 0).mode.high = true ∧ frozenAt.byHandle (frozenAt.xreg 11) frozenAt.guestTid = .ok (0, bare) ∧ frozenAt.xreg 12 % 4096 = 0 ∧ frozenAt.xreg 12 < 2 ^ 47 ∧
    bare.state = .frozen ∧ bare.shadow = none ∧ bare.midSwitch = false ∧ bare.areaFor (frozenAt.xreg 12) = some { addr := 0x10000 } ∧
    frozenAt.areaWrite 0 { addr := 0x10000 } 0 (bare.saveBytes 0 1) = (saveOut.1, none) :=
  ⟨by decide +kernel, eq_ok1 (by decide +kernel), by decide +kernel, by decide +kernel, rfl, rfl, rfl, by decide +kernel, by change saveOut = _; exact eq_snd (p := saveOut) (by decide +kernel)⟩

theorem witness_LifecycleRestores :
    savedAt.byHandle (savedAt.xreg 11) savedAt.guestTid = .ok (0, savedReg) ∧ savedReg.state = .saved ∧ savedAt.plcOk savedReg.part (savedAt.xreg 12) = true ∧
    savedAt.occupant (savedAt.xreg 12) = .ok none ∧ savedAt.placeWord savedReg.part (savedAt.xreg 12) none = some 0 ∧
    savedAt.readBack 0 savedReg savedReg.savedAt = (savedAt, .ok ({ w := 1, h := 1 }, { stamp := 1 })) ∧
    savedAt.search { self := some 0 } 0 { savedReg with shadowOf := none } { w := 1, h := 1 } 0 = .placed savedAt homePlace ∧
    ∃ s3, savedAt.installArea 0 { savedReg with shadowOf := none, ownedAt := ((savedAt.region 0).map (·.ownedAt)).getD [] } homePlace { w := 1, h := 1 } (({ stamp := 1 } : Restored).rehost savedReg savedAt.cur) = some s3 :=
  ⟨eq_ok1 (by decide +kernel), rfl, by decide +kernel, eq_ok1 (by decide +kernel), by decide +kernel, readOut_eq, eq_placed (by decide +kernel), _, eq_some (by decide +kernel)⟩

/-- RGNMOV of the frozen region to the place it has: the search, the save, the read back. -/
def moving : State := withRegs frozenAt [(12, 0)]

def moveSave : State × Option AccFault := moving.areaWrite 0 bare.save 0 (bare.saveBytes 0 1)

def moveRead : State × Except RestoreFail (Image × Restored) := moveSave.1.readBack 0 bare bare.save

theorem witness_LifecycleMoves :
    bare.state = .frozen ∧ bare.save.addr ≠ 0 ∧ bare.image = some { w := 1, h := 1 } ∧ plcShadow (moving.xreg 12) = false ∧ moving.plcOk bare.part (moving.xreg 12) = true ∧
    (moving.clearOwned 0).search { self := some 0 } 0 bare { w := 1, h := 1 } (moving.xreg 12) = .placed moving homePlace ∧
    ∃ s2 s3 i2 a s4, moving.areaWrite 0 bare.save 0 (bare.saveBytes 0 1) = (s2, none) ∧ s2.readBack 0 bare bare.save = (s3, .ok (i2, a)) ∧
      s3.installArea 0 { bare with ownedAt := ((s3.region 0).map (·.ownedAt)).getD [] } homePlace i2 a = some s4 :=
  ⟨rfl, by decide +kernel, rfl, by decide +kernel, by decide +kernel, eq_placed (by decide +kernel), moveSave.1, moveSave.1, { w := 1, h := 1 }, { stamp := 1 }, _,
    eq_snd (p := moveSave) (by decide +kernel), eq_ok (p := moveRead) (by decide +kernel) (by decide +kernel), eq_some (by decide +kernel)⟩

theorem witness_RegionQueryWords :
    (holding reg).byHandle ((holding reg).xreg 11) (holding reg).guestTid = .ok (0, reg) ∧ (holding reg).xreg 12 = 0 ∧ (holding reg 1).xreg 12 = 1 ∧
    (holding reg 2).xreg 12 = 2 ∧ ((holding reg).hart 0).mode.virt = false ∧ reg.state ≠ .saved ∧ (holding reg 4).xreg 12 = 4 ∧ 4 < (holding reg 5).xreg 12 ∧
    (let s := (inMode .vs (holding reg 3)).modHart 0 fun c => { c with oxtnt := 7 }
     s.byHandle (s.xreg 11) s.guestTid = .ok (0, reg) ∧ s.xreg 12 = 3 ∧ (s.hart 0).mode.virt = true) :=
  ⟨byHandle_holding _ _ rfl, by decide +kernel, by decide +kernel, by decide +kernel, rfl, by decide, by decide +kernel, by decide +kernel,
    ⟨eq_ok1 (by decide +kernel), by decide +kernel, rfl⟩⟩

/-- Bit 32 and bit 9 set; an empty slot; the wrong generation; addresses one byte and half a block off. -/
theorem witness_HandleAndAlignmentRefusals :
    fld ((withRegs mach [(11, 2 ^ 32)]).xreg 11) 63 32 ≠ 0 ∧ fld ((withRegs mach [(11, 512)]).xreg 11) 15 9 ≠ 0 ∧ (withRegs mach [(11, 512)]).xreg 12 < 2 ∧
    ((mach.hart 0).mode.high = true) ∧ mach.region (fld (mach.xreg 11) 8 0) = none ∧ fld (mach.xreg 11) 63 32 = 0 ∧ fld (mach.xreg 11) 15 9 = 0 ∧
    (let s := withRegs (holding reg) [(11, 0x40000)]
     s.region (fld (s.xreg 11) 8 0) = some reg ∧ reg.gen ≠ fld (s.xreg 11) 31 16) ∧
    (withRegs mach [(11, 1)]).xreg 11 % 32 ≠ 0 ∧ (withRegs mach [(11, 64)]).xreg 11 % 128 ≠ 0 ∧ (withRegs mach [(12, 64)]).xreg 12 % 128 ≠ 0 ∧ (withRegs mach [(12, 32)]).xreg 12 % 64 ≠ 0 := by
  decide +kernel
/-! #### Forms over blocks, barriers, FIFOs and counters -/

/-- Hart 0 with x11 and x12, and words at 0x1000. -/
def formAt (s : State) (a b : Nat) (ws : List Nat) : State := withRegs (withWords s 0x1000 ws) [(11, a), (12, b)]

theorem witness_OperandBlockReads : (formAt mach 0 0 [5]).formLoad false 0x1000 16 = (formAt mach 0 0 [5], .ok (le64 [5, 0])) ∧ ((formAt mach 0 0 [5]).hart 0).mode = .m :=
  ⟨eq_ok (by decide +kernel) (by decide +kernel), rfl⟩

/-- Register space: the management block's first eight bytes pass too. -/
theorem witness_OperandBlockReads_registers :
    (∃ bs, mach.formLoad true 0x7F000C000000 8 = (mach, .ok bs)) ∧ regSpace ≤ 0x7F000C000000 ∧ 0x7F000C000000 + 8 ≤ 2 ^ 47 ∧ 0x1000 + 16 ≤ regSpace :=
  ⟨⟨_, eq_ok (a := (okOf (mach.formLoad true 0x7F000C000000 8).2).get (by decide +kernel)) (by decide +kernel) (by decide +kernel)⟩, by decide, by decide, by decide⟩

def strmBlock : List Nat := [2 ^ 56] ++ List.replicate 15 0
def strmbBlock : List Nat := [2 * 2 ^ 56, 0, 0, 2 ^ 15 + 2 ^ 22] ++ List.replicate 12 0

theorem witness_StreamCommandForms :
    (let s := formAt (mach.setRegion 0 reg) 0x30000 0x1000 strmBlock
     s.xreg 12 % 128 = 0 ∧ s.formLoad false (s.xreg 12) 128 = (s, .ok (le64 strmBlock)) ∧ s.byHandle (s.xreg 11) s.guestTid = .ok (0, reg)) ∧
    reg.state.takesStrm = true ∧ reg.midSwitch = false ∧ (reg.me 0 0).isSome = true ∧ (∀ k ∈ [0, 7], reg.cmdsAt 0 0 k < 16) ∧
    (let c := words64 16 (le64 strmBlock)
     headerRefuse c 1 true = none ∧ fld (wd c 3) 63 15 = 0 ∧ (c.drop 12).all (· == 0) = true ∧ fld (wd c 3) 14 12 = 0) ∧
    (let s := formAt (mach.setRegion 0 reg) 0x30000 0x1000 strmbBlock
     s.formLoad false (s.xreg 12) 128 = (s, .ok (le64 strmbBlock)) ∧ s.byHandle (s.xreg 11) s.guestTid = .ok (0, reg)) ∧
    (let c := words64 16 (le64 strmbBlock)
     headerRefuse c 2 true = none ∧ fld (wd c 3) 63 23 = 0 ∧ fld (wd c 3) 14 12 = 0 ∧ fld (wd c 3) 22 15 ≠ 0 ∧ ((List.range 8).filter fun k => bitN (wd c 3) (15 + k)) = [0, 7] ∧ (c.drop 4).all (· == 0) = true) :=
  ⟨⟨by decide +kernel, eq_ok (by decide +kernel) (by decide +kernel), eq_ok1 (by decide +kernel)⟩, rfl, rfl, by decide +kernel, by decide +kernel, by decide +kernel,
    ⟨eq_ok (by decide +kernel) (by decide +kernel), eq_ok1 (by decide +kernel)⟩, by decide +kernel⟩

theorem witness_StreamQueryAndArm :
    (holding reg).byHandle ((holding reg).xreg 11) (holding reg).guestTid = .ok (0, reg) ∧ fld ((holding reg).xreg 12) 63 15 = 0 ∧ (reg.me 0 0).isSome = true ∧
    reg.midSwitch = false ∧ reg.state = .resident ∧ fld ((holding reg (2 ^ 32 - 1 + 2 ^ 32 * 5)).xreg 12) 31 14 ≠ 0 ∧ fld ((holding reg (0x3000 + 2 ^ 32 * 5)).xreg 12) 31 14 = 0 ∧ (reg.elem 0 0 .mx).isSome = true ∧
    (let l : Region := { reg with state := .loading, tiles := [] }
     (holding l).byHandle ((holding l).xreg 11) (holding l).guestTid = .ok (0, l) ∧ (l.me 0 0).isNone = true) :=
  ⟨byHandle_holding _ _ rfl, by decide +kernel, by decide +kernel, rfl, rfl, by decide +kernel, by decide +kernel, by decide +kernel, ⟨byHandle_holding _ _ rfl, by decide +kernel⟩⟩

/-- A barrier at 0x1000: EXP, PH and LFF in word 0; ARR; PB; PHC. -/
def barAt (b x12 : Nat) (ws : List Nat) : State := formAt mach b x12 ws

theorem witness_BarrierForms :
    (barAt 0x1000 1 []).xreg 11 % 32 = 0 ∧ Memory.wf (barAt 0x1000 1 []).mem = true ∧ (barAt 0x1000 1 []).xreg 12 ≠ 0 ∧ (barAt 0x1000 (2 ^ 32 - 1) []).xreg 12 < 2 ^ 32 ∧
    (barAt 0x1000 1 []).hartPiece 0 .amo false ((barAt 0x1000 1 []).xreg 11) 32 = (barAt 0x1000 1 [], .ok 0x1000) ∧
    (let s := barAt 0x1000 (2 ^ 59 + 8) [2]
     s.hartPiece 0 .amo false (s.xreg 11) 32 = (s, .ok 0x1000) ∧ arriveOk (s.xreg 12) = true ∧ bitN (s.xreg 12) 63 = s.barPh 0x1000 ∧ bitN (s.xreg 12) 59 = true ∧
      (s.notifies.filter fun m => m.home == s.barHome 0x1000).length < 256 ∧ s.barWord 0x1000 1 % 2 ^ 32 + 1 ≤ s.barWord 0x1000 0 % 2 ^ 32) ∧
    (let s := barAt 0x1000 1 [2]
     s.hartPiece 0 .load false (s.xreg 11) 32 = (s, .ok 0x1000) ∧ s.xreg 12 < 2 ∧ s.barPh 0x1000 ≠ (s.xreg 12 == 1) ∧ s.barLff 0x1000 = false) :=
  ⟨by decide +kernel, by decide +kernel, by decide +kernel, by decide +kernel, eq_ok (by decide +kernel) (by decide +kernel),
    ⟨eq_ok (by decide +kernel) (by decide +kernel), by decide +kernel⟩, ⟨eq_ok (by decide +kernel) (by decide +kernel), by decide +kernel⟩⟩

/-- The cases of BWAIT: the phase failed; it has not flipped, with an enabled interrupt and without; the completion of the phase has released the core. -/
theorem witness_BarrierForms_waits :
    (let s := barAt 0x1000 1 [2 + 2 ^ 62]
     s.barPh 0x1000 ≠ (s.xreg 12 == 1) ∧ s.barLff 0x1000 = true ∧ (s.hart 0).wait = .none) ∧
    (let s := (barAt 0x1000 0 [2]).modHart 0 fun c => { c with irq := true, ie := true }
     s.barPh 0x1000 = (s.xreg 12 == 1) ∧ (s.hart 0).irqReady = true ∧ (s.hart 0).wait = .none) ∧
    (let s := barAt 0x1000 0 [2]
     s.barPh 0x1000 = (s.xreg 12 == 1) ∧ (s.hart 0).irqReady = false) ∧
    (let s (w : Nat) := (barAt 0x1000 0 [w]).modHart 0 fun c => { c with wait := .released 0x1000 5 }
     ((s 2).hart 0).wait = .released 0x1000 5 ∧ (s 2).barLff 0x1000 = false ∧ (s (2 + 2 ^ 62)).barLff 0x1000 = true) := by decide +kernel

theorem witness_BarrierPhaseRule : Memory.wf (barAt 0 0 [2]).mem = true ∧ 0x1000 % 32 = 0 ∧ (barAt 0 0 [2]).memKey 0x1000 < regSpace ∧ (2 = (barAt 0 0 [2]).barWord 0x1000 0 % 2 ^ 32) ∧ 2 ^ 32 - 1 < 2 ^ 32 := by decide +kernel

def tok7 : TfTok := { word := 9, psn := true, tid := 0 }

theorem witness_TokenFifoForms :
    (withRegs mach [(11, 7), (12, 2 ^ 33 - 1)]).xreg 11 < 8 ∧ (withRegs mach [(11, 7), (12, 2 ^ 33 - 1)]).xreg 12 < 2 ^ 33 ∧ (mach.hart 0).fifoFull 7 = false ∧
    ((mach.modHart 0 fun h => h.setFifo 7 (List.replicate 64 tok7)).hart 0).fifoFull 7 = true ∧
    ((mach.modHart 0 fun h => h.setFifo 7 [{ tok7 with tid := 3 }, tok7]).hart 0).fifo 7 = [{ tok7 with tid := 3 }] ++ tok7 :: [] ∧ tok7.tid = mach.curTid ∧
    8 ≤ (withRegs mach [(11, 8)]).xreg 11 ∧ mach.queueHeads = [] := by decide +kernel

def cpyBlock : List Nat := [3 * 2 ^ 56 + 2 ^ 28, 0, 0, 0, 0x5000, 0x6000, 2 ^ 40] ++ List.replicate 9 0
def cpytBlock : List Nat := [4 * 2 ^ 56 + 2 ^ 28, 0, 0, 1, 0x2000, 0x2000] ++ List.replicate 10 0
def collBlock : List Nat := [5 * 2 ^ 56 + 2 ^ 28, 0, 0, 0, 0x2000, 0x5000, 0x6000, 2, 64] ++ List.replicate 7 0

theorem witness_EngineCommandForms_copy :
    (let s := formAt mach 0x1000 31 cpyBlock
     s.xreg 11 % 128 = 0 ∧ s.formLoad false (s.xreg 11) 128 = (s, .ok (le64 cpyBlock)) ∧ s.mayUse s.askHart 1 = true ∧ s.selectEngine s.askHart.die 16 = some 0 ∧ s.selectEngine s.askHart.die 15 = some 15) ∧
    (let c := words64 16 (le64 cpyBlock)
     headerRefuse c 3 false = none ∧ wd c 3 = 0 ∧ wd c 6 ≠ 0 ∧ wd c 6 ≤ 2 ^ 40 ∧ (c.drop 7).all (· == 0) = true) ∧ (mach.cmdQueue (.copy 15)).q.length < 256 :=
  ⟨⟨by decide +kernel, eq_ok (by decide +kernel) (by decide +kernel), by decide +kernel⟩, by decide +kernel, by decide +kernel⟩

/-- A tensor record at 0x2000 for CPYT, and a group of two ranks at 0x2000 with its table at 0x3000 for COLL. -/
def cpytAt : State := formAt (withWords mach 0x2000 [0x01000000, 0x8400000000000000, 0x000000280000000C, 0, 4, 48]) 0x1000 0 cpytBlock
def collAt : State := formAt (withWords (withWords mach 0x2000 [1, 0x3000]) 0x3000 [0, 2 ^ 13]) 0x1000 0 collBlock
def cpytTake1 : State × Except AccFault (List W64) := cpytAt.takeBlock 0 1 0x2000 64
theorem cpytTake1_ok : (okOf cpytTake1.2).isSome = true := by decide +kernel
def cpytTake2 : State × Except AccFault (List W64) := cpytTake1.1.takeBlock 0 1 0x2000 64
theorem cpytTake2_ok : (okOf cpytTake2.2).isSome = true := by decide +kernel
def collTake : State × Except AccFault (List W64 × List W64) := collAt.takeGroup 0 1 0x2000
theorem collTake_ok : (okOf collTake.2).isSome = true := by decide +kernel

theorem witness_EngineCommandForms_tensor :
    cpytAt.formLoad false (cpytAt.xreg 11) 128 = (cpytAt, .ok (le64 cpytBlock)) ∧ cpytAt.mayUse cpytAt.askHart 1 = true ∧
    (let c := words64 16 (le64 cpytBlock)
     headerRefuse c 4 false = none ∧ wd c 3 < 2 ∧ (c.drop 6).all (· == 0) = true) ∧ cpytAt.selectEngine cpytAt.askHart.die 0 = some 0 ∧
    (∃ s2 s3 a b, cpytAt.takeBlock 0 1 0x2000 64 = (s2, .ok a) ∧ s2.takeBlock 0 1 0x2000 64 = (s3, .ok b) ∧ tsOk a = true ∧ tsOk b = true ∧ pairOk (tsType a) (tsType b) = true ∧ addTypeOk (tsType b) = true) :=
  ⟨eq_ok (by decide +kernel) (by decide +kernel), by decide +kernel, by decide +kernel, by decide +kernel, cpytTake1.1, cpytTake2.1, (okOf cpytTake1.2).get cpytTake1_ok, (okOf cpytTake2.2).get cpytTake2_ok,
    eq_get (p := cpytTake1) cpytTake1_ok, eq_get (p := cpytTake2) cpytTake2_ok, by decide +kernel⟩

theorem witness_EngineCommandForms_coll :
    collAt.formLoad false (collAt.xreg 11) 128 = (collAt, .ok (le64 collBlock)) ∧ collAt.mayUse collAt.askHart 1 = true ∧
    (let c := words64 16 (le64 collBlock)
     headerRefuse c 5 false = none ∧ collWordsOk c = true ∧ wd c 5 % 64 = 0 ∧ wd c 6 % 64 = 0 ∧ fld (wd c 7) 3 0 = 2) ∧
    collAt.xreg 12 < 8 ∧ (collAt.partRange collAt.askHart.part).1 ≤ collAt.xreg 12 ∧ collAt.xreg 12 ≤ (collAt.partRange collAt.askHart.part).2 ∧
    (∃ s2 g t, collAt.takeGroup 0 1 0x2000 = (s2, .ok (g, t)) ∧ groupOk g 2 = true ∧ groupAligned g = true ∧ ranksOk t (gNr g) (gMyr g) s2.xlat.xmod (collAt.xreg 12) = true) :=
  ⟨eq_ok (by decide +kernel) (by decide +kernel), by decide +kernel, by decide +kernel, by decide +kernel, by decide +kernel, by decide +kernel, collTake.1, ((okOf collTake.2).get collTake_ok).1,
    ((okOf collTake.2).get collTake_ok).2, eq_get2 (p := collTake) collTake_ok, by decide +kernel⟩

def oneCmd : Cmd := { kind := 3, c := [3 * 2 ^ 56, 0, 0, 0, 0, 0, 64], seq := 0 }

/-- A copy engine, a collective engine and the Dune engine, each with one command held. -/
def busy : State :=
  { mach with copies := [(0, { cmds := { next := 1, q := [oneCmd] } })], colls := [(0, { cmds := { next := 1, q := [{ oneCmd with kind := 5 }] } })]
              dune := { streams := [(0, { seq := 0, m := [] })], next := 1 } }

theorem witness_TicketQueryForms :
    (∃ w, busy.cmdState (2 * 2 ^ 48) busy.guestTid = .ok w) ∧ (∃ w, busy.cmdState (3 * 2 ^ 48) busy.guestTid = .ok w) ∧ fld (2 * 2 ^ 48) 51 48 = 2 ∧ fld (2 ^ 51 + 2 ^ 50) 63 52 = 0 ∧
    mach.cmdState (2 * 2 ^ 48) mach.guestTid = .error .notFound ∧ (busy.hart 0).mode.high = true ∧ fld (4 * 2 ^ 48) 47 32 = 0 ∧ busy.dune.stateWord (fld (4 * 2 ^ 48) 31 0) = some (0, 2) ∧
    mach.dune.stateWord 0 = none ∧ (withRegs busy [(11, 2 * 2 ^ 48)]).xreg 11 = 2 * 2 ^ 48 :=
  ⟨eq_ex (by decide +kernel), eq_ex (by decide +kernel), by decide, by decide, eq_err1 (by decide +kernel), by decide +kernel, by decide, by decide +kernel, by decide +kernel, by decide +kernel⟩

theorem witness_FenceAndCacheForms :
    fenceOk 0x101 = true ∧ bitN 0x101 8 = true ∧ busy.hartCmds 0 = true ∧ mach.hartCmds 0 = false ∧ bitN 0x24 8 = false ∧ fenceOk 0x24 = true ∧ mach.mayUse mach.askHart 4095 = true ∧
    (let s := inMode .vs mach
     s.mayUse s.askHart 2 = false) := by decide +kernel

/-- Bank 2 of partition 0 bound to selector 5 of hart 0. -/
def bank2 : CtrBank := { part := 0, bank := 2, tid := none, hart := 0, ctrs := List.replicate 32 {} }
def bound : State := { (mach.modHart 0 fun c => { c with cb := c.cb.set 5 (some 2) }) with banks := [bank2] }

theorem witness_CounterForms :
    mach.selBank 15 = none ∧ bitN 0x10F 8 = true ∧ (0x10F < 512) ∧ bound.selBank (fld 0x105 3 0) = some bank2 ∧ bound.bankDenied bank2 = false ∧
    (formAt mach 0x20 0x1000 []).formLoad false 0x1000 256 = (formAt mach 0x20 0x1000 [], .ok (List.replicate 256 0)) ∧ fld 0x20 3 0 = 0 ∧ fld 0x20 7 4 = 2 ∧
    (words64 32 (List.replicate 256 0)).findSome? (mach.eventRefuse mach.guestTid 0) = none ∧ mach.bankOwner 0 2 = none ∧ mach.bankHeld 0 2 = false ∧
    bound.selBank (fld 0x205 3 0) = some bank2 ∧ bitN 0x205 9 = true ∧ bound.selBank (fld 0x1F5 3 0) = some bank2 ∧ bitN 0x1F5 9 = false ∧ bitN bank2.abs.toNat (fld 0x1F5 8 4) = false ∧
    (let s := { (inMode .vs bound) with banks := [{ bank2 with tid := some 0 }] }
     s.selBank 5 = some { bank2 with tid := some 0 } ∧ s.bankDenied { bank2 with tid := some 0 } = false ∧ s.guestTid = some 0) :=
  ⟨by decide +kernel, by decide, by decide, by decide +kernel, by decide +kernel, eq_ok (by decide +kernel) (by decide +kernel), by decide, by decide, by decide +kernel, by decide +kernel,
    by decide +kernel, by decide +kernel, by decide, by decide +kernel, by decide, by decide, by decide +kernel⟩

def traced : State := formAt (mach.setRegion 0 reg) 0x30000 0x1000 []

theorem witness_TraceForms :
    traced.xreg 12 % 64 = 0 ∧ traced.formLoad false (traced.xreg 12) 64 = (traced, .ok (List.replicate 64 0)) ∧ traced.byHandle (traced.xreg 11) traced.guestTid = .ok (0, reg) ∧ reg.strips ≠ [] ∧
    traceBlockOk (words64 8 (List.replicate 64 0)) false = true ∧ (traced.hart 0).mode.virt = false ∧ traced.trc reg.tid ≠ 2 ∧ traced.unitsBusy reg.strips = false ∧ reg.midSwitch = false ∧ (traced.traces.filter (traced.traceOver reg.strips)) = [] ∧
    traced.hartPiece 0 .load false (traced.xreg 12) 64 = (traced, .ok 0x1000) :=
  ⟨by decide +kernel, eq_ok (by decide +kernel) (by decide +kernel), eq_ok1 (by decide +kernel), by decide +kernel, by decide +kernel, rfl, by decide +kernel, by decide +kernel,
    rfl, by decide +kernel, eq_ok (by decide +kernel) (by decide +kernel)⟩

def duneWords : List Nat := [0x30000 + 2 ^ 32, 0, 1, 0, 0, 0, 0, 0]
def duneAt : State := formAt (mach.setRegion 0 reg) 0x1000 0 duneWords

theorem witness_HardpanForms :
    (duneAt.hart 0).mode.high = true ∧ duneAt.xreg 11 % 64 = 0 ∧ duneAt.formLoad true (duneAt.xreg 11) 64 = (duneAt, .ok (le64 duneWords)) ∧
    (let m := words64 8 (le64 duneWords)
     migBad m = false ∧ fld (wd m 0) 44 32 ≠ duneAt.xlat.xmod ∧ migUnaligned m = false ∧ fld (wd m 0) 31 0 = 0x30000) ∧ duneAt.byHandle 0x30000 duneAt.askHart.only = .ok (0, reg) ∧
    reg.state = .resident ∧ reg.shadow = none ∧ reg.shadowOf = none ∧ reg.migrating = false ∧ duneAt.dune.freeStream = some 0 ∧ duneAt.signedPolicy reg.tid = none ∧
    ({ duneAt with policies := [{ tid := 7, key := [], signed := [1], body := [] }] } : State).signedPolicy reg.tid = some [1] ∧
    (withRegs mach [(11, 4096), (12, 8)]).xreg 11 % 4096 = 0 ∧ (withRegs mach [(11, 4096), (12, 8)]).xreg 12 % 8 = 0 ∧ mach.polWait.length < 4 ∧
    (let s : State := { mach with journals := [{ first := 0, count := 1, recs := [[1, 2]] }] }
     s.journalRec (s.hartPart 0) 0 = some ([1, 2], 0)) ∧ (mach.hartStore 0 true (piecesOf 0x4000 64) (bytesOf64 [1, 2])).2 = none :=
  ⟨rfl, by decide +kernel, eq_ok (by decide +kernel) (by decide +kernel), by decide +kernel, eq_ok1 (by decide +kernel), rfl, rfl, rfl, rfl, by decide +kernel, rfl, rfl,
    by decide +kernel, by decide +kernel, by decide +kernel, by decide +kernel, by decide +kernel⟩

/-- A journal of three records: numbers 0 and 2 are held, 3 is not. (A journal that has dropped records has 65,536 of them.) -/
theorem witness_JournalRecordsHeld :
    (let j : Journal := { first := 0, count := 3, recs := [[1], [2], [3]] }
     ({ mach with journals := [j] } : State).journals.find? (fun k => k.first == mach.hartPart 0) = some j ∧ j.recs.length = min j.count 65536 ∧ 2 < j.count ∧ j.count ≤ 3 ∧
       (mach.hart 0).mode.high = true ∧ mach.xreg 12 % 64 = 0) := by decide +kernel
/-! #### Units of a tile and circuits -/

/-- A PE whose transition 0 (enabled, trigger ic3, port oq0) runs `RECV ic3 -> 1.A; SEND oq0`; ic3 holds one I32 token. -/
def worker : Element :=
  { elt := .pe0, store := [0x04000000, 0x010C0101, 0x04000000], trans := [(0x81800000, 1, 0)]
    chanCfg := [0, 0, 0, 0x8800000000000000], chans := (List.replicate 32 {}).set 3 { fifo := [{ tok := { word := 77 } }] }
    banks := List.replicate 4 { tm := 1 } }

/-- A running region of one tile, entered, with element `e` among its elements. -/
def live (es : List Element) : Region := { run with entered := [(0, 0)], tiles := [{ x := 0, y := 0, elts := es }] }

def at5 (r : Region) : State := { mach.setRegion 0 r with fc := 5 }

def started : Element := worker.select 5

theorem witness_SelectionChoosesByTheRules :
    worker.run = none ∧ (∀ j, j < 32 → ({ worker with trans := [] } : Element).stallOf j 5 ≠ none) ∧ started.run = some { tran := 0, bank := 0, issued := 5 } ∧ worker.stallOf 0 5 = none ∧
    (∀ k, k < 32 → worker.stallOf k 5 = none → worker.pass.getD k 0 < 512) := by decide +kernel

/-- Two runnable transitions, the second overdue: the second is picked (R28). -/
theorem witness_SelectionChoosesByTheRules_overdue :
    (let e : Element := { worker with trans := [(0x81800000, 1, 0), (0x81800000, 1, 0)], banks := List.replicate 4 { tm := 3 }, pass := (List.replicate 32 0).set 1 512 }
     e.stallOf 0 5 = none ∧ e.stallOf 1 5 = none ∧ (e.select 5).run.map (·.tran) = some 1) := by decide +kernel

theorem witness_SelectionAndBeatAct :
    (at5 (live [worker])).region 0 = some (live [worker]) ∧ (live [worker]).acts 0 0 (.elt 0 0 .pe0) = true ∧ (live [worker]).elem 0 0 .pe0 = some worker ∧ worker.halted = false ∧
    worker.selFc ≠ some 5 ∧ (∀ u, worker.run = some u → worker.runOver u 5 = true) ∧
    (let e := { started with run := some { tran := 0, bank := 0, issued := 4 } }
     (live [e]).acts 0 0 (.elt 0 0 .pe0) = true ∧ (live [e]).elem 0 0 .pe0 = some e ∧ e.runOver { tran := 0, bank := 0, issued := 4 } 4 = false ∧ e.storeBad = false ∧
      e.beatWaits { tran := 0, bank := 0, issued := 4 } 5 = none ∧
      (match fireBeat ((live [e]).beatEnv 0 0 e { tran := 0, bank := 0, issued := 4 }) (e.tran 0).badr with | .commit .. => true | _ => false) = true) ∧
    (let e := { started with run := some { tran := 0, bank := 0, issued := 4 } }
     let r := { live [e] with freeze := some { why := .form, got := [.elt 0 0 .pe0] } }
     r.acts 0 0 (.elt 0 0 .pe0) = false ∧ r.live 0 0 = true ∧ (e.run.map Run.inProgress) = some true) := by
  refine ⟨?_, ?_, ?_, ?_, ?_, ?_, ?_, ?_⟩
  case refine_6 => intro u hu; cases hu
  all_goals decide +kernel

/-- SELECTION then BEAT move the token's word from ic3 to oq0 (R28, R32, R111). -/
theorem test_beat_moves_word :
    (let s1 := match exec (.selection ⟨0, 0, 0, .pe0⟩) (at5 (live [worker])) with | .next t => { t with fc := 6 } | _ => mach
     match exec (.beat ⟨0, 0, 0, .pe0⟩ .match_) s1 with
     | .next t => ((t.region 0).bind fun r => r.elem 0 0 .pe0).map fun e => ((e.port 0).queue.map (·.tok.word), (e.chan 3).fifo.length)
     | _ => none) = some ([77], 0) := by decide +kernel

/-- Route entry: V, SRC, SIX, DST, DIX (14 R396). -/
def route (src six dst dix : Nat) : W64 := .ofNat 64 (2 ^ 63 + put 62 59 src + put 58 52 six + put 51 48 dst + put 47 41 dix)

/-- A PE with a token on oq0, a scale before its token on oq1, tokens on oq2 and oq3; an ME with ic5 (I32), ic6 (a block format) and
credit in its window; an MX with a row-lane channel ic2; a CCU. -/
def sender : Element :=
  { elt := .pe0
    ports := (List.replicate 16 {}).mapIdx fun q (p : OutPort) =>
      if q < 4 then { p with queue := [{ tok := { word := 5 }, scale := if q = 1 then some 0x100 else none }], fcred := 1, wcred := 1 } else p }
def taker : Element :=
  { elt := .me, chanCfg := [0, 0, 0, 0, 0, 0x8800000000000000, 0xE120100000000000], chans := (List.replicate 32 {}).set 6 { win := { crd := 1 } } }
def laneMx : Element := { elt := .mx, chanCfg := [0, 0, 0x8000000000008000] }
def counter : Ccu := { words := [0, 1, 2, 0, 1, 2, 0, 1, 1, 0, 1, 1, 0x80000000], running := true, bound := [2, 2, 1, 1], val := [0, 0, 0, 0], fcred := 1 }

def net : Region :=
  { run with
    entered := [(0, 0)], tiles := [{ x := 0, y := 0, elts := [sender, taker, laneMx], ccu := some counter }]
    switches := [{ col := 0, row := 0, routes := [route 0 0 2 5, route 0 1 2 6, route 0 2 6 9, route 0 3 9 0] }, { col := 1, row := 0 }]
    drivers := [{ lane := .row 0, fmt := 0, blen := 0, lrow := 0, lcol := 0, rall := true, call := false }]
    fly := [{ lane := .row 0, val := {}, scales := [], left := [(0, 0)] }]
    edges := [⟨.port 0 0 .pe0 0, .chan 0 0 .me 5⟩, ⟨.port 0 0 .pe0 1, .chan 0 0 .me 6⟩, ⟨.port 0 0 .pe0 3, .lane (.row 0)⟩]
    credits := [(.chan 0 0 .me 5, false), (.chan 0 0 .me 6, true)] }

theorem witness_ArrivalsAndCredits :
    (at5 net).region 0 = some net ∧ net.moving = true ∧ net.holdsAt 0 0 = true ∧ net.spanPort ⟨0, 0, 0, 0, 0⟩ = false ∧ net.localRoute ⟨0, 0, 0, 0, 0⟩ = some (route 0 0 2 5) ∧
    net.imageOf 0 0 = some (0, 0) ∧ Elt.ofCode (rtDst (route 0 0 2 5)) = some .me ∧ rtDle (route 0 0 2 5) = false ∧ (net.takeInput ⟨0, 0, 0, 0, 0⟩).elem 0 0 .me = some taker ∧
    rtDst (route 0 0 2 5) ≤ 3 ∧ net.inputHead ⟨0, 0, 0, 0, 0⟩ = some (.token { word := 5 }) ∧ cfgDef (taker.cfg 5) = true ∧ (taker.chan 5).fifo.length + (taker.chan 5).coming < 8 ∧
    net.spanPort ⟨0, 0, 0, 0, 1⟩ = false ∧ net.inputHead ⟨0, 0, 0, 0, 1⟩ = some (.scale 0x100) ∧ cfgDef (taker.cfg 6) = true ∧ (cfgBlock (taker.cfg 6)).isSome = true ∧ (taker.chan 6).comingScales < (taker.chan 6).win.crd ∧
    net.sourceOf (.chan 0 0 .me 5) = some (.port 0 0 .pe0 0) ∧ takeFirst net.credits (.chan 0 0 .me 5, false) = some [(.chan 0 0 .me 6, true)] ∧
    net.sourceOf (.chan 0 0 .me 6) = some (.port 0 0 .pe0 1) ∧ takeFirst net.credits (.chan 0 0 .me 6, true) = some [(.chan 0 0 .me 5, false)] := by decide +kernel

def idle : Ccu := { counter with running := false, armq := [{ tok := { word := 3 } }] }

theorem witness_CircuitsAndLanesMove :
    (at5 net).readyHops 0 net 0 0 6 = [(9, ⟨0, 0, 0, 0, 2⟩, route 0 2 6 9)] ∧ net.inputHead ⟨0, 0, 0, 0, 2⟩ = some (.token { word := 5 }) ∧ neighbour 0 0 6 = some (1, 0) ∧ net.flipped 1 0 = false ∧
    net.inputHead ⟨0, 0, 0, 0, 3⟩ = some (.token { word := 5 }) ∧ net.localRoute ⟨0, 0, 0, 0, 3⟩ = some (route 0 3 9 0) ∧ rtDst (route 0 3 9 0) = 9 ∧
    (net.driver (.row 0)).isSome = true ∧ fmtOf 0 = some (.lane .i8) ∧
    ((net.takeInput ⟨0, 0, 0, 0, 3⟩).driverTakes { lane := .row 0, fmt := 0, blen := 0, lrow := 0, lcol := 0, rall := true, call := false } (.lane .i8) { word := 5 }).isSome = true ∧
    net.holds 0 0 = true ∧ net.fly.find? (fun a => a.lane == .row 0 && a.left.contains (0, 0)) = some { lane := .row 0, val := {}, scales := [], left := [(0, 0)] } ∧
    net.elem 0 0 .mx = some laneMx ∧ laneMx.laneChan (.row 0) = some 2 ∧ net.ccu 0 0 = some counter ∧ net.acts 0 0 (.ccu 0 0) = true ∧ counter.stopped = false ∧ counter.fcred ≠ 0 ∧
    counter.emitFc ≠ some 5 ∧
    (let q := net.modCcu 0 0 fun _ => idle
     q.ccu 0 0 = some idle ∧ q.acts 0 0 (.ccu 0 0) = true ∧ idle.armq = { tok := { word := 3 } } :: [] ∧ 0 < 5) := by decide +kernel

theorem witness_CounterChainTokens :
    counter.val = [0, 0, 0, 0] ∧ counter.eos = none ∧ counter.inRange counter.bound 0 (0 + counter.stepOf 0) = true ∧
    (let c := { counter with val := [1, 0, 0, 0] }
     c.inRange c.bound 0 (1 + c.stepOf 0) = false ∧ c.inRange c.bound 1 (0 + c.stepOf 1) = true) ∧ ({ counter with eos := some 4 } : Ccu).eos = some 4 := by decide +kernel

/-- An ME whose chain 0 holds request `q`. -/
def chainMe (q : Req) : Element := { elt := .me, me := { chains := (List.replicate 8 {}).set 0 { next := 1, reqs := [q] } } }
def chained (q : Req) : Region := live [chainMe q]
def ldq : Req := { seq := 0, op := .ld 16, addr := 0x60 }
def stgq : Req := { seq := 0, op := .stg 16 0x8001, addr := 0x60, data := 9, paddr := some 0x60, st := .sent }
def atomq : Req := { seq := 0, op := .atom .add true .i32 1 0, addr := 0x60, paddr := some 0x60, st := .sent }
def doneq : Req := { seq := 0, op := .ld 16, st := .performed, reply := some { word := 4 } }

theorem witness_ChainRequestsProceed_send :
    (at5 (chained ldq)).region 0 = some (chained ldq) ∧ (chained ldq).me 0 0 = some (chainMe ldq).me ∧ ((chainMe ldq).me.chain 0).reqs.find? (fun p => p.st == .queued) = some ldq ∧
    (chained ldq).acts 0 0 (.chain 0 0 0) = true ∧ (chainMe ldq).me.banksIn ldq = true ∧ ldq.psn = false ∧ ldq.op ≠ .ord ∧ ldq.op ≠ .cmpl ∧ (at5 (chained ldq)).maySend (chainMe ldq).me 0 ldq = true ∧
    ldq.op.translates = false ∧ ((at5 (chained ldq)).reqPage (chained ldq) 0 0 ldq) = none ∧
    (let g : Req := { stgq with st := .queued }
     (at5 (chained g)).maySend (chainMe g).me 0 g = true ∧ ((chainMe g).me.chain 0).reqs.find? (fun p => p.st == .queued) = some g ∧ (at5 (chained g)).reqPage (chained g) 0 0 g = some (0x60, 0)) := by decide +kernel

theorem witness_ChainRequestsProceed_perform :
    ((chainMe { ldq with st := .sent }).me.atTarget 0 = some { ldq with st := .sent } ∧ (chained { ldq with st := .sent }).moving = true) ∧
    (let s := at5 (chained stgq)
     (chainMe stgq).me.atTarget 0 = some stgq ∧ s.check ((chained stgq).whoAt 0 0 stgq.mid) 0x60 .write 16 = (s, none)) ∧
    (let s := at5 (chained atomq)
     (chainMe atomq).me.atTarget 0 = some atomq ∧ s.check ((chained atomq).whoAt 0 0 atomq.mid) 0x60 .atomic 4 (hostAtomicOk .add true .i32) = (s, none)) ∧
    (chained doneq).elem 0 0 .me = some (chainMe doneq) ∧ (((chainMe doneq).me.chain 0).reqs.find? fun p => p.op.replies && p.inUse) = some doneq ∧ doneq.reply = some { word := 4 } ∧
    (chained doneq).acts 0 0 (.chain 0 0 0) = true ∧ ((chainMe doneq).me.chain 0).replyReady doneq = true ∧ ((chainMe doneq).port 8).queue.length < 4 := by decide +kernel

theorem witness_AtomicOperations : Memory.wf mach.mem = true ∧ mach.memKey 0x60 < regSpace ∧ regSpace ≤ mach.memKey 0x7F0003000000 ∧ mach.memKey 0x7F0003000000 < 2 ^ 47 ∧ 2 ^ 32 - 1 < 2 ^ (8 * AtomTy.bytes .i32) ∧ 2 ^ 64 - 1 < 2 ^ (8 * AtomTy.bytes .n64) := by decide +kernel

/-- REQUEST_PERFORM of a masked global store: bytes 0 and 15 of the 16 are written (R197). -/
theorem test_masked_store :
    (match exec (.requestPerform ⟨0, 0, 0⟩ 0) (at5 (chained { stgq with data := 0xAA0000000000000000000000000000BB })) with
     | .next t => [memRead t.mem 0x60, memRead t.mem 0x61, memRead t.mem 0x6F]
     | _ => []) = [0xBB, 0, 0xAA] := by decide +kernel

/-- ATOMIC_APPLY of an add of 1 to a 32-bit word of ones: it wraps, and answers the old value (R201, R202). -/
theorem test_atomic_add_wraps :
    (match exec (.atomicApply ⟨0, 0, 0⟩ 0) { at5 (chained atomq) with mem := memWriteN mach.mem 0x60 4 (2 ^ 32 - 1) } with
     | .next t => (memReadN t.mem 0x60 4, (((t.region 0).bind fun r => r.me 0 0).bind fun m => (m.chain 0).reqs.head?.bind (·.reply)).map (·.word))
     | _ => (1, none)) = (0, some 0xFFFFFFFF) := by decide +kernel
/-! #### Streams, drains, freezes and switches -/

/-- Descriptors of I32 units in the scratchpad at 0x100: a load for port 0, and a store from ic5 (R211). -/
def loadQ : List W64 := [.ofNat 64 (2 ^ 62 + put 61 57 2 + 0x100), 0, 0, 0, 0, 0, 0, 0]
def storeQ : List W64 := [.ofNat 64 (2 ^ 63 + 2 ^ 62 + put 61 57 2 + 0x100), .ofNat 64 (put 63 59 5), 0, 0, 0, 0, 0, 0]

/-- An ME with stream 0 as given, the load descriptor at 0x40 of its scratchpad, and a token in ic5. -/
def streamMe (x : Stream) : Element :=
  { taker with chans := taker.chans.set 5 { fifo := [{ tok := { word := 6 } }] }
               me := { streams := (List.replicate 8 {}).set 0 x, spad := memWriteBytes [] 0x40 (bytesOf64 loadQ) } }

/-- The region of such an ME; its port 0 is connected to its own ic5. -/
def streamed (x : Stream) : Region := { live [streamMe x] with edges := [⟨.port 0 0 .me 0, .chan 0 0 .me 5⟩] }

def walkq : Req := { seq := 0, op := .ldg 4, addr := 0x12340 }
def walkOut : State × Except AccFault WalkOk :=
  ((at5 (chained walkq)).countAt 0 0 0 2 2 3 1).translate (some ((chained walkq).dieAt 0 0)) (some ((chained walkq).stripAt 0 0)) (some 0) 1 0x12340 .read
theorem walkOut_ok : (okOf walkOut.2).isSome = true := by decide +kernel

theorem witness_StreamSteps_walk :
    ((at5 (chained walkq)).region 0 = some (chained walkq) ∧ (chained walkq).elem 0 0 .me = some (chainMe walkq) ∧ ((chainMe walkq).me.chain 0).reqs.find? (fun p => p.needsWalk) = some walkq ∧
    (chained walkq).moving = true ∧ (chained walkq).holds 0 0 = true ∧ (walkq.st == .queued && (chained walkq).stopped (.chain 0 0 0)) = false ∧ walkq.nextAddr = 0x12340) ∧
    (∃ s1 k, ((at5 (chained walkq)).countAt 0 0 0 2 2 3 1).translate (some ((chained walkq).dieAt 0 0)) (some ((chained walkq).stripAt 0 0)) (some 0) 1 0x12340 .read = (s1, .ok k)) :=
  ⟨by decide +kernel, _, _, eq_get (p := walkOut) walkOut_ok⟩

theorem witness_StreamSteps_start :
    (let x : Stream := { pend := [0x40] }
     (streamed x).acts 0 0 (.stream 0 0 0) = true ∧ (streamed x).elem 0 0 .me = some (streamMe x) ∧ ((streamMe x).me.stream 0).run = none ∧ ((streamMe x).me.stream 0).pend = 0x40 :: [] ∧
      (streamMe x).me.swapped = 16 ∧ ((streamMe x).me.stream 0).stopped = false ∧ words64 8 ((streamMe x).me.spadRead 0x40 64) = loadQ ∧
      (streamed {}).streamBad 0 0 (streamMe {}) { q := loadQ } = none) := by decide +kernel

theorem witness_StreamSteps_load :
    (let g : SRun := { q := loadQ }
     let e := streamMe { run := some g }
     (e.me.stream 0).run = some g ∧ e.me.fencesMet e.me.nfence = true ∧ g.ended = false ∧ g.store = false ∧ (e.me.stream 0).stopped = false ∧ g.replay = [] ∧ 0 < e.portRoom g.pc ∧ g.pc < e.ports.length ∧ g.eos = none ∧
      g.block = none ∧ g.part = [] ∧ g.spad = true ∧ (g.addrs 0).1 = 0x100 ∧ spadCheck (g.addrs 0).1 16 = none ∧ (g.addrs 0).1 + 16 ≤ 0x60000 ∧ g.partPsn = false) ∧
    (let g : SRun := { q := loadQ, eos := some 5 }
     g.store = false ∧ g.eos = some 5 ∧ ((streamMe { run := some g }).me.stream 0).run = some g) := by decide +kernel

theorem witness_StreamSteps_store :
    (let g : SRun := { q := storeQ }
     let e := streamMe { run := some g }
     g.store = true ∧ g.rel = 0 ∧ g.block = none ∧ g.burst = [] ∧ g.units < g.total ∧ e.words g.pc 5 ≠ 0 ∧ (e.chan g.pc).fifo = { tok := { word := 6 } } :: [] ∧ (cfgPsnf (e.cfg g.pc) && false) = false ∧
      g.hold = false ∧ g.spad = true ∧ spadCheck (g.addrs 0).1 16 = none ∧ (g.addrs 0).1 + 16 ≤ 0x60000 ∧ e.me.swapped = 16) ∧
    (let g : SRun := { q := storeQ, burst := [{ word := 6 }] }
     g.burst = [{ word := 6 }] ∧ g.hold = false ∧ g.part = [] ∧ ((streamMe { run := some g }).me.stream 0).run = some g) ∧
    (let g : SRun := { q := loadQ, ended := true }
     g.ended = true ∧ ((streamMe { run := some g }).me.chain g.cch).inUse < 32) := by decide +kernel

def tile : Drain := { buf := List.replicate 256 7, psn := false, isInt := true, level := 1, pos := [(2, 0)] }
def mxWith (d : Drain) : Element := { elt := .mx, mx := (List.replicate 4 {}).set 1 { drain := some d } }

theorem witness_TileSteps_drain :
    (let r := live [{ elt := .me, me := { swapped := 15 } }, { elt := .mx, holdMmas := true }]
     (at5 r).region 0 = some r ∧ (r.me 0 0).map (·.swapped) = some 15 ∧ r.holds 0 0 = true ∧ (r.elem 0 0 .mx).isSome = true) ∧
    (let r := live [mxWith tile]
     r.elem 0 0 .mx = some (mxWith tile) ∧ ((mxWith tile).mx.getD 1 {}).drain = some tile ∧ look tile.pos 2 = some 0 ∧ tile.copy = false ∧ r.acts 0 0 (.drain 0 0 1) = true ∧ 0 < tile.len ∧
      (mxWith tile).dueAt 2 = false ∧ 0 < (mxWith tile).portRoom 2 ∧ 2 < (mxWith tile).ports.length ∧ 1 < (mxWith tile).mx.length) ∧ 64 < tile.len := by decide +kernel

/-- The hand-off of an INT32 tile by a record at 0x2000 of 8 columns and 32 rows of I32 at 0x5000. -/
def recWords : List Nat := [0x5000, 2 ^ 63 / 2 ^ 3 + 2 ^ 58 * 0, 0x0000002000000008, 0, 4, 32, 0, 0]
def copyTile (blk : List W64) (k : Nat) : Drain := { buf := List.replicate 256 7, psn := false, isInt := true, copy := true, handed := true, recA := 0x2000, blk := blk, elt := k }
def recBlk : List W64 := [0x5000, .ofNat 64 (put 63 60 2 + put 59 58 1), .ofNat 64 (32 * 2 ^ 32 + 8), 0, 4, 32, 0, 0]
def mdrc (d : Drain) (turn : Bool) : State :=
  { at5 (live [mxWith d]) with copies := [(0, { handoff := [(0, 0, 0, 1)], turn := turn })], mem := memWriteBytes mach.mem 0x2000 (bytesOf64 recBlk) }
def recOut : State × Except AccFault (List Byte) := (mdrc (copyTile [] 0) true).controlBlock 0 1 0x2000 64
theorem recOut_ok : okOf recOut.2 = some (bytesOf64 recBlk) := by decide +kernel
def eltOut : State × Except AccFault Nat := (mdrc (copyTile recBlk 9) true).engineAcc (live [mxWith (copyTile recBlk 9)]) 0 0 (tsAddr recBlk ((copyTile recBlk 9).coord 9)) 4 .write
theorem eltOut_ok : (okOf eltOut.2).isSome = true := by decide +kernel

theorem witness_TileSteps_tensor :
    (let d := copyTile [] 0
     let s := mdrc d true
     s.waitingTiles 0 = [] ∧ (s.copyEngine 0).handoff = (0, 0, 0, 1) :: [] ∧ s.region 0 = some (live [mxWith d]) ∧ ((live [mxWith d]).ctx 0 0 1).bind (·.drain) = some d ∧
      (live [mxWith d]).acts 0 0 (.drain 0 0 1) = true ∧ (s.copyEngine 0).turn = true ∧ vaCheck d.recA 8 = none ∧ d.ctr % 8 = 0 ∧ d.ctr < 2 ^ 52 ∧ d.blk = []) ∧
    (∃ s1, (mdrc (copyTile [] 0) true).controlBlock 0 1 0x2000 64 = (s1, .ok (bytesOf64 recBlk))) ∧ words64 8 (bytesOf64 recBlk) = recBlk ∧ tsOk recBlk = true ∧ mdrcTypeOk true (tsType recBlk) = true ∧
    (let d := copyTile recBlk 9
     d.blk ≠ [] ∧ d.add = false ∧ d.nextElt d.elt = some 9 ∧ d.nextElt 10 = some 10 ∧ tlOf (tsType d.blk) = some .i32) ∧
    (∃ s1 da, (mdrc (copyTile recBlk 9) true).engineAcc (live [mxWith (copyTile recBlk 9)]) 0 0 (tsAddr recBlk ((copyTile recBlk 9).coord 9)) 4 .write = (s1, .ok da)) ∧
    (copyTile recBlk 256).nextElt 256 = none :=
  ⟨by decide +kernel, ⟨_, eq_ok (p := recOut) rfl recOut_ok⟩, by decide +kernel, by decide +kernel, by decide +kernel, by decide +kernel, ⟨_, _, eq_get (p := eltOut) eltOut_ok⟩, by decide +kernel⟩

def frozen0 : FaultRec := { code := 0x10 }
/-- A running region that freezes: every unit has had the request. -/
def settling (z : Freeze) (f : Option FaultRec) : Region := { run with entered := [(0, 0)], freeze := some z, fault := f }

theorem witness_FreezeSteps :
    (let z : Freeze := { why := .form }
     let r := settling z none
     r.freeze = some z ∧ z.settled = false ∧ z.got.contains (.elt 0 0 .pe0) = false ∧ r.units.contains (.elt 0 0 .pe0) = true) ∧
    (let z : Freeze := { why := .fault, got := (settling { why := .fault } none).units }
     let r := settling z (some frozen0)
     r.settledNow z = true ∧ r.killWhenDone = none ∧ r.fault = some frozen0) ∧
    (let z : Freeze := { why := .form, got := (settling { why := .form } none).units }
     let r := settling z none
     r.settledNow z = true ∧ r.fault = none) ∧
    (let r : Region := { run with active := 2000 * 1000000 }
     r.state = .resident ∧ r.run = true ∧ r.stp = false ∧ r.freeze = none ∧ ((at5 r).frBlock r.part).wdl ≠ 0 ∧ ((at5 r).frBlock r.part).wdl.toNat * 1000000 ≤ r.active ∧
      ((at5 run).frBlock 0).wdl.toNat * 1000000 > run.active) ∧
    (let r : Region := { run with noProg := 2 ^ 24 }
     r.noProgArmed = true ∧ 2 ^ 24 ≤ r.noProg ∧ run.noProg < 2 ^ 24) := by decide +kernel

def draining (o : SwitchOut) (es : List Element) : Region := { live es with state := .draining, switchOut := some o }

theorem witness_SwitchSteps :
    (let r := draining {} [{ elt := .pe0 }]
     (at5 r).region 0 = some r ∧ r.hasPassed (.elt 0 0 .pe0) = false ∧ r.elem 0 0 .pe0 = some { elt := .pe0 } ∧ r.holds 0 0 = true ∧ r.eltQuiet 0 0 { elt := .pe0 } = true ∧
      r.lowerPassed 0 0 ({ elt := .pe0 } : Element).stage = true ∧ (at5 r).flipReady r {} 0 0 = false) ∧
    (let r := draining { passed := [.elt 0 0 .pe0], deadline := 10 } [{ elt := .pe0 }]
     r.unflipped.contains (0, 0) = true ∧ (at5 r).slipReady { passed := [.elt 0 0 .pe0], deadline := 10 } = true ∧ r.tileDrained 0 0 = true ∧ (at5 r).ns < 10 ∧
      r.unflipped = [(0, 0)] ∧ (at5 r).flipReady r { passed := [.elt 0 0 .pe0], deadline := 10 } 0 0 = true) ∧
    (let r : Region := { draining { freeze := true } [{ elt := .pe0 }] with freeze := some { why := .switch, settled := true } }
     r.settling = false ∧ r.freeze.isSome = true ∧ r.nextSweep = some (0, 0)) ∧ (0 ≤ (at5 run).ns) := by decide +kernel

/-- A hold store that has moved all its units and keeps one write (R216). -/
def held : SRun := { q := storeQ.set 7 (.ofNat 64 (2 ^ 63)), units := 1, held := [{ va := 0x5000, bytes := [1], psn := false }] }

theorem witness_SwitchSteps_complete :
    (let r := live [{ elt := .pe0, trans := [] }, { elt := .me }]
     r.state = .resident ∧ r.run = true ∧ r.freeze = none ∧ r.shadowOf = none ∧ r.doneButStreams = true) ∧
    (let x : Stream := { run := some held }
     (live [{ elt := .me, me := { streams := [x] } }]).doneButStreams = true ∧ x.idle = false ∧ x.pend = [] ∧ (x.run.map (·.heldOnly)) = some true) := by decide +kernel

def rolling : Region := { bare with state := .resident, run := true, freeze := some { why := .rollback, settled := true } }
def rolledAt : State := withImage.setRegion 0 rolling

def imgOf : ImgRead → Option Image | .ok i => some i | _ => none
theorem eq_img {σ : Type} {p : σ × ImgRead} {s : σ} {i : Image} (h1 : p.1 = s) (h2 : imgOf p.2 = some i) : p = (s, .ok i) := by
  obtain ⟨x, y⟩ := p
  cases y <;> simp_all [imgOf]

theorem witness_RecoverySteps_rollback :
    rolledAt.region 0 = some rolling ∧ rolling.freeze = some { why := .rollback, settled := true } ∧ rolling.state = .resident ∧ rolledAt.readImageAt 0 rolling.img = (rolledAt, .ok { w := 1, h := 1 }) ∧
    (rolledAt.clearOwned 0).search { self := some 0 } 0 rolling { w := 1, h := 1 } (2 ^ 63) = .placed rolledAt homePlace ∧ (∃ j, rolledAt.relocate rolling.part homePlace { w := 1, h := 1 } = some j) ∧
    ∃ s2, (rolledAt.clearOwned 0).search { self := some 0 } 0 rolling { w := 17, h := 1 } (2 ^ 63) = .none_ s2 :=
  ⟨by decide +kernel, rfl, rfl, eq_img (by decide +kernel) (by decide +kernel), eq_placed (by decide +kernel), ⟨_, eq_some (by decide +kernel)⟩, eq_none (by decide +kernel)⟩

theorem witness_RecoverySteps_scrubs :
    (let s : State := { mach with defects := [((128, 31), 1)] }
     look s.defects (128, 31) = some 1) ∧ targetOf 0x1000 = some 0 ∧ targetOf (0x8000000000 - 1) = some 7 ∧
    ScrubOf.elt (.srf ⟨0, 0, 0, .me⟩ 63) = some ⟨0, 0, 0, .me⟩ ∧ ScrubOf.isStore (.srf ⟨0, 0, 0, .me⟩ 63) = false ∧ ((run.elem 0 0 .me).isSome = true) ∧
    ScrubOf.elt (.window ⟨0, 0, 0, .me⟩ 31) = some ⟨0, 0, 0, .me⟩ ∧ ScrubOf.isStore (.window ⟨0, 0, 0, .me⟩ 31) = true ∧
    ScrubOf.unit (.route 0 0 0) = some (0, 0, 0, 5) ∧ (run.tile 0 0).isSome = true ∧ 63 < mach.harts.length ∧
    (let s : State := { mach with scrubs := [(0, { pending := some (0x1000, List.replicate 64 0) })] }
     (s.scrubOf 0).pending = some (0x1000, List.replicate 64 0) ∧ Memory.wf s.mem = true) := by decide +kernel
/-! #### Engines, barriers, collectives, migrations -/

/-- A copy of 64 bytes from 0x5000 to 0x6000 in address space 1. -/
def cpy : Cmd := { oneCmd with c := [3 * 2 ^ 56 + 2 ^ 28, 0, 0, 0, 0x5000, 0x6000, 64], asid := 1 }
def cpyt : Cmd := { cpy with kind := 4, c := [4 * 2 ^ 56 + 2 ^ 28, 0, 0, 0, 0, 0], blocks := [recBlk, recBlk.set 0 0x6000] }
def queued (c : Cmd) : State := { mach with copies := [(0, { cmds := { next := 1, q := [c] } })] }
/-- A command that waits for a token of FIFO 3 and pushes one into FIFO 4. -/
def tokened : Cmd := { cpy with c := [3 * 2 ^ 56 + 2 ^ 55 + 3 * 2 ^ 52 + 2 ^ 51 + 4 * 2 ^ 48 + 77, 0, 0, 0, 0x5000, 0x6000, 64] }

theorem witness_EngineSteps_copy :
    ((queued cpy).copyEngine 0).cmds.q = cpy :: [] ∧ cpy.issued = false ∧ cpy.done = false ∧ cpy.paused = false ∧ cpy.wte = false ∧ tokened.wte = true ∧ tokened.popped = false ∧
    takeToken 0 (((queued tokened).hart 0).fifo tokened.wtf) = none ∧
    takeToken 0 ((((queued tokened).modHart 0 fun h => h.setFifo 3 [{ tok7 with psn := false }]).hart 0).fifo tokened.wtf) = some ({ tok7 with psn := false }, []) ∧
    (queued cpy).mdrcReady 0 = false ∧ (∃ s1, (queued { cpy with issued := true }).bytesUnit (.copy 0) { cpy with issued := true } = (s1, none)) ∧
    cpyt.kind ≠ 3 ∧ (∃ s1, (queued { cpyt with issued := true }).elemsUnit (.copy 0) { cpyt with issued := true } = (s1, none)) :=
  ⟨rfl, rfl, rfl, rfl, by decide +kernel, by decide +kernel, rfl, by decide +kernel, by decide +kernel, by decide +kernel, ⟨_, eq_snd (by decide +kernel)⟩, by decide, ⟨_, eq_snd (by decide +kernel)⟩⟩

def strmCmd : Cmd := { kind := 1, c := .ofNat 64 (2 ^ 56) :: 0 :: 0 :: 0 :: loadQ, seq := 0, tid := 7, asid := 1 }
def strmbCmd : Cmd := { kind := 2, c := [2 * 2 ^ 56, 0, 0, 2 ^ 15, 0, 0, 0, 0, 0, 0, 0, 0], seq := 0, tid := 7, asid := 1 }
def strmAt (c : Cmd) : State := at5 (streamed { cmds := { next := 1, q := [c] } })

theorem witness_EngineSteps_streams :
    ((strmAt strmCmd).orphanAt (.stream 0 0 0 0) = none ∧ ((strmAt strmCmd).cmdQueue (.stream 0 0 0 0)).q.head? = some strmCmd ∧ strmCmd.wte = false ∧ (strmAt strmCmd).mayIssue (.stream 0 0 0 0) strmCmd = true) ∧
    (∃ s1, ((strmAt strmCmd).setHead (.stream 0 0 0 0) { strmCmd with issued := true }).startStream ⟨0, 0, 0⟩ 0 ((strmCmd.c.drop 4).take 8) true strmCmd.units = (s1, true)) ∧
    ((strmAt strmbCmd).cmdQueue (.stream 0 0 0 0)).q.head? = some strmbCmd ∧ strmbCmd.kind = 2 ∧ (strmAt strmbCmd).mayIssue (.stream 0 0 0 0) strmbCmd = true ∧
    ((busy.collEngine 0).cmds.q.head? = some { oneCmd with kind := 5 } ∧ ({ oneCmd with kind := 5 } : Cmd).wte = false) :=
  ⟨by decide +kernel, ⟨_, eq_snd (by decide +kernel)⟩, by decide +kernel, rfl, by decide +kernel, by decide +kernel⟩

theorem witness_EngineSteps_retire :
    (let c : Cmd := { cpy with done := true, credited := true }
     let s := queued c
     s.headCmd (.copy 0) = some c ∧ s.barPending (.copy 0) c = false ∧ c.cca = 0 ∧ c.pte = false) ∧
    (let c : Cmd := { tokened with done := true, credited := true }
     let s : State := { queued c with credits := [{ addr := 0x1000, par := false, ticket := ticketOf (.copy 0) c, asid := 1 }] }
     s.barPending (.copy 0) c = true ∧ (queued c).barPending (.copy 0) c = false ∧ c.pte = true) ∧
    (let c : Cmd := { tokened with done := true, credited := true, counted := true }
     (queued c).headCmd (.copy 0) = some c ∧ c.pte = true ∧ ((queued c).hart c.hart).fifoFull c.ptf = false) := by decide +kernel

def credit (par : Bool) (n : Nat) : BarMsg := { addr := 0x1000, par := par, bytes := n }
/-- One arrival expected and in, 64 bytes pending, phase 0. -/
def barSt : State := barAt 0 0 [1, 1, 64, 2 ^ 64 - 1]

theorem witness_BarrierSteps :
    Memory.wf ({ barSt with credits := [credit false 64, credit false 1, credit true 64] } : State).mem = true ∧ (credit false 64).addr % 32 = 0 ∧
    (credit false 64).par = barSt.barPh 0x1000 ∧ (credit true 64).par ≠ barSt.barPh 0x1000 ∧ barSt.barWord 0x1000 1 % 2 ^ 32 = barSt.barWord 0x1000 0 % 2 ^ 32 ∧
    (barSt.barWord 0x1000 2 + 2 ^ 64 - 64) % 2 ^ 64 = 0 ∧ (barSt.barWord 0x1000 2 + 2 ^ 64 - 1) % 2 ^ 64 ≠ 0 ∧
    (let s : State := { mach with pushes := [{ hart := 0, fifo := 2, tok := tok7 }] }
     s.pushes[0]? = some { hart := 0, fifo := 2, tok := tok7 } ∧ (s.hart 0).fifoFull 2 = false ∧ ((s.modHart 0 fun h => h.setFifo 2 (List.replicate 64 tok7)).hart 0).fifoFull 2 = true) ∧
    (let w (p q : Bool) (x : Nat) := (barAt 0 0 [x]).modHart 0 fun c => { c with wait := .bwait 0x1000 p 5, irq := q, ie := true }
     ((w true false 2).hart 0).wait = .bwait 0x1000 true 5 ∧ (w true false 2).barPh 0x1000 ≠ true ∧ (w true false 2).barLff 0x1000 = false ∧ (w true false (2 + 2 ^ 62)).barLff 0x1000 = true ∧
      (w false true 2).barPh 0x1000 = false ∧ ((w false true 2).hart 0).irqReady = true ∧ ((w false false 2).hart 0).irqReady = false) ∧
    barSt.memKey 0x1000 < regSpace ∧ (((barAt 0 0 [2]).modHart 0 fun c => { c with wait := .released 0x1000 5 }).hart 0).wait = .released 0x1000 5 := by
  decide +kernel

/-- A group of two ranks on strips 0 and 1 of this module; entry 0 is this one. -/
def group2 : List W64 := [1, 0x3000, 0x4000, 0x4008, 0, 0, 0, 0]
def collCmd (op n : Nat) : Cmd :=
  { kind := 5, c := [5 * 2 ^ 56 + 2 ^ 28, 0, 0, 0, 0x2000, 0x5000, 0x6000, .ofNat 64 op, .ofNat 64 n], seq := 0, asid := 1, issued := true, blocks := [group2, [0, 2 ^ 13]] }
def unit64 : List Byte := List.replicate 64 9
def colling (c : Cmd) (e : CollEngine) : State :=
  { mach with colls := [(0, { e with cmds := { next := 1, q := [c] } }), (1, { unacked := [(0, unit64)], nextRecv := 1 })] }
def taken (op : Nat) : State × Except AccFault Cmd := (colling (collCmd op 64) { exchanged := true }).takeUnit 0 (collCmd op 64) 0 unit64

/-- The engines of both ranks with their commands; the other rank's has sent its header both ways. -/
def paired (c p : Cmd) : State :=
  ({ mach with colls := [(0, { cmds := { next := 1, q := [c] } }), (1, { cmds := { next := 1, q := [p] } })] } : State).tellHeader 1 { p with blocks := [(group2.set 0 (1 + 2 ^ 16)), [0, 2 ^ 13]] }

theorem witness_CollectiveSteps_exchange :
    (let c := collCmd 2 64
     (colling c {}).collCmd 0 = some c ∧ ((colling c {}).collEngine 0).exchanged = false ∧ ((colling c {}).collEngine 0).told = false ∧ ((colling c {}).tellHeader 0 c).rankHeader 0 c (c.rankBefore 1) 0 c.header = none) ∧
    (let c := collCmd 2 64
     (paired c c).collCmd 0 = some c ∧ ((paired c c).tellHeader 0 c).rankHeader 0 c (c.rankBefore 1) 0 ⟨0, 0, 0, 0, 0⟩ = some c.header ∧ ((paired c c).tellHeader 0 c).rankHeader 0 c (c.rankAfter 1) 1 ⟨0, 0, 0, 0, 0⟩ = some c.header) ∧
    (let c := collCmd 2 64
     ((paired c (collCmd 2 128)).tellHeader 0 c).rankHeader 0 c (c.rankBefore 1) 0 c.header = some (collCmd 2 128).header ∧ ((paired c (collCmd 2 128)).tellHeader 0 c).rankHeader 0 c (c.rankAfter 1) 1 c.header = some (collCmd 2 128).header ∧ (collCmd 2 128).header ≠ c.header) := by decide +kernel

/-- Three ranks on three modules: the neighbours of rank 0 are elsewhere. -/
def ring3 (op n : Nat) : Cmd := { collCmd op n with blocks := [[2, 0x3000, 0x4000, 0x4008, 0, 0, 0, 0], [0, 1, 2]] }
def ownOut (n : Nat) : State × Except AccFault (List Byte) :=
  (colling (ring3 1 32) { exchanged := true, nextRecv := n }).cmdRead (.coll 0) (ring3 1 32) ((ring3 1 32).chunkAddr ((ring3 1 32).rankBefore (n + 2)) 0) 64

theorem witness_CollectiveSteps_hops :
    (let s := colling (collCmd 0 64) { exchanged := true }
     (s.collEngine 0).nextRecv = 0 ∧ 0 < (collCmd 0 64).hopTotal ∧ unit64.length = 64 ∧ (s.localRank (collCmd 0 64) ((collCmd 0 64).rankBefore 1)).map (fun p => look p.unacked 0) = some (some unit64) ∧
      (collCmd 0 64).op = 0 ∧ (s.collEngine 0).incoming.length < (collCmd 0 64).count) ∧
    (∃ s1, (colling (collCmd 2 64) { exchanged := true }).cmdWrite (.coll 0) (collCmd 2 64) (0x6000 + 64) unit64 = (s1, none)) ∧
    (colling (ring3 1 32) { exchanged := true }).localRank (ring3 1 32) ((ring3 1 32).rankBefore 1) = none ∧ (ring3 1 32).hopTotal = 2 ∧ (ring3 1 32).hopUnits = 1 ∧ (ring3 1 32).perHop = 32 ∧
    (∃ s1 own, (colling (ring3 1 32) { exchanged := true }).cmdRead (.coll 0) (ring3 1 32) ((ring3 1 32).chunkAddr ((ring3 1 32).rankBefore 2) 0) 64 = (s1, .ok own)) ∧
    (∃ s1 own s2, (colling (ring3 1 32) { exchanged := true, nextRecv := 1 }).cmdRead (.coll 0) (ring3 1 32) ((ring3 1 32).chunkAddr ((ring3 1 32).rankBefore 3) 0) 64 = (s1, .ok own) ∧
      s1.cmdWrite (.coll 0) (ring3 1 32) 0x6000 unit64 = (s2, none)) := by
  refine ⟨by decide +kernel, ⟨_, eq_snd (by decide +kernel)⟩, by decide +kernel, by decide +kernel, by decide +kernel, by decide +kernel, ?_, ?_⟩
  · exact ⟨_, _, eq_get (p := ownOut 0) (by decide +kernel)⟩
  · exact ⟨(ownOut 1).1, _, _, eq_get (p := ownOut 1) (by decide +kernel), eq_snd (by decide +kernel)⟩

theorem witness_CollectiveSteps_acks :
    (let s := colling (collCmd 2 64) { exchanged := true, unacked := [(0, unit64)] }
     (s.localRank (collCmd 2 64) ((collCmd 2 64).rankAfter 1)).map (fun p => decide (0 < p.nextRecv)) = some true ∧ (look (s.collEngine 0).unacked 0).isSome = true) ∧
    (let s : State := { colling (collCmd 2 64) { exchanged := true } with ns := 10000000 }
     (s.collEngine 0).lastIn + gHto (collCmd 2 64).grp * 1000000 ≤ s.ns ∧ (s.collEngine 0).nextRecv < (collCmd 2 64).hopTotal ∧ s.rankPaused (collCmd 2 64) ((collCmd 2 64).rankBefore 1) = false ∧
      s.rankPaused (collCmd 2 64) ((collCmd 2 64).rankAfter 1) = false) ∧
    (colling (collCmd 2 64) {}).ns < 0 + gHto (collCmd 2 64).grp * 1000000 := by decide +kernel

def kv : Cmd := collCmd 0 64
def kvAt : State := colling kv { exchanged := true, incoming := unit64, nextRecv := 1, nextSend := 1 }
def kvOut1 : State × Except AccFault Nat := kvAt.cmdAcc (.coll 0) kv (wd kv.grp 3) 8 .read
theorem kvOut1_ok : okOf kvOut1.2 = some 0x4008 := by decide +kernel
def kvOut2 : State × Except AccFault Nat := kvOut1.1.cmdAcc (.coll 0) kv (wd kv.grp 2) 8 .atomic
theorem kvOut2_ok : okOf kvOut2.2 = some 0x4000 := by decide +kernel
def kvOut3 : State × Option AccFault := kvOut2.1.cmdWrite (.coll 0) kv (wd kv.c 6 + kv.count * ((kvAt.collEngine 0).step % 2)) (kvAt.collEngine 0).incoming

theorem witness_CollectiveSteps_kv :
    kvAt.collCmd 0 = some kv ∧ kv.op = 0 ∧ (kvAt.collEngine 0).step < gNr kv.grp ∧ kv.count ≤ (kvAt.collEngine 0).incoming.length ∧
    ((kvAt.collEngine 0).step - 1) * kv.hopUnits ≤ (kvAt.collEngine 0).nextSend ∧
    (∃ s1 s2 s3, kvAt.cmdAcc (.coll 0) kv (wd kv.grp 3) 8 .read = (s1, .ok 0x4008) ∧ (kvAt.collEngine 0).step ≤ ofBytes (s1.memGet 0x4008 8) + 2 ∧
      s1.cmdAcc (.coll 0) kv (wd kv.grp 2) 8 .atomic = (s2, .ok 0x4000) ∧
      s2.cmdWrite (.coll 0) kv (wd kv.c 6 + kv.count * ((kvAt.collEngine 0).step % 2)) (kvAt.collEngine 0).incoming = (s3, none)) :=
  ⟨by decide +kernel, by decide +kernel, by decide +kernel, by decide +kernel, by decide +kernel, kvOut1.1, kvOut2.1, kvOut3.1, eq_ok (p := kvOut1) rfl kvOut1_ok, by decide +kernel,
    eq_ok (p := kvOut2) rfl kvOut2_ok, eq_snd (p := kvOut3) (by decide +kernel)⟩

/-- A migration of the region in slot 0 whose page list stands at 0x8000: its one page is at VA 0x10000 and goes to 0x20000. -/
def mig : Migration := { seq := 0, m := [0x30000 + 2 ^ 32, 0x8000, 1, 0, 0, 0, 0, 0], slot := 0, todo := [0] }
def migAt (r : Region) (g : Migration) : State :=
  { (withWords mach 0x8000 [0x10000, 0x20000, 0, 0]).setRegion 0 r with dune := { streams := [(0, g)], next := 1 } }
def recRead : State × Except AccFault (List W64) := (migAt reg mig).pageRec reg mig 0
theorem recRead_ok : okOf recRead.2 = some [0x10000, 0x20000, 0, 0] := by decide +kernel

/-- The leaf that maps the page: it stands at 0x41000. -/
def leaf : Nat × Nat × Nat := ((migAt reg mig).leafOf 1 0x10000).getD (0, 0, 0)

theorem witness_MigrationSteps_rounds :
    (let g := { mig with cleared := [leaf.1] }
     let s := migAt reg g
     look s.dune.streams 0 = some g ∧ g.atDest = false ∧ s.region g.slot = some reg ∧ g.notified = false ∧ g.polWait = false ∧ reg.migFails g = none ∧ g.ending = false ∧ g.todo = 0 :: [] ∧
      s.leafOf 1 0x10000 = some leaf ∧ g.cleared.contains leaf.1 = true ∧ g.waits.all s.reqSettled = true) ∧
    (∃ s1 s2, (migAt reg mig).pageRec reg mig 0 = (s1, .ok [0x10000, 0x20000, 0, 0]) ∧ s1.movePage reg [0x10000, 0x20000, 0, 0] = (s2, none)) ∧ mig.cleared.contains leaf.1 = false ∧
    (let g := { mig with todo := [] }
     let s := migAt reg g
     g.todo = [] ∧ (s.dirtyRecs g reg).length ≤ migDirty g.m ∧ g.round ≠ migRounds g.m) :=
  ⟨by decide +kernel, ⟨recRead.1, _, eq_ok (p := recRead) rfl recRead_ok, eq_snd (by decide +kernel)⟩, by decide +kernel, by decide +kernel⟩

/-- A region with a store to the page on its way: clearing the leaf has a request to wait for. -/
def storing : Region := chained { stgq with addr := 0x10000, paddr := some 0x10000 }

theorem witness_MigrationSteps_clearing :
    (let s := migAt storing mig
     let l := (s.leafOf 1 0x10000).getD (0, 0, 0)
     storing.migFails mig = none ∧ (s.leafOf 1 0x10000).isSome = true ∧ mig.cleared.contains l.1 = false ∧
      (s.cleanLeaf storing 0x10000 l).2.all ((s.cleanLeaf storing 0x10000 l).1.modMig 0 fun x => { x with cleared := x.cleared ++ [l.1], waits := (s.cleanLeaf storing 0x10000 l).2 }).reqSettled = false) := by
  decide +kernel

/-- The frozen region's end: its save written at 0x50000000, and its last page; and the source of a post-copy that has notified, on a link to module 1. -/
def ending : Migration := { mig with m := [0x30000 + 2 ^ 32, 0x8000, 1, 0x50000000, 0, 0, 0, 0], ending := true }
def stopped : Region := { reg with state := .frozen }
def endAt : State := migAt { bare with state := .frozen } ending
def pushing : Migration := { mig with notified := true }
def pushAt : State :=
  { migAt stopped pushing with groups := [(0, { lst := 2, cfg := .ofNat 64 (2 ^ 63) })], partBlk := [((0, 4), 0x80)], routes := [((0, 1), 0x80)] }
def pushRead : State × Except AccFault (List W64) := pushAt.pageRec stopped pushing 0
theorem pushRead_ok : okOf pushRead.2 = some [0x10000, 0x20000, 0, 0] := by decide +kernel
def pushMove : State × Option AccFault := pushRead.1.movePage stopped [0x10000, 0x20000, 0, 0]

theorem witness_MigrationSteps_ends :
    look endAt.dune.streams 0 = some ending ∧ (bare : Region).migFails ending = none ∧ ending.ending = true ∧ ending.saved = false ∧ migMode ending.m = 0 ∧
    (∃ s1, endAt.physWrite (endAt.migWho bare) .write (piecesOf (2 ^ 60 + migDsav ending.m) (bare.saveBytes 0 1).length) (bare.saveBytes 0 1) = (s1, none)) ∧
    look pushAt.dune.streams 0 = some pushing ∧ pushing.notified = true ∧ pushing.todo = 0 :: [] ∧
    (∃ s1 s2 s3, pushAt.pageRec stopped pushing 0 = (s1, .ok [0x10000, 0x20000, 0, 0]) ∧ s1.movePage stopped [0x10000, 0x20000, 0, 0] = (s2, none) ∧
      s2.physWrite (migSelf stopped) .write [(2 ^ 60 + migModule pushing.m * 2 ^ 47, 8)] (toBytes 8 0) = (s3, none)) :=
  ⟨by decide +kernel, by decide +kernel, rfl, rfl, by decide +kernel, ⟨_, eq_snd (by decide +kernel)⟩, by decide +kernel, rfl, rfl,
    ⟨pushRead.1, pushMove.1, _, eq_ok (p := pushRead) rfl pushRead_ok, eq_snd (p := pushMove) (by decide +kernel), eq_snd (by decide +kernel)⟩⟩

/-- The destination's end, its one record listed and pulled for 1 µs. -/
def migDest : Migration := { mig with atDest := true, recs := [[0x10000, 0x20000, 0, 0]], pull := some (0, 0) }
def pullAt : State := { migAt reg migDest with ns := 1000000 }
def destCheck : State × Option AccFault := pullAt.check (pullAt.destWho migDest) 0x20000 .write 65536

theorem witness_MigrationSteps_destination :
    look pullAt.dune.streams 0 = some migDest ∧ migDest.atDest = true ∧ migDest.todo.contains 0 = true ∧ migDest.pull = some (0, 0) ∧
    (∃ s1 s3, pullAt.check (pullAt.destWho migDest) 0x20000 .write 65536 = (s1, none) ∧
      (s1.putPage 0x20000 [] []).physWrite { (s1.putPage 0x20000 [] []).destWho migDest with mid := 0 } .write
        [(fld (wd [0x10000, 0x20000, 0, 0] 2) 46 3 * 8, 8)] (toBytes 8 (wd [0x10000, 0x20000, 0, 0] 3)) = (s3, none)) ∧
    migDest.todo.filter (· != 0) = [] ∧ [0, 1].filter (· != 0) ≠ [] ∧ (migAt reg migDest).ns < 0 + 1000 * migTimeout migDest.m ∧ 0 + 1000 * migTimeout migDest.m ≤ pullAt.ns ∧
    migDest.attempts + 1 < migTries migDest.m ∧ migTries migDest.m ≤ 7 + 1 :=
  ⟨by decide +kernel, rfl, by decide +kernel, rfl, ⟨destCheck.1, _, eq_snd (p := destCheck) (by decide +kernel), eq_snd (by decide +kernel)⟩, by decide +kernel, by decide +kernel, by decide +kernel, by decide +kernel,
    by decide +kernel, by decide +kernel⟩
/-! #### The front end -/

/-- VCP 0 of tenant 7 and address space 1: enabled, privileged, its page at 0x9000, its queue 0 with rings of 16 at 0xA000, 0xB000 and 0xC000. -/
def vcp0 (x : VQueue) : Vcp :=
  { vc0 := .ofNat 64 (put 63 62 3 + put 47 32 7 + put 31 20 1), vc1 := 0x9000
    queues := [{ x with priv := some [.ofNat 64 (put 54 51 4 + put 50 47 4), 0xA000, 0xB000, 0xC000] }, {}, {}, {}] }
def front (x : VQueue) : State := { mach with vcps := [(0, vcp0 x)] }
def unstaged : State := front {}
/-- A packet as queue 0 of VCP 0 fetches it. -/
def packet (opc : Nat) (ws : List W64) : Packet := { v := 0, q := 0, rix := 0, pw := BitVec.ofNat 64 (opc * 2 ^ 56) :: ws, view := (vcp0 {}).view 0 }
def staged (p : Packet) : State := { front {} with pipe := [p] }

def dueRec : DueEntry := { words := [put 55 48 2, 5, 0, 0].map (BitVec.ofNat 64), view := (vcp0 {}).view 0 }
def guestRead : State × Option Nat := (front { due := [dueRec] }).guestWord 0 0 dueRec.view

theorem witness_VcpSteps :
    (((front {}).vcp 0).en = true ∧ (front {}).service.contains 0 = false ∧ ({ front {} with service := [0] } : State).service.contains 0 = true ∧ (front {}).powered = true ∧
    (front {}).permits ((front {}).regWho (.hart 0)) (vcpBase 0 + 8) .write = true ∧ (front {}).permits ((front {}).regWho .hardpan) (vcpBase 255) .write = true ∧
    ({ front {} with service := [0] } : State).nextVcp = some 0 ∧ ({ mach with service := [0] } : State).nextVcp = some 0 ∧ (({ mach with service := [0] } : State).vcp 0).en = false ∧
    (((front { due := [dueRec] }).vcp 0).queue 0).due = dueRec :: []) ∧
    (∃ s1 s3, (front { due := [dueRec] }).guestWord 0 0 dueRec.view = (s1, some 0) ∧ fld 0 47 32 < dueRec.view.rsize ∧
      (let n := dueRec.view.rsize
       let x := (s1.vcp 0).queue 0
       let s2 := s1.modQueue 0 0 fun y => { y with chead := 0 }
       (x.ctail + n - 0) % n ≠ n - 1 ∧
        s2.vcpWrite dueRec.view (dueRec.view.cring + 32 * x.ctail)
          (bytesOf64 [BitVec.ofNat 64 (put 63 63 (b2n (x.ctotal / n % 2 == 0)) + wd dueRec.words 0), dueRec.words.getD 1 0, dueRec.words.getD 2 0, dueRec.words.getD 3 0]) = (s3, none))) ∧
    (15 + dueRec.view.rsize - 0) % dueRec.view.rsize = dueRec.view.rsize - 1 :=
  ⟨by decide +kernel,
    ⟨guestRead.1, _, eq_snd (p := guestRead) (by decide +kernel), by decide +kernel, by decide +kernel, eq_snd (by decide +kernel)⟩, by decide +kernel⟩

def launchP (flags : Nat) : Packet := packet 1 [0x20000, .ofNat 64 (2 ^ 63), 1, 0x10000, .ofNat 64 flags]
/-- Every slot of partition 0 holds a region. -/
def crowded : State := { staged (launchP 4) with regions := (List.range 512).map fun k => (k, reg) }

theorem look_map (v : Region) (k : Nat) (l : List Nat) (h : k ∈ l) : look (l.map fun j => (j, v)) k = some v := by
  induction l with
  | nil => simp at h
  | cons j t ih => by_cases hj : j = k <;> simp_all [look] <;> grind

theorem crowded_full : crowded.freeSlotAt = none := by
  simp only [State.freeSlotAt, List.find?_eq_none]
  intro k hk
  have : crowded.region k = some reg := by
    simp only [State.region, crowded]
    exact look_map reg k _ hk
  simp [this]

theorem witness_PacketsOfRegionsAndBarriers_launch :
    ((staged (launchP 1)).nextPacket = some (launchP 1) ∧ (launchP 1).gone = false ∧ (launchP 1).opc = 1 ∧ packetClean (launchP 1).pw 5 = true ∧ wd (launchP 1).pw 1 < 2 ^ 52 ∧ wd (launchP 1).pw 4 < 2 ^ 52 ∧
    wd (launchP 1).pw 3 < 4096 ∧ wd (launchP 7).pw 5 < 8 ∧ plcShadow (wd (launchP 1).pw 2) = false ∧
    fld (wd (launchP 1).pw 2) 47 16 = 0 ∧ (staged (launchP 1)).plcOk (launchP 1).asker.part ((staged (launchP 1)).launchPlc (launchP 1).asker.part (wd (launchP 1).pw 2)) = true ∧ wd (launchP 1).pw 1 % 64 = 0 ∧
    wd (launchP 1).pw 4 % 4096 = 0 ∧ (staged (launchP 1)).asidOf (wd (launchP 1).pw 3) (launchP 1).asker.tid = true ∧ (staged (launchP 1)).freeSlotAt = some 0 ∧
      bitN (wd (launchP 1).pw 5) 2 = false ∧ bitN (wd (launchP 4).pw 5) 2 = true) ∧ crowded.freeSlotAt = none ∧ ∃ r, crowded.addRegion r = none :=
  ⟨by decide +kernel, crowded_full, reg, by simp only [State.addRegion, crowded_full, Option.map_none]⟩

/-- A front end over slot 0 and a barrier at 0x1000, with a packet to accept. -/
def armed (p : Packet) : State := (withWords (staged p) 0x1000 [2]).setRegion 0 { reg with emitted := true }
def armP : Packet := packet 2 [0x30000, 0]
def sigP : Packet := packet 3 [0x1000, 0]
def waitP : Packet := packet 4 [0x1000, 0]
def sigOut : State × Except AccFault Nat := (armed sigP).packetBarrier sigP 0x1000 .atomic
def waitOut : State × Except AccFault Nat := (armed waitP).packetBarrier waitP 0x1000 .read
theorem sigOut_ok : okOf sigOut.2 = some 0x1000 := by decide +kernel
theorem waitOut_ok : okOf waitOut.2 = some 0x1000 := by decide +kernel
theorem arrive_ok : (okOf (sigOut.1.arrive 0x1000 0 1 64 7)).isSome = true := by decide +kernel

theorem eq_get1 {ε α : Type} {p : Except ε α} (h : (okOf p).isSome = true) : p = .ok ((okOf p).get h) := by
  cases p with
  | ok a => rfl
  | error e => simp [okOf] at h

theorem witness_PacketsOfRegionsAndBarriers :
    (∃ s1, (armed armP).nextPacket = some armP ∧ (armed armP).armHandle armP = some 0x30000 ∧ (armed armP).byHandle 0x30000 (some armP.view.tid) = .ok (0, { reg with emitted := true }) ∧
      (armed armP).armRegion 0 { reg with emitted := true } 0 = .ok s1) ∧
    (packetClean armP.pw 2 = true ∧ wd sigP.pw 1 % 32 = 0 ∧ (armed sigP).packetSpace sigP = true ∧ arriveOk (wd sigP.pw 2) = true ∧ (armed sigP).nextPacket = some sigP) ∧
    (∃ s1 s2, (armed sigP).packetBarrier sigP 0x1000 .atomic = (s1, .ok 0x1000) ∧ s1.arrive 0x1000 0 1 64 7 = .ok s2) ∧
    (∃ s1, (armed waitP).packetBarrier waitP 0x1000 .read = (s1, .ok 0x1000)) ∧ packetClean (packet 3 [0, 0, 0, 0, 0, 0, 1]).pw 5 = false :=
  ⟨⟨_, by decide +kernel, by decide +kernel, eq_ok1 (by decide +kernel), eq_get1 (p := (armed armP).armRegion 0 { reg with emitted := true } 0) (by decide +kernel)⟩,
    by decide +kernel,
    ⟨sigOut.1, _, eq_ok (p := sigOut) rfl sigOut_ok, eq_get1 arrive_ok⟩, ⟨waitOut.1, eq_ok (p := waitOut) rfl waitOut_ok⟩, by decide +kernel⟩

/-- WAITs whose phase has flipped, and failed. -/
theorem witness_PacketsOfRegionsAndBarriers_waits :
    (let r : PktRef := { v := 0, q := 0, seq := 9 }
     let s (w : Nat) : State := withWords (front { waiting := some (0x1000, true, r) }) 0x1000 [w]
     ((s 2).waits.find? fun w => w.2.2.2.2.seq == 9 && (s 2).barPh w.2.2.1 != w.2.2.2.1) = some (0, 0, 0x1000, true, r) ∧ (s 2).barLff 0x1000 = false ∧
       ((s (2 + 2 ^ 62)).waits.find? fun w => w.2.2.2.2.seq == 9 && (s (2 + 2 ^ 62)).barPh w.2.2.1 != w.2.2.2.1) = some (0, 0, 0x1000, true, r) ∧ (s (2 + 2 ^ 62)).barLff 0x1000 = true) := by decide +kernel
def readyOf : Ready → Option (State × QueueId × Cmd)
  | .ok s q c => some (s, q, c)
  | _ => none
def turnedOf : Ready → Option (State × Refuse × Nat)
  | .refused s e l => some (s, e, l)
  | _ => none
theorem eq_ready {t : Ready} (h : (readyOf t).isSome = true) : ∃ s q c, t = .ok s q c := by cases t <;> simp_all [readyOf]
theorem eq_turned {t : Ready} (h : (turnedOf t).isSome = true) : ∃ s e l, t = .refused s e l := by cases t <;> simp_all [turnedOf]

/-- The front end with packet `p` to accept, over memory that holds the block of a command at 0x1000. -/
def fronted (p : Packet) (ws : List Nat) : State := (withWords (withWords (withWords (staged p) 0x1000 ws) 0x2000 [1, 0x3000]) 0x3000 [0, 2 ^ 13]).setRegion 0 reg
def copyP (sel : Nat) : Packet := packet 5 [0x1000, .ofNat 64 sel]
def collP : Packet := packet 6 [0x1000, 0]
def copyOut (sel : Nat) : State × Except AccFault (List Byte) := (fronted (copyP sel) cpyBlock).vcpRead (copyP sel).view 0x1000 128 .control
def collOut : State × Except AccFault (List Byte) := (fronted collP collBlock).vcpRead collP.view 0x1000 128 .control
theorem copyOut_ok (sel : Nat) (h : sel = 16 ∨ sel = 32) : okOf (copyOut sel).2 = some (le64 cpyBlock) := by rcases h with rfl | rfl <;> decide +kernel
theorem collOut_ok : okOf collOut.2 = some (le64 collBlock) := by decide +kernel

theorem witness_PacketsOfEnginesAndQueries_copy :
    ((fronted (copyP 16) cpyBlock).nextPacket = some (copyP 16) ∧ (copyP 16).gone = false ∧ (copyP 16).opc = 5 ∧ packetClean (copyP 16).pw 2 = true ∧ (fronted (copyP 16) cpyBlock).packetSpace (copyP 16) = true ∧ vaCheck 0x1000 1 = none) ∧
    (∃ s1, (fronted (copyP 16) cpyBlock).vcpRead (copyP 16).view 0x1000 128 .control = (s1, .ok (le64 cpyBlock)) ∧ ∃ s2 n k, s1.checkCopy (copyP 16).asker 3 (words64 16 (le64 cpyBlock)) 16 = .ok s2 n k) ∧
    (∃ s1, (fronted (copyP 32) cpyBlock).vcpRead (copyP 32).view 0x1000 128 .control = (s1, .ok (le64 cpyBlock)) ∧ ∃ s2 e low, s1.checkCopy (copyP 32).asker 3 (words64 16 (le64 cpyBlock)) 32 = .refused s2 e low) ∧
    (∃ s1, (fronted collP collBlock).vcpRead collP.view 0x1000 128 .control = (s1, .ok (le64 collBlock)) ∧ ∃ s2 n k, s1.checkColl collP.asker (words64 16 (le64 collBlock)) 0 = .ok s2 n k) :=
  ⟨by decide +kernel,
    ⟨(copyOut 16).1, eq_ok (p := copyOut 16) rfl (copyOut_ok 16 (.inl rfl)), eq_ready (by decide +kernel)⟩,
    ⟨(copyOut 32).1, eq_ok (p := copyOut 32) rfl (copyOut_ok 32 (.inr rfl)), eq_turned (by decide +kernel)⟩,
    ⟨collOut.1, eq_ok (p := collOut) rfl collOut_ok, eq_ready (by decide +kernel)⟩⟩

def migP : Packet := packet 7 [0x1000]
def migOut : State × Except AccFault (List Byte × Bool) := (fronted migP duneWords).physRead { mid := 0, part := some 0 } .read [(0x1000, 64)]
theorem migOut_ok : okOf migOut.2 = some (le64 duneWords, false) := by decide +kernel
def migTake : Except (Refuse × Nat) (State × Nat) := migOut.1.acceptMigration migP.asker (words64 8 (le64 duneWords))
theorem migTake_ok : (migTake.toOption.map (·.2)) = some (4 * 2 ^ 48) := by decide +kernel
def migBoth : Except (Refuse × Nat) (State × Nat) :=
  (migOut.1.accept migP (4 * 2 ^ 48)).1.acceptMigration { migP.asker with pkt := some (migOut.1.accept migP (4 * 2 ^ 48)).2 } (words64 8 (le64 duneWords))
theorem eq_snd_ok {σ ε : Type} {p : Except ε (σ × Nat)} {n : Nat} (h : (p.toOption.map (·.2)) = some n) : ∃ s, p = .ok (s, n) := by
  cases p with
  | error e => simp [Except.toOption] at h
  | ok a => obtain ⟨s, k⟩ := a; simp [Except.toOption] at h; exact ⟨s, by rw [h]⟩
theorem eq_pair_ok {σ ε : Type} {p : Except ε (σ × Nat)} (h : (okOf p).isSome = true) : ∃ s n, p = .ok (s, n) := by
  cases p with
  | error e => simp [okOf] at h
  | ok a => exact ⟨a.1, a.2, rfl⟩

theorem witness_PacketsOfEnginesAndQueries_migrate :
    ((fronted migP duneWords).nextPacket = some migP ∧ migP.opc = 7 ∧ ((fronted migP duneWords).vcp 0).prv = true ∧ (mach.vcp 0).prv = false ∧ packetClean migP.pw 1 = true ∧ migP.asker.part = 0) ∧
    (∃ s1, (fronted migP duneWords).physRead { mid := 0, part := some 0 } .read [(0x1000, 64)] = (s1, .ok (le64 duneWords, false)) ∧
      (∃ s2, s1.acceptMigration migP.asker (words64 8 (le64 duneWords)) = .ok (s2, 4 * 2 ^ 48)) ∧
      ∃ s3 again, (s1.accept migP (4 * 2 ^ 48)).1.acceptMigration { migP.asker with pkt := some (s1.accept migP (4 * 2 ^ 48)).2 } (words64 8 (le64 duneWords)) = .ok (s3, again)) :=
  ⟨by decide +kernel,
    ⟨migOut.1, eq_ok (p := migOut) rfl migOut_ok, eq_snd_ok (p := migTake) migTake_ok, eq_pair_ok (p := migBoth) (by decide +kernel)⟩⟩

theorem witness_PacketsOfEnginesAndQueries_queries :
    (let p := packet 8 [2 * 2 ^ 48, 16]
     let s : State := { staged p with copies := [(0, { cmds := { next := 1, q := [{ oneCmd with tid := 7 }] } })] }
     s.nextPacket = some p ∧ p.opc = 8 ∧ packetClean p.pw 2 = true ∧ wd p.pw 2 = 16 ∧ ∃ w, s.ticketState (wd p.pw 1) p.view.tid = .ok w) ∧
    (let p := packet 8 [0x30000, 4]
     (fronted p []).nextPacket = some p ∧ (fronted p []).byHandle (wd p.pw 1) (some p.view.tid) = .ok (0, reg) ∧ (reg.query 0 4).isSome = true ∧ reg.state ≠ .killed) ∧
    (let p := packet 8 [0x30000, 0]
     (staged p).byHandle (wd p.pw 1) (some p.view.tid) = .error .noHandle) ∧ 5 ≤ wd (packet 8 [0, 17]).pw 2 ∧ wd (packet 8 [0, 17]).pw 2 ≠ 16 :=
  ⟨⟨by decide +kernel, by decide +kernel, by decide +kernel, by decide +kernel, eq_ex (by decide +kernel)⟩, ⟨by decide +kernel, eq_ok1 (by decide +kernel), by decide +kernel⟩,
    eq_err1 (by decide +kernel), by decide +kernel⟩

theorem witness_PacketsOfEnginesAndQueries_cancels :
    (let p := packet 9 [0, 9]
     let s := (staged p).setRegion 0 { reg with state := .loading, place := none, owner := some { v := 0, q := 0, seq := 9 } }
     s.nextPacket = some p ∧ p.opc = 9 ∧ packetClean p.pw 2 = true ∧ s.waitingLaunch p 9 = some 0 ∧ s.waitingLaunch p 8 = none ∧ s.slotlessLaunch p 8 = none) ∧
    (let p := packet 9 [0, 9]
     let s : State := { staged p with launches := [{ reg with owner := some { v := 0, q := 0, seq := 9 } }] }
     s.waitingLaunch p 9 = none ∧ (s.slotlessLaunch p 9).map (·.seq) = some 9) ∧ wd (packet 9 [2, 0]).pw 1 = 2 ∧ 3 ≤ wd (packet 9 [3, 0]).pw 1 := by decide +kernel

def ownerRef (seq : Nat) : PktRef := { v := 0, q := 0, seq := seq, view := (vcp0 {}).view 0 }
def loading (nw : Bool) (p : Option Place) : Region :=
  { bare with state := .loading, image := some { w := 1, h := 1 }, place := p, nowait := nw, owner := some (ownerRef 9), goWhenEmitted := true }
def loaded (p : Option Place) : State := { withImage with vcps := [(0, vcp0 {})] }.setRegion 0 (loading false p)
/-- An image whose one crossing entry has no entry across its link (R397). -/
def crossing : Image := { w := 1, h := 1, recs := [(0x1000, route 0 0 6 0)] }
def rejectOf : Found → Option (State × Nat)
  | .reject s n => some (s, n)
  | _ => none
theorem eq_reject {f : Found} (h : (rejectOf f).isSome = true) : ∃ s n, f = .reject s n := by cases f <;> simp_all [rejectOf]

theorem witness_BedrockSteps :
    (loaded none).region 0 = some (loading false none) ∧ (loading false none).state = .loading ∧ (loading false none).image = some { w := 1, h := 1 } ∧ (loading false none).place = none ∧
    (loaded none).stageBefore (loading false none) false = false ∧ (loaded (some homePlace)).stageBefore (loading false (some homePlace)) true = false ∧
    (loaded none).search ((loading false none).tenancy 0) 0 (loading false none) { w := 1, h := 1 } 0 = .placed (loaded none) homePlace ∧
    (∃ s1, (loaded none).search ((loading true none).tenancy 0) 0 (loading true none) { w := 17, h := 1 } 0 = .none_ s1) ∧ (loading true none).nowait = true ∧
    (∃ s1 st, (loaded none).search ((loading false none).tenancy 0) 0 (loading false none) crossing 0 = .reject s1 st) ∧
    (loading false (some homePlace)).place = some homePlace ∧ (∃ s1, (loaded (some homePlace)).configureAt 0 (loading false (some homePlace)) homePlace { w := 1, h := 1 } = some s1) :=
  ⟨by decide +kernel, rfl, rfl, rfl, by decide +kernel, by decide +kernel, eq_placed (by decide +kernel), eq_none (by decide +kernel), rfl, eq_reject (by decide +kernel), rfl, ⟨_, eq_some (by decide +kernel)⟩⟩

/-- A LAUNCH that waits for a slot; what is in flight when Bedrock faults; a front end with nothing in any stage. -/
theorem witness_BedrockSteps_stages :
    (let r : Region := { reg with owner := some (ownerRef 9) }
     let s : State := { unstaged with launches := [r] }
     s.freeSlotAt = some 0 ∧ s.launches = r :: [] ∧ (({ s with launches := [] } : State).addRegion r).isSome = true ∧ s.firstStaged = some (none, ownerRef 9)) ∧
    (loaded none).firstStaged = some (some 0, ownerRef 9) ∧ (staged armP).firstStaged = none ∧ (staged armP).nextPacket = some armP ∧ unstaged.firstStaged = none ∧ unstaged.nextPacket = none ∧
    unstaged.pipe = [] ∧ unstaged.staged = [] ∧ (∀ e ∈ unstaged.vcps, ∀ x ∈ e.2.queues, x.due = []) := by decide +kernel

def cached : List Trans := [{ asid := 1, va := 0x10000, size := 0x10000, leaf := 3 }, { asid := 2, va := 0x10000, size := 0x10000, leaf := 3 }, { asid := 1, va := 0x20000, size := 0x10000, leaf := 3 }]
def invalAt (n : Nat) (reqs : List (Nat × Nat × Nat × Nat × Nat)) : State :=
  { (at5 (chained walkq)) with tcache := cached, xlat := { mach.xlat with vpg := 1, pending := List.replicate n { reqs := reqs } } }

theorem witness_InvalidationSteps :
    (invalAt 15 []).powered = true ∧ (invalAt 15 []).permits ((invalAt 15 []).hartWho 0) (xlatBase + 0x10) .write = true ∧ (invalAt 15 []).xlat.held = [] ∧ (invalAt 15 []).xlat.pending.length < 16 ∧ (invalAt 15 []).xlat.vpg * 65536 % szBytes 0 = 0 ∧
    (invalAt 15 []).xlat.vpg * 65536 % szBytes 2 ≠ 0 ∧ 16 ≤ (invalAt 16 []).xlat.pending.length ∧ (invalAt 1 []).xlat.pending = { reqs := [] } :: [] ∧
    (∃ k ∈ [(0, 0, 0, 0, 0)], ({ at5 (chained stgq) with xlat := (invalAt 1 [(0, 0, 0, 0, 0)]).xlat } : State).reqSettled k = false) :=
  ⟨rfl, by decide +kernel, rfl, by decide +kernel, by decide +kernel, by decide +kernel, by decide +kernel, rfl, ⟨_, List.mem_singleton.mpr rfl, by decide +kernel⟩⟩

/-- Only the first of the three cached translations is of ASID 1 and the page at 0x10000 (R287). -/
theorem test_invalidate_page : (match exec (.invalidatePage 0 1 0) (invalAt 0 []) with | .next t => t.tcache.map fun k => (k.asid, k.va) | _ => []) = [(2, 0x10000), (1, 0x20000)] := by decide +kernel

/-! #### Registers, tables, links, power -/

/-- A copy engine whose running command is paused, and a region that has stopped, of a tenant without a policy. -/
def pausedCpy : Cmd := { cpy with issued := true, paused := true }
def ruled : State := { (queued pausedCpy).setRegion 0 { run with stp := true, stopAt := some (1, 2, 3, 4) } with ilhus := [5] }
/-- Writers of MID 5, an Ilhus MID without a hart, and of MID 0. -/
def asMid (n : Nat) : State := ruled.modHart 1 fun c => { c with oxmid := .ofNat 12 n }

/-- A collective whose command is paused. -/
def pausedColl : State := { mach with colls := [(0, { cmds := { next := 1, q := [{ oneCmd with kind := 5, issued := true, paused := true }] } })] }

theorem witness_RegisterSteps :
    ruled.powered = true ∧ ruled.isPart 0 = true ∧ ruled.permits (ruled.regWho (.hart 1)) (faultBase 0 + 0x28) .write = true ∧ ruled.permits (ruled.regWho .hardpan) (faultBase 0 + 0x28) .write = true ∧
    ruled.pausedCmd (BitVec.toNat (2 ^ 49 : W64)) = some (.copy 0, pausedCpy) ∧ (pausedColl.pausedCmd (BitVec.toNat (3 * 2 ^ 48 : W64))).map (·.1) = some (.coll 0) ∧ mach.pausedCmd 0 = none ∧
    ruled.region 0 = some { run with stp := true, stopAt := some (1, 2, 3, 4) } ∧ ruled.permits (ruled.regWho (.hart 1)) (debugBase 0 + 8) .write = true ∧ ruled.dbg 7 = true ∧
    (asMid 5).midOf (.hart 1) = 5 ∧ (asMid 5).permits ((asMid 5).regWho (.hart 1)) (debugBase 0) .write = true ∧ (asMid 5).isIlhusOf 0 5 = true ∧
    (asMid 6).permits ((asMid 6).regWho (.hart 1)) (debugBase 0 + 56) .write = false ∧ ruled.permits (ruled.regWho (.hart 1)) xlatBase .write = true ∧ ruled.xlat.held = [] := by decide +kernel

theorem witness_RegisterSteps_csrs :
    (ruled.hart 1).mode.high = true ∧ (65536 : W64).toNat % 65536 = 0 ∧ (65535 : W64).toNat % 65536 ≠ 0 ∧ ((inMode .vu mach).hart 0).mode.high = false ∧
    (let s : State := { ruled with policies := [{ tid := 7, key := [], body := [0, 0, 0, 0] }] }
     s.dbg 7 = false) := by decide +kernel

/-- Strips 0 and 1 in a partition; strip 2's word names itself. -/
def tables : State := { mach with partTab := [(0, .ofNat 64 (2 ^ 63 + 1)), (1, .ofNat 64 (2 ^ 63 + 1)), (2, .ofNat 64 (2 ^ 63 + 18))], partBlk := [((2, 4), 0x83)] }

theorem witness_FabricTables :
    tables.powered = true ∧
    (fld (2 ^ 63 + 27) 5 3 ≤ 3 ∧ 3 ≤ fld (2 ^ 63 + 27) 2 0 ∧ tables.stripBusy 3 = false ∧ ((List.range 8).any fun j => decide (3 ≤ j) && decide (j ≤ 3) && j != 3 && bitN (tables.partWord j) 63 && fld (tables.partWord j) 5 0 != 27) = false) ∧
    (bitN (2 ^ 63 + 1) 63 = bitN (tables.partWord 1) 63 ∧ fld (2 ^ 63 + 1) 5 0 = fld (tables.partWord 1) 5 0) ∧ (¬ fld (2 ^ 63 + 2) 5 3 ≤ 1 ∨ fld (2 ^ 63 + 2) 2 0 = 2) ∧ ((tables.setRegion 0 reg).stripBusy 0 = true) ∧
    tables.isPart 0 = true ∧ 3 ∈ groupsIn (tables.partBlock 2 4) ∧ 3 ∈ groupsIn (maskBytes 0x8300 0xBF) ∧
    (let g : LaneGroup := { lst := 2, cfg := .ofNat 64 (2 ^ 63) }
     fld (2 ^ 63 + 2 ^ 56) 62 56 ≠ fld g.cfg.toNat 62 56 ∧ fld 0 62 56 = fld g.cfg.toNat 62 56) := by decide +kernel

def linked (l : LaneGroup) : State := { mach with groups := [(63, l)], ns := 100000 }

/-- A flit without an acknowledgement; at its sub-link nothing waits. -/
theorem witness_LinkSteps :
    look (linked { lst := 1 }).groups 63 = some { lst := 1 } ∧
    (let l : LaneGroup := { lst := 2, unacked := [{ part := 0, tid := 7, mod := 1 }], tx := 1, replays := 62 }
     look (linked l).groups 63 = some l ∧ l.lst = 2 ∧ l.replays < 63 ∧ l.unacked ≠ [] ∧ l.ackAt + 100000 ≤ (linked l).ns ∧ (linked l).ns - 1 < l.ackAt + 100000) ∧
    (∀ h ∈ (linked { lst := 2 }).stripes 63, (((look (linked { lst := 2 }).groups h).map (·.waiting)).getD []) = []) ∧ ({ lst := 2 } : LaneGroup).unacked = [] ∧
    mach.noRoom (.pageList 0 [] []) = false := by decide +kernel

def policyRead : State × Except AccFault (List Byte × Bool) := ({ mach with polWait := [] } : State).physRead { mid := 0 } .read (piecesOf 0x4000 3344)
theorem policyRead_ok : okOf policyRead.2 = some (List.replicate 3344 0, false) := by decide +kernel

theorem witness_ParityAndPolicySteps :
    mach.harts.length = 64 ∧ (mach.hart 63).on = true ∧ mach.hartPart 1 = mach.hartPart 0 ∧ mach.isIlhus 0 = false ∧ ({ mach with ilhus := [0] } : State).isIlhus ((mach.hart 1).oxmid.toNat) = true ∧
    mach.pipe = [] ∧ mach.staged = [] ∧ mach.journals = [] ∧ (staged (packet 1 [])).pipe = [packet 1 []] ∧ (staged (packet 1 [])).staged = [] ∧ ({ mach with polWait := [(0x4000, 0x8000)] } : State).polWait = (0x4000, 0x8000) :: [] ∧
    (∃ s1 s2 k, ({ mach with polWait := [] } : State).physRead { mid := 0 } .read (piecesOf 0x4000 3344) = (s1, .ok (List.replicate 3344 0, false)) ∧ s1.installPolicy (List.replicate 3344 0) = (s2, k)) ∧
    mach.instantNow 7 = true ∧ (let t : Trace := { slot := 0, hart := 0, blk := 0x1000, tb := [0x10000, 0, 0], op := true, held := [[1, 2, 3, 4]] }
      ({ mach with traces := [t] } : State).traces.find? (·.slot == 0) = some t) :=
  ⟨by decide +kernel, by decide +kernel, by decide +kernel, by decide +kernel, by decide +kernel, rfl, rfl, rfl, rfl, rfl, rfl, ⟨policyRead.1, _, _, eq_ok (p := policyRead) rfl policyRead_ok, rfl⟩, by decide +kernel, by decide +kernel⟩

/-- A tenant whose policy releases only at intervals: now is no instant. -/
theorem witness_ParityAndPolicySteps_wait :
    (let s : State := { mach with ns := 1, policies := [{ tid := 7, key := [], body := [0, 0, .ofNat 64 (put 6 4 3), 0] }] }
     s.instantNow 7 = false) := by decide +kernel

theorem witness_PowerSteps :
    mach.powered = true ∧ mach.mgmt.tlvl ≤ 7 ∧ mach.mgmt.plim < 65535 ∧ (100 * 0 < 95 * mach.mgmt.plim) ∧ (95 * mach.mgmt.plim ≤ 100 * mach.mgmt.plim) ∧
    (let m : Manifest := { parts := [(0, 0)] }
     let s : State := { mach with flash := { manifest := some m } }
     s.flash.manifest = some m ∧ m.signed = true ∧ s.fuseRollback ≤ m.rollback ∧ m.hashes = true ∧ s.flash.trains = true ∧ s.flash.bedrockOk = true ∧ m.fieldsOk = true) ∧
    ({} : Manifest).rollback < ({ mach with fuseRollback := 1 } : State).fuseRollback ∧ ({ signed := false } : Manifest).signed = false ∧ ({ hashes := false } : Manifest).hashes = false := by decide +kernel

/-- THROTTLE_EVALUATION at 105 °C gives level 7; at 94 °C under little power the level falls (R455). -/
theorem test_throttle : ((match exec (.throttleEvaluation 0 105 0) mach with | .next t => t.mgmt.tlvl | _ => 9) = 7) ∧
    ((match exec (.throttleEvaluation 0 94 0) { mach with mgmt := { tlvl := 3 } } with | .next t => t.mgmt.tlvl | _ => 9) = 2) := by decide +kernel

/-! #### Frames and lanes -/

theorem witness_QueriesChangeOnlyTheirRegister : mach.cur < mach.harts.length ∧ (∃ t, exec (.rgnqry 1 2 3) mach = .next t) ∧ (∃ t, exec (.tfpsh 1 2 3) mach = .next t) ∧ (∃ t, exec (.ctrrd 1 2) mach = .next t) ∧
    (mach.hart mach.cur).mode.high = true ∧ Instr.rgnqry 1 2 3 ∈ [Instr.rgnqry 1 2 3, .duneq 1 2] := ⟨by decide +kernel, ⟨_, rfl⟩, ⟨_, rfl⟩, ⟨_, rfl⟩, by decide +kernel, List.mem_cons_self⟩

theorem witness_UnitStepsStayInTheirTile :
    (∃ t, exec (.selection ⟨0, 0, 0, .pe0⟩) (at5 (live [worker])) = .next t) ∧ (∃ t, exec (.furrowPass 0 (.elt 0 0 .pe0)) (at5 (live [worker])) = .next t) ∧
    (at5 (live [worker])).region 0 = some (live [worker]) ∧ mach.region 0 = none := ⟨⟨_, rfl⟩, ⟨_, rfl⟩, by decide +kernel, by decide +kernel⟩

theorem witness_IntegerFormsByLane : LaneTy.n32 ∈ [LaneTy.i8, .i16, .i32, .n8, .n16, .n32] ∧ 3 < LaneTy.n32.lanes ∧ 15 < LaneTy.i8.lanes ∧ LaneTy.i8.width ≤ lane 8 0 8 ∧ lane 8 0 7 < LaneTy.i8.width ∧
    laneOn (some { word := 0 }) 8 15 = false := by decide +kernel
/-! #### Further cases of the statements above -/

/-- A core whose store waits; one that has not been started, without and with an interrupt; a base word that runs and one that does not; a page asked for. -/
theorem witness_StepRunsDecodedForm_holds :
    (({ mach with xlat := { mach.xlat with held := [(some 0, 0x10, 2)] } } : State).storeWaits mach.cur = true ∧ mach.storeWaits mach.cur = false) ∧
    (let s (i : Bool) := mach.modHart 0 fun c => { c with wait := .parked, irq := i }
     ((s false).hart 0).wait = .parked ∧ ((s false).hart 0).irq = false ∧ ((s true).hart 0).irq = true) ∧
    ((atPc 0x33).baseRun 0x33).isSome = true ∧ (atPc 0x53).hartRead 0 .fetch false (piecesOf 0 4) = (atPc 0x53, .ok [0x53, 0, 0, 0]) ∧ decodeBytes [0x53, 0, 0, 0] = .error .notExtension ∧
    (atPc 0x53).baseRun 0x53 = none ∧ ({ mach with dune := { asked := some (1, 0x10000) } } : State).dune.asked = some (1, 0x10000) ∧ mach.dune.asked = none :=
  ⟨by decide +kernel, by decide +kernel, by decide +kernel, eq_ok (by decide +kernel) (by decide +kernel), rfl, by decide +kernel, rfl, rfl⟩

/-- A word that runs as the base instruction it is: ADD x5, x6, x7 (the family's encoding); DIV by 0 gives −1. -/
theorem test_base_words :
    (((withRegs mach [(6, 5), (7, 2 ^ 64 - 1)]).baseRun 0x007302B3).map fun t => (t.xreg 5, (t.hart 0).pc)) = some (4, 4) ∧
    (((withRegs mach [(6, 5)]).baseRun 0x027342B3).map fun t => t.xreg 5) = some (2 ^ 64 - 1) := by decide +kernel

theorem witness_LifecycleStartsAndDrains_holds :
    (let q : Region := { run with freeze := some { why := .form } }
     (holding q).byHandle ((holding q).xreg 11) (holding q).guestTid = .ok (0, q) ∧ q.state = .resident ∧ q.settling = true ∧ q.shadowOf = none ∧ (holding q 1).xreg 12 < 2 ∧
      q.save.addr ≠ 0 ∧ (q.freeze.map fun z => decide (z.why ≠ .stop)) = some true) := ⟨byHandle_holding _ _ rfl, rfl, rfl, rfl, by decide +kernel, by decide, rfl⟩

/-- A placement word with SHDW that names the region in slot 0 and an origin on its own. -/
def overPlc : Nat := 2 ^ 62 + 0x30000 * 2 ^ 16
/-- A region at slot 0, and a descriptor at 0x1000 of a shadow for it. -/
def shadowAt : State := (withWords (withRegs mach [(11, 0x1000)]) 0x1000 [0, 0, overPlc, 0, 0, 0, 0, 0]).setRegion 0 reg

theorem witness_LifecycleLoads_shadow :
    shadowAt.formLoad true (shadowAt.xreg 11) 64 = (shadowAt, .ok (le64 [0, 0, overPlc, 0, 0, 0, 0, 0])) ∧ wd (words64 8 (le64 [0, 0, overPlc, 0, 0, 0, 0, 0])) 2 = overPlc ∧ shadowAt.plcOk 0 overPlc = true ∧
    plcShadow overPlc = true ∧ shadowAt.byHandle (plcOccupant overPlc) none = .ok (0, reg) ∧ reg.state = .resident ∧ reg.shadow = none ∧ reg.shadowOf = none ∧ shadowAt.occupant overPlc = .ok (some 0) ∧
    shadowAt.placeWord 0 overPlc (some 0) = some overPlc ∧ (∃ q, shadowAt.addRegion { gen := 0, part := 0, plc := overPlc, shadowOf := some 0 } = some q) ∧ plcShadow 0 = false :=
  ⟨eq_ok (by decide +kernel) (by decide +kernel), by decide +kernel, by decide +kernel, by decide +kernel, eq_ok1 (by decide +kernel), rfl, rfl, rfl, eq_ok1 (by decide +kernel), by decide +kernel,
    ⟨_, eq_some (by decide +kernel)⟩, by decide +kernel⟩

/-- The saved region beside a resident one in slot 1, over which it is restored. -/
def savedBeside : State := withRegs (savedAt.setRegion 1 reg) [(12, overPlc + 2 ^ 16)]
def besideOut : State × Except RestoreFail (Image × Restored) := savedBeside.readBack 0 savedReg savedReg.savedAt
theorem besideOut_eq : besideOut = (savedBeside, .ok ({ w := 1, h := 1 }, { stamp := 1 })) := eq_ok (by decide +kernel) (by decide +kernel)

theorem witness_LifecycleRestores_shadow :
    savedBeside.byHandle (savedBeside.xreg 11) savedBeside.guestTid = .ok (0, savedReg) ∧ savedBeside.plcOk savedReg.part (savedBeside.xreg 12) = true ∧ savedBeside.occupant (savedBeside.xreg 12) = .ok (some 1) ∧
    savedBeside.placeWord savedReg.part (savedBeside.xreg 12) (some 1) = some (overPlc + 2 ^ 16) ∧ savedBeside.readBack 0 savedReg savedReg.savedAt = (savedBeside, .ok ({ w := 1, h := 1 }, { stamp := 1 })) ∧
    savedBeside.search { self := some 0, occupant := some 1 } 0 { savedReg with shadowOf := some 1 } { w := 1, h := 1 } (overPlc + 2 ^ 16) = .placed savedBeside homePlace ∧
    ∃ s3, savedBeside.installArea 0 { savedReg with shadowOf := some 1, ownedAt := ((savedBeside.region 0).map (·.ownedAt)).getD [] } homePlace { w := 1, h := 1 } (({ stamp := 1 } : Restored).rehost savedReg savedBeside.cur) = some s3 :=
  ⟨eq_ok1 (by decide +kernel), by decide +kernel, eq_ok1 (by decide +kernel), by decide +kernel, besideOut_eq, eq_placed (by decide +kernel), _, eq_some (by decide +kernel)⟩

/-- BWAIT with an interrupt pending since an earlier fc, and with one of the present fc. -/
theorem witness_BarrierForms_interrupt :
    (let s (n : Nat) : State := { (barAt 0x1000 0 [2]).modHart 0 fun c => { c with irq := true, ie := true, irqFc := n } with fc := 5 }
     (s 4).barPh 0x1000 = ((s 4).xreg 12 == 1) ∧ ((s 4).hart 0).irqDue 5 = true ∧ ((s 5).hart 0).irqDue 5 = false ∧ ((s 4).hart 0).wait = .none) := by decide +kernel

theorem witness_TicketQueryForms_refused :
    fld (2 * 2 ^ 48) 51 48 ≠ 4 ∧ fld (4 * 2 ^ 48) 51 48 = 4 ∧ fld (4 * 2 ^ 48 + 2 ^ 40) 47 32 ≠ 0 ∧ fld (2 ^ 52) 63 52 ≠ 0 ∧ (withRegs mach [(11, 2 ^ 52)]).xreg 11 = 2 ^ 52 := by decide +kernel

theorem witness_FenceAndCacheForms_refused :
    4096 ≤ (withRegs mach [(12, 4096)]).xreg 12 ∧ (withRegs mach [(12, 4095)]).xreg 12 < 4096 ∧ 4096 ≤ (withRegs mach [(11, 2 ^ 63)]).xreg 11 ∧
    (let s := inMode .vs (withRegs mach [(11, 2), (12, 2)])
     s.xreg 12 < 4096 ∧ s.mayUse s.askHart (s.xreg 12) = false ∧ s.mayUse s.askHart (s.xreg 11) = false) := by decide +kernel

/-- An operator's CTRSEL of bank 2: without a request of its own, with one of an earlier fc, and of a bank that is its own; a guest's. -/
theorem witness_CounterForms_claims :
    mach.guestTid = none ∧ mach.bankClaim = none ∧ mach.dropBankClaim.findBank 0 2 = none ∧ mach.dropBankClaim.bankHeld 0 2 = false ∧ mach.dropBankClaim.bankOwner 0 2 = none ∧
    (let b : CtrBank := { bank2 with prov := true, fc := 4 }
     let s : State := { mach with banks := [b], fc := 5 }
     s.bankClaim = some b ∧ b.fc < s.fc ∧ b.bank = 2 ∧ b.part = 0 ∧ s.dropBankClaim.bankHeld 0 2 = false) ∧
    bound.dropBankClaim.findBank 0 2 = some bank2 ∧ bank2.prov = false ∧ bound.dropBankClaim.bankHeld 0 2 = false ∧ bound.dropBankClaim.selBank 5 = some bank2 ∧ (inMode .vs mach).guestTid.isSome = true := by decide +kernel

/-- TRCON of an operator that has asked in an earlier fc, of a guest, and beside no other request. -/
theorem witness_TraceForms_claims :
    (let c : Trace := { slot := 0, hart := 0, blk := 0x1000, tb := [], op := true, prov := true, fc := 4 }
     let s : State := { traced with traces := [c], fc := 5 }
     s.traceClaim 0 = some c ∧ c.fc < s.fc ∧ s.dropTraceClaim.unitsBusy reg.strips = false ∧ (s.traces.filter (fun c => c.prov && s.traceOver reg.strips c)) ≠ []) ∧
    traced.traceClaim 0 = none ∧ (traced.traces.filter (fun c => c.prov && traced.traceOver reg.strips c)) = [] ∧
    (let s := (inMode .vs traced).modHart 0 fun c => { c with oxtnt := 7 }
     (s.hart 0).mode.virt = true ∧ s.mayUse s.askHart (tbAsid (words64 8 (List.replicate 64 0))) = false ∧ s.mayUse s.askHart 1 = true ∧ traceBlockOk (words64 8 (le64 [0x10000, 2 ^ 20, 0, 0, 0, 0, 0, 0])) true = true) := by decide +kernel

/-- A translation that no walk of the fc shares; a descriptor that a rollback has put back; a chain with one entry left beside the two of a beat. -/
theorem witness_StreamSteps_replay :
    (at5 (chained walkq)).startsWalk ((chained walkq).dieAt 0 0) 1 0x12340 .read = true ∧
    (let x : Stream := { redo := [{ q := loadQ }] }
     ((streamMe x).me.stream 0).run = none ∧ ((streamMe x).me.stream 0).redo = { q := loadQ } :: [] ∧ (streamMe x).me.swapped = 16 ∧ ((streamMe x).me.stream 0).stopped = false ∧
      (streamed x).acts 0 0 (.stream 0 0 0) = true) ∧
    (streamMe {}).chainRoom 0 ≠ 0 := by decide +kernel

/-- A debug stop whose front has settled; a region that freezes for a form; a detector that is not armed; a region that does not run. -/
theorem witness_FreezeSteps_stop :
    (let z : Freeze := { why := .stop, got := (settling { why := .stop } none).units }
     let r : Region := { settling z none with stopAt := some (3, 7, 9, 4) }
     r.freeze = some z ∧ r.settledNow z = true ∧ r.killWhenDone = none ∧ r.fault = none ∧ r.stopAt = some (3, 7, 9, 4) ∧ (settling { why := .stop } none).settledNow { why := .stop } = false) ∧
    (let r : Region := { run with active := 2000 * 1000000, freeze := some { why := .form } }
     r.stp = false ∧ r.freeze = some { why := .form } ∧ ((at5 r).frBlock r.part).wdl.toNat * 1000000 ≤ r.active) ∧
    (let r : Region := { run with noProg := 2 ^ 24, noProgArmed := false }
     r.noProgArmed = false ∧ 2 ^ 24 ≤ r.noProg ∧ r.state = .resident ∧ r.run = true ∧ r.stp = false) ∧ reg.run = false := by decide +kernel

/-- A switch at its deadline: with a tile that is not drained, and with one that is. -/
theorem witness_SwitchSteps_deadline :
    (let r := draining { deadline := 0 } [{ elt := .pe0 }]
     (at5 r).slipReady { deadline := 0 } = true ∧ (∃ k ∈ r.unflipped, r.tileDrained k.1 k.2 = false) ∧ ({ deadline := 0 } : SwitchOut).deadline ≤ (at5 r).ns) ∧
    (let r := draining { passed := [.elt 0 0 .pe0], deadline := 0 } [{ elt := .pe0 }]
     (∀ k ∈ r.unflipped, r.tileDrained k.1 k.2 = true)) := by decide +kernel

/-- A rollback with no LAUNCH before it; a switch of a column that the image skips. -/
theorem witness_RecoverySteps_through :
    rolledAt.launchBefore 0 0 = false ∧
    (let r : Region := { reg with switches := [{ col := 0, row := 0 }, { col := 1, row := 0 }] }
     (mach.setRegion 0 r).region 0 = some r ∧ (r.switch 1 0).isSome = true ∧ r.imageOf 1 0 = none) := by decide +kernel

/-- No tile's turn at a copy engine that has just moved a tensor's element; a hart whose interrupt has been pending since an earlier fc. -/
theorem witness_EngineSteps_turn : ((queued cpy).copyEngine 0).turn = false ∧ (busy.collEngine 0).hdrs = [] := by decide +kernel

theorem witness_BarrierSteps_interrupt :
    (let s (n : Nat) : State := { (barAt 0 0 [2]).modHart 0 fun c => { c with wait := .bwait 0x1000 false 5, irq := true, ie := true, irqFc := n } with fc := 5 }
     ((s 4).hart 0).wait = .bwait 0x1000 false 5 ∧ (s 4).barPh 0x1000 = false ∧ ((s 4).hart 0).irqDue (s 4).fc = true ∧ ((s 5).hart 0).irqDue (s 5).fc = false) := by decide +kernel

/-- Both engines of the collective have exchanged; the other rank keeps unit 0 for this one. -/
def pairedOn (e : CollEngine) : State :=
  { mach with colls := [(0, { e with exchanged := true, cmds := { next := 1, q := [collCmd 0 64] } }), (1, { exchanged := true, unacked := [(0, unit64)], cmds := { next := 1, q := [collCmd 0 64] } })] }

theorem witness_CollectiveSteps_units :
    (pairedOn {}).collCmd 0 = some (collCmd 0 64) ∧ (pairedOn {}).sameColl (collCmd 0 64) ((collCmd 0 64).rankBefore 1) = true ∧
    ((pairedOn {}).localRank (collCmd 0 64) ((collCmd 0 64).rankBefore 1)).map (fun p => look p.unacked 0) = some (some unit64) ∧
    (let s := pairedOn { unacked := [(3, unit64)], acks := [3] }
     (s.collEngine 0).acks.contains 3 = true ∧ (look (s.collEngine 0).unacked 3).isSome = true) ∧
    (let s := colling (ring3 1 32) { exchanged := true, unacked := [(0, unit64)] }
     s.localRank (ring3 1 32) ((ring3 1 32).rankAfter 1) = none ∧ (look (s.collEngine 0).unacked 0).isSome = true) ∧
    (let s : State := { pairedOn { unacked := [(0, unit64)] } with ns := 10000000 }
     (s.collEngine 0).unacked ≠ [] ∧ (s.collEngine 0).lastOut + gHto (collCmd 0 64).grp * 1000000 ≤ s.ns ∧ s.rankPaused (collCmd 0 64) ((collCmd 0 64).rankAfter 1) = false ∧
      (s.collEngine 0).outPaused = false ∧ (s.collEngine 0).inPaused = false ∧ s.hopLossDue (s.collEngine 0) = false) ∧
    kvOut1.1.memPsn 0x4008 8 = false := by decide +kernel

/-- A destination whose source no route names, and one whose only route has its link down; a read of the consumer's count that carries no poison. -/
theorem witness_MigrationSteps_routes :
    migDest.pull = some (0, 0) ∧ pullAt.routeTo (((pullAt.migTarget migDest).map (·.2.part)).getD 0) migDest.src ≠ some none ∧
    (let s : State := { pullAt with routes := [((0, 0), 0x80)] }
     s.routeTo (((s.migTarget migDest).map (·.2.part)).getD 0) migDest.src = some none) ∧ migDest.attempts + 1 < migTries migDest.m := by decide +kernel

/-- Unnamed words of an ARM, a SIGNAL and a WAIT. -/
theorem witness_PacketsOfRegionsAndBarriers_unnamed :
    (let p (k : Nat) := packet k [0x1000, 0, 1]
     packetClean (p 2).pw 2 = false ∧ (p 3).opc = 3 ∧ (p 4).opc = 4 ∧ (staged (p 2)).nextPacket = some (p 2) ∧ (p 2).gone = false) ∧ packetClean (packet 1 [0, 0, 0, 0, 0, 1]).pw 5 = false := by decide +kernel

theorem witness_BedrockSteps_rollback : (loaded none).rollbackBefore (loading false none) = false := by decide +kernel

/-- Stores that wait behind others, with 16 commands pending and with fewer; a stream that holds one of the translations. -/
theorem witness_InvalidationSteps_waits :
    (let s (n : Nat) : State := { invalAt n [] with xlat := { (invalAt n []).xlat with held := [(some 3, 0x10, 2)] } }
     (s 16).xlat.held ≠ [] ∧ (s 2).xlat.held ≠ [] ∧ (s 2).powered = true ∧ (s 2).permits ((s 2).hartWho 0) (xlatBase + 0x10) .write = true ∧ (s 2).storeWaits 3 = true) ∧ (invalAt 16 []).xlat.held = [] := by decide +kernel

/-- INVALIDATE_ASID takes a stream's entry of the ASID away, and leaves one of another (R287). -/
theorem test_invalidate_stream :
    (let x : Stream := { teData := some { asid := 1, va := 0x10000, size := 0x10000, leaf := 3 }, teScale := some { asid := 2, va := 0x10000, size := 0x10000, leaf := 3 } }
     match exec (.invalidateAsid 0 1) (at5 (streamed x)) with
     | .next t => ((t.region 0).bind fun r => r.me 0 0).map fun m => ((m.stream 0).teData.isNone, (m.stream 0).teScale.isSome)
     | _ => none) = some (true, true) := by decide +kernel

/-- A stopped region in a switch out in freeze mode keeps that freeze. -/
theorem witness_RegisterSteps_freezeMode :
    (let r : Region := { run with state := .draining, stp := true, switchOut := some { freeze := true } }
     r.stp = true ∧ (r.switchOut.map (·.freeze)).getD false = true) ∧ (pausedColl.pausedCmd (BitVec.toNat (3 * 2 ^ 48 : W64))).isSome = true := by decide +kernel

/-- A word with the range it has, in use; a range that another strip's word contradicts (R402). -/
theorem witness_FabricTables_clash :
    (let s := tables.setRegion 0 reg
     s.stripBusy 0 = true ∧ bitN (2 ^ 63 + 1) 63 = bitN (s.partWord 0) 63 ∧ fld (2 ^ 63 + 1) 5 0 = fld (s.partWord 0) 5 0) ∧
    ((List.range 8).any fun j => j != 3 && bitN (tables.partWord j) 63 && fld (tables.partWord j) 5 0 != fld (2 ^ 63 + 19) 5 0 &&
      ((decide (fld (2 ^ 63 + 19) 5 3 ≤ j) && decide (j ≤ fld (2 ^ 63 + 19) 2 0)) || (decide (fld (tables.partWord j) 5 3 ≤ 3) && decide (3 ≤ fld (tables.partWord j) 2 0)))) = true := by decide +kernel

/-- A flit whose 64 replays have failed; one that moved here from the peer's lost group 5, which has sent it as number 2, and was held there. -/
theorem witness_LinkSteps_replays :
    (let l : LaneGroup := { lst := 2, unacked := [{ num := 7, part := 0, tid := 7, mod := 1 }], tx := 8, replays := 64 }
     l.lst = 2 ∧ (l.unacked.head?.map (·.num)) = some 7 ∧ 7 ≠ l.tx ∧ l.replays = 64) ∧
    (let s : State := { mach with groups := [(63, { lst := 2, pmod := 9, plg := 6 }), (62, { lst := 3, pmod := 9, plg := 5, rxSeq := 3 })] }
     s.heldAlready 63 [(5, 2)] = true ∧ s.heldAlready 63 [(5, 3)] = false ∧ s.heldAlready 63 [] = false) := by decide +kernel

/-- A block that is a policy's by its MAG, and one that is not; a hart whose interrupt has been pending. -/
theorem witness_ParityAndPolicySteps_blocks :
    fld (ofBytes ((toBytes 8 (0x4F58504C * 2 ^ 32)).take 8)) 63 32 = 0x4F58504C ∧ fld (ofBytes ((List.replicate 8 (0 : Byte)).take 8)) 63 32 ≠ 0x4F58504C := by decide +kernel

/-- A partition of strips 0 and 1 with a journal, and one of strip 2 without; no image on flash, and none in the manifest. -/
theorem witness_PowerSteps_journals :
    (let m : Manifest := { parts := [(0, 1), (2, 2)] }
     let s : State := { mach with flash := { manifest := some m }, journals := [{ first := 0, count := 1, recs := [[1]] }] }
     s.flash.imagesOk m = true ∧ (0, 1) ∈ m.parts ∧ s.journals.find? (·.first == 0) = some { first := 0, count := 1, recs := [[1]] } ∧ s.journals.find? (·.first == 2) = none ∧
      (∃ p ∈ m.parts, 16 = 8 * p.1) ∧ (∀ p ∈ m.parts, 17 ≠ 8 * p.1)) ∧
    ({ images := [[1]] } : Flash).imagesOk {} = false ∧ 114 < 115 := by decide +kernel

/-- A boot starts Ilhus on harts 0 and 16 for partitions at strips 0 and 2; hart 1 waits (R449). -/
theorem test_boot_harts :
    (match exec .coldReset { mach with flash := { manifest := some { parts := [(0, 1), (2, 2)] } } } with
     | .next t => [(t.hart 0).wait, (t.hart 16).wait, (t.hart 1).wait]
     | _ => []) = [.none, .none, .parked] := by decide +kernel

end Sys2Proof.Tests
end

namespace Sys2Proof.Machine

-- The parallel elaboration of so many proofs exhausts the threads that a compile may have.
set_option Elab.async false

/-! ## Operand blocks

### Loads of a control core -/

/-- A state that differs from another in its debug blocks alone. -/
def SameButDebug (s t : State) : Prop := t = { s with debug := t.debug }

theorem SameButDebug.refl (s : State) : SameButDebug s s := rfl

theorem SameButDebug.trans {s t u : State} (h1 : SameButDebug s t) (h2 : SameButDebug t u) : SameButDebug s u := by
  unfold SameButDebug at *
  rw [h2, h1]

/-- A read touches nothing but debug blocks (R438). -/
theorem State.readEffect_sameButDebug (s : State) (a n : Nat) : SameButDebug s (s.readEffect a n) := by
  unfold State.readEffect
  split
  · refine List.foldlRecOn _ _ (motive := SameButDebug s) (SameButDebug.refl s) fun t ht i _ => ?_
    dsimp only
    split
    · exact ht.trans rfl
    · exact ht
  · exact SameButDebug.refl s

theorem State.hartPiece_ok_sameButDebug {s s1 : State} {h va n pa : Nat} {a : HartAcc} {phys : Bool}
    (hp : s.hartPiece h a phys va n = (s1, .ok pa)) : SameButDebug s s1 := by
  rw [(State.hartPiece_ok hp).1]
  split
  · exact SameButDebug.refl s
  · exact s.readEffect_sameButDebug pa n

/-- A core's read that passes changes nothing but debug blocks, wherever it goes. -/
theorem State.hartRead_ok_sameButDebug {s s1 : State} {h : Nat} {a : HartAcc} {phys : Bool} {l : List (Nat × Nat)} {bs : List Byte}
    (hr : s.hartRead h a phys l = (s1, .ok bs)) : SameButDebug s s1 := by
  induction l generalizing s bs with
  | nil => cases hr; exact SameButDebug.refl _
  | cons p l ih =>
    unfold State.hartRead at hr
    split at hr
    · cases hr
    next s2 pa hp =>
      split at hr
      next s3 bs' hl =>
        cases hr
        exact (State.hartPiece_ok_sameButDebug hp).trans (ih hl)
      · cases hr

/-- A piece that passes lies in the local address space (R276). -/
theorem State.hartPiece_ok_lt {s s1 : State} {h va n pa : Nat} {a : HartAcc} {phys : Bool} :
    s.hartPiece h a phys va n = (s1, .ok pa) → pa < 2 ^ 47 := by
  fun_cases State.hartPiece s h a phys va n <;> grind

/-- Where the core uses no address map, an address is its own physical address (log entry 9). -/
theorem State.hartPiece_ok_direct {s s1 : State} {h va n pa : Nat} {a : HartAcc} {phys : Bool} (hp : s.hartPiece h a phys va n = (s1, .ok pa))
    (hd : phys = true ∨ (s.hart h).mode = .m ∨ (s.hart h).maps = none) : pa = va := by
  have hpa := (State.hartPiece_ok hp).2
  unfold Hart.physAddr at hpa
  grind

/-! ### The pieces of a range -/

/-- Every piece of a range begins inside it. -/
theorem lt_of_mem_pieces {f a n : Nat} {p : Nat × Nat} (hp : p ∈ pieces f a n) : p.1 < a + n := by
  induction f generalizing a n with
  | zero => cases hp
  | succ f ih =>
    unfold pieces at hp
    split at hp
    · cases hp
    · rcases List.mem_cons.mp hp with rfl | hp
      · dsimp only; omega
      · have := ih hp
        omega

/-- A range that lies in one 64 KiB unit is one piece. -/
theorem piecesOf_eq_singleton {a n : Nat} (hn : n ≠ 0) (h : a % 65536 + n ≤ 65536) : piecesOf a n = [(a, n)] := by
  have hm : min n (65536 - a % 65536) = n := by omega
  simp [piecesOf, pieces, hn, hm]

/-- Two functions that agree on a list's elements give it one `flatMap`. -/
theorem flatMap_congr_of_mem {α β : Type} {l : List α} {f g : α → List β} (h : ∀ x ∈ l, f x = g x) : l.flatMap f = l.flatMap g := by
  rw [List.flatMap_def, List.flatMap_def, List.map_congr_left h]

/-- The pieces of a range, laid end to end, are the range. -/
theorem piecesOf_sum (a n : Nat) : ((piecesOf a n).map (·.2)).sum = n := (pieces_cover [] _ a n (by omega)).1

theorem piecesOf_flatMap_memReadBytes (m : Memory) (a n : Nat) : ((piecesOf a n).flatMap fun p => memReadBytes m p.1 p.2) = memReadBytes m a n :=
  (pieces_cover m _ a n (by omega)).2

/-! ### What an operand block gives -/

/-- Settles O19, by the pieces of the range: each piece that passes reads the bytes at its own address. -/
theorem operandBlockReads : Obligations.OperandBlockReads := by
  intro s s1 phys va n bs hr
  unfold State.formLoad at hr
  obtain ⟨hlen, hbytes⟩ := State.hartRead_ok hr
  refine ⟨hlen.trans (piecesOf_sum va n), State.hartRead_ok_sameButDebug hr, fun hd => ?_⟩
  have below : va + n ≤ regSpace → s1 = s ∧ bs = (piecesOf va n).flatMap fun p => memReadBytes s.mem (s.localKey p.1) p.2 := by
    intro hlt
    have hp : ∀ p ∈ piecesOf va n, p.1 < regSpace := fun p hp => Nat.lt_of_lt_of_le (lt_of_mem_pieces hp) hlt
    obtain ⟨hs, hb⟩ := hbytes hd hp
    exact ⟨hs, hb.trans (flatMap_congr_of_mem fun p h => State.bytesAt_mem (.inl (hp p h)))⟩
  refine ⟨below, fun hlt => ?_, fun hge hn hone => ?_⟩
  · rw [(below (Nat.le_trans hlt (by decide))).2, ← piecesOf_flatMap_memReadBytes]
    refine flatMap_congr_of_mem fun p hp => ?_
    rw [State.localKey_of_lt (Nat.lt_of_lt_of_le (lt_of_mem_pieces hp) hlt)]
  · rw [piecesOf_eq_singleton hn hone] at hr
    unfold State.hartRead at hr
    split at hr
    · cases hr
    next s2 pa hp =>
      obtain rfl := State.hartPiece_ok_direct hp hd
      simp only [State.hartRead, List.append_nil, Prod.mk.injEq, Except.ok.injEq] at hr
      obtain ⟨rfl, rfl⟩ := hr
      exact ⟨if_pos ⟨hge, State.hartPiece_ok_lt hp⟩, (State.hartPiece_ok hp).1⟩

/-! ## Registers

### Register writes of a hart and of the Hardpan core -/

/-- A hart or the Hardpan core. -/
def Master.OnDie (m : Master) : Prop := m = .hardpan ∨ ∃ h, m = .hart h

/-- The access of a hart or of the Hardpan core carries that master's ID. -/
theorem State.regWho_mid {s : State} {m : Master} (hm : m.OnDie) : (s.regWho m).mid = s.midOf m := by
  rcases hm with rfl | ⟨h, rfl⟩ <;> rfl

/-- A register write that the block and the device table admit is performed. -/
theorem State.regWrite_of_permits {s : State} {m : Master} {addr : Nat} (f : State → State) (hp : s.powered = true) (hm : m.OnDie)
    (ha : s.permits (s.regWho m) addr .write = true) : s.regWrite m addr f = f s := by
  rcases hm with rfl | ⟨h, rfl⟩ <;> simp [State.regWrite, hp, ha]

/-- A register write that is not admitted is recorded as a denial (log entry 73). -/
theorem State.regWrite_of_not_permits {s : State} {m : Master} {addr : Nat} (f : State → State) (hp : s.powered = true) (hm : m.OnDie)
    (ha : ¬ s.permits (s.regWho m) addr .write = true) : s.regWrite m addr f = s.recordDenial (s.regWho m) addr .write := by
  rcases hm with rfl | ⟨h, rfl⟩ <;> simp [State.regWrite, hp, ha]

/-! ### Tickets on RSM (R354) -/

theorem State.resumeTicket_of_cmd {s : State} {t : Nat} {q : QueueId} {c : Cmd} (h : s.pausedCmd t = some (q, c)) (hq : ∀ k, q ≠ .coll k) :
    s.resumeTicket t = s.setHead q { c with paused := false } := by
  unfold State.resumeTicket
  rw [h]
  cases q with
  | coll k => exact absurd rfl (hq k)
  | _ => rfl

theorem State.resumeTicket_of_coll {s : State} {t k : Nat} {c : Cmd} (h : s.pausedCmd t = some (.coll k, c)) :
    s.resumeTicket t = ((s.setHead (.coll k) { c with paused := false }).resumeHops k c).goOn k := by
  unfold State.resumeTicket; rw [h]

theorem State.resumeTicket_of_none {s : State} {t : Nat} (h : s.pausedCmd t = none) : s.resumeTicket t = s := by
  unfold State.resumeTicket; rw [h]

theorem exec_rsm {s : State} {m : Master} {p : Nat} (ticket : W64) (hp : s.powered = true) (hm : m.OnDie) (hpart : s.isPart p = true)
    (ha : s.permits (s.regWho m) (faultBase p + 0x28) .write = true) : exec (.rsm m p ticket) s = .next (s.resumeTicket ticket.toNat) := by
  change execRsm m p ticket s = _
  simp [execRsm, hpart, State.regWrite_of_permits _ hp hm ha, State.writeFaultReg]

/-! ### Debug blocks (R435 to R438) -/

/-- Only MID 0x000 and the Ilhus harts of the region's partition may write the debug block of a region's slot. -/
theorem State.permits_debugBlk {s : State} {w : Who} {slot i : Nat} {r : Region} (hs : slot < 512) (hr : s.region slot = some r) (hi : i < 8)
    (ha : s.permits w (debugBase slot + 8 * i) .write = true) : w.mid = 0 ∨ s.isIlhusOf r.part w.mid = true := by
  have ht : targetOf (debugBase slot + 8 * i) = some 40 := by
    unfold targetOf debugBase; grind
  have hb : (debugBase slot + 8 * i) / 0x1000000 = 0x7F000A := by unfold debugBase; omega
  have ho : (debugBase slot + 8 * i) % 0x1000000 / 0x40 = slot := by unfold debugBase; omega
  simp only [State.permits, ht, if_true, Bool.and_eq_true] at ha
  simpa [State.regAdmits, hb, ho, hr, AKind.dirties] using ha.2

/-- A write of a debug block's word that is admitted. -/
theorem State.debugWrite_of_permits {s : State} {m : Master} {slot i v : Nat} (hs : slot < 512) (hp : s.powered = true) (hm : m.OnDie)
    (ha : s.permits (s.regWho m) (debugBase slot + 8 * i) .write = true) : s.debugWrite m slot i v = s.writeDebug slot i v := by
  unfold State.debugWrite
  rw [if_neg (by omega), State.regWrite_of_permits _ hp hm ha]

theorem State.debugGuard_of_region {s : State} {slot : Nat} {r : Region} (hr : s.region slot = some r) (f : State → State) :
    s.debugGuard slot f = if s.dbg r.tid then f s else s.modDebug slot fun d => { d with dny := true } := by
  simp [State.debugGuard, State.debugOk, hr]

theorem exec_srq {s : State} {m : Master} {slot : Nat} {r : Region} (hs : slot < 512) (hr : s.region slot = some r) (hp : s.powered = true)
    (hm : m.OnDie) (ha : s.permits (s.regWho m) (debugBase slot + 8) .write = true) :
    exec (.srq m slot) s = .next (if s.dbg r.tid then s.requestStop slot 0xFE 0xFFFFFFFF 0 else s.modDebug slot fun d => { d with dny := true }) := by
  have hw : s.writeDebug slot 1 2 = s.stopRegion slot := rfl
  change execSrq m slot s = _
  rw [execSrq, State.debugWrite_of_permits hs hp hm ha, hw, State.stopRegion, State.debugGuard_of_region hr]

theorem exec_resumeStoppedRegion {s : State} {m : Master} {slot : Nat} (hs : slot < 512) (hp : s.powered = true)
    (hm : m.OnDie) (ha : s.permits (s.regWho m) (debugBase slot + 8) .write = true) :
    exec (.resumeStoppedRegion m slot) s = .next (s.resumeStopped slot) := by
  have hw : s.writeDebug slot 1 1 = s.resumeStopped slot := rfl
  change execResumeStoppedRegion m slot s = _
  rw [execResumeStoppedRegion, State.debugWrite_of_permits hs hp hm ha, hw]

theorem State.resumeStopped_of_stp {s : State} {slot : Nat} {r : Region} (hr : s.region slot = some r) (hstp : r.stp = true) :
    s.resumeStopped slot =
      s.setRegion slot { r with stp := false, stopAt := none, freeze := if (r.switchOut.map (·.freeze)).getD false then r.freeze else none } := by
  unfold State.resumeStopped
  rw [State.modRegion_of_some hr, if_pos hstp]

theorem exec_debugBlockWrite {s : State} {m : Master} {slot i : Nat} (value : W64) (hi : i < 8) :
    exec (.debugBlockWrite m slot i value) s = .next (s.debugWrite m slot i value.toNat) := by
  change execDebugBlockWrite m slot i value s = _
  rw [execDebugBlockWrite, if_neg (by omega)]

@[simp] theorem State.debugBlk_modDebug (s : State) (slot : Nat) (f : DebugBlk → DebugBlk) :
    (s.modDebug slot f).debugBlk slot = f (s.debugBlk slot) := by
  simp [State.debugBlk, State.modDebug]

/-! ### CSRs of the extension (R242, R243, R278) -/

theorem Hart.csrExc_of_high {c : Hart} (h : c.mode.high = true) : c.csrExc = none := by simp [Hart.csrExc, h]

theorem Hart.csrExc_of_not_high {c : Hart} (h : c.mode.high = false) :
    c.csrExc = some (if c.mode.virt then Exc.virtualInst 0 else Exc.illegal 0) := by
  simp [Hart.csrExc, h]

/-- A write of XIB, when no store waits at the translation control block. -/
theorem State.putReg_xlatBase {s : State} (v : Nat) (who : Option Nat) (hh : s.xlat.held = []) :
    s.putReg xlatBase v who = { s with xlat := { s.xlat with base := fld v 46 17, en := bitN v 0 } } := by
  have hx : s.putReg xlatBase v who = s.writeXlat 0 v who := rfl
  simp [hx, State.writeXlat, hh]

theorem exec_write_mmio {s : State} {m : Master} {addr : Nat} (value : W64) (hp : s.powered = true) (hm : m.OnDie)
    (h8 : addr % 8 = 0) (ha : s.permits (s.regWho m) addr .write = true) :
    ∃ who, exec (.registerWrite m (.mmio addr) value) s = .next (s.putReg addr value.toNat who) := by
  have hw : exec (.registerWrite m (.mmio addr) value) s = .next (s.writeReg m addr value.toNat) := rfl
  unfold State.writeReg at hw
  rw [hw, if_neg (by simp [h8]), State.regWrite_of_permits _ hp hm ha]
  exact ⟨_, rfl⟩

theorem exec_write_csr (s : State) (h n : Nat) (value : W64) :
    exec (.registerWrite (.hart h) (.csr n) value) s = .next (s.writeCsr h n value.toNat) := rfl

theorem State.writeCsr_oxtnt {s : State} {h : Nat} (v : Nat) (hh : (s.hart h).mode.high = true) :
    s.writeCsr h 0x5C0 v = s.modHart h fun x => { x with oxtnt := .ofNat 16 v } := by
  simp [State.writeCsr, Hart.csr, Hart.csrExc_of_high hh]

theorem State.writeCsr_oxdl {s : State} {h : Nat} (v : Nat) (hh : (s.hart h).mode.high = true) :
    s.writeCsr h 0x5C1 v = s.modHart h fun x => { x with oxdl := if v % 65536 = 0 then 50 else .ofNat 16 v } := by
  simp [State.writeCsr, Hart.csr, Hart.csrExc_of_high hh]

theorem State.writeCsr_oxmid {s : State} {h : Nat} (v : Nat) (hh : (s.hart h).mode.high = true) : s.writeCsr h 0x5C2 v = s := by
  simp [State.writeCsr, Hart.csr, Hart.csrExc_of_high hh]

/-- Two changes of a core that agree on the core as it stands. -/
theorem State.modHart_congr {s : State} {h : Nat} {f g : Hart → Hart} (hfg : f (s.hart h) = g (s.hart h)) : s.modHart h f = s.modHart h g := by
  have h1 : upd s.harts h f = upd s.harts h g := by
    refine List.ext_getElem? fun j => ?_
    simp only [upd, List.getElem?_modify]
    split
    next hj =>
      subst hj
      cases he : s.harts[h]? with
      | none => rfl
      | some c =>
        have hc : s.hart h = c := by simp [State.hart, he]
        rw [hc] at hfg
        exact congrArg some hfg
    · rfl
  unfold State.modHart
  rw [h1]

theorem State.writeCsr_of_not_high {s : State} {h n : Nat} (v : Nat) (hn : ((s.hart h).csr n).isSome) (hh : (s.hart h).mode.high = false) :
    s.writeCsr h n v = s.modHart h fun x => x.trap (if x.mode.virt then Exc.virtualInst 0 else Exc.illegal 0) := by
  obtain ⟨k, hk⟩ := Option.isSome_iff_exists.mp hn
  simp only [State.writeCsr, hk, Hart.csrExc_of_not_high hh, Option.isNone_some, Option.isSome_some, Option.getD_some, if_true]
  exact State.modHart_congr rfl

theorem State.readCsr_of_high {s : State} {h n v : Nat} (hn : (s.hart h).csr n = some v) (hh : (s.hart h).mode.high = true) :
    s.readCsr h n = .ok v := by
  simp [State.readCsr, hn, Hart.csrExc_of_high hh]

/-- Settles O53, clause by clause from what the writes of tickets, debug blocks, XIB and CSRs do. -/
theorem registerSteps : Obligations.RegisterSteps := by
  intro s m hp hm
  refine ⟨fun p ticket hpart ha => ?_,
    fun slot r hs hr =>
      ⟨fun i hi ha => ?_, fun ha => ⟨fun hd => ?_, fun hd => ?_, fun hstp => ?_⟩, fun value ha hd => ?_, fun i value hi ha => ?_⟩,
    fun value ha hh => ?_, fun h value hmh => ?_⟩
  · rw [exec_rsm ticket hp hm hpart ha]
    refine ⟨fun q c hq hk => ?_, fun k c hq => ?_, fun hq => ?_⟩
    · rw [State.resumeTicket_of_cmd hq hk]
    · rw [State.resumeTicket_of_coll hq]
    · rw [State.resumeTicket_of_none hq]
  · rw [← State.regWho_mid hm]
    exact State.permits_debugBlk hs hr hi ha
  · rw [exec_srq hs hr hp hm ha, if_pos hd]
  · rw [exec_srq hs hr hp hm ha, if_neg (by simp [hd])]
  · rw [exec_resumeStoppedRegion hs hp hm ha, State.resumeStopped_of_stp hr hstp]
  · refine ⟨_, exec_debugBlockWrite value (by decide), ?_⟩
    rw [State.debugWrite_of_permits hs hp hm ha, State.writeDebug, State.debugGuard_of_region hr, if_pos hd]
    exact ⟨by simp, rfl⟩
  · rw [exec_debugBlockWrite value hi, State.debugWrite, if_neg (by omega), State.regWrite_of_not_permits _ hp hm ha]
  · obtain ⟨who, hw⟩ := exec_write_mmio value hp hm (by decide) ha
    rw [hw, State.putReg_xlatBase _ who hh]
  · subst hmh
    refine ⟨fun hh => ⟨fun hv => ?_, fun hv => ?_, ?_, ?_, ?_, ?_, ?_⟩, fun hh => ?_⟩
    · rw [exec_write_csr, State.writeCsr_oxdl _ hh, if_neg hv, BitVec.ofNat_toNat]
    · rw [exec_write_csr, State.writeCsr_oxdl _ hh, if_pos hv]
    · rw [exec_write_csr, State.writeCsr_oxtnt _ hh, BitVec.ofNat_toNat]
    · rw [exec_write_csr, State.writeCsr_oxmid _ hh]
    · exact State.readCsr_of_high rfl hh
    · exact State.readCsr_of_high rfl hh
    · exact State.readCsr_of_high rfl hh
    · rw [exec_write_csr, State.writeCsr_of_not_high _ rfl hh]

/-! ## Memory stays canonical

One lemma per function of the model that answers with a state, in the order of the model's files. `f_mem`: the function leaves memory as it was.
`f_inv`: it keeps `Inv`. `f_keeps`: the states inside what it answers (a form's end, the check of a command or of a packet, a search, a step's
outcome) are canonical. Each proof splits the function along its own branches, by `fun_cases`, or by `fun_induction` where it recurses, and cites the
lemmas of the functions that those branches call; `!` has `grind` use such a lemma wherever its function stands. -/

/-! ### What a step's parts answer with -/

/-- The state that the end of a form goes on from is canonical. -/
def FormEnd.Keeps : FormEnd → Prop
  | .ret _ s => Inv s
  | .exc _ => True
  | .hold s => Inv s

/-- A step's next state is canonical. -/
def NextKeeps : Host.Outcome State Fault Refusal → Prop
  | .next s => Inv s
  | _ => True

theorem Inv.of_mem_eq {s s' : State} (he : s'.mem = s.mem) (hs : Inv s) : Inv s' := by
  unfold Inv; rw [he]; exact hs

theorem Inv.of_fst {α : Type} {p : State × α} {s' : State} {x : α} (he : p = (s', x)) (hp : Inv p.1) : Inv s' := by
  rw [he] at hp; exact hp

theorem foldl_inv {α : Type} {f : State → α → State} (hf : ∀ a x, Inv a → Inv (f a x)) (l : List α) {s : State} (hs : Inv s) :
    Inv (l.foldl f s) := by
  induction l generalizing s with
  | nil => exact hs
  | cons x l ih => exact ih (hf s x hs)

theorem foldl_mem {α : Type} {f : State → α → State} (hf : ∀ a x, (f a x).mem = a.mem) (l : List α) (s : State) :
    (l.foldl f s).mem = s.mem := by
  induction l generalizing s with
  | nil => rfl
  | cons x l ih => exact (ih (f s x)).trans (hf s x)

theorem foldl_fst_inv {α β : Type} {f : State × β → α → State × β} (hf : ∀ a x, Inv a.1 → Inv (f a x).1)
    (l : List α) {a : State × β} (ha : Inv a.1) :
    Inv (l.foldl f a).1 := by
  induction l generalizing a with
  | nil => exact ha
  | cons x l ih => exact ih (hf a x ha)

/-! ### Journal, counters, links, access checks, walks, and reads and writes of memory -/

@[simp] theorem State.journal_mem (s : State) (p tid j2 j3 j4 j5 j6 j7 : Nat) : (s.journal p tid j2 j3 j4 j5 j6 j7).mem = s.mem := rfl

@[simp] theorem State.count_mem (s : State) (cls evt : Nat) (p : CtrPlace) (n : Nat) : (s.count cls evt p n).mem = s.mem := by
  fun_cases State.count s cls evt p n <;> rfl

@[simp] theorem State.readEffect_mem (s : State) (a n : Nat) : (s.readEffect a n).mem = s.mem := by
  fun_cases State.readEffect s a n <;> grind [!State.modDebug_mem, foldl_mem]

@[simp] theorem State.putFlit_mem (s : State) (gs : List Nat) (f : Flit) : (s.putFlit gs f).mem = s.mem := by
  unfold State.putFlit
  grind [!State.count_mem, !State.modGroup_mem, foldl_mem]

@[simp] theorem State.sendFlit_mem (s : State) (f : Flit) (g : Nat) : (s.sendFlit f g).mem = s.mem := by
  fun_cases State.sendFlit s f g <;> simp

@[simp] theorem State.sendBytes_mem (s : State) (f : Flit) (g n : Nat) : (s.sendBytes f g n).mem = s.mem := by
  unfold State.sendBytes
  grind [!State.sendFlit_mem, foldl_mem]

@[simp] theorem State.sendTo_mem (s : State) (f : Flit) (n : Nat) : (s.sendTo f n).mem = s.mem := by
  fun_cases State.sendTo s f n <;> simp

@[simp] theorem State.recordDenial_mem (s : State) (w : Who) (a : Nat) (k : AKind) : (s.recordDenial w a k).mem = s.mem := by
  fun_cases State.recordDenial s w a k <;> rfl

@[simp] theorem State.check_mem (s : State) (w : Who) (da : Nat) (k : AKind) (n : Nat) (atomicOp : Bool) :
    (s.check w da k n atomicOp).1.mem = s.mem := by
  fun_cases State.check s w da k n atomicOp <;> grind [!State.readEffect_mem, !State.sendBytes_mem, !State.recordDenial_mem]

theorem State.memPutLines_inv {s : State} (da : Nat) (ls : List (List Byte × Bool)) (hs : Inv s) : Inv (s.memPutLines da ls) := by
  unfold State.memPutLines
  grind [Inv, !State.memPut_inv, foldl_inv]

theorem State.walkLevels_inv {s : State} (w : Who) (va : Nat) (k : AKind) (quiet : Bool) (ls : List Nat) (m : Nat) (hs : Inv s) :
    Inv (s.walkLevels w va k quiet ls m).1 := by
  fun_induction State.walkLevels s w va k quiet ls m <;> grind [Inv, !State.check_mem, !State.memPut_inv]

theorem State.askPull_mem (s : State) (asid va : Nat) {s' : State} : s.askPull asid va = some s' → s'.mem = s.mem := by
  unfold State.askPull
  rw [Option.map_eq_some_iff]
  rintro ⟨⟨k, i⟩, -, rfl⟩
  grind [!State.sendTo_mem]

@[simp] theorem State.noteAsk_mem (s : State) (asid va : Nat) : (s.noteAsk asid va).mem = s.mem := by
  fun_cases State.noteAsk s asid va <;> rfl

theorem State.walkOnce_inv {s : State} (strip part : Option Nat) (asid va : Nat) (k : AKind) (quiet : Bool) (hs : Inv s) :
    Inv (s.walkOnce strip part asid va k quiet).1 := by
  fun_cases State.walkOnce s strip part asid va k quiet <;> grind [!State.walkLevels_inv]

theorem State.walk_inv {s : State} (strip part : Option Nat) (asid va : Nat) (k : AKind) (quiet : Bool) (hs : Inv s) :
    Inv (s.walk strip part asid va k quiet).1 := by
  fun_cases State.walk s strip part asid va k quiet <;> grind [Inv, !State.noteAsk_mem, !State.walkOnce_inv]

theorem State.translate_inv {s : State} (die strip part : Option Nat) (asid va : Nat) (k : AKind) (hs : Inv s) :
    Inv (s.translate die strip part asid va k).1 := by
  fun_cases State.translate s die strip part asid va k <;> grind [Inv, !State.walk_inv]

@[simp] theorem State.physRead_mem (s : State) (w : Who) (k : AKind) (l : List (Nat × Nat)) : (s.physRead w k l).1.mem = s.mem := by
  fun_induction State.physRead s w k l <;> grind [!State.check_mem]

theorem State.vaRead_inv {s : State} (strip part : Option Nat) (asid : Nat) (k : AKind) (l : List (Nat × Nat)) (hs : Inv s) :
    Inv (s.vaRead strip part asid k l).1 := by
  fun_induction State.vaRead s strip part asid k l <;> grind [Inv, !State.check_mem, !State.walk_inv]

theorem State.vaWrite_inv {s : State} (strip part : Option Nat) (asid : Nat) (k : AKind) (l : List (Nat × Nat)) (bs : List Byte) (hs : Inv s) :
    Inv (s.vaWrite strip part asid k l bs).1 := by
  fun_induction State.vaWrite s strip part asid k l bs <;> grind [Inv, !State.check_mem, !State.memPut_inv, !State.walk_inv]

theorem State.physWrite_inv {s : State} (w : Who) (k : AKind) (l : List (Nat × Nat)) (bs : List Byte) (hs : Inv s) :
    Inv (s.physWrite w k l bs).1 := by
  fun_induction State.physWrite s w k l bs <;> grind [Inv, !State.check_mem, !State.memPut_inv]

theorem State.areaRead_inv {s : State} (part : Nat) (sp : SpaceAddr) (off n : Nat) (k : AKind) (hs : Inv s) : Inv (s.areaRead part sp off n k).1 := by
  fun_cases State.areaRead s part sp off n k <;> grind [Inv, !State.physRead_mem, !State.vaRead_inv]

theorem State.areaWrite_inv {s : State} (part : Nat) (sp : SpaceAddr) (off : Nat) (bs : List Byte) (hs : Inv s) :
    Inv (s.areaWrite part sp off bs).1 := by
  fun_cases State.areaWrite s part sp off bs <;> grind [!State.vaWrite_inv, !State.physWrite_inv]

/-! ### Control cores: their accesses to memory and the course of a form -/

theorem FormEnd.finish_inv {f : FormEnd} (s : State) (rd : BitVec 5) (hs : Inv s) (hf : f.Keeps) : Inv (f.finish s rd) := by
  cases f with
  | ret v s' => exact hf
  | exc e => exact hs
  | hold s' => exact hf

theorem refuse_keeps {s : State} (c : Refuse) (low : Nat) (hs : Inv s) : (refuse s c low).Keeps := hs

theorem State.holdForm_keeps {s : State} (hs : Inv s) : s.holdForm.Keeps := hs

@[simp] theorem State.hartPiece_mem (s : State) (h : Nat) (a : HartAcc) (phys : Bool) (va n : Nat) : (s.hartPiece h a phys va n).1.mem = s.mem := by
  fun_cases State.hartPiece s h a phys va n <;> grind [!State.readEffect_mem, !State.recordDenial_mem]

@[simp] theorem State.hartRead_mem (s : State) (h : Nat) (a : HartAcc) (phys : Bool) (l : List (Nat × Nat)) :
    (s.hartRead h a phys l).1.mem = s.mem := by
  fun_induction State.hartRead s h a phys l <;> grind [!State.hartPiece_mem]

theorem State.hartStore_inv {s : State} (h : Nat) (phys : Bool) (l : List (Nat × Nat)) (bs : List Byte) (hs : Inv s) :
    Inv (s.hartStore h phys l bs).1 := by
  fun_induction State.hartStore s h phys l bs <;> grind [Inv, !State.memPut_inv, !State.hartPiece_mem]

@[simp] theorem State.formLoad_mem (s : State) (phys : Bool) (va n : Nat) : (s.formLoad phys va n).1.mem = s.mem := by simp [State.formLoad]

theorem form_inv {s : State} {hsOnly : Bool} {word : Nat} {rd : BitVec 5} {body : State → FormEnd} (hs : Inv s) (hb : (body s).Keeps) :
    Inv (form s hsOnly word rd body) := by
  fun_cases form s hsOnly word rd body
  · exact hs
  · exact FormEnd.finish_inv s rd hs hb

theorem excIn_keeps {s : State} (e : Exc) (hs : Inv s) : (excIn s e).Keeps := hs

theorem withBlock_keeps {s : State} {phys : Bool} {va n : Nat} {k : State → List W64 → FormEnd} (hs : Inv s)
    (hk : ∀ s1 ws, Inv s1 → (k s1 ws).Keeps) : (withBlock s phys va n k).Keeps := by
  have h1 : Inv (s.formLoad phys va n).1 := Inv.of_mem_eq (State.formLoad_mem s phys va n) hs
  fun_cases withBlock s phys va n k with
  | case1 s1 bs he => exact hk _ _ (Inv.of_fst he h1)
  | case2 s1 e he => exact excIn_keeps e (Inv.of_fst he h1)

theorem withRegion_keeps {s : State} {h : Nat} {k : Nat → Region → FormEnd} (hs : Inv s) (hk : ∀ slot r, (k slot r).Keeps) :
    (withRegion s h k).Keeps := by
  fun_cases withRegion s h k
  · exact hk _ _
  · exact refuse_keeps _ _ hs

@[simp] theorem State.countAt_mem (s : State) (slot x y elt cls evt n : Nat) : (s.countAt slot x y elt cls evt n).mem = s.mem := by
  fun_cases State.countAt s slot x y elt cls evt n <;> simp

/-! ### Rings of the front end, trace records, fault records -/

theorem State.vcpRead_inv {s : State} (w : VView) (va n : Nat) (k : AKind) (hs : Inv s) : Inv (s.vcpRead w va n k).1 := by
  fun_cases State.vcpRead s w va n k <;> grind [!State.vaRead_inv]

theorem State.vcpWrite_inv {s : State} (w : VView) (va : Nat) (bs : List Byte) (hs : Inv s) : Inv (s.vcpWrite w va bs).1 := by
  fun_cases State.vcpWrite s w va bs <;> grind [!State.vaWrite_inv]

theorem State.putDev_inv {s : State} (v q : Nat) (w : VView) (hs : Inv s) : Inv (s.putDev v q w).1 := State.vcpWrite_inv _ _ _ hs

@[simp] theorem State.unfetch_mem (s : State) (v q : Nat) : (s.unfetch v q).mem = s.mem := rfl

theorem State.stopQueue_inv {s : State} (v q cause : Nat) (hs : Inv s) : Inv (s.stopQueue v q cause) := by
  fun_cases State.stopQueue s v q cause <;> grind [Inv, !State.modQueue_mem, !State.putDev_inv, !State.unfetch_mem]

theorem State.writeDev_inv {s : State} (v q : Nat) (w : VView) (hs : Inv s) : Inv (s.writeDev v q w) := by
  fun_cases State.writeDev s v q w <;> grind [!State.putDev_inv, !State.stopQueue_inv]

theorem State.guestWord_inv {s : State} (v q : Nat) (w : VView) (hs : Inv s) : Inv (s.guestWord v q w).1 := by
  fun_cases State.guestWord s v q w <;> grind [!State.vcpRead_inv, !State.stopQueue_inv]

@[simp] theorem State.raiseVector_mem (s : State) (v k : Nat) : (s.raiseVector v k).mem = s.mem := by
  fun_cases State.raiseVector s v k <;> rfl

theorem State.vcpFault_inv {s : State} (v q : Nat) (w : VView) (part : Nat) (rec : List W64) (hs : Inv s) : Inv (s.vcpFault v q w part rec) := by
  fun_cases State.vcpFault s v q w part rec <;>
    grind [Inv, !State.journal_mem, !State.modQueue_mem, !State.vcpWrite_inv, !State.stopQueue_inv, !State.writeDev_inv, !State.guestWord_inv,
      !State.raiseVector_mem]

theorem State.blockFault_inv {s0 : State} (addr part : Nat) (rec : List W64) (hs : Inv s0) : Inv (s0.blockFault addr part rec) := by
  fun_cases State.blockFault s0 addr part rec <;> grind [Inv, !State.journal_mem, !State.physRead_mem, !State.physWrite_inv]

theorem State.guestFault_inv {s : State} (to_ : RingTo) (part : Nat) (rec : List W64) (hs : Inv s) : Inv (s.guestFault to_ part rec) := by
  fun_cases State.guestFault s to_ part rec <;> grind [!State.vcpFault_inv, !State.blockFault_inv]

theorem State.ilhusFault_inv {s : State} (p : Nat) (rec : List W64) (hs : Inv s) : Inv (s.ilhusFault p rec) := by
  fun_cases State.ilhusFault s p rec <;> grind [Inv, !State.physWrite_inv]

@[simp] theorem State.traceRec_mem (s : State) (slot : Nat) (r : TrcRec) : (s.traceRec slot r).mem = s.mem := by
  fun_cases State.traceRec s slot r <;> rfl

@[simp] theorem State.toState_mem (s : State) (slot : Nat) (st : RState) : (s.toState slot st).mem = s.mem := by
  unfold State.toState; grind [!State.modRegion_mem, !State.traceRec_mem]

theorem State.deliver_inv {s : State} (slot : Nat) (f : FaultRec) (hs : Inv s) : Inv (s.deliver slot f) := by
  fun_cases State.deliver s slot f <;> grind [Inv, !State.journal_mem, !State.guestFault_inv, !State.ilhusFault_inv, !State.traceRec_mem]

theorem State.deliverFor_inv {s : State} (hdl : Nat) (to_ : RingTo) (part tid asid : Nat) (f : FaultRec) (hs : Inv s) :
    Inv (s.deliverFor hdl to_ part tid asid f) := by
  unfold State.deliverFor
  grind [Inv, !State.journal_mem, !State.guestFault_inv, !State.ilhusFault_inv]

theorem State.deliverTo_inv {s : State} (to_ : RingTo) (part tid asid : Nat) (f : FaultRec) (hs : Inv s) :
    Inv (s.deliverTo to_ part tid asid f) :=
  State.deliverFor_inv _ _ _ _ _ _ hs

theorem State.raiseFault_inv {s : State} (slot : Nat) (f0 : FaultRec) (hs : Inv s) : Inv (s.raiseFault slot f0) := by
  fun_cases State.raiseFault s slot f0 <;> grind [Inv, !State.setRegion_mem, !State.toState_mem, !State.deliver_inv]

theorem State.raiseAt_inv {s : State} (slot : Nat) (u : UnitId) (f : FaultRec) (hs : Inv s) : Inv (s.raiseAt slot u f) := by
  unfold State.raiseAt
  grind [Inv, !State.modRegion_mem, !State.raiseFault_inv]

theorem State.reportFault_inv {s : State} (slot : Nat) (f0 : FaultRec) (hs : Inv s) : Inv (s.reportFault slot f0) := by
  fun_cases State.reportFault s slot f0 <;> grind [!State.deliver_inv]

@[simp] theorem State.gritFail_mem (s : State) (e : EltAt) (f : FaultRec) : (s.gritFail e f).mem = s.mem := by
  fun_cases State.gritFail s e f <;> rfl

theorem State.reportPsw_inv {s : State} (slot : Nat) (hs : Inv s) : Inv (s.reportPsw slot) := by
  fun_cases State.reportPsw s slot <;> grind [!State.reportFault_inv, foldl_inv]

/-! ### Selection and order chains -/

theorem execSelection_keeps {s : State} (e : EltAt) (hs : Inv s) : NextKeeps (execSelection e s) := by
  unfold execSelection
  grind [Inv, !State.modRegion_mem, NextKeeps]

theorem State.atomicAt_inv {s : State} (da : Nat) (o : AtomOp) (t : AtomTy) (b c : Nat) (psn : Bool) (hs : Inv s) :
    Inv (s.atomicAt da o t b c psn).1 := by
  unfold State.atomicAt
  grind [Inv, !State.memPut_inv]

theorem execRequestSend_keeps {s : State} (t : TileAt) (chain : Nat) (hs : Inv s) : NextKeeps (execRequestSend t chain s) := by
  unfold execRequestSend
  grind [Inv, !State.modRegion_mem, NextKeeps]

theorem State.chainFault_inv {s : State} (t : TileAt) (chain : Nat) (q : Req) (f : AccFault) (hs : Inv s) : Inv (s.chainFault t chain q f) := by
  unfold State.chainFault
  grind [Inv, !State.modRegion_mem, !State.raiseAt_inv]

@[simp] theorem State.countReq_mem (s : State) (t : TileAt) (o : ReqOp) : (s.countReq t o).mem = s.mem := by
  fun_cases State.countReq s t o <;> simp

@[simp] theorem State.donePerform_mem (s : State) (t : TileAt) (chain : Nat) (q : Req) (remote : Bool) (w : Word) (psn : Bool) :
    (s.donePerform t chain q remote w psn).mem = s.mem := by
  simp [State.donePerform]

theorem State.performElement_inv {s : State} (t : TileAt) (chain : Nat) (r : Region) (q : Req) (da mid : Nat) (hs : Inv s) :
    Inv (s.performElement t chain r q da mid) := by
  fun_cases State.performElement s t chain r q da mid <;>
    grind [Inv, !State.modRegion_mem, !State.check_mem, !State.memPut_inv, !State.chainFault_inv, !State.donePerform_mem]

theorem execRequestPerform_keeps {s : State} (t : TileAt) (chain : Nat) (hs : Inv s) : NextKeeps (execRequestPerform t chain s) := by
  unfold execRequestPerform
  simp only [NextKeeps]
  repeat' split
  all_goals grind [Inv, !State.modRegion_mem, !State.check_mem, !State.memPut_inv, !State.memPutMasked_inv, !State.memPutLines_inv,
      !State.chainFault_inv, !State.donePerform_mem, !State.performElement_inv]

theorem execAtomicApply_keeps {s : State} (t : TileAt) (chain : Nat) (hs : Inv s) : NextKeeps (execAtomicApply t chain s) := by
  unfold execAtomicApply
  simp only [NextKeeps]
  repeat' split
  all_goals grind [Inv, !State.check_mem, !State.atomicAt_inv, !State.chainFault_inv, !State.donePerform_mem]

theorem execRemoteAck_keeps {s : State} (t : TileAt) (chain seq : Nat) (hs : Inv s) : NextKeeps (execRemoteAck t chain seq s) := by
  unfold execRemoteAck
  grind [Inv, !State.modRegion_mem, NextKeeps]

theorem execReplyDelivery_keeps {s : State} (t : TileAt) (chain : Nat) (hs : Inv s) : NextKeeps (execReplyDelivery t chain s) := by
  unfold execReplyDelivery
  grind [Inv, !State.modRegion_mem, NextKeeps]

/-! ### BEAT -/

@[simp] theorem State.requestStop_mem (s : State) (slot cause node loc : Nat) :
    (s.requestStop slot cause node loc).mem = s.mem := by
  simp [State.requestStop]

@[simp] theorem State.stopAtBeat_mem (s : State) (slot : Nat) (u : UnitId) (cause node loc : Nat) :
    (s.stopAtBeat slot u cause node loc).mem = s.mem := by
  simp [State.stopAtBeat]

@[simp] theorem State.traceFire_mem (s : State) (slot fires : Nat) (rec : TrcRec) : (s.traceFire slot fires rec).mem = s.mem := by
  fun_cases State.traceFire s slot fires rec <;> rfl

@[simp] theorem State.afterBeat_mem (s : State) (slot x y : Nat) (elt : Elt) (run : Run) (pops fires : Nat) (effs : List (Nat × Eff)) :
    (s.afterBeat slot x y elt run pops fires effs).mem = s.mem := by
  fun_cases State.afterBeat s slot x y elt run pops fires effs <;> grind [!State.traceRec_mem, !State.stopAtBeat_mem, !State.traceFire_mem, foldl_mem]

theorem State.abandonBeat_inv {s : State} (e : EltAt) (run : Run) (f : FaultRec) (hs : Inv s) : Inv (s.abandonBeat e run f) := by
  unfold State.abandonBeat
  grind [Inv, !State.modRegion_mem, !State.raiseAt_inv]

theorem State.commitBeat_inv {s : State} (e : EltAt) (r : Region) (el : Element) (run : Run) (effs : List (Nat × Eff))
    (sends : List (Nat × PortItem)) (ports : List (Nat × PortScan)) (rng : W32) (flags : Nat) (mx : List MxCtx) (hs : Inv s) :
    Inv (s.commitBeat e r el run effs sends ports rng flags mx) := by
  fun_cases State.commitBeat s e r el run effs sends ports rng flags mx <;>
    grind [Inv, !State.setRegion_mem, !State.raiseFault_inv, !State.afterBeat_mem]

theorem State.runBeat_inv {s : State} (e : EltAt) (g : Grit) (r : Region) (el : Element) (run : Run) (hs : Inv s) : Inv (s.runBeat e g r el run) := by
  fun_cases State.runBeat s e g r el run <;>
    grind [Inv, !State.setRegion_mem, !State.countAt_mem, !State.gritFail_mem, !State.abandonBeat_inv, !State.commitBeat_inv]

theorem execBeat_keeps {s : State} (e : EltAt) (g : Grit) (hs : Inv s) : NextKeeps (execBeat e g s) := by
  unfold execBeat
  grind [!State.runBeat_inv, NextKeeps]

/-! ### Admitted register writes, boot, resets and the loss of power -/

theorem State.regWrite_mem {s : State} {m : Master} {addr : Nat} {f : State → State} (hf : (f s).mem = s.mem) :
    (s.regWrite m addr f).mem = s.mem := by
  fun_cases State.regWrite s m addr f
  · rfl
  · exact hf
  · exact State.recordDenial_mem s _ _ _

theorem State.regWrite_inv {s : State} {m : Master} {addr : Nat} {f : State → State} (hs : Inv s) (hf : Inv (f s)) : Inv (s.regWrite m addr f) := by
  fun_cases State.regWrite s m addr f <;> grind [Inv, !State.recordDenial_mem]

theorem State.blank_inv {s : State} (hs : Inv s) : Inv s.blank := outerMem_wf hs

theorem State.warmBase_inv {s : State} (hs : Inv s) : Inv s.warmBase := by
  unfold State.warmBase
  grind [Inv, !State.blank_inv]

@[simp] theorem State.bootStop_mem (s : State) (stage err : Nat) : (s.bootStop stage err).mem = s.mem := rfl

@[simp] theorem State.bootFields_mem (s : State) (m : Manifest) : (s.bootFields m).mem = s.mem := rfl

@[simp] theorem State.boot_mem (s : State) : s.boot.mem = s.mem := by
  fun_cases State.boot s <;> rfl

theorem State.warm_inv {s : State} (hs : Inv s) : Inv s.warm := by
  unfold State.warm
  grind [Inv, !State.warmBase_inv, !State.boot_mem]

theorem execWarmReset_keeps {s : State} (m : Master) (hs : Inv s) : NextKeeps (execWarmReset m s) := by
  unfold execWarmReset
  grind [!State.regWrite_inv, !State.warm_inv, NextKeeps]

theorem execColdReset_keeps {s : State} (hs : Inv s) : NextKeeps (execColdReset s) := by
  unfold execColdReset
  grind [Inv, !State.blank_inv, !State.boot_mem, NextKeeps]

theorem execLossOfPower_keeps {s : State} (hs : Inv s) : NextKeeps (execLossOfPower s) := by
  unfold execLossOfPower
  grind [Inv, !State.blank_inv, NextKeeps]

theorem State.tripped_inv {s : State} (tj : Nat) (hs : Inv s) : Inv (s.tripped tj) := by
  unfold State.tripped
  grind [Inv, !State.blank_inv]

theorem execThermalTrip_keeps {s : State} (tj : Nat) (hs : Inv s) : NextKeeps (execThermalTrip tj s) := by
  unfold execThermalTrip
  grind [!State.tripped_inv, NextKeeps]

theorem execThrottleEvaluation_keeps {s : State} (pnow tj tcool : Nat) (hs : Inv s) : NextKeeps (execThrottleEvaluation pnow tj tcool s) := by
  unfold execThrottleEvaluation
  grind [Inv, !State.tripped_inv, NextKeeps]

/-! ### The end of a region, freezes and stops -/

@[simp] theorem State.due_mem (s : State) (p : PktRef) (st fc res sts obj : Nat) (quiet : Bool) : (s.due p st fc res sts obj quiet).mem = s.mem := rfl

@[simp] theorem State.finish_mem (s : State) (p : PktRef) (st fc res sts obj : Nat) : (s.finish p st fc res sts obj).mem = s.mem := rfl

@[simp] theorem State.clearOwned_mem (s : State) (slot : Nat) : (s.clearOwned slot).mem = s.mem := by
  fun_cases State.clearOwned s slot <;> simp

@[simp] theorem State.releaseSettle_mem (s : State) (slot v : Nat) : (s.releaseSettle slot v).mem = s.mem := rfl

@[simp] theorem State.endMigration_mem (s : State) (k : Nat) (m : Migration) (fail : Nat) : (s.endMigration k m fail).mem = s.mem := by
  fun_cases State.endMigration s k m fail <;> grind [!State.modRegion_mem, !State.finish_mem]

@[simp] theorem State.stopMigrations_mem (s : State) (slot asid : Nat) : (s.stopMigrations slot asid).mem = s.mem := by
  unfold State.stopMigrations
  grind [!State.endMigration_mem, foldl_mem]

theorem State.endOne_inv {s : State} (slot st code : Nat) (hs : Inv s) : Inv (s.endOne slot st code) := by
  fun_cases State.endOne s slot st code <;>
    grind [Inv, !State.modRegion_mem, !State.toState_mem, !State.reportPsw_inv, !State.finish_mem, !State.clearOwned_mem, !State.releaseSettle_mem,
      !State.stopMigrations_mem]

theorem State.endRegion_inv {s : State} (slot st code : Nat) (hs : Inv s) : Inv (s.endRegion slot st code) := by
  fun_cases State.endRegion s slot st code <;> grind [Inv, !State.modRegion_mem, !State.endOne_inv]

theorem State.faultKill_inv {s : State} (slot code : Nat) (hs : Inv s) : Inv (s.faultKill slot code) := State.endRegion_inv _ _ _ hs

theorem execFreezeReceipt_keeps {s : State} (slot : Nat) (u : UnitId) (hs : Inv s) : NextKeeps (execFreezeReceipt slot u s) := by
  unfold execFreezeReceipt
  grind [Inv, !State.modRegion_mem, NextKeeps]

theorem State.deliverFault_inv {s : State} (slot : Nat) (f : FaultRec) (hs : Inv s) : Inv (s.deliverFault slot f) := by
  unfold State.deliverFault
  grind [Inv, !State.modRegion_mem, !State.deliver_inv]

@[simp] theorem State.traceStop_mem (s : State) (slot : Nat) (at_ : Nat × Nat × Nat × Nat) :
    (s.traceStop slot at_).mem = s.mem := by
  simp [State.traceStop]

theorem State.settleRollback_inv {s : State} (slot : Nat) (r : Region) (hs : Inv s) : Inv (s.settleRollback slot r) := by
  fun_cases State.settleRollback s slot r <;> grind [!State.faultKill_inv, !State.deliverFault_inv]

theorem State.settle_inv {s : State} (slot : Nat) (r : Region) (z : Freeze) (hs : Inv s) : Inv (s.settle slot r z) := by
  fun_cases State.settle s slot r z <;> grind [Inv, !State.setRegion_mem, !State.modRegion_mem, !State.modDebug_mem, !State.toState_mem,
      !State.releaseSettle_mem, !State.endRegion_inv, !State.deliverFault_inv, !State.traceStop_mem, !State.settleRollback_inv]

theorem execFrontSettle_keeps {s : State} (slot : Nat) (hs : Inv s) : NextKeeps (execFrontSettle slot s) := by
  unfold execFrontSettle
  grind [!State.settle_inv, NextKeeps]

theorem execWatchdogExpiry_keeps {s : State} (slot : Nat) (hs : Inv s) : NextKeeps (execWatchdogExpiry slot s) := by
  unfold execWatchdogExpiry
  grind [!State.raiseFault_inv, NextKeeps]

theorem execNoProgressReport_keeps {s : State} (slot : Nat) (hs : Inv s) : NextKeeps (execNoProgressReport slot s) := by
  unfold execNoProgressReport
  grind [Inv, !State.modRegion_mem, !State.reportFault_inv, NextKeeps]

/-! ### Circuits, arrivals, credits and counter-chain units -/

theorem State.lateAt_inv {s : State} (slot : Nat) (l : LateTok) (hs : Inv s) : Inv (s.lateAt slot l) := by
  unfold State.lateAt
  grind [Inv, !State.modRegion_mem, !State.reportFault_inv]

@[simp] theorem State.keepScale_mem (s : State) (slot : Nat) (k : Nat × Nat × Nat × Nat) (z : BitVec 9) :
    (s.keepScale slot k z).mem = s.mem := by
  simp [State.keepScale]

@[simp] theorem State.captureScale_mem (s : State) (slot : Nat) (i : InAt) (z : BitVec 9) : (s.captureScale slot i z).mem = s.mem := by
  fun_cases State.captureScale s slot i z <;> simp

theorem State.captureLate_inv {s : State} (slot : Nat) (i : InAt) (t : Token) (hs : Inv s) : Inv (s.captureLate slot i t) := by
  fun_cases State.captureLate s slot i t <;> grind [!State.lateAt_inv]

theorem execTokenHop_keeps {s : State} (slot col row dir : Nat) (hs : Inv s) : NextKeeps (execTokenHop slot col row dir s) := by
  unfold execTokenHop
  simp only [NextKeeps]
  repeat' split
  all_goals grind [Inv, !State.setRegion_mem, !State.captureScale_mem, !State.captureLate_inv]

theorem State.tokenAt_inv {s : State} (slot x y : Nat) (e : Elt) (ch : Nat) (t : Token) (hs : Inv s) : Inv (s.tokenAt slot x y e ch t) := by
  fun_cases State.tokenAt s slot x y e ch t <;> grind [Inv, !State.modRegion_mem, !State.raiseFault_inv]

theorem State.armAt_inv {s : State} (slot x y : Nat) (t : Token) (hs : Inv s) : Inv (s.armAt slot x y t) := by
  fun_cases State.armAt s slot x y t <;> grind [Inv, !State.modRegion_mem, !State.raiseFault_inv]

theorem State.scaleAt_inv {s : State} (slot x y : Nat) (e : Elt) (ch : Nat) (x9 : BitVec 9) (hs : Inv s) : Inv (s.scaleAt slot x y e ch x9) := by
  fun_cases State.scaleAt s slot x y e ch x9 <;> grind [Inv, !State.modRegion_mem, !State.raiseFault_inv]

@[simp] theorem State.spanLeave_mem (s : State) (slot : Nat) (r : Region) (i : InAt) : (s.spanLeave slot r i).mem = s.mem := by
  fun_cases State.spanLeave s slot r i <;> simp

theorem State.spanArrive_inv {s : State} (slot n : Nat) (it : Item) (hs : Inv s) : Inv (s.spanArrive slot n it) := by
  fun_cases State.spanArrive s slot n it <;> grind [Inv, !State.lateAt_inv, !State.keepScale_mem, !State.tokenAt_inv, !State.scaleAt_inv]

@[simp] theorem State.transferFailed_mem (s : State) (e : EltAt) : (s.transferFailed e).mem = s.mem := by
  fun_cases State.transferFailed s e <;> simp

theorem execTokenArrival_keeps {s : State} (a : ArriveFrom) (hs : Inv s) : NextKeeps (execTokenArrival a s) := by
  unfold execTokenArrival
  simp only [NextKeeps]
  repeat' split
  all_goals grind [Inv, !State.setRegion_mem, !State.tokenAt_inv, !State.armAt_inv, !State.scaleAt_inv, !State.spanLeave_mem, !State.spanArrive_inv,
      !State.transferFailed_mem]

theorem execScaleTransferArrival_keeps {s : State} (a : ArriveFrom) (hs : Inv s) : NextKeeps (execScaleTransferArrival a s) := by
  unfold execScaleTransferArrival
  simp only [NextKeeps]
  repeat' split
  all_goals grind [Inv, !State.setRegion_mem, !State.scaleAt_inv, !State.spanLeave_mem, !State.spanArrive_inv, !State.transferFailed_mem]

@[simp] theorem State.creditReturn_mem (s : State) (slot : Nat) (dst : DestId) (window : Bool) :
    (s.creditReturn slot dst window).mem = s.mem := by
  simp [State.creditReturn]

theorem execCreditReturn_keeps {s : State} (slot : Nat) (dst : DestId) (hs : Inv s) : NextKeeps (execCreditReturn slot dst s) := by
  unfold execCreditReturn
  grind [Inv, !State.creditReturn_mem, NextKeeps]

theorem execWindowCreditReturn_keeps {s : State} (slot : Nat) (dst : DestId) (hs : Inv s) : NextKeeps (execWindowCreditReturn slot dst s) := by
  unfold execWindowCreditReturn
  grind [Inv, !State.creditReturn_mem, NextKeeps]

theorem execLaneDriverInput_keeps {s : State} (i : InAt) (hs : Inv s) : NextKeeps (execLaneDriverInput i s) := by
  unfold execLaneDriverInput
  grind [Inv, !State.modRegion_mem, NextKeeps]

theorem execLaneTransferArrival_keeps {s : State} (slot : Nat) (l : LaneId) (x y : Nat) (hs : Inv s) :
    NextKeeps (execLaneTransferArrival slot l x y s) := by
  unfold execLaneTransferArrival
  grind [Inv, !State.modRegion_mem, NextKeeps]

theorem execCcuEmit_keeps {s : State} (t : TileAt) (hs : Inv s) : NextKeeps (execCcuEmit t s) := by
  unfold execCcuEmit
  grind [Inv, !State.modRegion_mem, NextKeeps]

theorem execCcuArm_keeps {s : State} (t : TileAt) (hs : Inv s) : NextKeeps (execCcuArm t s) := by
  unfold execCcuArm
  grind [Inv, !State.setRegion_mem, !State.modRegion_mem, !State.raiseFault_inv, NextKeeps]

/-! ### Placement and configuration -/

theorem State.windowUnits_inv {s : State} (part asid m m2 : Nat) (hs : Inv s) : Inv (s.windowUnits part asid m m2).1 := by
  fun_induction State.windowUnits s part asid m m2 <;> grind [Inv, !State.walk_inv]

theorem State.ownedRuns_inv {s : State} (part asid : Nat) (l : List (W64 × W64)) (hs : Inv s) : Inv (s.ownedRuns part asid l).1 := by
  fun_induction State.ownedRuns s part asid l <;> grind [Inv, !State.windowUnits_inv]

theorem State.writeOwned_mem (s : State) (slot : Nat) (l : List (Nat × Nat × Nat)) {s' : State} :
    s.writeOwned slot l = some s' → s'.mem = s.mem := by
  fun_induction State.writeOwned s slot l <;> grind [!State.modRegion_mem]

theorem State.searchIn_mem (s : State) (w : Tenancy) (slot part : Nat) (i : Image) (runs : List (Nat × Nat × Nat)) (l : List (Nat × Nat))
    {p : State × Place} :
    s.searchIn w slot part i runs l = some p → p.1.mem = s.mem := by
  fun_induction State.searchIn s w slot part i runs l <;> grind [→ State.writeOwned_mem]

/-- The state that a placement search answers with is canonical. -/
def Found.Keeps : Found → Prop
  | .placed s _ => Inv s
  | .reject s _ => Inv s
  | .none_ s => Inv s
  | .fault s _ _ => Inv s

theorem State.search_keeps {s : State} (w : Tenancy) (slot : Nat) (r : Region) (i : Image) (plc : Nat) (hs : Inv s) :
    (s.search w slot r i plc).Keeps := by
  fun_cases State.search s w slot r i plc <;> grind [Found.Keeps, Inv, !State.ownedRuns_inv, → State.searchIn_mem]

/-! ### AGU streams and walks -/

theorem State.streamFault_inv {s : State} (t : TileAt) (i units tok code det info : Nat) (hs : Inv s) :
    Inv (s.streamFault t i units tok code det info) :=
  State.raiseAt_inv _ _ _ hs

@[simp] theorem State.modRun_mem (s : State) (t : TileAt) (i : Nat) (f : SRun → SRun) : (s.modRun t i f).mem = s.mem := by simp [State.modRun]

theorem State.startStream_inv {s : State} (t : TileAt) (i : Nat) (q : List W64) (fromCmd : Bool) (units : Nat) (hs : Inv s) :
    Inv (s.startStream t i q fromCmd units).1 := by
  fun_cases State.startStream s t i q fromCmd units <;> grind [Inv, !State.setRegion_mem, !State.streamFault_inv]

theorem execStreamDescriptorStart_keeps {s : State} (t : TileAt) (i : Nat) (hs : Inv s) : NextKeeps (execStreamDescriptorStart t i s) := by
  unfold execStreamDescriptorStart
  grind [Inv, !State.setRegion_mem, !State.startStream_inv, NextKeeps]

theorem State.streamAcc_inv {s : State} (t : TileAt) (i : Nat) (scale : Bool) (va n size : Nat) (k : AKind) (hs : Inv s) :
    Inv (s.streamAcc t i scale va n size k).1 := by
  fun_cases State.streamAcc s t i scale va n size k <;> grind [Inv, !State.check_mem, !State.streamFault_inv, !State.modRun_mem]

theorem State.streamRead_inv {s : State} (t : TileAt) (i va n size m : Nat) (hs : Inv s) : Inv (s.streamRead t i va n size m) := by
  fun_induction State.streamRead s t i va n size m <;> grind [Inv, !State.countAt_mem, !State.modRun_mem, !State.streamAcc_inv]

@[simp] theorem State.traceStream_mem (s : State) (t : TileAt) (i units : Nat) : (s.traceStream t i units).mem = s.mem := by
  fun_cases State.traceStream s t i units <;> simp

@[simp] theorem State.endStream_mem (s : State) (t : TileAt) (i : Nat) (g : SRun) : (s.endStream t i g).mem = s.mem := by simp [State.endStream]

@[simp] theorem State.checkEnd_mem (s : State) (t : TileAt) (i : Nat) : (s.checkEnd t i).mem = s.mem := by
  fun_cases State.checkEnd s t i <;> simp

theorem execStreamCompletionToken_keeps {s : State} (t : TileAt) (i : Nat) (hs : Inv s) : NextKeeps (execStreamCompletionToken t i s) := by
  unfold execStreamCompletionToken
  grind [Inv, !State.modRegion_mem, !State.endStream_mem, NextKeeps]

theorem State.loadUnit_inv {s : State} (t : TileAt) (i : Nat) (hs : Inv s) : Inv (s.loadUnit t i) := by
  fun_cases State.loadUnit s t i <;> grind [Inv, !State.modRegion_mem, !State.countAt_mem, !State.modRun_mem, !State.streamAcc_inv,
      !State.streamRead_inv, !State.checkEnd_mem]

theorem State.streamWrite_inv {s : State} (t : TileAt) (i : Nat) (scale : Bool) (va size : Nat) (bs : List Byte) (psn : Bool) (hs : Inv s) :
    Inv (s.streamWrite t i scale va size bs psn).1 := by
  fun_cases State.streamWrite s t i scale va size bs psn <;>
    grind [Inv, !State.modRegion_mem, !State.memPut_inv, !State.countAt_mem, !State.streamAcc_inv]

theorem State.releaseHeld_inv {s : State} (t : TileAt) (i : Nat) (g : SRun) (hs : Inv s) : Inv (s.releaseHeld t i g) := by
  fun_cases State.releaseHeld s t i g <;> grind [Inv, !State.modRun_mem, !State.checkEnd_mem, !State.streamWrite_inv]

theorem State.storeUnit_inv {s : State} (t : TileAt) (i : Nat) (g : SRun) (e : Element) (hs : Inv s) : Inv (s.storeUnit t i g e) := by
  fun_cases State.storeUnit s t i g e <;>
    grind [Inv, !State.modRegion_mem, !State.streamFault_inv, !State.modRun_mem, !State.checkEnd_mem, !State.streamWrite_inv]

theorem State.storeReady_inv {s : State} (t : TileAt) (i : Nat) (g : SRun) (hs : Inv s) : Inv (s.storeReady t i g).1 := by
  fun_cases State.storeReady s t i g <;> grind [!State.streamAcc_inv]

theorem State.nextStore_inv {s : State} (t : TileAt) (i : Nat) (hs : Inv s) : Inv (s.nextStore t i) := by
  fun_cases State.nextStore s t i <;> grind [Inv, !State.modRegion_mem, !State.streamFault_inv, !State.releaseHeld_inv, !State.storeUnit_inv,
      !State.storeReady_inv]

theorem execMeBankSwap_keeps {s : State} (t : TileAt) (hs : Inv s) : NextKeeps (execMeBankSwap t s) := by
  unfold execMeBankSwap
  grind [Inv, !State.modRegion_mem, NextKeeps]

theorem State.walkStream_inv {s : State} (t : TileAt) (i : Nat) (scale : Bool) (hs : Inv s) : Inv (s.walkStream t i scale) := by
  fun_cases State.walkStream s t i scale <;>
    grind [Inv, !State.modRegion_mem, → State.askPull_mem, !State.walk_inv, !State.countAt_mem, !State.streamFault_inv, !State.modRun_mem]

theorem execTranslationWalk_keeps {s : State} (slot : Nat) (w : WalkFor) (hs : Inv s) : NextKeeps (execTranslationWalk slot w s) := by
  unfold execTranslationWalk
  simp only [NextKeeps]
  repeat' split
  all_goals grind [Inv, !State.setRegion_mem, !State.modRegion_mem, → State.askPull_mem, !State.translate_inv, !State.countAt_mem,
      !State.chainFault_inv, !State.walkStream_inv]

/-! ### The life of a region -/

theorem State.addRegion_mem (s : State) (r : Region) {p : State × Nat} : s.addRegion r = some p → p.1.mem = s.mem := by
  unfold State.addRegion
  rw [Option.map_eq_some_iff]
  rintro ⟨k, -, rfl⟩
  rfl

@[simp] theorem State.freeSlot_mem (s : State) (slot : Nat) : (s.freeSlot slot).mem = s.mem := rfl

theorem State.readImageAt_inv {s : State} (part : Nat) (sp : SpaceAddr) (hs : Inv s) : Inv (s.readImageAt part sp).1 := by
  fun_cases State.readImageAt s part sp <;> grind [!State.areaRead_inv]

theorem State.rejectRegion_inv {s : State} (slot status : Nat) (hs : Inv s) : Inv (s.rejectRegion slot status) := by
  unfold State.rejectRegion
  grind [Inv, !State.modRegion_mem, !State.endRegion_inv]

theorem State.readImageFor_inv {s : State} (part plc : Nat) (sp : SpaceAddr) (hs : Inv s) : Inv (s.readImageFor part plc sp).1 := by
  fun_cases State.readImageFor s part plc sp <;> grind [!State.readImageAt_inv]

theorem State.takeImage_inv {s : State} (slot : Nat) (x : ImgRead) (hs : Inv s) : Inv (s.takeImage slot x) := by
  fun_cases State.takeImage s slot x <;> grind [Inv, !State.modRegion_mem, !State.rejectRegion_inv]

theorem State.checkImage_inv {s : State} (slot : Nat) (hs : Inv s) : Inv (s.checkImage slot) := by
  fun_cases State.checkImage s slot <;> grind [!State.readImageFor_inv, !State.takeImage_inv]

@[simp] theorem State.seatLaunch_mem (s : State) : s.seatLaunch.mem = s.mem := by
  unfold State.seatLaunch
  split
  · rfl
  · split
    next he _ => exact State.addRegion_mem _ _ he
    next => rfl

theorem execPlacementSearch_keeps {s : State} (slot : Nat) (hs : Inv s) : NextKeeps (execPlacementSearch slot s) := by
  unfold execPlacementSearch
  simp only [NextKeeps]
  repeat' split
  all_goals grind [Inv, !State.modRegion_mem, !State.finish_mem, !State.search_keeps, !State.freeSlot_mem, !State.rejectRegion_inv,
      !State.seatLaunch_mem, Found.Keeps]

@[simp] theorem State.beginRun_mem (s : State) (slot : Nat) : (s.beginRun slot).mem = s.mem := by
  fun_cases State.beginRun s slot <;> rfl

theorem State.reportStreamCmd_inv {s : State} (slot x y i : Nat) (c : Cmd) (code det info : Nat) (hs : Inv s) :
    Inv (s.reportStreamCmd slot x y i c code det info) := by
  fun_cases State.reportStreamCmd s slot x y i c code det info <;> grind [!State.deliverFor_inv]

theorem State.admitCmd_inv {s : State} (slot : Nat) (e : (Nat × Nat × Nat) × Cmd) (hs : Inv s) : Inv (s.admitCmd slot e) := by
  fun_cases State.admitCmd s slot e <;> grind [Inv, !State.modRegion_mem, !State.reportStreamCmd_inv]

theorem State.configureAt_mem (s : State) (slot : Nat) (r : Region) (p : Place) (i : Image) {s' : State} :
    s.configureAt slot r p i = some s' → s'.mem = s.mem := by
  unfold State.configureAt
  rw [Option.map_eq_some_iff]
  rintro ⟨j, -, rfl⟩
  rfl

theorem execEmit_keeps {s : State} (slot : Nat) (hs : Inv s) : NextKeeps (execEmit slot s) := by
  unfold execEmit
  simp only [NextKeeps]
  repeat' split
  all_goals grind [Inv, !State.modRegion_mem, !State.toState_mem, !State.due_mem, !State.beginRun_mem, !State.admitCmd_inv, → State.configureAt_mem,
      foldl_inv]

theorem State.reportArea_inv {s : State} (slot : Nat) (f : AccFault) (hs : Inv s) : Inv (s.reportArea slot f) := State.reportFault_inv _ _ hs

@[simp] theorem State.retireApart_mem (s : State) (slot : Nat) (r : Region) : (s.retireApart slot r).mem = s.mem := rfl

@[simp] theorem State.becomeSaved_mem (s : State) (slot : Nat) (sp : SpaceAddr) : (s.becomeSaved slot sp).mem = s.mem := by
  fun_cases State.becomeSaved s slot sp <;> simp

theorem State.readBack_inv {s : State} (slot : Nat) (r : Region) (sp : SpaceAddr) (hs : Inv s) : Inv (s.readBack slot r sp).1 := by
  fun_cases State.readBack s slot r sp <;> grind [!State.areaRead_inv, !State.readImageAt_inv]

theorem State.reportRestore_inv {s : State} (slot : Nat) (f : RestoreFail) (hs : Inv s) : Inv (s.reportRestore slot f) := State.reportFault_inv _ _ hs

theorem State.installArea_mem (s : State) (slot : Nat) (r : Region) (p : Place) (i : Image) (a : Restored) {s' : State} :
    s.installArea slot r p i a = some s' → s'.mem = s.mem := by
  unfold State.installArea
  simp only [Option.bind_eq_some_iff, Option.map_eq_some_iff]
  rintro ⟨j, -, r1, -, rfl⟩
  rfl

theorem Region.refuseState_keeps {s : State} (r : Region) (hs : Inv s) : (Region.refuseState r s).Keeps := by
  unfold Region.refuseState
  grind [!refuse_keeps]

theorem execRgnld_keeps {s : State} (rd rs1 : BitVec 5) (hs : Inv s) : NextKeeps (execRgnld rd rs1 s) := by
  unfold execRgnld
  refine form_inv hs ?_
  dsimp only
  split
  · exact refuse_keeps _ _ hs
  refine withBlock_keeps hs fun s1 l h1 => ?_
  split
  · exact refuse_keeps _ _ h1
  split
  · exact refuse_keeps _ _ h1
  next occ _ =>
    split
    · exact refuse_keeps _ _ h1
    split
    · exact refuse_keeps _ _ h1
    next s2 k he =>
      have h2 : Inv s2 := Inv.of_mem_eq (State.addRegion_mem _ _ he) h1
      refine State.checkImage_inv k ?_
      cases occ with
      | none => exact h2
      | some o => exact Inv.of_mem_eq (State.modRegion_mem s2 o _) h2

@[simp] theorem State.go_mem (s : State) (slot : Nat) : (s.go slot).mem = s.mem := by
  unfold State.go
  grind [!State.modRegion_mem, !State.toState_mem, !State.beginRun_mem]

theorem execRgngo_keeps {s : State} (rd rs1 rs2 : BitVec 5) (hs : Inv s) :
    NextKeeps (execRgngo rd rs1 rs2 s) :=
  form_inv hs (by grind [Inv, !State.modRegion_mem, !refuse_keeps, !State.holdForm_keeps, !withRegion_keeps, !Region.refuseState_keeps,
      !State.go_mem, FormEnd.Keeps])

@[simp] theorem State.beginSwitch_mem (s : State) (slot : Nat) (incoming : Option Nat) (us : Nat) :
    (s.beginSwitch slot incoming us).mem = s.mem := by
  simp [State.beginSwitch]

theorem execRgndrn_keeps {s : State} (rd rs1 rs2 : BitVec 5) (hs : Inv s) :
    NextKeeps (execRgndrn rd rs1 rs2 s) :=
  form_inv hs (withRegion_keeps hs fun slot r => by grind [Inv, !refuse_keeps, !Region.refuseState_keeps, !State.beginSwitch_mem, FormEnd.Keeps])

theorem State.waitSettle_keeps {s : State} (slot : Nat) (rd : BitVec 5) (kill : Bool) (hs : Inv s) : (s.waitSettle slot rd kill).Keeps := by
  unfold State.waitSettle
  grind [Inv, !State.modHart_mem, FormEnd.Keeps]

theorem execRgnfrz_keeps {s : State} (rd rs1 : BitVec 5) (hs : Inv s) :
    NextKeeps (execRgnfrz rd rs1 s) :=
  form_inv hs (by grind [Inv, !State.modRegion_mem, !withRegion_keeps, !State.toState_mem, !Region.refuseState_keeps,
      !State.waitSettle_keeps, FormEnd.Keeps])

theorem execRgnsav_keeps {s : State} (rd rs1 rs2 : BitVec 5) (hs : Inv s) :
    NextKeeps (execRgnsav rd rs1 rs2 s) :=
  form_inv hs (by grind [Inv, !State.areaWrite_inv, !refuse_keeps, !State.holdForm_keeps, !withRegion_keeps, !State.reportArea_inv,
      !State.becomeSaved_mem, !Region.refuseState_keeps, FormEnd.Keeps])

theorem execRgnrst_keeps {s : State} (rd rs1 rs2 : BitVec 5) (hs : Inv s) : NextKeeps (execRgnrst rd rs1 rs2 s) := by
  unfold execRgnrst
  simp only [NextKeeps]
  refine form_inv hs ?_
  refine withRegion_keeps hs fun slot r => ?_
  repeat' split
  all_goals grind [Inv, !State.modRegion_mem, !refuse_keeps, !State.toState_mem, !State.clearOwned_mem, !State.search_keeps, !State.reportArea_inv,
      !State.readBack_inv, !State.reportRestore_inv, → State.installArea_mem, !Region.refuseState_keeps, FormEnd.Keeps, Found.Keeps]

@[simp] theorem State.undoPlace_mem (s s0 : State) (slot : Nat) (r : Region) : (s.undoPlace s0 slot r).mem = s.mem := rfl

theorem execRgnmov_keeps {s : State} (rd rs1 rs2 : BitVec 5) (hs : Inv s) : NextKeeps (execRgnmov rd rs1 rs2 s) := by
  unfold execRgnmov
  simp only [NextKeeps]
  refine form_inv hs ?_
  refine withRegion_keeps hs fun slot r => ?_
  repeat' split
  all_goals grind [Inv, !State.modRegion_mem, !State.areaWrite_inv, !refuse_keeps, !State.holdForm_keeps, !State.clearOwned_mem, !State.search_keeps,
      !State.reportArea_inv, !State.retireApart_mem, !State.becomeSaved_mem, !State.readBack_inv, !State.reportRestore_inv, → State.installArea_mem,
      !Region.refuseState_keeps, !State.undoPlace_mem, FormEnd.Keeps, Found.Keeps]

theorem State.kill_inv {s : State} (slot : Nat) (r : Region) (st : Nat) (hs : Inv s) : Inv (s.kill slot r st).1 := by
  fun_cases State.kill s slot r st <;> grind [Inv, !State.modRegion_mem, !State.endRegion_inv]

theorem execRgnkil_keeps {s : State} (rd rs1 : BitVec 5) (hs : Inv s) :
    NextKeeps (execRgnkil rd rs1 s) :=
  form_inv hs (by grind [Inv, !withRegion_keeps, !State.freeSlot_mem, !State.waitSettle_keeps, !State.kill_inv, FormEnd.Keeps])

theorem execRgnqry_keeps {s : State} (rd rs1 rs2 : BitVec 5) (hs : Inv s) :
    NextKeeps (execRgnqry rd rs1 rs2 s) :=
  form_inv hs (by grind [!refuse_keeps, !withRegion_keeps, FormEnd.Keeps])

theorem execRgnslc_keeps {s : State} (rd rs1 rs2 : BitVec 5) (hs : Inv s) :
    NextKeeps (execRgnslc rd rs1 rs2 s) :=
  form_inv hs (by grind [Inv, !refuse_keeps, !withRegion_keeps, !Region.refuseState_keeps, !State.beginSwitch_mem, FormEnd.Keeps])

/-! ### Barriers, token FIFOs and drained tiles -/

theorem State.barPut_inv {s : State} (da b0 b1 b2 b3 : Nat) (hs : Inv s) : Inv (s.barPut da b0 b1 b2 b3) := by
  unfold State.barPut
  grind [Inv, !State.memPut_inv]

theorem State.barComplete_inv {s : State} (da : Nat) (f : Bool) (hs : Inv s) : Inv (s.barComplete da f) := State.barPut_inv _ _ _ _ _ hs

theorem State.barCheck_inv {s : State} (da : Nat) (hs : Inv s) : Inv (s.barCheck da) := by
  fun_cases State.barCheck s da <;> grind [!State.barComplete_inv]

theorem State.barSet_inv {s : State} (da arr pb : Nat) (hs : Inv s) : Inv (s.barSet da arr pb) := by
  unfold State.barSet
  grind [!State.barPut_inv, !State.barCheck_inv]

theorem State.arrive_inv {s : State} (da w cnt hart tid : Nat) {s' : State} (hs : Inv s) : s.arrive da w cnt hart tid = .ok s' → Inv s' := by
  fun_cases State.arrive s da w cnt hart tid <;> grind [Inv, !State.barSet_inv]

theorem State.barCredit_inv {s : State} (da : Nat) (par : Bool) (k : Nat) (hs : Inv s) : Inv (s.barCredit da par k) := by
  fun_cases State.barCredit s da par k <;> grind [!State.barSet_inv]

theorem withBarrier_keeps {s : State} {a : HartAcc} {va : Nat} {k : State → Nat → FormEnd} (hs : Inv s)
    (hk : ∀ s1 da, Inv s1 → (k s1 da).Keeps) : (withBarrier s a va k).Keeps := by
  have h1 : Inv (s.hartPiece s.cur a false va 32).1 := Inv.of_mem_eq (State.hartPiece_mem s s.cur a false va 32) hs
  fun_cases withBarrier s a va k with
  | case1 s1 e he => exact excIn_keeps e (Inv.of_fst he h1)
  | case2 s1 pa he => exact hk _ _ (Inv.of_fst he h1)

theorem execBinit_keeps {s : State} (rd rs1 rs2 : BitVec 5) (hs : Inv s) :
    NextKeeps (execBinit rd rs1 rs2 s) :=
  form_inv hs (by grind [!refuse_keeps, !State.barPut_inv, !withBarrier_keeps, FormEnd.Keeps])

theorem arriveForm_keeps {s : State} (va w cnt : Nat) (hs : Inv s) : (arriveForm s va w cnt).Keeps := by
  fun_cases arriveForm s va w cnt <;> grind [!refuse_keeps, → State.arrive_inv, !withBarrier_keeps, FormEnd.Keeps]

theorem execBarv_keeps {s : State} (rd rs1 rs2 : BitVec 5) (hs : Inv s) : NextKeeps (execBarv rd rs1 rs2 s) := form_inv hs (arriveForm_keeps _ _ _ hs)

theorem execBarvx_keeps {s : State} (rd rs1 rs2 : BitVec 5) (hs : Inv s) :
    NextKeeps (execBarvx rd rs1 rs2 s) :=
  form_inv hs (arriveForm_keeps _ _ _ hs)

theorem execBwait_keeps {s : State} (rd rs1 rs2 : BitVec 5) (hs : Inv s) :
    NextKeeps (execBwait rd rs1 rs2 s) :=
  form_inv hs (by grind [Inv, !State.modHart_mem, !refuse_keeps, !withBarrier_keeps, FormEnd.Keeps])

theorem execBtest_keeps {s : State} (rd rs1 rs2 : BitVec 5) (hs : Inv s) :
    NextKeeps (execBtest rd rs1 rs2 s) :=
  form_inv hs (by grind [!refuse_keeps, !withBarrier_keeps, FormEnd.Keeps])

theorem execBwaitWake_keeps {s : State} (h : Nat) (hs : Inv s) : NextKeeps (execBwaitWake h s) := by
  unfold execBwaitWake
  grind [Inv, !State.retireAt_mem, NextKeeps]

theorem execBarrierCredit_keeps {s : State} (n : Nat) (hs : Inv s) : NextKeeps (execBarrierCredit n s) := by
  unfold execBarrierCredit
  grind [Inv, !State.barCredit_inv, NextKeeps]

theorem execBarrierFail_keeps {s : State} (n : Nat) (hs : Inv s) : NextKeeps (execBarrierFail n s) := by
  unfold execBarrierFail
  grind [Inv, !State.deliverFor_inv, !State.barComplete_inv, NextKeeps]

theorem execBarrierNotifyPush_keeps {s : State} (n : Nat) (hs : Inv s) : NextKeeps (execBarrierNotifyPush n s) := by
  unfold execBarrierNotifyPush
  grind [Inv, !State.modHart_mem, NextKeeps]

theorem execTfpsh_keeps {s : State} (rd rs1 rs2 : BitVec 5) (hs : Inv s) :
    NextKeeps (execTfpsh rd rs1 rs2 s) :=
  form_inv hs (by grind [Inv, !State.modHart_mem, !refuse_keeps, FormEnd.Keeps])

theorem execMxDrainWord_keeps {s : State} (t : TileAt) (c port : Nat) (hs : Inv s) : NextKeeps (execMxDrainWord t c port s) := by
  unfold execMxDrainWord
  grind [Inv, !State.modRegion_mem, NextKeeps]

theorem State.controlBlock_inv {s : State} (part asid va n : Nat) (hs : Inv s) : Inv (s.controlBlock part asid va n).1 := by
  fun_cases State.controlBlock s part asid va n <;> grind [Inv, !State.vaRead_inv]

@[simp] theorem State.handOff_mem (s : State) (n : Nat) : (s.handOff n).mem = s.mem := by
  fun_cases State.handOff s n <;> simp

theorem State.mdrcFault_inv {s : State} (slot x y c elt code det info : Nat) (hs : Inv s) : Inv (s.mdrcFault slot x y c elt code det info) := by
  fun_cases State.mdrcFault s slot x y c elt code det info with
  | case1 s1 he =>
    split at he
    · obtain ⟨r, -, hr⟩ := Option.bind_eq_some_iff.mp he
      exact Inv.of_mem_eq (State.askPull_mem s _ _ hr) hs
    · cases he
  | case2 => exact State.raiseAt_inv _ _ _ hs

theorem State.engineAcc_inv {s : State} (r : Region) (x y va size : Nat) (k : AKind) (hs : Inv s) : Inv (s.engineAcc r x y va size k).1 := by
  fun_cases State.engineAcc s r x y va size k <;> grind [Inv, !State.check_mem, !State.translate_inv]

theorem State.mdrcEnd_inv {s : State} (n slot x y c : Nat) (r : Region) (d : Drain) (hs : Inv s) : Inv (s.mdrcEnd n slot x y c r d) := by
  fun_cases State.mdrcEnd s n slot x y c r d <;>
    grind [Inv, !State.modRegion_mem, !State.atomicAt_inv, !State.modCopy_mem, !State.mdrcFault_inv, !State.engineAcc_inv]

theorem State.mdrcElement_inv {s : State} (n slot x y c : Nat) (r : Region) (d : Drain) (hs : Inv s) : Inv (s.mdrcElement n slot x y c r d) := by
  fun_cases State.mdrcElement s n slot x y c r d <;>
    grind [Inv, !State.modRegion_mem, !State.memPut_inv, !State.countAt_mem, !State.atomicAt_inv, !State.modCopy_mem, !State.mdrcFault_inv,
      !State.engineAcc_inv, !State.mdrcEnd_inv]

theorem execMdrcElementWrite_keeps {s0 : State} (n : Nat) (hs : Inv s0) : NextKeeps (execMdrcElementWrite n s0) := by
  unfold execMdrcElementWrite
  simp only [NextKeeps]
  repeat' split
  all_goals grind [Inv, !State.modRegion_mem, !State.controlBlock_inv, !State.modCopy_mem, !State.handOff_mem, !State.mdrcFault_inv,
      !State.mdrcElement_inv]

/-! ### Engine commands and copy engines -/

@[simp] theorem State.modCmds_mem (s : State) (q : QueueId) (f : CmdQueue → CmdQueue) : (s.modCmds q f).mem = s.mem := by
  fun_cases State.modCmds s q f <;> simp

@[simp] theorem State.setHead_mem (s : State) (q : QueueId) (c : Cmd) : (s.setHead q c).mem = s.mem := by
  fun_cases State.setHead s q c <;> grind [!State.modCmds_mem, foldl_mem]

@[simp] theorem State.dropHead_mem (s : State) (q : QueueId) (c : Cmd) : (s.dropHead q c).mem = s.mem := by
  fun_cases State.dropHead s q c <;> grind [!State.modCmds_mem, foldl_mem]

theorem State.cmdAcc_inv {s : State} (q : QueueId) (c : Cmd) (va size : Nat) (k : AKind) (hs : Inv s) : Inv (s.cmdAcc q c va size k).1 := by
  fun_cases State.cmdAcc s q c va size k <;> grind [Inv, !State.check_mem, !State.translate_inv]

theorem State.cmdReport_inv {s : State} (q : QueueId) (c : Cmd) (code det info : Nat) (hs : Inv s) :
    Inv (s.cmdReport q c code det info) :=
  State.deliverFor_inv _ _ _ _ _ _ hs

theorem State.recordPar_inv {s : State} (q : QueueId) (c : Cmd) (hs : Inv s) : Inv (s.recordPar q c).1 := by
  fun_cases State.recordPar s q c <;> grind [Inv, !State.cmdAcc_inv]

theorem State.sendBar_inv {s : State} (q : QueueId) (c : Cmd) (failure : Bool) (bytes : Nat) (hs : Inv s) : Inv (s.sendBar q c failure bytes).1 := by
  fun_cases State.sendBar s q c failure bytes <;> grind [Inv, !State.cmdAcc_inv, !State.cmdReport_inv]

theorem State.popFor_mem (s : State) (c : Cmd) {p : State × Cmd} : s.popFor c = some p → p.1.mem = s.mem := by
  fun_cases State.popFor s c
  · rintro ⟨⟩; rfl
  · rw [Option.map_eq_some_iff]
    rintro ⟨x, -, rfl⟩
    rfl

theorem State.issue_inv {s : State} (q : QueueId) (hs : Inv s) : Inv (s.issue q) := by
  fun_cases State.issue s q <;> grind [Inv, !State.due_mem, !State.startStream_inv, !State.modColl_mem, !State.setHead_mem, → State.popFor_mem]

theorem execCommandIssue_keeps {s : State} (q : QueueId) (hs : Inv s) : NextKeeps (execCommandIssue q s) := State.issue_inv _ hs

theorem execTfpop_keeps {s : State} (rd rs1 : BitVec 5) (hs : Inv s) :
    NextKeeps (execTfpop rd rs1 s) :=
  form_inv hs (by grind [Inv, !State.modHart_mem, !refuse_keeps, !State.issue_inv, foldl_inv, FormEnd.Keeps])

theorem execTfqry_keeps {s : State} (rd rs1 : BitVec 5) (hs : Inv s) :
    NextKeeps (execTfqry rd rs1 s) :=
  form_inv hs (by grind [!refuse_keeps, FormEnd.Keeps])

@[simp] theorem State.endCmd_mem (s : State) (q : QueueId) (c : Cmd) : (s.endCmd q c).mem = s.mem := by
  fun_cases State.endCmd s q c <;> grind [!State.finish_mem, !State.modCmds_mem, !State.dropHead_mem]

theorem State.payUnits_inv {s : State} (q : QueueId) (c : Cmd) (units : Nat) (hs : Inv s) : Inv (s.payUnits q c units).1 := by
  fun_cases State.payUnits s q c units <;> grind [!State.sendBar_inv]

theorem State.retireBar_inv {s : State} (q : QueueId) (c : Cmd) (hs : Inv s) : Inv (s.retireBar q c).1 := by
  unfold State.retireBar
  grind [!State.sendBar_inv, !State.payUnits_inv]

theorem State.retireCount_inv {s : State} (q : QueueId) (c : Cmd) (hs : Inv s) : Inv (s.retireCount q c).1 := by
  fun_cases State.retireCount s q c <;> grind [!State.atomicAt_inv, !State.cmdAcc_inv, !State.cmdReport_inv]

theorem execCommandRetire_keeps {s : State} (q : QueueId) (hs : Inv s) : NextKeeps (execCommandRetire q s) := by
  unfold execCommandRetire
  grind [Inv, !State.setHead_mem, !State.endCmd_mem, !State.retireBar_inv, !State.retireCount_inv, NextKeeps]

theorem execEngineTokenPush_keeps {s : State} (q : QueueId) (hs : Inv s) : NextKeeps (execEngineTokenPush q s) := by
  unfold execEngineTokenPush
  grind [Inv, !State.modHart_mem, !State.endCmd_mem, NextKeeps]

theorem State.creditStream_inv {s : State} (t : TileAt) (i : Nat) (hs : Inv s) : Inv (s.creditStream t i) := by
  fun_cases State.creditStream s t i <;> grind [Inv, !State.setHead_mem, !State.payUnits_inv]

theorem execStreamLoadUnit_keeps {s : State} (t : TileAt) (i : Nat) (hs : Inv s) : NextKeeps (execStreamLoadUnit t i s) := by
  unfold execStreamLoadUnit
  grind [!State.loadUnit_inv, !State.creditStream_inv, NextKeeps]

theorem execStreamStoreUnit_keeps {s : State} (t : TileAt) (i : Nat) (hs : Inv s) : NextKeeps (execStreamStoreUnit t i s) := by
  unfold execStreamStoreUnit
  grind [!State.nextStore_inv, !State.creditStream_inv, NextKeeps]

/-- The state that the check of a command answers with is canonical. -/
def Ready.Keeps : Ready → Prop
  | .ok s _ _ => Inv s
  | .refused s _ _ => Inv s
  | .fault s _ => Inv s

theorem Ready.keep_keeps {t : Ready} (s0 : State) (ht : t.Keeps) : (t.keep s0).Keeps := by
  cases t <;> exact ht

theorem State.queueReady_keeps {s : State} (q : QueueId) (c : Cmd) (hs : Inv s) : (s.queueReady q c).Keeps := by
  fun_cases State.queueReady s q c <;> grind [Ready.Keeps]

theorem State.enqueueCmd_inv {s : State} (q : QueueId) (c : Cmd) (hs : Inv s) : Inv (s.enqueueCmd q c) := by
  unfold State.enqueueCmd
  grind [Inv, !State.modCmds_mem, !State.recordPar_inv]

theorem Ready.formEnd_keeps {t : Ready} (ht : t.Keeps) : t.formEnd.Keeps := by
  cases t with
  | ok s q c => exact State.enqueueCmd_inv q c ht
  | refused s e low => exact refuse_keeps e low ht
  | fault s f => exact excIn_keeps _ ht

theorem State.takeBlock_inv {s : State} (part asid va n : Nat) (hs : Inv s) : Inv (s.takeBlock part asid va n).1 := by
  fun_cases State.takeBlock s part asid va n <;> grind [!State.controlBlock_inv]

theorem State.checkCopy_keeps {s : State} (u : Asker) (kind : Nat) (c : List W64) (sel : Nat) (hs : Inv s) : (s.checkCopy u kind c sel).Keeps := by
  fun_cases State.checkCopy s u kind c sel <;> grind [Inv, !Ready.keep_keeps, !State.queueReady_keeps, !State.takeBlock_inv, Ready.Keeps]

theorem copyForm_keeps {s : State} (va sel kind : Nat) (hs : Inv s) : (copyForm s va sel kind).Keeps := by
  fun_cases copyForm s va sel kind <;> grind [Inv, !refuse_keeps, !withBlock_keeps, !Ready.formEnd_keeps, !State.checkCopy_keeps, FormEnd.Keeps,
      Ready.Keeps]

theorem execCpy_keeps {s : State} (rd rs1 rs2 : BitVec 5) (hs : Inv s) : NextKeeps (execCpy rd rs1 rs2 s) := form_inv hs (copyForm_keeps _ _ _ hs)

theorem execCpyt_keeps {s : State} (rd rs1 rs2 : BitVec 5) (hs : Inv s) : NextKeeps (execCpyt rd rs1 rs2 s) := form_inv hs (copyForm_keeps _ _ _ hs)

theorem queryForm_keeps {s : State} (t cls : Nat) (hs : Inv s) : (queryForm s t cls).Keeps := by
  fun_cases queryForm s t cls <;> grind [Inv, !refuse_keeps, FormEnd.Keeps]

theorem execCpyq_keeps {s : State} (rd rs1 : BitVec 5) (hs : Inv s) : NextKeeps (execCpyq rd rs1 s) := form_inv hs (queryForm_keeps _ _ hs)

theorem State.cmdPieces_inv {s : State} (q : QueueId) (c : Cmd) (size : Nat) (k : AKind) (l : List (Nat × Nat)) (hs : Inv s) :
    Inv (s.cmdPieces q c size k l).1 := by
  fun_induction State.cmdPieces s q c size k l <;> grind [Inv, !State.cmdAcc_inv]

theorem State.putPieces_inv {s : State} (l : List (Nat × Nat)) (bs : List Byte) (hs : Inv s) : Inv (s.putPieces l bs) := by
  fun_induction State.putPieces s l bs <;> grind [Inv, !State.memPut_inv]

theorem State.bytesUnit_inv {s : State} (q : QueueId) (c : Cmd) (hs : Inv s) : Inv (s.bytesUnit q c).1 := by
  fun_cases State.bytesUnit s q c <;> grind [!State.cmdPieces_inv, !State.putPieces_inv]

theorem State.putElem_inv {s : State} (c : Cmd) (src dst : Nat) (hs : Inv s) : Inv (s.putElem c src dst) := by
  fun_cases State.putElem s c src dst <;> grind [Inv, !State.count_mem, !State.memPut_inv, !State.atomicAt_inv]

theorem State.elemsUnit_inv {s : State} (q : QueueId) (c : Cmd) (hs : Inv s) : Inv (s.elemsUnit q c).1 := by
  fun_cases State.elemsUnit s q c <;> grind [!State.cmdPieces_inv, !State.putElem_inv, foldl_inv]

theorem State.cmdFault_inv {s : State} (q : QueueId) (c : Cmd) (f : AccFault) (hs : Inv s) : Inv (s.cmdFault q c f) := by
  fun_cases State.cmdFault s q c f <;> grind [Inv, → State.askPull_mem, !State.setHead_mem, !State.cmdReport_inv]

theorem execCopyUnit_keeps {s : State} (n : Nat) (hs : Inv s) : NextKeeps (execCopyUnit n s) := by
  unfold execCopyUnit
  grind [Inv, !State.count_mem, !State.modCopy_mem, !State.setHead_mem, !State.sendBar_inv, !State.bytesUnit_inv, !State.elemsUnit_inv,
      !State.cmdFault_inv, NextKeeps]

/-! ### Collective engines -/

theorem State.takeGroup_inv {s : State} (part asid va : Nat) (hs : Inv s) : Inv (s.takeGroup part asid va).1 := by
  fun_cases State.takeGroup s part asid va <;> grind [Inv, !State.vaRead_inv, !State.takeBlock_inv]

theorem State.checkColl_keeps {s : State} (u : Asker) (c : List W64) (sel : Nat) (hs : Inv s) : (s.checkColl u c sel).Keeps := by
  fun_cases State.checkColl s u c sel <;> grind [!Ready.keep_keeps, !State.queueReady_keeps, !State.takeGroup_inv, Ready.Keeps]

theorem execColl_keeps {s : State} (rd rs1 rs2 : BitVec 5) (hs : Inv s) :
    NextKeeps (execColl rd rs1 rs2 s) :=
  form_inv hs (by grind [!refuse_keeps, !withBlock_keeps, !Ready.formEnd_keeps, !State.checkColl_keeps])

theorem execCollq_keeps {s : State} (rd rs1 : BitVec 5) (hs : Inv s) : NextKeeps (execCollq rd rs1 s) := form_inv hs (queryForm_keeps _ _ hs)

@[simp] theorem State.tellRank_mem (s : State) (c : Cmd) (i n : Nat) : (s.tellRank c i n).mem = s.mem := by
  fun_cases State.tellRank s c i n <;> simp

@[simp] theorem State.tellHeader_mem (s : State) (k : Nat) (c : Cmd) : (s.tellHeader k c).mem = s.mem := by
  fun_cases State.tellHeader s k c <;> grind [!State.modColl_mem, !State.tellRank_mem]

@[simp] theorem State.dropHeaders_mem (s : State) (k : Nat) (c : Cmd) : (s.dropHeaders k c).mem = s.mem := rfl

@[simp] theorem State.sendHop_mem (s : State) (k : Nat) (c : Cmd) : (s.sendHop k c).mem = s.mem := by
  fun_cases State.sendHop s k c <;> simp

theorem State.rerouteColl_inv {s : State} (g k : Nat) (hs : Inv s) : Inv (s.rerouteColl g k) := by
  fun_cases State.rerouteColl s g k <;> grind [Inv, !State.modColl_mem, !State.setHead_mem, !State.cmdReport_inv, !State.sendHop_mem, foldl_mem]

theorem State.collFault_inv {s : State} (k : Nat) (c : Cmd) (f : AccFault) (hs : Inv s) : Inv (s.collFault k c f) := by
  fun_cases State.collFault s k c f <;> grind [Inv, !State.cmdFault_inv, !State.tellRank_mem]

@[simp] theorem State.resumeHops_mem (s : State) (k : Nat) (c : Cmd) : (s.resumeHops k c).mem = s.mem := by
  unfold State.resumeHops
  grind [!State.modColl_mem, !State.tellRank_mem]

@[simp] theorem State.pauseTold_mem (s : State) (k : Nat) (after on : Bool) : (s.pauseTold k after on).mem = s.mem := rfl

theorem State.cmdRead_inv {s : State} (q : QueueId) (c : Cmd) (va n : Nat) (hs : Inv s) : Inv (s.cmdRead q c va n).1 := by
  fun_cases State.cmdRead s q c va n <;> grind [!State.cmdPieces_inv]

theorem State.cmdWrite_inv {s : State} (q : QueueId) (c : Cmd) (va : Nat) (bs : List Byte) (hs : Inv s) : Inv (s.cmdWrite q c va bs).1 := by
  fun_cases State.cmdWrite s q c va bs <;> grind [!State.cmdPieces_inv, !State.putPieces_inv]

theorem State.outgoing_inv {s : State} (k : Nat) (c : Cmd) (n : Nat) (hs : Inv s) : Inv (s.outgoing k c n).1 := by
  fun_cases State.outgoing s k c n <;> grind [!State.cmdRead_inv]

theorem State.delivered_inv {s : State} (k : Nat) (c : Cmd) (bytes : Nat) (hs : Inv s) : Inv (s.delivered k c bytes).1 := by
  unfold State.delivered
  grind [Inv, !State.count_mem, !State.modColl_mem, !State.sendBar_inv]

@[simp] theorem State.collEnd_mem (s : State) (k : Nat) : (s.collEnd k).mem = s.mem := by
  fun_cases State.collEnd s k <;> rfl

theorem State.pump_inv {s : State} (k m : Nat) (hs : Inv s) : Inv (s.pump k m) := by
  fun_induction State.pump s k m <;> grind [Inv, !State.modColl_mem, !State.setHead_mem, !State.sendHop_mem, !State.collFault_inv,
      !State.cmdWrite_inv, !State.outgoing_inv, !State.delivered_inv]

theorem State.goOn_inv {s : State} (k : Nat) (hs : Inv s) : Inv (s.goOn k) := by
  unfold State.goOn
  grind [Inv, !State.collEnd_mem, !State.pump_inv]

theorem execCollStartExchange_keeps {s : State} (k : Nat) (prev next : CollHdr) (hs : Inv s) : NextKeeps (execCollStartExchange k prev next s) := by
  unfold execCollStartExchange
  grind [Inv, !State.modColl_mem, !State.tellHeader_mem, !State.dropHeaders_mem, !State.collFault_inv, !State.goOn_inv, NextKeeps]

theorem State.takeUnit_inv {s : State} (k : Nat) (c : Cmd) (n : Nat) (unit : List Byte) (hs : Inv s) : Inv (s.takeUnit k c n unit).1 := by
  fun_cases State.takeUnit s k c n unit <;> grind [Inv, !State.modColl_mem, !State.cmdRead_inv, !State.cmdWrite_inv, !State.delivered_inv]

@[simp] theorem State.ackHop_mem (s : State) (c : Cmd) (n : Nat) : (s.ackHop c n).mem = s.mem := by
  fun_cases State.ackHop s c n <;> simp

theorem execCollHopUnit_keeps {s : State} (k n : Nat) (unit : List Byte) (hs : Inv s) : NextKeeps (execCollHopUnit k n unit s) := by
  unfold execCollHopUnit
  grind [Inv, !State.setHead_mem, !State.collFault_inv, !State.goOn_inv, !State.takeUnit_inv, !State.ackHop_mem, NextKeeps]

theorem execCollHopAck_keeps {s : State} (k n : Nat) (hs : Inv s) : NextKeeps (execCollHopAck k n s) := by
  unfold execCollHopAck
  grind [Inv, !State.modColl_mem, !State.goOn_inv, NextKeeps]

theorem execCollHopTimeout_keeps {s : State} (k : Nat) (hs : Inv s) : NextKeeps (execCollHopTimeout k s) := by
  unfold execCollHopTimeout
  grind [!State.collFault_inv, NextKeeps]

theorem execKvStepWrite_keeps {s : State} (k : Nat) (hs : Inv s) : NextKeeps (execKvStepWrite k s) := by
  unfold execKvStepWrite
  simp only [NextKeeps]
  repeat' split
  all_goals grind [Inv, !State.atomicAt_inv, !State.modColl_mem, !State.setHead_mem, !State.cmdAcc_inv, !State.collFault_inv, !State.cmdWrite_inv,
      !State.delivered_inv, !State.goOn_inv]

/-! ### Counter banks, traces, policies, and invalidation of translations -/

theorem execReleaseInstant_keeps {s : State} (tid : Nat) (hs : Inv s) : NextKeeps (execReleaseInstant tid s) := by
  unfold execReleaseInstant
  grind [Inv, NextKeeps]

@[simp] theorem State.freeBank_mem (s : State) (part bank : Nat) : (s.freeBank part bank).mem = s.mem := rfl

@[simp] theorem State.dropBankClaim_mem (s : State) : s.dropBankClaim.mem = s.mem := rfl

@[simp] theorem State.grantBank_mem (s : State) (part bank sel : Nat) (ev : List W64) : (s.grantBank part bank sel ev).mem = s.mem := by
  unfold State.grantBank
  grind [!State.modHart_mem, !State.freeBank_mem]

theorem State.askBank_keeps {s : State} (claim : Option CtrBank) (part bank sel : Nat) (ev : List W64) (hs : Inv s) :
    (s.askBank claim part bank sel ev).Keeps := by
  fun_cases State.askBank s claim part bank sel ev <;> grind [Inv, !State.holdForm_keeps, !State.grantBank_mem, FormEnd.Keeps]

theorem execCtrsel_keeps {s : State} (rd rs1 rs2 : BitVec 5) (hs : Inv s) :
    NextKeeps (execCtrsel rd rs1 rs2 s) :=
  form_inv hs (by grind [Inv, !refuse_keeps, !withBlock_keeps, !State.freeBank_mem, !State.dropBankClaim_mem, !State.askBank_keeps, FormEnd.Keeps])

@[simp] theorem State.setBank_mem (s : State) (b : CtrBank) : (s.setBank b).mem = s.mem := rfl

@[simp] theorem State.readCounter_mem (s : State) (b : CtrBank) (i : Nat) : (s.readCounter b i).1.mem = s.mem := by
  fun_cases State.readCounter s b i <;> rfl

theorem execCtrrd_keeps {s : State} (rd rs1 : BitVec 5) (hs : Inv s) :
    NextKeeps (execCtrrd rd rs1 s) :=
  form_inv hs (by grind [Inv, !refuse_keeps, !State.setBank_mem, !State.readCounter_mem, FormEnd.Keeps])

theorem execCtrclr_keeps {s : State} (rd rs1 : BitVec 5) (hs : Inv s) :
    NextKeeps (execCtrclr rd rs1 s) :=
  form_inv hs (by grind [Inv, !refuse_keeps, !State.setBank_mem, FormEnd.Keeps])

@[simp] theorem State.outbidTraces_mem (s : State) (strips : List Nat) : (s.outbidTraces strips).mem = s.mem := rfl

@[simp] theorem State.dropTraceClaim_mem (s : State) : s.dropTraceClaim.mem = s.mem := rfl

theorem State.askUnits_keeps {s : State} (claim : Option Trace) (strips : List Nat) (t : Trace) (hs : Inv s) : (s.askUnits claim strips t).Keeps := by
  fun_cases State.askUnits s claim strips t <;> grind [Inv, !State.holdForm_keeps, !State.outbidTraces_mem, FormEnd.Keeps]

theorem execTrcon_keeps {s : State} (rd rs1 rs2 : BitVec 5) (hs : Inv s) :
    NextKeeps (execTrcon rd rs1 rs2 s) :=
  form_inv hs (by grind [Inv, !refuse_keeps, !State.hartPiece_mem, !excIn_keeps, !withBlock_keeps, !withRegion_keeps,
      !Region.refuseState_keeps, !State.dropTraceClaim_mem, !State.askUnits_keeps])

theorem State.ringPut_inv {s : State} (t : Trace) (off : Nat) (bs : List Byte) (hs : Inv s) : Inv (s.ringPut t off bs) := by
  fun_cases State.ringPut s t off bs <;> grind [!State.vaWrite_inv, !State.physWrite_inv]

theorem State.blockPut_inv {s : State} (t : Trace) (i v : Nat) (hs : Inv s) : Inv (s.blockPut t i v) := State.physWrite_inv _ _ _ _ hs

theorem State.writeTrace_inv {s : State} (t : Trace) (hs : Inv s) : Inv (s.writeTrace t).1 := by
  unfold State.writeTrace
  grind [!State.ringPut_inv, !State.blockPut_inv]

theorem execTraceRecordWrite_keeps {s : State} (slot : Nat) (hs : Inv s) : NextKeeps (execTraceRecordWrite slot s) := by
  unfold execTraceRecordWrite
  grind [Inv, !State.writeTrace_inv, NextKeeps]

theorem State.flushTrace_inv {s : State} (t : Trace) (m : Nat) (hs : Inv s) : Inv (s.flushTrace t m) := by
  fun_induction State.flushTrace s t m <;> grind [!State.writeTrace_inv]

theorem State.stopTrace_inv {s : State} (slot : Nat) (hs : Inv s) : Inv (s.stopTrace slot) := by
  fun_cases State.stopTrace s slot <;> grind [Inv, !State.flushTrace_inv]

theorem execTrcoff_keeps {s : State} (rd rs1 : BitVec 5) (hs : Inv s) :
    NextKeeps (execTrcoff rd rs1 s) :=
  form_inv hs (withRegion_keeps hs fun slot r => by grind [!refuse_keeps, !Region.refuseState_keeps, !State.stopTrace_inv, FormEnd.Keeps])

theorem execSvpol_keeps {s : State} (rd rs1 rs2 : BitVec 5) (hs : Inv s) :
    NextKeeps (execSvpol rd rs1 rs2 s) :=
  form_inv hs (by grind [Inv, !refuse_keeps, FormEnd.Keeps])

@[simp] theorem State.installPolicy_mem (s : State) (bs : List Byte) : (s.installPolicy bs).1.mem = s.mem := by
  fun_cases State.installPolicy s bs <;> rfl

@[simp] theorem State.hardpanRequest_mem (s : State) (bs : List Byte) : (s.hardpanRequest bs).1.mem = s.mem := by
  fun_cases State.hardpanRequest s bs <;> simp

theorem execPolicyCheck_keeps {s : State} (hs : Inv s) : NextKeeps (execPolicyCheck s) := by
  unfold execPolicyCheck
  grind [Inv, !State.physRead_mem, !State.physWrite_inv, !State.hardpanRequest_mem, NextKeeps]

@[simp] theorem State.carrySession_mem (s : State) (tid bank sel : Nat) (events : List W64) (counts : List Nat) (scat : Nat) :
    (s.carrySession tid bank sel events counts scat).mem = s.mem := by
  fun_cases State.carrySession s tid bank sel events counts scat <;> rfl

theorem execJrnrd_keeps {s : State} (rd rs1 rs2 : BitVec 5) (hs : Inv s) :
    NextKeeps (execJrnrd rd rs1 rs2 s) :=
  form_inv hs (by grind [!refuse_keeps, !State.hartStore_inv, !excIn_keeps, FormEnd.Keeps])

@[simp] theorem State.dropTranslations_mem (s : State) (t : TransSet) : (s.dropTranslations t).1.mem = s.mem := rfl

@[simp] theorem State.invalidate_mem (s : State) (t : TransSet) : (s.invalidate t).mem = s.mem := rfl

@[simp] theorem State.rejectInval_mem (s : State) : s.rejectInval.mem = s.mem := rfl

@[simp] theorem State.invalPage_mem (s : State) (asid sz : Nat) : (s.invalPage asid sz).mem = s.mem := by
  fun_cases State.invalPage s asid sz <;> rfl

@[simp] theorem State.runXivc_mem (s : State) (v : Nat) : (s.runXivc v).mem = s.mem := by
  fun_cases State.runXivc s v <;> simp

@[simp] theorem State.writeXlat_mem (s : State) (off v : Nat) (who : Option Nat) : (s.writeXlat off v who).mem = s.mem := by
  fun_cases State.writeXlat s off v who <;> simp

@[simp] theorem State.releaseXlat_mem (s : State) : s.releaseXlat.mem = s.mem := by
  unfold State.releaseXlat
  grind [!State.writeXlat_mem, foldl_mem]

@[simp] theorem State.storeXivc_mem (s : State) (h v : Nat) : (s.storeXivc h v).mem = s.mem :=
  State.regWrite_mem (State.writeXlat_mem s 0x10 v (some h))

theorem execInvalidatePage_keeps {s : State} (h asid sz : Nat) (hs : Inv s) : NextKeeps (execInvalidatePage h asid sz s) := by
  unfold execInvalidatePage
  grind [Inv, !State.storeXivc_mem, NextKeeps]

theorem execInvalidateAsid_keeps {s : State} (h asid : Nat) (hs : Inv s) : NextKeeps (execInvalidateAsid h asid s) := by
  unfold execInvalidateAsid
  grind [Inv, !State.storeXivc_mem, NextKeeps]

theorem execInvalidateAll_keeps {s : State} (h : Nat) (hs : Inv s) : NextKeeps (execInvalidateAll h s) := by
  unfold execInvalidateAll
  grind [Inv, !State.storeXivc_mem, NextKeeps]

theorem execInvalidationComplete_keeps {s : State} (hs : Inv s) : NextKeeps (execInvalidationComplete s) := by
  unfold execInvalidationComplete
  grind [Inv, !State.releaseXlat_mem, NextKeeps]

/-! ### Migrations and links -/

@[simp] theorem State.migFreeze_mem (s : State) (slot : Nat) : (s.migFreeze slot).mem = s.mem := by
  fun_cases State.migFreeze s slot <;> simp

theorem State.acceptMigration_mem (s : State) (u : Asker) (m : List W64) {p : State × Nat} : s.acceptMigration u m = .ok p → p.1.mem = s.mem := by
  fun_cases State.acceptMigration s u m <;> grind [!State.modRegion_mem, !State.sendTo_mem, !State.migFreeze_mem]

theorem execDunego_keeps {s : State} (rd rs1 : BitVec 5) (hs : Inv s) :
    NextKeeps (execDunego rd rs1 s) :=
  form_inv hs (by grind [Inv, !refuse_keeps, !withBlock_keeps, → State.acceptMigration_mem, FormEnd.Keeps])

theorem execDuneq_keeps {s : State} (rd rs1 : BitVec 5) (hs : Inv s) : NextKeeps (execDuneq rd rs1 s) := by
  unfold execDuneq
  simp only [NextKeeps]
  refine form_inv hs ?_
  repeat' split
  all_goals grind [!refuse_keeps, FormEnd.Keeps]

@[simp] theorem State.modMig_mem (s : State) (k : Nat) (f : Migration → Migration) : (s.modMig k f).mem = s.mem := rfl

@[simp] theorem State.pageRec_mem (s : State) (r : Region) (g : Migration) (i : Nat) : (s.pageRec r g i).1.mem = s.mem := by
  fun_cases State.pageRec s r g i <;> grind [!State.physRead_mem]

theorem State.cleanLeaf_inv {s : State} (r : Region) (va : Nat) (l : Nat × Nat × Nat) (hs : Inv s) : Inv (s.cleanLeaf r va l).1 :=
  Inv.of_mem_eq (State.dropTranslations_mem _ _) (memWriteN_wf _ _ _ hs)

theorem State.copyPage_inv {s : State} (src dst : Nat) (hs : Inv s) : Inv (s.copyPage src dst) := State.memPutLines_inv _ _ hs

theorem State.movePage_inv {s : State} (r : Region) (w : List W64) (hs : Inv s) : Inv (s.movePage r w).1 := by
  fun_cases State.movePage s r w <;> grind [Inv, !State.check_mem, !State.walk_inv, !State.copyPage_inv]

theorem State.failMig_inv {s : State} (k : Nat) (g : Migration) (r : Region) (f : AccFault) (hs : Inv s) : Inv (s.failMig k g r f) := by
  unfold State.failMig
  grind [Inv, !State.deliverFor_inv, !State.endMigration_mem]

@[simp] theorem State.sendSessions_mem (s : State) (g : Migration) (r : Region) : (s.sendSessions g r).mem = s.mem := by
  unfold State.sendSessions
  grind [!State.sendTo_mem, foldl_mem]

@[simp] theorem State.sendList_mem (s : State) (g : Migration) (r : Region) : (s.sendList g r).1.mem = s.mem := by
  fun_cases State.sendList s g r <;> grind [!State.sendTo_mem, !State.physRead_mem]

theorem State.migSave_inv {s : State} (k : Nat) (g : Migration) (r : Region) (hs : Inv s) : Inv (s.migSave k g r) := by
  fun_cases State.migSave s k g r <;> grind [Inv, !State.physWrite_inv, !State.stopTrace_inv, !State.modMig_mem, !State.failMig_inv,
      !State.sendSessions_mem]

theorem State.migNotify_inv {s : State} (k : Nat) (g : Migration) (r : Region) (hs : Inv s) : Inv (s.migNotify k g r) := by
  fun_cases State.migNotify s k g r <;> grind [Inv, !State.check_mem, !State.atomicAt_inv, !State.endMigration_mem, !State.becomeSaved_mem,
      !State.modMig_mem, !State.failMig_inv, !State.sendList_mem]

theorem State.migPage_inv {s : State} (k : Nat) (g : Migration) (r : Region) (i : Nat) (hs : Inv s) : Inv (s.migPage k g r i) := by
  fun_cases State.migPage s k g r i <;> grind [Inv, !State.modMig_mem, !State.pageRec_mem, !State.movePage_inv, !State.failMig_inv]

theorem State.roundPage_inv {s : State} (k : Nat) (g : Migration) (r : Region) (i : Nat) (hs : Inv s) : Inv (s.roundPage k g r i) := by
  fun_cases State.roundPage s k g r i <;>
    grind [Inv, !State.modMig_mem, !State.pageRec_mem, !State.cleanLeaf_inv, !State.failMig_inv, !State.migPage_inv]

@[simp] theorem State.roundEnd_mem (s : State) (k : Nat) (g : Migration) (r : Region) : (s.roundEnd k g r).mem = s.mem := by
  fun_cases State.roundEnd s k g r <;> simp

theorem execDunePageCopy_keeps {s : State} (stream : Nat) (hs : Inv s) : NextKeeps (execDunePageCopy stream s) := by
  unfold execDunePageCopy
  simp only [NextKeeps]
  repeat' split
  all_goals grind [Inv, !State.endMigration_mem, !State.migFreeze_mem, !State.modMig_mem, !State.migSave_inv, !State.migNotify_inv,
      !State.migPage_inv, !State.roundPage_inv, !State.roundEnd_mem]

theorem State.pushPage_inv {s : State} (k : Nat) (g : Migration) (r : Region) (i : Nat) (hs : Inv s) : Inv (s.pushPage k g r i) := by
  fun_cases State.pushPage s k g r i <;>
    grind [Inv, !State.physWrite_inv, !State.endMigration_mem, !State.modMig_mem, !State.pageRec_mem, !State.movePage_inv, !State.failMig_inv]

theorem execPostcopyPush_keeps {s : State} (stream : Nat) (hs : Inv s) : NextKeeps (execPostcopyPush stream s) := by
  unfold execPostcopyPush
  grind [Inv, !State.endMigration_mem, !State.pushPage_inv, NextKeeps]

theorem State.servePull_inv {s : State} (k : Nat) (g : Migration) (i : Nat) (hs : Inv s) : Inv (s.servePull k g i) := by
  fun_cases State.servePull s k g i <;> grind [!State.pushPage_inv]

@[simp] theorem State.takeList_mem (s : State) (k src seq : Nat) (m : List W64) (recs : List (List W64)) :
    (s.takeList k src seq m recs).mem = s.mem :=
  rfl

@[simp] theorem State.policyAnswer_mem (s : State) (k : Nat) (g : Migration) (code : Nat) : (s.policyAnswer k g code).mem = s.mem := by
  fun_cases State.policyAnswer s k g code <;> simp

theorem State.putPage_inv {s : State} (dst : Nat) (page : List Byte) (marked : List Nat) (hs : Inv s) : Inv (s.putPage dst page marked) := by
  unfold State.putPage
  grind [Inv, !State.memPut_inv, foldl_inv]

@[simp] theorem State.failDest_mem (s : State) (k : Nat) (g : Migration) (code : Nat) : (s.failDest k g code).mem = s.mem := by simp [State.failDest]

theorem execPostcopyDemandPull_keeps {s : State} (stream rec : Nat) (page : PageIn) (hs : Inv s) :
    NextKeeps (execPostcopyDemandPull stream rec page s) := by
  unfold execPostcopyDemandPull
  grind [Inv, !State.check_mem, !State.physWrite_inv, !State.endMigration_mem, !State.goOn_inv, !State.modMig_mem, !State.putPage_inv,
      !State.failDest_mem, foldl_inv, NextKeeps]

theorem State.pageLost_inv {s : State} (k : Nat) (g : Migration) (hs : Inv s) : Inv (s.pageLost k g) := by
  unfold State.pageLost
  grind [Inv, !State.sendTo_mem, !State.vaWrite_inv, !State.deliver_inv, !State.endMigration_mem, !State.faultKill_inv]

theorem execPullAttemptTimeout_keeps {s : State} (stream : Nat) (hs : Inv s) : NextKeeps (execPullAttemptTimeout stream s) := by
  unfold execPullAttemptTimeout
  grind [Inv, !State.modMig_mem, !State.pageLost_inv, NextKeeps]

theorem execLaneGroupControlWrite_keeps {s : State} (m : Master) (g : Nat) (value : W64) (hs : Inv s) :
    NextKeeps (execLaneGroupControlWrite m g value s) := by
  unfold execLaneGroupControlWrite
  grind [Inv, !State.modGroup_mem, !State.regWrite_inv, NextKeeps]

@[simp] theorem State.replay_mem (s : State) (g : Nat) : (s.replay g).mem = s.mem := by
  unfold State.replay
  grind [!State.count_mem, foldl_mem]

@[simp] theorem State.resend_mem (s : State) (l : List Flit) : (s.resend l).mem = s.mem := by
  fun_induction State.resend s l <;> grind [!State.count_mem, !State.sendFlit_mem]

@[simp] theorem State.refill_mem (s : State) (g m : Nat) : (s.refill g m).mem = s.mem := by
  fun_induction State.refill s g m <;> grind [!State.modGroup_mem, !State.putFlit_mem]

theorem State.lostPulls_inv {s : State} (hs : Inv s) : Inv s.lostPulls := by
  unfold State.lostPulls
  grind [!State.pageLost_inv, foldl_inv]

theorem State.lostMigs_inv {s : State} (hs : Inv s) : Inv s.lostMigs := by
  unfold State.lostMigs
  grind [!State.failMig_inv, foldl_inv]

theorem State.loseGroup_inv {s : State} (g : Nat) (hs : Inv s) : Inv (s.loseGroup g) := by
  fun_cases State.loseGroup s g <;> grind [Inv, !State.modGroup_mem, !State.raiseFault_inv, !State.rerouteColl_inv, !State.resend_mem,
      !State.lostPulls_inv, !State.lostMigs_inv, foldl_inv]

theorem execLaneGroupTrainingDone_keeps {s : State} (g gen peerMod peerGroup own : Nat) (hs : Inv s) :
    NextKeeps (execLaneGroupTrainingDone g gen peerMod peerGroup own s) := by
  unfold execLaneGroupTrainingDone
  grind [Inv, !State.modGroup_mem, !State.replay_mem, NextKeeps]

@[simp] theorem State.linkDenial_mem (s : State) (g mid a : Nat) (k : AKind) : (s.linkDenial g mid a k).mem = s.mem := by
  fun_cases State.linkDenial s g mid a k <;> rfl

@[simp] theorem State.linkCheck_mem (s : State) (g mid addr : Nat) (k : AKind) (n : Nat) (atomicOp : Bool) :
    (s.linkCheck g mid addr k n atomicOp).1.mem = s.mem := by
  fun_cases State.linkCheck s g mid addr k n atomicOp <;> grind [!State.check_mem, !State.linkDenial_mem]

@[simp] theorem State.reply_mem (s : State) (g n : Nat) (load : FlitLoad) : (s.reply g n load).mem = s.mem := by simp [State.reply]

theorem State.viewFar_inv {s : State} (addr : Nat) (bytes : List Byte) (psn : Bool) (hs : Inv s) : Inv (s.viewFar addr bytes psn) := by
  fun_cases State.viewFar s addr bytes psn <;> grind [Inv, !State.memPut_inv]

theorem State.inbound_inv {s : State} (g : Nat) (msg : LinkMsg) (hs : Inv s) : Inv (s.inbound g msg) := by
  fun_cases State.inbound s g msg <;> grind [Inv, !State.sendTo_mem, !State.memPut_inv, !State.atomicAt_inv, !State.endMigration_mem,
      !State.pauseTold_mem, !State.installPolicy_mem, !State.carrySession_mem, !State.servePull_inv, !State.takeList_mem, !State.policyAnswer_mem,
      !State.linkCheck_mem, !State.reply_mem, !State.viewFar_inv]

theorem execFlitReceive_keeps {s : State} (g : Nat) (f : FlitIn) (crcOk : Bool) (acked : Nat) (refused : Bool) (hs : Inv s) :
    NextKeeps (execFlitReceive g f crcOk acked refused s) := by
  unfold execFlitReceive
  grind [Inv, !State.modGroup_mem, !State.replay_mem, !State.refill_mem, !State.loseGroup_inv, !State.inbound_inv, NextKeeps]

theorem execLaneGroupLost_keeps {s : State} (g : Nat) (hs : Inv s) : NextKeeps (execLaneGroupLost g s) := by
  unfold execLaneGroupLost
  grind [Inv, !State.loseGroup_inv, NextKeeps]

theorem execCxlSnoop_keeps {s : State} (_addr : Nat) (hs : Inv s) : NextKeeps (execCxlSnoop _addr s) := by
  unfold execCxlSnoop
  grind [Inv, NextKeeps]

/-! ### Queues of the front end and stream forms -/

@[simp] theorem State.notify_mem (s : State) (v qmsk : Nat) : (s.notify v qmsk).mem = s.mem := by
  fun_cases State.notify s v qmsk <;> rfl

theorem execNotify_keeps {s : State} (v qmsk : Nat) (hs : Inv s) : NextKeeps (execNotify v qmsk s) := by
  unfold execNotify
  grind [Inv, !State.notify_mem, NextKeeps]

@[simp] theorem State.writeVcp_mem (s : State) (v word n : Nat) : (s.writeVcp v word n).mem = s.mem := by
  fun_cases State.writeVcp s v word n <;> rfl

theorem execVcpConfigWrite_keeps {s : State} (m : Master) (v word : Nat) (value : W64) (hs : Inv s) :
    NextKeeps (execVcpConfigWrite m v word value s) := by
  unfold execVcpConfigWrite
  grind [Inv, !State.regWrite_inv, !State.writeVcp_mem, NextKeeps]

theorem State.tamper_inv {s : State} (v q : Nat) (ws : List W64) (hs : Inv s) : Inv (s.tamper v q ws) := by
  unfold State.tamper
  grind [Inv, !State.journal_mem, !State.modVcp_mem, !State.modQueue_mem, !State.guestFault_inv, foldl_inv]

theorem State.accept_inv {s : State} (p : Packet) (obj : Nat) (hs : Inv s) : Inv (s.accept p obj).1 := by
  unfold State.accept
  grind [Inv, !State.journal_mem, !State.count_mem, !State.modQueue_mem, !State.writeDev_inv]

theorem State.fetchLoop_inv {s : State} (v q tail m : Nat) (hs : Inv s) : Inv (s.fetchLoop v q tail m).1 := by
  fun_induction State.fetchLoop s v q tail m <;> grind [Inv, !State.modQueue_mem, !State.vcpRead_inv, !State.stopQueue_inv]

theorem State.fetchFrom_inv {s : State} (v q g : Nat) (hs : Inv s) : Inv (s.fetchFrom v q g).1 := by
  fun_cases State.fetchFrom s v q g <;> grind [Inv, !State.modQueue_mem, !State.stopQueue_inv, !State.fetchLoop_inv]

theorem State.refuseUndefined_inv {s : State} (m : Nat) (hs : Inv s) : Inv (s.refuseUndefined m) := by
  fun_induction State.refuseUndefined s m <;> grind [Inv, !State.finish_mem, !State.accept_inv]

theorem State.scanQueue_inv {s : State} (v q : Nat) (hs : Inv s) : Inv (s.scanQueue v q).1 := by
  fun_cases State.scanQueue s v q <;> grind [Inv, !State.modVcp_mem, !State.modQueue_mem, !State.vcpRead_inv, !State.unfetch_mem,
      !State.stopQueue_inv, !State.tamper_inv, !State.fetchFrom_inv]

theorem execVcpScan_keeps {s : State} (hs : Inv s) : NextKeeps (execVcpScan s) := by
  unfold execVcpScan
  split
  · exact hs
  next v _ =>
    dsimp only
    split
    · exact hs
    refine State.refuseUndefined_inv _ ?_
    split
    all_goals
      change Inv (Prod.fst (List.foldl _ _ _))
      refine foldl_fst_inv ?_ _ ?_
      · exact fun a q ha => State.scanQueue_inv v q ha
      · exact hs

theorem State.writeEntry_inv {s : State} (v q : Nat) (d : DueEntry) (rest : List DueEntry) (hs : Inv s) : Inv (s.writeEntry v q d rest) := by
  fun_cases State.writeEntry s v q d rest <;>
    grind [Inv, !State.modQueue_mem, !State.vcpWrite_inv, !State.stopQueue_inv, !State.writeDev_inv, !State.guestWord_inv, !State.raiseVector_mem]

theorem execCompletionEntryWrite_keeps {s : State} (v q : Nat) (hs : Inv s) : NextKeeps (execCompletionEntryWrite v q s) := by
  unfold execCompletionEntryWrite
  grind [!State.writeEntry_inv, NextKeeps]

theorem State.acceptStrm_keeps {s : State} (slot : Nat) (r : Region) (kind : Nat) (c : List W64) (streams : List Nat) (hs : Inv s) :
    (s.acceptStrm slot r kind c streams).Keeps := by
  fun_cases State.acceptStrm s slot r kind c streams <;> grind [Inv, !State.modRegion_mem, !refuse_keeps, !State.recordPar_inv, FormEnd.Keeps]

theorem strmForm_keeps {s : State} (h va kind : Nat) (kindOk : List W64 → Bool) (streams : List W64 → List Nat) (hs : Inv s) :
    (strmForm s h va kind kindOk streams).Keeps := by
  fun_cases strmForm s h va kind kindOk streams <;>
    grind [!refuse_keeps, !withBlock_keeps, !withRegion_keeps, !Region.refuseState_keeps, !State.acceptStrm_keeps]

theorem execStrmCommand_keeps {s : State} (rd rs1 rs2 : BitVec 5) (hs : Inv s) :
    NextKeeps (execStrmCommand rd rs1 rs2 s) :=
  form_inv hs (strmForm_keeps _ _ _ _ _ hs)

theorem execStrmb_keeps {s : State} (rd rs1 rs2 : BitVec 5) (hs : Inv s) :
    NextKeeps (execStrmb rd rs1 rs2 s) :=
  form_inv hs (strmForm_keeps _ _ _ _ _ hs)

theorem execStrmqCommand_keeps {s : State} (rd rs1 rs2 : BitVec 5) (hs : Inv s) :
    NextKeeps (execStrmqCommand rd rs1 rs2 s) :=
  form_inv hs (by grind [!refuse_keeps, !withRegion_keeps, !Region.refuseState_keeps, FormEnd.Keeps])

theorem State.armRegion_mem (s : State) (slot : Nat) (r : Region) (w : Nat) {s' : State} : s.armRegion slot r w = .ok s' → s'.mem = s.mem := by
  fun_cases State.armRegion s slot r w <;> grind [!State.modRegion_mem]

theorem execSarm_keeps {s : State} (rd rs1 rs2 : BitVec 5) (hs : Inv s) :
    NextKeeps (execSarm rd rs1 rs2 s) :=
  form_inv hs (by grind [Inv, !refuse_keeps, !withRegion_keeps, → State.armRegion_mem, FormEnd.Keeps])

/-! ### Command packets -/

/-- What the check of a packet answers with is canonical, and so is what the packet's effect makes of a canonical state. -/
def Checked.Keeps : Checked → Prop
  | .go s _ f => Inv s ∧ ∀ t r, Inv t → Inv (f t r)
  | .refused s _ _ => Inv s
  | .fault s _ => Inv s

theorem Checked.done_keeps {s : State} (res obj : Nat) {f : State → State} (hs : Inv s) (hf : ∀ t, Inv t → Inv (f t)) :
    (Checked.done s res obj f).Keeps :=
  ⟨hs, fun t r ht => Inv.of_mem_eq (State.finish_mem (f t) r 3 0 res 0 obj) (hf t ht)⟩

theorem State.faultPacket_inv {s : State} (r : PktRef) (f : AccFault) (hs : Inv s) : Inv (s.faultPacket r f) := State.deliverTo_inv _ _ _ _ _ hs

theorem State.handOver_inv {s0 : State} (p : Packet) {c : Checked} (hc : c.Keeps) : Inv (s0.handOver p c) := by
  cases c with
  | go s obj f => exact hc.2 _ _ (State.accept_inv p obj hc.1)
  | refused s e low => exact State.accept_inv (s := { s with cbcache := s0.cbcache }) p 0 hc
  | fault s f => exact State.faultPacket_inv _ _ (State.accept_inv p 0 hc)

theorem withPacket_inv {s : State} {opc named : Nat} {k : State → Packet → Checked} (hs : Inv s) (hk : ∀ p, (k s p).Keeps) :
    Inv (withPacket s opc named k) := by
  fun_cases withPacket s opc named k <;>
    grind [Checked.Keeps, !State.refuseUndefined_inv, !State.handOver_inv, !State.accept_inv, !State.finish_mem, Inv]

theorem Ready.packet_keeps {t : Ready} (ht : t.Keeps) : t.packet.Keeps := by
  cases t with
  | ok s q c => exact ⟨ht, fun t r h => State.enqueueCmd_inv q _ h⟩
  | refused s e low => exact ht
  | fault s f => exact ht

theorem State.startLaunch_inv {s : State} (r : Region) (i : ImgRead) (hs : Inv s) : Inv (s.startLaunch r i) := by
  unfold State.startLaunch
  grind [Inv, !State.modQueue_mem, !State.finish_mem, → State.addRegion_mem, !State.takeImage_inv]

theorem State.launchPacket_keeps {s : State} (p : Packet) (hs : Inv s) : (s.launchPacket p).Keeps := by
  unfold State.launchPacket
  grind [!State.readImageFor_inv, !State.startLaunch_inv, Checked.Keeps]

theorem execLaunch_keeps {s : State} (hs : Inv s) : NextKeeps (execLaunch s) := withPacket_inv hs fun p => by grind [!State.launchPacket_keeps]

theorem execArm_keeps {s : State} (hs : Inv s) : NextKeeps (execArm s) := by
  unfold execArm
  simp only [NextKeeps]
  refine withPacket_inv hs fun p => ?_
  repeat' split
  all_goals grind [Inv, → State.armRegion_mem, !Checked.done_keeps, Checked.Keeps]

theorem State.packetBarrier_inv {s : State} (p : Packet) (va : Nat) (k : AKind) (hs : Inv s) : Inv (s.packetBarrier p va k).1 := by
  fun_cases State.packetBarrier s p va k <;> grind [Inv, !State.check_mem, !State.walk_inv]

theorem execSignal_keeps {s : State} (hs : Inv s) :
    NextKeeps (execSignal s) :=
  withPacket_inv hs fun p => by grind [→ State.arrive_inv, !Checked.done_keeps, !State.packetBarrier_inv, Checked.Keeps]

theorem execWait_keeps {s : State} (hs : Inv s) :
    NextKeeps (execWait s) :=
  withPacket_inv hs fun p => by grind [Inv, !State.modQueue_mem, !State.packetBarrier_inv, Checked.Keeps]

theorem execWaitComplete_keeps {s : State} (seq : Nat) (hs : Inv s) : NextKeeps (execWaitComplete seq s) := by
  unfold execWaitComplete
  grind [Inv, !State.modQueue_mem, !State.finish_mem, NextKeeps]

theorem withCommand_keeps {s : State} {p : Packet} {k : State → List W64 → Ready} (hs : Inv s) (hk : ∀ s1 ws, Inv s1 → (k s1 ws).Keeps) :
    (withCommand s p k).Keeps := by
  fun_cases withCommand s p k <;> grind [Ready.packet_keeps, Checked.Keeps, !State.vcpRead_inv]

theorem execCopy_keeps {s : State} (hs : Inv s) :
    NextKeeps (execCopy s) :=
  withPacket_inv hs fun p => by grind [!State.checkCopy_keeps, !withCommand_keeps]

theorem execCollPacket_keeps {s : State} (hs : Inv s) :
    NextKeeps (execCollPacket s) :=
  withPacket_inv hs fun p => by grind [!State.checkColl_keeps, !withCommand_keeps]

theorem execMigrate_keeps {s : State} (hs : Inv s) :
    NextKeeps (execMigrate s) :=
  withPacket_inv hs fun p => by grind [Inv, !State.physRead_mem, → State.acceptMigration_mem, Checked.Keeps]

theorem execQuery_keeps {s : State} (hs : Inv s) : NextKeeps (execQuery s) := withPacket_inv hs fun p => by grind [!Checked.done_keeps, Checked.Keeps]

@[simp] theorem State.cancelWaits_mem (s : State) (v q : Nat) : (s.cancelWaits v q).mem = s.mem := by
  unfold State.cancelWaits
  grind [!State.modQueue_mem, !State.finish_mem]

theorem execCancel_keeps {s : State} (hs : Inv s) :
    NextKeeps (execCancel s) :=
  withPacket_inv hs fun p => by grind [Inv, !State.finish_mem, !State.endRegion_inv, !State.freeSlot_mem, !State.kill_inv,
      !Checked.done_keeps, !State.cancelWaits_mem, Checked.Keeps]

@[simp] theorem State.reloadRecord_mem (s : State) (part tid v q aseq : Nat) : (s.reloadRecord part tid v q aseq).mem = s.mem := rfl

theorem State.loseStaged_inv {s : State} (e : Option Nat × PktRef) (hs : Inv s) : Inv (s.loseStaged e) := by
  fun_cases State.loseStaged s e <;> grind [Inv, !State.reportFault_inv, !State.faultKill_inv, !State.faultPacket_inv]

theorem State.loseFetched_inv {s : State} (p : Packet) (hs : Inv s) : Inv (s.loseFetched p).1 := by
  unfold State.loseFetched
  grind [!State.accept_inv, !State.faultPacket_inv]

theorem execBedrockFault_keeps {s : State} (hs : Inv s) : NextKeeps (execBedrockFault s) := by
  unfold execBedrockFault
  grind [Inv, !State.reloadRecord_mem, !State.loseStaged_inv, !State.loseFetched_inv, foldl_mem, NextKeeps]

theorem execBedrockUpdate_keeps {s : State} (image signature : List Byte) (hs : Inv s) : NextKeeps (execBedrockUpdate image signature s) := by
  unfold execBedrockUpdate
  grind [Inv, NextKeeps]

/-! ### Device registers -/

theorem State.resumeTicket_inv {s : State} (t : Nat) (hs : Inv s) : Inv (s.resumeTicket t) := by
  fun_cases State.resumeTicket s t <;> grind [Inv, !State.setHead_mem, !State.resumeHops_mem, !State.goOn_inv]

theorem State.writeFaultReg_inv {s : State} (p i v : Nat) (hs : Inv s) : Inv (s.writeFaultReg p i v) := by
  fun_cases State.writeFaultReg s p i v <;> grind [Inv, !State.resumeTicket_inv]

theorem execRsm_keeps {s : State} (m : Master) (p : Nat) (ticket : W64) (hs : Inv s) : NextKeeps (execRsm m p ticket s) := by
  unfold execRsm
  grind [!State.regWrite_inv, !State.writeFaultReg_inv, NextKeeps]

@[simp] theorem State.writePart_mem (s : State) (k v : Nat) : (s.writePart k v).mem = s.mem := rfl

theorem execPartitionTableWrite_keeps {s : State} (m : Master) (k : Nat) (value : W64) (hs : Inv s) :
    NextKeeps (execPartitionTableWrite m k value s) := by
  unfold execPartitionTableWrite
  grind [Inv, !State.regWrite_inv, !State.writePart_mem, NextKeeps]

@[simp] theorem State.writePartBlock_mem (s : State) (p i v : Nat) : (s.writePartBlock p i v).mem = s.mem := by
  fun_cases State.writePartBlock s p i v <;> rfl

theorem execPartitionBlockWrite_keeps {s : State} (m : Master) (p i : Nat) (value : W64) (hs : Inv s) :
    NextKeeps (execPartitionBlockWrite m p i value s) := by
  unfold execPartitionBlockWrite
  grind [Inv, !State.regWrite_inv, !State.writePartBlock_mem, NextKeeps]

theorem State.debugGuard_mem {s : State} {slot : Nat} {f : State → State} (hf : (f s).mem = s.mem) : (s.debugGuard slot f).mem = s.mem := by
  fun_cases State.debugGuard s slot f <;> grind [!State.modDebug_mem]

@[simp] theorem State.stopRegion_mem (s : State) (slot : Nat) : (s.stopRegion slot).mem = s.mem := by
  unfold State.stopRegion
  grind [!State.requestStop_mem, !State.debugGuard_mem]

@[simp] theorem State.resumeStopped_mem (s : State) (slot : Nat) : (s.resumeStopped slot).mem = s.mem := by simp [State.resumeStopped]

@[simp] theorem State.writeDebug_mem (s : State) (slot i v : Nat) : (s.writeDebug slot i v).mem = s.mem := by
  fun_cases State.writeDebug s slot i v <;> grind [!State.modDebug_mem, !State.debugGuard_mem, !State.stopRegion_mem, !State.resumeStopped_mem]

@[simp] theorem State.debugWrite_mem (s : State) (m : Master) (slot i v : Nat) : (s.debugWrite m slot i v).mem = s.mem := by
  fun_cases State.debugWrite s m slot i v
  · rfl
  · exact State.regWrite_mem (State.writeDebug_mem s slot i v)

theorem execDebugBlockWrite_keeps {s : State} (m : Master) (slot i : Nat) (value : W64) (hs : Inv s) :
    NextKeeps (execDebugBlockWrite m slot i value s) := by
  unfold execDebugBlockWrite
  grind [Inv, !State.debugWrite_mem, NextKeeps]

theorem execSrq_keeps {s : State} (m : Master) (slot : Nat) (hs : Inv s) : NextKeeps (execSrq m slot s) := by
  unfold execSrq
  grind [Inv, !State.debugWrite_mem, NextKeeps]

theorem execResumeStoppedRegion_keeps {s : State} (m : Master) (slot : Nat) (hs : Inv s) : NextKeeps (execResumeStoppedRegion m slot s) := by
  unfold execResumeStoppedRegion
  grind [Inv, !State.debugWrite_mem, NextKeeps]

@[simp] theorem State.writeTable_mem (s : State) (t i : Nat) (lo : Bool) (v : Nat) : (s.writeTable t i lo v).mem = s.mem := by
  fun_cases State.writeTable s t i lo v <;> rfl

@[simp] theorem State.writeRoutes_mem (s : State) (p m v : Nat) : (s.writeRoutes p m v).mem = s.mem := rfl

@[simp] theorem State.writeSlice_mem (s : State) (i v : Nat) : (s.writeSlice i v).mem = s.mem := rfl

@[simp] theorem State.writeScrub_mem (s : State) (t v : Nat) : (s.writeScrub t v).mem = s.mem := by
  fun_cases State.writeScrub s t v <;> rfl

theorem State.writeMgmt_inv {s : State} (i v : Nat) (hs : Inv s) : Inv (s.writeMgmt i v) := by
  fun_cases State.writeMgmt s i v <;> grind [Inv, !State.warm_inv]

theorem State.putReg_inv {s : State} (addr v : Nat) (who : Option Nat) (hs : Inv s) : Inv (s.putReg addr v who) := by
  fun_cases State.putReg s addr v who <;>
    grind [Inv, !State.modGroup_mem, !State.writeXlat_mem, !State.notify_mem, !State.writeVcp_mem, !State.writeFaultReg_inv, !State.writePart_mem,
      !State.writePartBlock_mem, !State.writeDebug_mem, !State.writeTable_mem, !State.writeRoutes_mem, !State.writeSlice_mem, !State.writeScrub_mem,
      !State.writeMgmt_inv]

theorem State.writeReg_inv {s : State} (m : Master) (addr v : Nat) (hs : Inv s) : Inv (s.writeReg m addr v) := by
  fun_cases State.writeReg s m addr v <;> grind [!State.regWrite_inv, !State.putReg_inv]

theorem State.putRegBytes_inv {s : State} (o : Nat × Nat × Nat) (who : Option Nat) (hs : Inv s) :
    Inv (s.putRegBytes o who) :=
  State.putReg_inv _ _ _ hs

theorem State.settleRegs_inv {s : State} (hs : Inv s) : Inv s.settleRegs := by
  unfold State.settleRegs
  grind [Inv, !State.putRegBytes_inv, foldl_inv]

@[simp] theorem State.writeCsr_mem (s : State) (h n v : Nat) : (s.writeCsr h n v).mem = s.mem := by
  fun_cases State.writeCsr s h n v <;> rfl

theorem execRegisterWrite_keeps {s : State} (m : Master) (r : RegTarget) (value : W64) (hs : Inv s) : NextKeeps (execRegisterWrite m r value s) := by
  unfold execRegisterWrite
  grind [Inv, !State.writeReg_inv, !State.writeCsr_mem, NextKeeps]

/-! ### Base instructions and fences -/

theorem State.baseStore_inv {s : State} (va : Nat) (bs : List Byte) (hs : Inv s) : Inv (s.baseStore va bs).1 := by
  fun_cases State.baseStore s va bs <;> grind [Inv, !State.hartPiece_mem, !State.hartStore_inv, !State.putRegBytes_inv, foldl_inv]

@[simp] theorem State.baseLoad_mem (s : State) (w : W32) (n : Nat) (sgn : Bool) (va : Nat) : (s.baseLoad w n sgn va).mem = s.mem := by
  fun_cases State.baseLoad s w n sgn va <;> grind [!State.trap_mem, !State.retire_mem, !State.formLoad_mem]

theorem State.baseAmo_inv {s : State} (w : W32) (n va b : Nat) (o : AtomOp) (t : AtomTy) (hs : Inv s) : Inv (s.baseAmo w n va b o t) := by
  fun_cases State.baseAmo s w n va b o t <;> grind [Inv, !State.trap_mem, !State.retire_mem, !State.hartPiece_mem, !State.atomicAt_inv]

@[simp] theorem State.baseLr_mem (s : State) (w : W32) (n va : Nat) : (s.baseLr w n va).mem = s.mem := by
  fun_cases State.baseLr s w n va <;> grind [!State.trap_mem, !State.retire_mem, !State.hartPiece_mem]

theorem State.baseSc_inv {s : State} (w : W32) (n va b : Nat) (hs : Inv s) : Inv (s.baseSc w n va b) := by
  fun_cases State.baseSc s w n va b <;> grind [Inv, !State.memPut_inv, !State.trap_mem, !State.retire_mem, !State.hartPiece_mem]

theorem State.baseCsr_mem (s : State) (w : W32) {s' : State} : s.baseCsr w = some s' → s'.mem = s.mem := by
  fun_cases State.baseCsr s w <;> grind [!State.modHart_mem, !State.trap_mem, !State.retire_mem, !State.writeCsr_mem]

@[simp] theorem State.jump_mem (s : State) (rd : BitVec 5) (target : W64) : (s.jump rd target).mem = s.mem := rfl

theorem State.baseSystem_mem (s : State) (w : W32) {s' : State} : s.baseSystem w = some s' → s'.mem = s.mem := by
  fun_cases State.baseSystem s w <;> grind [!State.modHart_mem, !State.trap_mem, !State.retire_mem]

/-- An optional next state that a pure function of an optional value gives. -/
theorem inv_of_map {α : Type} {f : α → State} {o : Option α} {s' : State} (hf : ∀ a, Inv (f a)) : o.map f = some s' → Inv s' := by
  rw [Option.map_eq_some_iff]
  rintro ⟨a, -, rfl⟩
  exact hf a

theorem State.baseAtomic_inv {s : State} (w : W32) (va b : Nat) {s' : State} (hs : Inv s) : s.baseAtomic w va b = some s' → Inv s' := by
  fun_cases State.baseAtomic s w va b
  case case5 => exact inv_of_map fun p => State.baseAmo_inv _ _ _ _ _ _ hs
  all_goals grind [Inv, !State.baseLr_mem, !State.baseSc_inv]

theorem State.baseRun_inv {s : State} (w : W32) {s' : State} (hs : Inv s) : s.baseRun w = some s' → Inv s' := by
  fun_cases State.baseRun s w
  case case6 => exact inv_of_map fun t => by cases t <;> exact hs
  case case7 => exact inv_of_map fun p => Inv.of_mem_eq (State.baseLoad_mem s w p.1 p.2 _) hs
  case case11 | case12 | case13 | case14 => exact inv_of_map fun v => hs
  all_goals grind [Inv, !State.trap_mem, !State.retire_mem, !State.baseStore_inv, !State.jump_mem, → State.baseCsr_mem, → State.baseSystem_mem,
      → State.baseAtomic_inv]

theorem execFencex_keeps {s : State} (rd rs1 : BitVec 5) (hs : Inv s) :
    NextKeeps (execFencex rd rs1 s) :=
  form_inv hs (by grind [!refuse_keeps, FormEnd.Keeps])

theorem execCbinv_keeps {s : State} (rd rs1 rs2 : BitVec 5) (hs : Inv s) :
    NextKeeps (execCbinv rd rs1 rs2 s) :=
  form_inv hs (by grind [Inv, !refuse_keeps, FormEnd.Keeps])

theorem execCbsync_keeps {s : State} (rd rs1 : BitVec 5) (hs : Inv s) :
    NextKeeps (execCbsync rd rs1 s) :=
  form_inv hs (by grind [Inv, !refuse_keeps, FormEnd.Keeps])

/-! ### Silent-error defence, switching and rollback -/

@[simp] theorem State.corrected_mem (s : State) (t strip : Nat) : (s.corrected t strip).mem = s.mem := by
  fun_cases State.corrected s t strip <;> grind [!State.count_mem, !State.modScrub_mem]

@[simp] theorem State.uncorrected_mem (s : State) (t : Nat) : (s.uncorrected t).mem = s.mem := rfl

@[simp] theorem State.scrubLine_mem (s : State) (t a : Nat) (found : EccResult) : (s.scrubLine t a found).mem = s.mem := by
  fun_cases State.scrubLine s t a found <;> grind [!State.modScrub_mem, !State.corrected_mem, !State.uncorrected_mem]

theorem execScrubWriteback_keeps {s : State} (t : Nat) (hs : Inv s) : NextKeeps (execScrubWriteback t s) := by
  unfold execScrubWriteback
  simp only [NextKeeps]
  split
  · exact hs
  · split
    · exact memWriteBytes_wf _ _ hs
    · exact hs

theorem State.storeFault_inv {s : State} (slot x y elt : Nat) (xna : Bool) (hs : Inv s) :
    Inv (s.storeFault slot x y elt xna) :=
  State.raiseFault_inv _ _ hs

theorem State.scrubElt_inv {s : State} (w : ScrubOf) (e : EltAt) (found : EccResult) (hs : Inv s) : Inv (s.scrubElt w e found) := by
  fun_cases State.scrubElt s w e found <;> grind [Inv, !State.modRegion_mem, !State.corrected_mem, !State.uncorrected_mem, !State.storeFault_inv]

theorem State.scrubUnit_inv {s : State} (slot x y elt : Nat) (found : EccResult) (hs : Inv s) : Inv (s.scrubUnit slot x y elt found) := by
  fun_cases State.scrubUnit s slot x y elt found <;> grind [Inv, !State.corrected_mem, !State.uncorrected_mem, !State.storeFault_inv]

theorem State.scrubThrough_inv {s : State} (slot col row : Nat) (found : EccResult) (hs : Inv s) : Inv (s.scrubThrough slot col row found) := by
  fun_cases State.scrubThrough s slot col row found <;> grind [Inv, !State.corrected_mem, !State.uncorrected_mem, !State.storeFault_inv]

@[simp] theorem State.scrubHardpan_mem (s : State) (found : EccResult) : (s.scrubHardpan found).mem = s.mem := by
  fun_cases State.scrubHardpan s found <;> grind [!State.count_mem, foldl_mem]

@[simp] theorem State.scrubCache_mem (s : State) (h a : Nat) (found : EccResult) : (s.scrubCache h a found).mem = s.mem := by
  fun_cases State.scrubCache s h a found <;> simp

@[simp] theorem State.scrubSram_mem (s : State) (strip n lines : Nat) : (s.scrubSram strip n lines).mem = s.mem := by
  fun_cases State.scrubSram s strip n lines <;> rfl

theorem execScrubRead_keeps {s : State} (w : ScrubOf) (found : EccResult) (hs : Inv s) : NextKeeps (execScrubRead w found s) := by
  unfold execScrubRead
  grind [Inv, !State.scrubLine_mem, !State.scrubElt_inv, !State.scrubUnit_inv, !State.scrubThrough_inv, !State.scrubHardpan_mem,
      !State.scrubCache_mem, !State.scrubSram_mem, NextKeeps]

theorem execHartParityError_keeps {s : State} (h : Nat) (hs : Inv s) : NextKeeps (execHartParityError h s) := by
  unfold execHartParityError
  grind [Inv, !State.ilhusFault_inv, NextKeeps]

theorem execHardpanParityError_keeps {s : State} (hs : Inv s) : NextKeeps (execHardpanParityError s) := by
  unfold execHardpanParityError
  grind [Inv, !State.reloadRecord_mem, !State.loseStaged_inv, !State.loseFetched_inv, foldl_inv, NextKeeps]

theorem execFurrowPass_keeps {s : State} (slot : Nat) (u : UnitId) (hs : Inv s) : NextKeeps (execFurrowPass slot u s) := by
  unfold execFurrowPass
  grind [Inv, !State.modRegion_mem, NextKeeps]

theorem State.captureItem_inv {s : State} (slot : Nat) (i : InAt) (l : Item) (hs : Inv s) : Inv (s.captureItem slot i l) := by
  fun_cases State.captureItem s slot i l <;> grind [Inv, !State.captureScale_mem, !State.captureLate_inv]

@[simp] theorem State.flipTo_mem (s : State) (k : Nat) (outPar : Bool) (col row : Nat) : (s.flipTo k outPar col row).mem = s.mem := by
  fun_cases State.flipTo s k outPar col row <;> grind [!State.setRegion_mem, !State.toState_mem, !State.beginRun_mem]

theorem State.endIncoming_inv {s : State} (slot : Nat) (inc : Option Nat) (hs : Inv s) : Inv (s.endIncoming slot inc) := by
  fun_cases State.endIncoming s slot inc <;> grind [Inv, !State.modRegion_mem, !State.releaseSettle_mem, !State.endRegion_inv]

theorem State.endSwitch_inv {s : State} (slot : Nat) (r : Region) (o : SwitchOut) (hs : Inv s) : Inv (s.endSwitch slot r o) := by
  fun_cases State.endSwitch s slot r o <;>
    grind [Inv, !State.modRegion_mem, !State.areaWrite_inv, !State.releaseSettle_mem, !State.endRegion_inv, !State.settleRollback_inv,
      !State.reportArea_inv, !State.becomeSaved_mem, !State.endIncoming_inv]

theorem execTileFlip_keeps {s : State} (slot col row : Nat) (hs : Inv s) : NextKeeps (execTileFlip slot col row s) := by
  unfold execTileFlip
  simp only [NextKeeps]
  repeat' split
  all_goals grind [Inv, !State.modRegion_mem, !State.captureItem_inv, !State.flipTo_mem, !State.endSwitch_inv, foldl_inv]

theorem execDrainDeadlineExpiry_keeps {s : State} (slot : Nat) (hs : Inv s) : NextKeeps (execDrainDeadlineExpiry slot s) := by
  unfold execDrainDeadlineExpiry
  grind [Inv, !State.setRegion_mem, !State.reportFault_inv, NextKeeps]

theorem execRegionComplete_keeps {s : State} (slot : Nat) (hs : Inv s) : NextKeeps (execRegionComplete slot s) := by
  unfold execRegionComplete
  grind [Inv, !State.setRegion_mem, !State.endRegion_inv, NextKeeps]

theorem State.report40_inv {s : State} (slot : Nat) (r : Region) (info : Nat) (hs : Inv s) :
    Inv (s.report40 slot r info) :=
  State.deliverFault_inv _ _ hs

theorem execRollback_keeps {s : State} (slot : Nat) (hs : Inv s) : NextKeeps (execRollback slot s) := by
  unfold execRollback
  simp only [NextKeeps]
  repeat' split
  all_goals grind [Inv, !State.setRegion_mem, !State.modRegion_mem, !State.toState_mem, !State.clearOwned_mem, !State.releaseSettle_mem,
      !State.endOne_inv, !State.faultKill_inv, !State.search_keeps, !State.readImageAt_inv, !State.rejectRegion_inv, !State.reportArea_inv,
      !State.report40_inv, Found.Keeps]

theorem execDefectMarkPersist_keeps {s : State} (col row : Nat) (hs : Inv s) : NextKeeps (execDefectMarkPersist col row s) := by
  unfold execDefectMarkPersist
  grind [Inv, NextKeeps]

/-! ### Every form and event, the passing of time, and the step -/

/-- Every form and every event keeps the canonical form of memory. -/
theorem exec_keeps {s : State} (i : Instr) (hs : Inv s) : NextKeeps (exec i s) := by
  cases i with
  | selection e => exact execSelection_keeps e hs
  | beat e g => exact execBeat_keeps e g hs
  | tokenArrival a => exact execTokenArrival_keeps a hs
  | scaleTransferArrival a => exact execScaleTransferArrival_keeps a hs
  | windowCreditReturn slot dst => exact execWindowCreditReturn_keeps slot dst hs
  | creditReturn slot dst => exact execCreditReturn_keeps slot dst hs
  | tokenHop slot col row dir => exact execTokenHop_keeps slot col row dir hs
  | laneDriverInput j => exact execLaneDriverInput_keeps j hs
  | laneTransferArrival slot l x y => exact execLaneTransferArrival_keeps slot l x y hs
  | ccuEmit t => exact execCcuEmit_keeps t hs
  | ccuArm t => exact execCcuArm_keeps t hs
  | requestSend t chain => exact execRequestSend_keeps t chain hs
  | requestPerform t chain => exact execRequestPerform_keeps t chain hs
  | atomicApply t chain => exact execAtomicApply_keeps t chain hs
  | remoteAck t chain seq => exact execRemoteAck_keeps t chain seq hs
  | replyDelivery t chain => exact execReplyDelivery_keeps t chain hs
  | translationWalk slot w => exact execTranslationWalk_keeps slot w hs
  | streamDescriptorStart t k => exact execStreamDescriptorStart_keeps t k hs
  | streamLoadUnit t k => exact execStreamLoadUnit_keeps t k hs
  | streamStoreUnit t k => exact execStreamStoreUnit_keeps t k hs
  | streamCompletionToken t k => exact execStreamCompletionToken_keeps t k hs
  | meBankSwap t => exact execMeBankSwap_keeps t hs
  | mxDrainWord t ctx port => exact execMxDrainWord_keeps t ctx port hs
  | mdrcElementWrite engine => exact execMdrcElementWrite_keeps engine hs
  | freezeReceipt slot u => exact execFreezeReceipt_keeps slot u hs
  | frontSettle slot => exact execFrontSettle_keeps slot hs
  | watchdogExpiry slot => exact execWatchdogExpiry_keeps slot hs
  | noProgressReport slot => exact execNoProgressReport_keeps slot hs
  | furrowPass slot u => exact execFurrowPass_keeps slot u hs
  | tileFlip slot col row => exact execTileFlip_keeps slot col row hs
  | drainDeadlineExpiry slot => exact execDrainDeadlineExpiry_keeps slot hs
  | regionComplete slot => exact execRegionComplete_keeps slot hs
  | rollback slot => exact execRollback_keeps slot hs
  | defectMarkPersist col row => exact execDefectMarkPersist_keeps col row hs
  | rgnld rd rs1 => exact execRgnld_keeps rd rs1 hs
  | rgngo rd rs1 rs2 => exact execRgngo_keeps rd rs1 rs2 hs
  | rgndrn rd rs1 rs2 => exact execRgndrn_keeps rd rs1 rs2 hs
  | rgnfrz rd rs1 => exact execRgnfrz_keeps rd rs1 hs
  | rgnsav rd rs1 rs2 => exact execRgnsav_keeps rd rs1 rs2 hs
  | rgnrst rd rs1 rs2 => exact execRgnrst_keeps rd rs1 rs2 hs
  | rgnmov rd rs1 rs2 => exact execRgnmov_keeps rd rs1 rs2 hs
  | rgnkil rd rs1 => exact execRgnkil_keeps rd rs1 hs
  | rgnqry rd rs1 rs2 => exact execRgnqry_keeps rd rs1 rs2 hs
  | rgnslc rd rs1 rs2 => exact execRgnslc_keeps rd rs1 rs2 hs
  | strmCommand rd rs1 rs2 => exact execStrmCommand_keeps rd rs1 rs2 hs
  | strmb rd rs1 rs2 => exact execStrmb_keeps rd rs1 rs2 hs
  | strmqCommand rd rs1 rs2 => exact execStrmqCommand_keeps rd rs1 rs2 hs
  | sarm rd rs1 rs2 => exact execSarm_keeps rd rs1 rs2 hs
  | binit rd rs1 rs2 => exact execBinit_keeps rd rs1 rs2 hs
  | barv rd rs1 rs2 => exact execBarv_keeps rd rs1 rs2 hs
  | barvx rd rs1 rs2 => exact execBarvx_keeps rd rs1 rs2 hs
  | bwait rd rs1 rs2 => exact execBwait_keeps rd rs1 rs2 hs
  | btest rd rs1 rs2 => exact execBtest_keeps rd rs1 rs2 hs
  | tfpsh rd rs1 rs2 => exact execTfpsh_keeps rd rs1 rs2 hs
  | tfpop rd rs1 => exact execTfpop_keeps rd rs1 hs
  | tfqry rd rs1 => exact execTfqry_keeps rd rs1 hs
  | cpy rd rs1 rs2 => exact execCpy_keeps rd rs1 rs2 hs
  | cpyt rd rs1 rs2 => exact execCpyt_keeps rd rs1 rs2 hs
  | cpyq rd rs1 => exact execCpyq_keeps rd rs1 hs
  | coll rd rs1 rs2 => exact execColl_keeps rd rs1 rs2 hs
  | collq rd rs1 => exact execCollq_keeps rd rs1 hs
  | fencex rd rs1 => exact execFencex_keeps rd rs1 hs
  | cbinv rd rs1 rs2 => exact execCbinv_keeps rd rs1 rs2 hs
  | cbsync rd rs1 => exact execCbsync_keeps rd rs1 hs
  | ctrsel rd rs1 rs2 => exact execCtrsel_keeps rd rs1 rs2 hs
  | ctrrd rd rs1 => exact execCtrrd_keeps rd rs1 hs
  | ctrclr rd rs1 => exact execCtrclr_keeps rd rs1 hs
  | trcon rd rs1 rs2 => exact execTrcon_keeps rd rs1 rs2 hs
  | trcoff rd rs1 => exact execTrcoff_keeps rd rs1 hs
  | dunego rd rs1 => exact execDunego_keeps rd rs1 hs
  | duneq rd rs1 => exact execDuneq_keeps rd rs1 hs
  | svpol rd rs1 rs2 => exact execSvpol_keeps rd rs1 rs2 hs
  | jrnrd rd rs1 rs2 => exact execJrnrd_keeps rd rs1 rs2 hs
  | commandIssue q => exact execCommandIssue_keeps q hs
  | copyUnit engine => exact execCopyUnit_keeps engine hs
  | commandRetire q => exact execCommandRetire_keeps q hs
  | engineTokenPush q => exact execEngineTokenPush_keeps q hs
  | barrierCredit n => exact execBarrierCredit_keeps n hs
  | barrierFail n => exact execBarrierFail_keeps n hs
  | barrierNotifyPush n => exact execBarrierNotifyPush_keeps n hs
  | bwaitWake hart => exact execBwaitWake_keeps hart hs
  | collStartExchange strip prev next => exact execCollStartExchange_keeps strip prev next hs
  | collHopUnit strip seq unit => exact execCollHopUnit_keeps strip seq unit hs
  | collHopAck strip seq => exact execCollHopAck_keeps strip seq hs
  | collHopTimeout strip => exact execCollHopTimeout_keeps strip hs
  | kvStepWrite strip => exact execKvStepWrite_keeps strip hs
  | dunePageCopy stream => exact execDunePageCopy_keeps stream hs
  | postcopyDemandPull stream rec page => exact execPostcopyDemandPull_keeps stream rec page hs
  | postcopyPush stream => exact execPostcopyPush_keeps stream hs
  | pullAttemptTimeout stream => exact execPullAttemptTimeout_keeps stream hs
  | notify vcp qmsk => exact execNotify_keeps vcp qmsk hs
  | vcpConfigWrite m vcp word value => exact execVcpConfigWrite_keeps m vcp word value hs
  | vcpScan => exact execVcpScan_keeps hs
  | launch => exact execLaunch_keeps hs
  | arm => exact execArm_keeps hs
  | signal => exact execSignal_keeps hs
  | wait => exact execWait_keeps hs
  | waitComplete seq => exact execWaitComplete_keeps seq hs
  | copy => exact execCopy_keeps hs
  | collPacket => exact execCollPacket_keeps hs
  | migrate => exact execMigrate_keeps hs
  | query => exact execQuery_keeps hs
  | cancel => exact execCancel_keeps hs
  | placementSearch slot => exact execPlacementSearch_keeps slot hs
  | emit slot => exact execEmit_keeps slot hs
  | completionEntryWrite vcp queue => exact execCompletionEntryWrite_keeps vcp queue hs
  | bedrockFault => exact execBedrockFault_keeps hs
  | bedrockUpdate image signature => exact execBedrockUpdate_keeps image signature hs
  | invalidatePage hart asid size => exact execInvalidatePage_keeps hart asid size hs
  | invalidateAsid hart asid => exact execInvalidateAsid_keeps hart asid hs
  | invalidateAll hart => exact execInvalidateAll_keeps hart hs
  | invalidationComplete => exact execInvalidationComplete_keeps hs
  | rsm m part ticket => exact execRsm_keeps m part ticket hs
  | srq m slot => exact execSrq_keeps m slot hs
  | resumeStoppedRegion m slot => exact execResumeStoppedRegion_keeps m slot hs
  | debugBlockWrite m slot word value => exact execDebugBlockWrite_keeps m slot word value hs
  | partitionTableWrite m strip value => exact execPartitionTableWrite_keeps m strip value hs
  | partitionBlockWrite m first off value => exact execPartitionBlockWrite_keeps m first off value hs
  | laneGroupControlWrite m group value => exact execLaneGroupControlWrite_keeps m group value hs
  | registerWrite m r value => exact execRegisterWrite_keeps m r value hs
  | laneGroupTrainingDone group gen peerMod peerGroup own => exact execLaneGroupTrainingDone_keeps group gen peerMod peerGroup own hs
  | flitReceive group flit crcOk acked refused => exact execFlitReceive_keeps group flit crcOk acked refused hs
  | laneGroupLost group => exact execLaneGroupLost_keeps group hs
  | cxlSnoop addr => exact execCxlSnoop_keeps addr hs
  | scrubRead what found => exact execScrubRead_keeps what found hs
  | scrubWriteback target => exact execScrubWriteback_keeps target hs
  | hartParityError hart => exact execHartParityError_keeps hart hs
  | hardpanParityError => exact execHardpanParityError_keeps hs
  | policyCheck => exact execPolicyCheck_keeps hs
  | releaseInstant tid => exact execReleaseInstant_keeps tid hs
  | traceRecordWrite slot => exact execTraceRecordWrite_keeps slot hs
  | throttleEvaluation pnow tj tcool => exact execThrottleEvaluation_keeps pnow tj tcool hs
  | thermalTrip tj => exact execThermalTrip_keeps tj hs
  | warmReset m => exact execWarmReset_keeps m hs
  | coldReset => exact execColdReset_keeps hs
  | lossOfPower => exact execLossOfPower_keeps hs

@[simp] theorem State.countCycles_mem (s : State) : s.countCycles.mem = s.mem := by
  fun_cases State.countCycles s <;> grind [!State.count_mem, foldl_inv, foldl_mem]

@[simp] theorem State.tick_mem (s : State) (ns : Nat) : (s.tick ns).mem = s.mem := by simp [State.tick]

theorem hartStep_keeps {s : State} (hs : Inv s) : NextKeeps (hartStep s) := by
  have hr : Inv (s.hartRead s.cur .fetch false (piecesOf (s.hart s.cur).pc.toNat 4)).1 := Inv.of_mem_eq (State.hartRead_mem ..) hs
  fun_cases hartStep s with
  | case1 => exact hs
  | case2 => split <;> exact hs
  | case3 => exact hs
  | case4 _ _ _ s1 e he => exact (Inv.of_fst he hr :)
  | case5 _ _ _ s1 bs he i n hd => exact exec_keeps i (Inv.of_fst he hr)
  | case6 _ _ _ s1 bs he hd => exact (Inv.of_fst he hr :)
  | case7 _ _ _ s1 bs he e _ hd t ht => exact State.baseRun_inv _ (Inv.of_fst he hr) ht
  | case8 => trivial

theorem settled_keeps {o : Host.Outcome State Fault Refusal} (ho : NextKeeps o) : NextKeeps (settled o) := by
  cases o with
  | next s => exact State.settleRegs_inv ho
  | fault f => trivial
  | refused r => trivial

theorem pulled_keeps {s : State} {o : Host.Outcome State Fault Refusal} (hs : Inv s) (ho : NextKeeps o) : NextKeeps (pulled s o) := by
  fun_cases pulled s o with
  | case1 t => exact ho
  | case2 t asid va =>
    have hp : Inv ((s.askPull asid va).getD s) := by
      cases he : s.askPull asid va with
      | none => exact hs
      | some t1 => exact Inv.of_mem_eq (State.askPull_mem s asid va he) hs
    exact State.lostPulls_inv hp
  | case3 f => trivial
  | case4 r => trivial

theorem turn_keeps {s : State} (hs : Inv s) : NextKeeps (turn s) := by
  fun_cases turn s with
  | case1 i rest => exact pulled_keeps hs (exec_keeps i hs)
  | case2 h rest => exact pulled_keeps hs (hartStep_keeps hs)
  | case3 ns rest => exact Inv.of_mem_eq (State.tick_mem _ ns) hs
  | case4 => exact pulled_keeps hs (hartStep_keeps hs)
  | case5 => exact Inv.of_mem_eq (State.tick_mem s 1) hs

theorem step_keeps {s : State} (hs : Inv s) : NextKeeps (step s) := settled_keeps (turn_keeps hs)

/-- Settles O10: the turn that `step` runs keeps the canonical form, and so do the register writes that take effect as it ends. -/
theorem stepKeepsMemoryCanonical : Obligations.StepKeepsMemoryCanonical := by
  intro s s' hs he
  have h := step_keeps hs
  rwa [he] at h

end Sys2Proof.Machine

namespace Sys2Proof.Machine

/-! ## The machine at work

Selections and beats, counter chains, the steps of a tile's units, arrivals and credits, circuits and lanes, and the steps of a switch.

### The transition that a selection picks (R26 to R29) -/

/-- The transitions that pass the conditions of R26 in `fc`, by index. -/
def Element.runnable (e : Element) (fc : Nat) : List Nat := (List.range 32).filter fun j => (e.stallOf j fc).isNone

theorem Element.mem_runnable {e : Element} {fc j : Nat} : j ∈ e.runnable fc ↔ j < 32 ∧ e.stallOf j fc = none := by
  simp [Element.runnable]

theorem Element.runnable_sorted (e : Element) (fc : Nat) : (e.runnable fc).Pairwise (· < ·) := List.pairwise_lt_range.filter _

/-- The run that a selection begins: one of the transition that is picked, if one is. -/
theorem Element.select_run (e : Element) (fc : Nat) :
    (e.select fc).run = (e.choose (e.runnable fc)).map fun j =>
      { tran := j, bank := (e.tranBank (e.tran j) fc).1, ctag := (e.tranBank (e.tran j) fc).2, issued := fc } := by
  have hr : ((List.range 32).filter fun j => (((List.range 32).map fun j => e.stallOf j fc).getD j (some (1, 0))).isNone) = e.runnable fc := by
    refine List.filter_congr fun j hj => ?_
    simp [List.mem_range.mp hj]
  simp only [Element.select, hr]
  cases e.choose (e.runnable fc) <;> rfl

/-- "Not before" is transitive. -/
theorem keyLt_false_trans {a b c : Nat × Nat × Nat} (hab : keyLt b a = false) (hbc : keyLt c b = false) : keyLt c a = false := by
  simp only [keyLt, Bool.or_eq_false_iff, Bool.and_eq_false_iff, decide_eq_false_iff_not, beq_eq_false_iff_ne] at *
  omega

theorem keyLt_irrefl (a : Nat × Nat × Nat) : keyLt a a = false := by simp [keyLt]

theorem keyLt_asymm {a b : Nat × Nat × Nat} (h : keyLt a b = true) : keyLt b a = false := by
  simp only [keyLt, Bool.or_eq_true, Bool.and_eq_true, decide_eq_true_eq, beq_iff_eq, Bool.or_eq_false_iff, Bool.and_eq_false_iff,
    decide_eq_false_iff_not, beq_eq_false_iff_ne] at *
  omega

/-- Of two transitions, the one that comes first in the order of R28. -/
def Element.earlier (e : Element) (b k : Nat) : Nat := if keyLt (e.choiceKey k) (e.choiceKey b) then k else b

theorem Element.earlier_le (e : Element) (b k : Nat) :
    keyLt (e.choiceKey b) (e.choiceKey (e.earlier b k)) = false ∧ keyLt (e.choiceKey k) (e.choiceKey (e.earlier b k)) = false := by
  unfold Element.earlier
  split
  next h => exact ⟨keyLt_asymm h, keyLt_irrefl _⟩
  next h => exact ⟨keyLt_irrefl _, by simpa using h⟩

/-- None of a list comes before the first of them. -/
theorem Element.foldl_earlier_le (e : Element) (l : List Nat) (b : Nat) :
    ∀ k ∈ b :: l, keyLt (e.choiceKey k) (e.choiceKey (l.foldl e.earlier b)) = false := by
  induction l generalizing b with
  | nil => simp [keyLt_irrefl]
  | cons a l ih =>
    obtain ⟨hb, ha⟩ := e.earlier_le b a
    have hm := ih (e.earlier b a) _ List.mem_cons_self
    intro k hk
    rcases List.mem_cons.mp hk with rfl | hk
    · exact keyLt_false_trans hm hb
    · rcases List.mem_cons.mp hk with rfl | hk
      · exact keyLt_false_trans hm ha
      · exact ih _ k (List.mem_cons_of_mem _ hk)

theorem Element.foldl_earlier_mem (e : Element) (l : List Nat) (b : Nat) : l.foldl e.earlier b ∈ b :: l := by
  induction l generalizing b with
  | nil => simp
  | cons a l ih =>
    have h := ih (e.earlier b a)
    have hc : e.earlier b a = b ∨ e.earlier b a = a := by unfold Element.earlier; split <;> simp
    grind

/-- The runnable transition that has been passed over 512 times, of the lowest index (R29). -/
def Element.overdue (e : Element) (l : List Nat) : Option Nat := l.find? fun j => decide (512 ≤ e.pass.getD j 0)

theorem Element.choose_of_overdue {e : Element} {l : List Nat} {j : Nat} (h : e.overdue l = some j) : e.choose l = some j := by
  unfold Element.overdue at h
  simp only [Element.choose, h]

theorem Element.choose_of_not_overdue {e : Element} {a : Nat} {l : List Nat} (h : e.overdue (a :: l) = none) :
    e.choose (a :: l) = some (l.foldl e.earlier a) := by
  unfold Element.overdue at h
  simp only [Element.choose, h]
  rfl

theorem Element.overdue_eq_none {e : Element} {l : List Nat} : e.overdue l = none ↔ ∀ k ∈ l, e.pass.getD k 0 < 512 := by
  simp [Element.overdue]

@[simp] theorem Element.choose_nil (e : Element) : e.choose [] = none := rfl

/-- What is picked is one of the runnable transitions. -/
theorem Element.choose_mem {e : Element} {l : List Nat} {j : Nat} (h : e.choose l = some j) : j ∈ l := by
  cases ho : e.overdue l with
  | some k =>
    rw [Element.choose_of_overdue ho] at h
    cases h
    exact List.mem_of_find?_eq_some ho
  | none =>
    cases l with
    | nil => cases h
    | cons a l =>
      rw [Element.choose_of_not_overdue ho] at h
      cases h
      exact e.foldl_earlier_mem l a

/-- R29: where a runnable transition is overdue, the one picked is the overdue one of the lowest index. -/
theorem Element.choose_overdue_le {e : Element} {l : List Nat} {j k : Nat} (hl : l.Pairwise (· < ·)) (h : e.choose l = some j)
    (hk : k ∈ l) (hp : 512 ≤ e.pass.getD k 0) : 512 ≤ e.pass.getD j 0 ∧ j ≤ k := by
  cases ho : e.overdue l with
  | none =>
    have := Element.overdue_eq_none.mp ho k hk
    omega
  | some i =>
    rw [Element.choose_of_overdue ho] at h
    cases h
    obtain ⟨hj, pre, post, rfl, hpre⟩ := List.find?_eq_some_iff_append.mp ho
    refine ⟨by simpa using hj, ?_⟩
    rcases List.mem_append.mp hk with hk | hk
    · exact absurd hp (by simpa using hpre k hk)
    · rcases List.mem_cons.mp hk with rfl | hk
      · exact Nat.le_refl _
      · exact Nat.le_of_lt ((List.pairwise_cons.mp (List.pairwise_append.mp hl).2.1).1 k hk)

/-- R28: where none is overdue, no runnable transition comes before the one picked. -/
theorem Element.choose_first {e : Element} {l : List Nat} {j k : Nat} (hl : ∀ k ∈ l, e.pass.getD k 0 < 512) (h : e.choose l = some j)
    (hk : k ∈ l) : keyLt (e.choiceKey k) (e.choiceKey j) = false := by
  cases l with
  | nil => cases hk
  | cons a l =>
    rw [Element.choose_of_not_overdue (Element.overdue_eq_none.mpr hl)] at h
    cases h
    exact e.foldl_earlier_le l a k hk

/-- Settles O32, from what the choice among the runnable transitions gives. -/
theorem selectionChoosesByTheRules : Obligations.SelectionChoosesByTheRules := by
  intro e fc _
  refine ⟨fun hn => ?_, fun u hu => ?_⟩
  · have he : e.runnable fc = [] := by
      refine List.eq_nil_iff_forall_not_mem.mpr fun j hj => ?_
      obtain ⟨hlt, hs⟩ := Element.mem_runnable.mp hj
      exact hn j hlt hs
    rw [Element.select_run, he, Element.choose_nil, Option.map_none]
  · rw [Element.select_run] at hu
    obtain ⟨j, hj, rfl⟩ := Option.map_eq_some_iff.mp hu
    obtain ⟨hlt, hs⟩ := Element.mem_runnable.mp (Element.choose_mem hj)
    refine ⟨hlt, hs, rfl, fun k hk hks hp => ?_, fun hno k hk hks => ?_⟩
    · exact Element.choose_overdue_le (e.runnable_sorted fc) hj (Element.mem_runnable.mpr ⟨hk, hks⟩) hp
    · refine Element.choose_first (fun i hi => ?_) hj (Element.mem_runnable.mpr ⟨hk, hks⟩)
      obtain ⟨hil, his⟩ := Element.mem_runnable.mp hi
      exact hno i hil his

/-! ### SELECTION and BEAT -/

/-- SELECTION of an element that acts and is free to select (R28). -/
theorem exec_selection {s : State} {e : EltAt} {r : Region} (hr : s.region e.slot = some r)
    (ha : r.acts e.x e.y (.elt e.x e.y e.elt) = true) :
    exec (.selection e) s = .next (s.setRegion e.slot (r.modElem e.x e.y e.elt fun el =>
      if (el.run.map fun u => !el.runOver u s.fc).getD false || el.halted || el.selFc == some s.fc then el else el.select s.fc)) := by
  change execSelection e s = _
  rw [execSelection, State.modRegion_of_some hr, if_pos ha]

/-- A beat that may run, on an intact store and with nothing to wait for, commits what its evaluation gives (R32, R33). -/
theorem State.runBeat_of_commit {s : State} {e : EltAt} {r : Region} {el : Element} {run : Run} {effs : List (Nat × Eff)}
    {sends : List (Nat × PortItem)} {ports : List (Nat × PortScan)} {rng : W32} {flags : Nat} {mx : List MxCtx}
    (hi : run.issued < s.fc) (ho : el.runOver run (s.fc - 1) = false) (hb : el.storeBad = false)
    (hw : run.inProgress = true ∨ el.beatWaits run s.fc = none)
    (hf : fireBeat (r.beatEnv e.x e.y el.atStart run) (el.tran run.tran).badr = .commit effs sends ports rng flags mx) :
    s.runBeat e .match_ r el run = s.commitBeat e r el run effs sends ports rng flags mx := by
  have hwait : (if run.inProgress then none else el.beatWaits run s.fc) = none := by
    split
    · rfl
    next h => exact hw.resolve_left h
  have hg : (Grit.match_ == .refire) = false := rfl
  simp only [State.runBeat, if_neg (Nat.not_le.mpr hi), ho, hb, hwait, hg, hf, Bool.false_and, Bool.false_eq_true, if_false]

/-- BEAT at an element in a run, of a unit that acts or with its beat in progress (R32, R36). -/
theorem exec_beat {s : State} {e : EltAt} {g : Grit} {r : Region} {el : Element} {run : Run} (hr : s.region e.slot = some r)
    (he : r.elem e.x e.y e.elt = some el) (hu : el.run = some run)
    (ha : r.acts e.x e.y (.elt e.x e.y e.elt) = true ∨ (run.inProgress = true ∧ r.live e.x e.y = true)) :
    exec (.beat e g) s = .next (s.runBeat e g r el run) := by
  change execBeat e g s = _
  simp [execBeat, hr, he, hu, ha]

/-- Settles O33, from the selection's change of the element and from the course of a beat that may run. -/
theorem selectionAndBeatAct : Obligations.SelectionAndBeatAct := by
  intro s e r el hr he
  refine ⟨fun ha hover hh hsel => ?_, fun run effs sends ports rng flags mx hu ha hi ho hb hw hf => ?_⟩
  · refine ⟨_, _, exec_selection hr ha, rfl, ?_⟩
    have hover' : (el.run.map fun u => !el.runOver u s.fc).getD false = false := by
      cases hu : el.run with
      | none => rfl
      | some u => simp [hover u hu]
    rw [Region.elem_modElem _ _ _ _ _ (by intro a; split <;> simp), he]
    simp [hover', hh, hsel]
  · rw [exec_beat hr he hu ha, State.runBeat_of_commit hi ho hb hw hf]

/-! ### The tokens of a counter chain (R37 to R39) -/

theorem packLanes_lt (w : Nat) (vs : List Nat) : packLanes w vs < 2 ^ (w * vs.length) := by
  induction vs with
  | nil => simp [packLanes]
  | cons v vs ih =>
    have hv : v % 2 ^ w < 2 ^ w := Nat.mod_lt _ (Nat.two_pow_pos w)
    calc packLanes w (v :: vs) < 2 ^ w + 2 ^ w * packLanes w vs := Nat.add_lt_add_right hv _
      _ = 2 ^ w * (packLanes w vs + 1) := by rw [Nat.mul_succ, Nat.add_comm]
      _ ≤ 2 ^ w * 2 ^ (w * vs.length) := Nat.mul_le_mul_left _ ih
      _ = 2 ^ (w * (v :: vs).length) := by rw [← Nat.pow_add, List.length_cons, Nat.mul_succ, Nat.add_comm]

theorem packLanes_div_mod (w : Nat) (vs : List Nat) (i : Nat) : packLanes w vs / 2 ^ (w * i) % 2 ^ w = vs.getD i 0 % 2 ^ w := by
  induction vs generalizing i with
  | nil => simp [packLanes]
  | cons v vs ih =>
    cases i with
    | zero => simp [packLanes]
    | succ i =>
      have hd : packLanes w (v :: vs) / 2 ^ w = packLanes w vs := by
        rw [packLanes, Nat.add_mul_div_left _ _ (Nat.two_pow_pos w), Nat.div_eq_of_lt (Nat.mod_lt _ (Nat.two_pow_pos w)), Nat.zero_add]
      rw [Nat.mul_succ, Nat.add_comm, Nat.pow_add, ← Nat.div_div_eq_div_mul, hd, ih, List.getD_cons_succ]

/-- A lane of a word that is made of lanes (R49). -/
theorem lane_wordOfLanes {w : Nat} {vs : List Nat} (hw : w * vs.length ≤ 128) (i : Nat) : lane w i (wordOfLanes w vs) = vs.getD i 0 % 2 ^ w := by
  have hlt : packLanes w vs < 2 ^ 128 := Nat.lt_of_lt_of_le (packLanes_lt w vs) (Nat.pow_le_pow_right (by decide) hw)
  rw [lane, wordOfLanes, BitVec.toNat_ofNat, Nat.mod_eq_of_lt hlt, packLanes_div_mod]

theorem ofInt_mod (w : Nat) (v : Int) : ofInt w v % 2 ^ w = ofInt w v := by
  refine Nat.mod_eq_of_lt ?_
  have hpos : (0 : Int) < (2 ^ w : Nat) := by exact_mod_cast Nat.two_pow_pos w
  have := Int.emod_lt_of_pos v hpos
  have := Int.emod_nonneg v (Int.ne_of_gt hpos)
  unfold ofInt
  omega

/-- The index token carries the four counters in two's complement (R38). -/
theorem lane_indexToken (v0 v1 v2 v3 : Int) {i : Nat} (hi : i < 4) :
    lane 32 i (indexToken [v0, v1, v2, v3]).word = ofInt 32 ([v0, v1, v2, v3].getD i 0) := by
  rw [indexToken, n32x4, lane_wordOfLanes (by simp)]
  have hcases : i = 0 ∨ i = 1 ∨ i = 2 ∨ i = 3 := by omega
  rcases hcases with rfl | rfl | rfl | rfl <;> exact ofInt_mod 32 _

/-- The index token is sent, whatever stands next. -/
theorem Ccu.emit_index {c : Ccu} (h : c.eos = none) : c.emit.1 = indexToken c.val := by
  simp only [Ccu.emit, h]

theorem Ccu.emit_step {c : Ccu} (h : c.eos = none) (hr : c.inRange c.bound 0 (c.val.getD 0 0 + c.stepOf 0) = true) :
    c.emit.2 = { c with val := c.val.set 0 (c.val.getD 0 0 + c.stepOf 0), eos := none } := by
  simp only [Ccu.emit, h, hr, if_true]

theorem Ccu.emit_complete {c : Ccu} (h : c.eos = none) (hr : c.inRange c.bound 0 (c.val.getD 0 0 + c.stepOf 0) = false) :
    c.emit.2 = { c with val := (c.complete c.bound 0 c.val).1, eos := (c.complete c.bound 0 c.val).2 } := by
  simp only [Ccu.emit, h, hr, Bool.false_eq_true, if_false]

/-- Counter 0 has completed, and counter 1 goes on. -/
theorem Ccu.complete_one {c : Ccu} {bound vals : List Int} (hr : c.inRange bound 1 (vals.getD 1 0 + c.stepOf 1) = true) :
    c.complete bound 0 vals = (vals.set 1 (vals.getD 1 0 + c.stepOf 1), some 1) := by
  have hl : ((List.range 4).filter fun j => decide (0 < j)) = [1, 2, 3] := by decide
  simp only [Ccu.complete, hl, List.find?_cons, hr]

theorem Ccu.emit_last {c : Ccu} (h : c.eos = some 4) : c.emit = ({ eosl := 4 }, { c with running := false, ranOnce := true, eos := none }) := by
  simp only [Ccu.emit, h, if_pos (Nat.le_refl 4)]

/-- Settles O36, clause by clause along what may still step. -/
theorem counterChainTokens : Obligations.CounterChainTokens := by
  intro c v0 v1 v2 v3 hv
  refine ⟨fun he h0 => ?_, fun he h0 h1 => ?_, fun he i hi => ?_, fun he => ?_⟩
  · rw [Ccu.emit_index he, Ccu.emit_step he (by simpa [hv] using h0), hv]
    exact ⟨rfl, rfl, rfl, rfl⟩
  · rw [Ccu.emit_index he, Ccu.emit_complete he (by simpa [hv] using h0), hv, Ccu.complete_one (by simpa using h1)]
    exact ⟨rfl, rfl, rfl⟩
  · rw [Ccu.emit_index he, hv, lane_indexToken _ _ _ _ hi]
  · rw [Ccu.emit_last he]
    exact ⟨rfl, rfl, rfl, rfl⟩

/-! ### The frame of the steps of a tile's units -/

/-- The first entry that meets a test stays so after a change that keeps the test's answer and every entry that meets it. -/
theorem find?_map_of_fixed {α : Type} (l : List α) (p : α → Bool) (f : α → α) (hp : ∀ a, p (f a) = p a) (hf : ∀ a, p a = true → f a = a) :
    (l.map f).find? p = l.find? p := by
  have hpf : p ∘ f = p := funext hp
  rw [List.find?_map, hpf]
  cases h : l.find? p with
  | none => rfl
  | some a => exact congrArg some (hf a (List.find?_some h))

/-- A region that differs from another in one of its tiles alone. -/
def Region.SameButTile (x y : Nat) (r q : Region) : Prop :=
  q = { r with tiles := q.tiles } ∧ ∀ a b, a ≠ x ∨ b ≠ y → q.tile a b = r.tile a b

theorem Region.SameButTile.refl {x y : Nat} (r : Region) : Region.SameButTile x y r r := ⟨rfl, fun _ _ _ => rfl⟩

theorem Region.SameButTile.trans {x y : Nat} {r q p : Region} (h1 : Region.SameButTile x y r q) (h2 : Region.SameButTile x y q p) :
    Region.SameButTile x y r p := by
  obtain ⟨hq, hqt⟩ := h1
  obtain ⟨hp, hpt⟩ := h2
  refine ⟨?_, fun a b hab => (hpt a b hab).trans (hqt a b hab)⟩
  rw [hp, hq]

theorem Region.SameButTile.ite {x y : Nat} {r q p : Region} {c : Prop} [Decidable c] (h1 : Region.SameButTile x y r q)
    (h2 : Region.SameButTile x y r p) : Region.SameButTile x y r (if c then q else p) := by
  split
  · exact h1
  · exact h2

theorem Region.tile_modTile_ne (r : Region) {x y a b : Nat} (f : Tile → Tile) (hf : ∀ t, (f t).x = t.x ∧ (f t).y = t.y) (h : a ≠ x ∨ b ≠ y) :
    (r.modTile x y f).tile a b = r.tile a b := by
  refine find?_map_of_fixed r.tiles (fun t => t.x == a && t.y == b) _ (fun t => ?_) fun t ht => ?_
  · split
    · rw [(hf t).1, (hf t).2]
    · rfl
  · simp only [Bool.and_eq_true, beq_iff_eq] at ht
    exact if_neg (by simp only [Bool.and_eq_true, beq_iff_eq]; omega)

theorem Region.modTile_sameButTile (r : Region) (x y : Nat) (f : Tile → Tile) (hf : ∀ t, (f t).x = t.x ∧ (f t).y = t.y) :
    Region.SameButTile x y r (r.modTile x y f) :=
  ⟨rfl, fun _ _ h => r.tile_modTile_ne f hf h⟩

theorem Region.modElem_sameButTile (r : Region) (x y : Nat) (k : Elt) (f : Element → Element) : Region.SameButTile x y r (r.modElem x y k f) :=
  r.modTile_sameButTile x y _ fun _ => ⟨rfl, rfl⟩

theorem Region.modCcu_sameButTile (r : Region) (x y : Nat) (f : Ccu → Ccu) : Region.SameButTile x y r (r.modCcu x y f) :=
  r.modTile_sameButTile x y _ fun _ => ⟨rfl, rfl⟩

theorem Region.modMe_sameButTile (r : Region) (x y : Nat) (f : Me → Me) : Region.SameButTile x y r (r.modMe x y f) :=
  r.modElem_sameButTile x y .me _

theorem Region.modChain_sameButTile (r : Region) (x y c : Nat) (f : Chain → Chain) : Region.SameButTile x y r (r.modChain x y c f) :=
  r.modMe_sameButTile x y _

theorem Region.modReq_sameButTile (r : Region) (x y c seq : Nat) (f : Req → Req) : Region.SameButTile x y r (r.modReq x y c seq f) :=
  r.modChain_sameButTile x y c _

/-- A step that answers with the change of one region. -/
def RegionStep (slot : Nat) (s : State) (o : Host.Outcome State Fault Refusal) : Prop := ∃ f, o = .next (s.modRegion slot f)

/-- A step that answers with the change of one tile of a region. -/
def TileStep (slot x y : Nat) (s : State) (o : Host.Outcome State Fault Refusal) : Prop :=
  ∃ f, o = .next (s.modRegion slot f) ∧ ∀ r, Region.SameButTile x y r (f r)

theorem State.modRegion_region_ne (s : State) {k j : Nat} (f : Region → Region) (h : j ≠ k) : (s.modRegion k f).region j = s.region j := by
  unfold State.modRegion
  split
  · exact s.region_setRegion_ne _ h
  · rfl

theorem RegionStep.frame {slot : Nat} {s t : State} (h : RegionStep slot s (.next t)) :
    t = { s with regions := t.regions } ∧ (∀ j, j ≠ slot → t.region j = s.region j) ∧ (s.region slot = none → t = s) := by
  obtain ⟨f, hf⟩ := h
  cases hf
  exact ⟨s.modRegion_frame slot f, fun j hj => s.modRegion_region_ne f hj, fun hn => State.modRegion_of_none hn f⟩

theorem TileStep.frame {slot x y : Nat} {s t : State} (h : TileStep slot x y s (.next t)) :
    t = { s with regions := t.regions } ∧ (∀ j, j ≠ slot → t.region j = s.region j) ∧
      ∀ r q, s.region slot = some r → t.region slot = some q → Region.SameButTile x y r q := by
  obtain ⟨f, hf, htile⟩ := h
  cases hf
  refine ⟨s.modRegion_frame slot f, fun j hj => s.modRegion_region_ne f hj, fun r q hr hq => ?_⟩
  rw [State.modRegion_of_some hr, State.region_setRegion] at hq
  cases hq
  exact htile r

theorem execSelection_tileStep (e : EltAt) (s : State) : TileStep e.slot e.x e.y s (execSelection e s) :=
  ⟨_, rfl, fun r => .ite (r.modElem_sameButTile ..) (.refl r)⟩

theorem execCcuEmit_tileStep (a : TileAt) (s : State) : TileStep a.slot a.x a.y s (execCcuEmit a s) := by
  refine ⟨_, rfl, fun r => ?_⟩
  split
  · exact .refl r
  · exact .ite (.refl r) (r.modCcu_sameButTile ..)

theorem execRequestSend_tileStep (a : TileAt) (c : Nat) (s : State) : TileStep a.slot a.x a.y s (execRequestSend a c s) := by
  refine ⟨_, rfl, fun r => ?_⟩
  have hsettle (seq : Nat) (f : Req → Req) : Region.SameButTile a.x a.y r ((r.modReq a.x a.y c seq f).modChain a.x a.y c Chain.sweep) :=
    (r.modReq_sameButTile ..).trans (Region.modChain_sameButTile ..)
  split
  · exact .refl r
  · split
    · exact .refl r
    · refine .ite (.refl r) ?_
      split
      · exact hsettle ..
      · exact hsettle ..
      · exact hsettle ..
      · exact .ite (hsettle ..) (.ite (.refl r) (r.modReq_sameButTile ..))

theorem execRemoteAck_tileStep (a : TileAt) (c seq : Nat) (s : State) : TileStep a.slot a.x a.y s (execRemoteAck a c seq s) :=
  ⟨_, rfl, fun r => (r.modReq_sameButTile ..).trans (Region.modChain_sameButTile ..)⟩

theorem execReplyDelivery_tileStep (a : TileAt) (c : Nat) (s : State) : TileStep a.slot a.x a.y s (execReplyDelivery a c s) := by
  refine ⟨_, rfl, fun r => ?_⟩
  split
  · exact .refl r
  · dsimp only
    split
    · exact .refl r
    · split
      · exact .refl r
      · exact .ite (.refl r) ((r.modElem_sameButTile ..).trans (Region.modChain_sameButTile ..))

theorem execMeBankSwap_tileStep (a : TileAt) (s : State) : TileStep a.slot a.x a.y s (execMeBankSwap a s) := by
  refine ⟨_, rfl, fun r => ?_⟩
  split
  · exact .refl r
  · exact .ite (.refl r) (.ite ((r.modMe_sameButTile ..).trans (Region.modElem_sameButTile ..)) (r.modMe_sameButTile ..))

theorem execMxDrainWord_tileStep (a : TileAt) (c port : Nat) (s : State) : TileStep a.slot a.x a.y s (execMxDrainWord a c port s) := by
  refine ⟨_, rfl, fun r => ?_⟩
  split
  · exact .refl r
  · split
    · exact .refl r
    · exact .ite (.refl r) (r.modElem_sameButTile ..)

/-- Settles O59: the first steps answer with the change of one tile, the others with the change of one region. -/
theorem unitStepsStayInTheirTile : Obligations.UnitStepsStayInTheirTile := by
  intro s t
  refine ⟨fun e a c k seq ha i hi ht => ?_, fun slot x y dst l u n hn i hi ht => ?_⟩
  · obtain ⟨hslot, hx, hy⟩ := ha
    refine TileStep.frame (ht ▸ ?_)
    simp only [List.mem_cons, List.not_mem_nil, or_false] at hi
    rw [← hslot, ← hx, ← hy]
    rcases hi with rfl | rfl | rfl | rfl | rfl | rfl | rfl
    · rw [hslot, hx, hy]
      exact execSelection_tileStep e s
    · exact execCcuEmit_tileStep a s
    · exact execRequestSend_tileStep a c s
    · exact execRemoteAck_tileStep a c seq s
    · exact execReplyDelivery_tileStep a c s
    · exact execMeBankSwap_tileStep a s
    · exact execMxDrainWord_tileStep a c k s
  · subst hn
    refine RegionStep.frame (ht ▸ ?_)
    simp only [List.mem_cons, List.not_mem_nil, or_false] at hi
    rcases hi with rfl | rfl | rfl | rfl | rfl | rfl <;> exact ⟨_, rfl⟩

/-! ### Arrivals and credits (R19, R90, R175, R176) -/

/-- An entry without a delay line passes an item straight on (R399). -/
theorem Region.passOn_of_no_delay {w : W64} (h : rtDle w = false) (r : Region) (i : InAt) (it : Item) :
    r.passOn i w it = (r.takeInput i, some it) := by
  simp [Region.passOn, h]

/-- A token has room in its channel: it is discarded there (R90), or a place of the FIFO is free (R19). -/
theorem Element.tokenArrive_of_room {el : Element} {ch : Nat} {tok : Token} (hd : cfgDef (el.cfg ch) = true)
    (hroom : (tok.eosl ≠ 0 ∧ cfgEosh (el.cfg ch) = 1) ∨ (el.chan ch).fifo.length + (el.chan ch).coming < 8) :
    el.tokenArrive ch tok = .ok (el.arrive ch (.token tok)) := by
  have hno : (!(tok.eosl != 0 && cfgEosh (el.cfg ch) == 1) && decide (8 ≤ (el.chan ch).fifo.length + (el.chan ch).coming)) = false := by
    rcases hroom with ⟨he, hc⟩ | hlt
    · have he' : (tok.eosl != 0) = true := bne_iff_ne.mpr he
      simp only [he', hc, BEq.rfl, Bool.and_self, Bool.not_true, Bool.false_and]
    · rw [decide_eq_false (Nat.not_le.mpr hlt), Bool.and_false]
  simp only [Element.tokenArrive, hd, hno, Bool.not_true, Bool.false_eq_true, if_false]

theorem State.tokenAt_of_room {s : State} {slot x y ch : Nat} {r : Region} {e : Elt} {el : Element} {tok : Token}
    (hr : s.region slot = some r) (he : r.elem x y e = some el) (hd : cfgDef (el.cfg ch) = true)
    (hroom : (tok.eosl ≠ 0 ∧ cfgEosh (el.cfg ch) = 1) ∨ (el.chan ch).fifo.length + (el.chan ch).coming < 8) :
    s.tokenAt slot x y e ch tok = s.setRegion slot (r.modElem x y e fun _ => el.arrive ch (.token tok)) := by
  simp [State.tokenAt, hr, he, Element.tokenArrive_of_room hd hroom, State.modRegion_of_some hr]

theorem State.scaleAt_of_credit {s : State} {slot x y ch : Nat} {r : Region} {e : Elt} {el : Element} {z : BitVec 9}
    (hr : s.region slot = some r) (he : r.elem x y e = some el) (hd : cfgDef (el.cfg ch) = true) (hb : (cfgBlock (el.cfg ch)).isSome = true)
    (hc : (el.chan ch).comingScales < (el.chan ch).win.crd) :
    s.scaleAt slot x y e ch z = s.setRegion slot (r.modElem x y e fun a => a.arrive ch (.scale z)) := by
  have hb' : (cfgBlock (el.cfg ch)).isNone = false := by simpa [← Option.isSome_iff_ne_none] using hb
  simp [State.scaleAt, hr, he, hd, hb', Nat.not_le.mpr hc, State.modRegion_of_some hr]

/-- Two changes of a list's place that agree on what stands there. -/
theorem upd_congr {α : Type} {l : List α} {i : Nat} {f g : α → α} (d : α) (h : f (l.getD i d) = g (l.getD i d)) : upd l i f = upd l i g := by
  refine List.ext_getElem? fun j => ?_
  simp only [upd, List.getElem?_modify]
  split
  next hj =>
    subst hj
    cases he : l[i]? with
    | none => rfl
    | some a =>
      rw [List.getD_eq_getElem?_getD, he] at h
      exact congrArg some h
  · rfl

/-- A data token enters at the end of its FIFO, and no credit returns. -/
theorem Element.enter_data (el : Element) (ch fc : Nat) {tok : Token} (h : tok.eosl = 0) :
    el.enter ch fc (.token tok) = (el.modChan ch fun x => { x with fifo := x.fifo ++ [{ tok := el.stamp ch tok, arrived := fc }] }, 0) := by
  have he : (tok.eosl != 0) = false := by rw [h]; rfl
  simp only [Element.enter, Element.tokenEnter, he, Bool.false_and, Bool.false_eq_true, if_false]
  exact congrArg (fun l => (({ el with chans := l } : Element), 0)) (upd_congr {} rfl)

section
variable {s : State} {i : InAt} {r : Region} {w : W64} {x y : Nat} {e : Elt}

/-- TOKEN_ARRIVAL at an input whose entry ends here, without a delay line, in a channel. -/
theorem exec_tokenArrival {tok : Token} (hr : s.region i.slot = some r) (hm : r.moving = true) (hh : r.holdsAt i.col i.row = true)
    (hs : r.spanPort i = false) (hw : r.localRoute i = some w) (hp : r.imageOf i.col i.row = some (x, y)) (he : Elt.ofCode (rtDst w) = some e)
    (hd : rtDst w ≤ 3) (hl : rtDle w = false) (hi : r.inputHead i = some (.token tok)) :
    exec (.tokenArrival (.input i)) s = .next ((s.setRegion i.slot (r.takeInput i)).tokenAt i.slot x y e (rtDix w) tok) := by
  change execTokenArrival (.input i) s = _
  simp [execTokenArrival, hr, hm, hh, hs, hw, hp, he, hi, Region.passOn_of_no_delay hl, Nat.le_succ_of_le hd]

/-- SCALE_TRANSFER_ARRIVAL at such an input. -/
theorem exec_scaleTransferArrival {z : BitVec 9} (hr : s.region i.slot = some r) (hm : r.moving = true) (hh : r.holdsAt i.col i.row = true)
    (hs : r.spanPort i = false) (hw : r.localRoute i = some w) (hp : r.imageOf i.col i.row = some (x, y)) (he : Elt.ofCode (rtDst w) = some e)
    (hd : rtDst w ≤ 3) (hl : rtDle w = false) (hi : r.inputHead i = some (.scale z)) :
    exec (.scaleTransferArrival (.input i)) s = .next ((s.setRegion i.slot (r.takeInput i)).scaleAt i.slot x y e (rtDix w) z) := by
  change execScaleTransferArrival (.input i) s = _
  have hlane : rtDst w ≠ 9 ∧ rtDst w ≠ 10 := by omega
  simp [execScaleTransferArrival, hr, hm, hh, hs, hw, hp, he, hi, Region.passOn_of_no_delay hl, hlane]

end

/-- A credit on its way to a channel that is no span is held by the channel's source when it returns. -/
theorem State.creditReturn_of_takeFirst {s : State} {slot : Nat} {r : Region} {dst : DestId} {src : SourceId} {cs : List (DestId × Bool)}
    {window : Bool} (hr : s.region slot = some r) (hn : ∀ n, dst ≠ .span n) (hs : r.sourceOf dst = some src)
    (ht : takeFirst r.credits (dst, window) = some cs) :
    s.creditReturn slot dst window = s.setRegion slot (({ r with credits := cs } : Region).giveCredit src dst window) := by
  rw [State.creditReturn, State.modRegion_of_some hr]
  cases dst with
  | span n => exact absurd rfl (hn n)
  | _ => simp only [ht, hs]

/-- Settles O34, from what the arrivals at a channel with room and the return of a credit do. -/
theorem arrivalsAndCredits : Obligations.ArrivalsAndCredits := by
  refine ⟨fun s i r w x y e el hr hm hh hs hw hp he hd hl hel => ⟨fun tok hi hdef hroom => ?_, fun z hi hdef hb hc => ?_⟩,
    fun el ch fc tok h => el.enter_data ch fc h,
    fun s slot r dst src cs hr hn hs => ⟨fun ht => ?_, fun ht => ?_⟩⟩
  · rw [exec_tokenArrival hr hm hh hs hw hp he hd hl hi, State.tokenAt_of_room (State.region_setRegion ..) hel hdef hroom]
  · rw [exec_scaleTransferArrival hr hm hh hs hw hp he hd hl hi, State.scaleAt_of_credit (State.region_setRegion ..) hel hdef hb hc]
  · change execCreditReturn slot dst s = _
    rw [execCreditReturn, State.creditReturn_of_takeFirst hr hn hs ht]
  · change execWindowCreditReturn slot dst s = _
    rw [execWindowCreditReturn, State.creditReturn_of_takeFirst hr hn hs ht]

/-! ### Hops, lanes and counter-chain units (R37 to R40, R138, R394, R400) -/

/-- With one circuit ready, the link carries it wherever its pointer stands (R395). -/
theorem find?_orElse_head?_singleton {α : Type} (a : α) (p : α → Bool) : (([a].find? p).orElse fun _ => [a].head?) = some a := by
  cases h : p a <;> simp [h]

/-- TOKEN_HOP of a token or a scale transfer that one circuit has ready, towards a tile that has not flipped. -/
theorem exec_tokenHop {s : State} {slot col row dir n c2 w2 : Nat} {r : Region} {i : InAt} {w : W64} {it : Item} (hr : s.region slot = some r)
    (hm : r.moving = true) (hh : r.holdsAt col row = true) (hready : s.readyHops slot r col row dir = [(n, i, w)])
    (hi : r.inputHead i = some it) (hn : neighbour col row dir = some (c2, w2)) (hl : rtDle w = false) (hf : it ≠ .furrow)
    (hflip : r.flipped c2 w2 = false) :
    exec (.tokenHop slot col row dir) s =
      .next (({ s with pointers := insertKV s.pointers (col, row, dir) n } : State).setRegion slot ((r.takeInput i).modSwitch c2 w2 fun a =>
        a.setBuf (opposite dir, n) (a.buf (opposite dir, n) ++ [{ item := it, par := r.inputPar i }]))) := by
  change execTokenHop slot col row dir s = _
  have hne : (some it == some Item.furrow) = false := by simpa using hf
  simp only [execTokenHop, hr, hm, hh, hready, find?_orElse_head?_singleton, hi, hn, Region.passOn_of_no_delay hl, hne, hflip, Bool.not_true,
    Bool.or_self, Bool.false_eq_true, if_false]

/-- LANE_DRIVER_INPUT of a token that ends, without a delay line, in a lane's driver. -/
theorem exec_laneDriverInput {s : State} {i : InAt} {r q : Region} {w : W64} {x y : Nat} {l : LaneId} {d : LaneDrv} {f : Fmt} {tok : Token}
    (hr : s.region i.slot = some r) (hm : r.moving = true) (hh : r.holdsAt i.col i.row = true) (hi : r.inputHead i = some (.token tok))
    (hw : r.localRoute i = some w) (hp : r.imageOf i.col i.row = some (x, y)) (hlane : (rtDst w = 9 ∧ l = .row y) ∨ (rtDst w = 10 ∧ l = .col x))
    (hd : r.driver l = some d) (hf : fmtOf d.fmt = some f) (hl : rtDle w = false) (ht : (r.takeInput i).driverTakes d f tok = some q) :
    exec (.laneDriverInput i) s = .next (s.setRegion i.slot q) := by
  change execLaneDriverInput i s = _
  have hlane' : (if rtDst w = 9 then some (LaneId.row y) else if rtDst w = 10 then some (.col x) else none) = some l := by
    rcases hlane with ⟨h, rfl⟩ | ⟨h, rfl⟩ <;> simp [h]
  rw [execLaneDriverInput, State.modRegion_of_some hr]
  simp only [hm, hh, hi, hw, hp, hlane', Option.bind_some, hd, hf, Region.passOn_of_no_delay hl, ht, Bool.not_true, Bool.or_self,
    Bool.false_eq_true, if_false]

/-- The change of the first entry of a list that is `a`. -/
theorem upd_findIdx {α : Type} [DecidableEq α] {pre post : List α} {a : α} (h : a ∉ pre) (f : α → α) :
    upd (pre ++ a :: post) ((pre ++ a :: post).findIdx (· == a)) f = pre ++ f a :: post := by
  induction pre with
  | nil => simp [upd, List.findIdx_cons]
  | cons b pre ih =>
    obtain ⟨hb, hpre⟩ := not_or.mp fun hm => h (List.mem_cons.mpr hm)
    have hb' : (b == a) = false := beq_false_of_ne (Ne.symm hb)
    have ih := ih hpre
    simp only [upd] at ih
    simp [upd, List.findIdx_cons, hb', ih]

/-- Reading the element that was changed, by a change that keeps the kind it has. -/
theorem Region.elem_modElem_of_elt (r : Region) (x y : Nat) (k : Elt) (f : Element → Element) (hf : ∀ e, e.elt = k → (f e).elt = k) :
    (r.modElem x y k f).elem x y k = (r.elem x y k).map f := by
  unfold Region.elem Region.modElem
  rw [Region.tile_modTile r x y (·.modElem k f) fun t => ⟨rfl, rfl⟩]
  cases r.tile x y with
  | none => rfl
  | some t => exact find?_map_if t.elts (fun e => e.elt == k) f fun e h => beq_iff_eq.mpr (hf e (beq_iff_eq.mp h))

/-- The first entry of a list that meets a test, in its place, and the change of it there. -/
theorem upd_findIdx_of_find? {α : Type} [DecidableEq α] {l : List α} {p : α → Bool} {a : α} (h : l.find? p = some a) (f : α → α) :
    ∃ pre post, l = pre ++ a :: post ∧ upd l (l.findIdx (· == a)) f = pre ++ f a :: post := by
  obtain ⟨ha, pre, post, rfl, hpre⟩ := List.find?_eq_some_iff_append.mp h
  have hnot : a ∉ pre := fun hm => by simpa [ha] using hpre a hm
  exact ⟨pre, post, rfl, upd_findIdx hnot f⟩

/-- LANE_TRANSFER_ARRIVAL of the oldest transfer of the lane that the MX has yet to receive. -/
theorem exec_laneTransferArrival {s : State} {slot x y c : Nat} {r : Region} {l : LaneId} {f : LaneFly} {e : Element}
    (hr : s.region slot = some r) (hm : r.moving = true) (hh : r.holds x y = true)
    (hf : r.fly.find? (fun a => a.lane == l && a.left.contains (x, y)) = some f) (he : r.elem x y .mx = some e) (hc : e.laneChan l = some c) :
    exec (.laneTransferArrival slot l x y) s = .next (s.setRegion slot { (r.modElem x y .mx fun _ => e.arrive c (.lane f.scales f.val)) with
      fly := (upd r.fly (r.fly.findIdx (· == f)) fun g => { g with left := g.left.filter (· != (x, y)) }).filter fun g => !g.left.isEmpty }) := by
  change execLaneTransferArrival slot l x y s = _
  rw [execLaneTransferArrival, State.modRegion_of_some hr]
  simp only [hf, hm, hh, he, hc, Option.bind_some, Option.map_some, Bool.not_true, Bool.or_self, Bool.false_eq_true, if_false]

/-- CCU_EMIT of a running chain that may send. -/
theorem exec_ccuEmit {s : State} {a : TileAt} {r : Region} {c : Ccu} (hr : s.region a.slot = some r) (hc : r.ccu a.x a.y = some c)
    (ha : r.acts a.x a.y (.ccu a.x a.y) = true) (hs : c.stopped = false) (hrun : c.running = true) (hcred : c.fcred ≠ 0)
    (hfc : c.emitFc ≠ some s.fc) :
    exec (.ccuEmit a) s = .next (s.setRegion a.slot (r.modCcu a.x a.y fun _ =>
      { c.emit.2 with fcred := c.fcred - 1, out := c.out ++ [c.emit.1], emitFc := some s.fc,
                      stopped := r.state == .draining && decide (2 ≤ c.emit.1.eosl.toNat) })) := by
  change execCcuEmit a s = _
  have hfc' : (c.emitFc == some s.fc) = false := beq_false_of_ne hfc
  rw [execCcuEmit, State.modRegion_of_some hr]
  simp only [hc, ha, hs, hrun, hcred, hfc', Bool.not_true, Bool.or_self, Bool.false_eq_true, decide_false, if_false]

/-- CCU_ARM with a clean arm token at the head of an idle unit. -/
theorem exec_ccuArm {s : State} {a : TileAt} {r : Region} {c : Ccu} {h : FifoTok} {rest : List FifoTok} (hr : s.region a.slot = some r)
    (hc : r.ccu a.x a.y = some c) (ha : r.acts a.x a.y (.ccu a.x a.y) = true) (hs : c.stopped = false) (hq : c.armq = h :: rest)
    (hrun : c.running = false) (hfc : h.arrived < s.fc) (hp : h.tok.psn = false) (he : h.tok.eosl = 0) :
    exec (.ccuArm a) s = .next ((s.setRegion a.slot ((r.modCcu a.x a.y fun _ => { c with armq := rest }).addCredits (.arm a.x a.y) 1 0)).modRegion
      a.slot fun r => r.modCcu a.x a.y fun _ =>
        { ({ c with armq := rest } : Ccu).begin_ (c.bounds.mapIdx fun i v => if c.ovm i then toSigned 32 (lane 32 i h.tok.word) else v) with
          emitFc := some s.fc }) := by
  change execCcuArm a s = _
  have he' : (h.tok.eosl != 0) = false := by rw [he]; rfl
  simp only [execCcuArm, hr, hc, hq, ha, hs, hrun, hp, he', decide_eq_false (Nat.not_le.mpr hfc), Bool.not_true, Bool.or_self, Bool.false_eq_true,
    if_false]

/-- Settles O35, step by step from what each does. -/
theorem circuitsAndLanesMove : Obligations.CircuitsAndLanesMove := by
  intro s slot r hr
  refine ⟨fun col row dir n i w it c2 w2 hm hh hready hi hn hl hf hflip => ?_,
    fun i w x y l d f tok q hslot hm hh hi hw hp hlane hd hf hl ht => ?_,
    fun l x y f e c hm hh hf he hc => ?_,
    fun x y c hc ha hs => ⟨fun hrun hcred hfc => ?_, fun a rest hq hrun hfc hp he => ?_⟩⟩
  · refine ⟨_, _, exec_tokenHop hr hm hh hready hi hn hl hf hflip, State.region_setRegion .., look_insertKV_self .., rfl, rfl⟩
  · subst hslot
    exact exec_laneDriverInput hr hm hh hi hw hp hlane hd hf hl ht
  · refine ⟨_, _, exec_laneTransferArrival hr hm hh hf he hc, rfl, ?_, rfl, ?_, rfl, rfl⟩
    · have hk : (e.arrive c (.lane f.scales f.val)).elt = .mx := (e.arrive_elt c _).trans (Region.elem_elt he)
      exact (Region.elem_modElem_of_elt r x y .mx _ fun _ _ => hk).trans (by rw [he]; rfl)
    · obtain ⟨pre, post, hs, hu⟩ := upd_findIdx_of_find? hf fun g => { g with left := g.left.filter (· != (x, y)) }
      exact ⟨pre, post, hs, congrArg (List.filter _) hu⟩
  · exact exec_ccuEmit hr hc ha hs hrun hcred hfc
  · refine ⟨_, _, exec_ccuArm hr hc ha hs hq hrun hfc hp he,
      by rw [State.modRegion_of_some (State.region_setRegion ..), State.region_setRegion], ?_, List.append_nil _⟩
    have h1 : ((r.modCcu x y fun _ => { c with armq := rest }).addCredits (.arm x y) 1 0).ccu x y = some { c with armq := rest } :=
      (Region.ccu_modCcu r x y _).trans (by rw [hc]; rfl)
    rw [Region.ccu_modCcu, h1]
    rfl

/-! ### The steps of a switch, and the end of a region (R124, R355 to R361) -/

/-- A quiet element other than an ME, whose turn it is, hands the Furrow to each of its connected ports (R357). -/
theorem Region.furrowStep_elt {r : Region} {x y : Nat} {k : Elt} {e : Element} (hp : r.hasPassed (.elt x y k) = false) (hk : k ≠ .me)
    (he : r.elem x y k = some e) (hh : r.holds x y = true) (hq : r.eltQuiet x y e = true) (hl : r.lowerPassed x y e.stage = true) :
    r.furrowStep (.elt x y k) = r.passFurrow x y (.elt x y k)
      (((List.range 16).filter fun q => (r.destOf (.port x y k q)).isSome).map fun q => (k.code, q)) := by
  simp [Region.furrowStep, hp, hk, he, hh, hq, hl]

/-- FURROW_PASS on a region that drains and is not in freeze mode. -/
theorem exec_furrowPass {s : State} {slot : Nat} {r : Region} {o : SwitchOut} (u : UnitId) (hr : s.region slot = some r)
    (hd : r.state = .draining) (ho : r.switchOut = some o) (hf : o.freeze = false) :
    exec (.furrowPass slot u) s = .next (s.setRegion slot (r.furrowStep u)) := by
  change execFurrowPass slot u s = _
  rw [execFurrowPass, State.modRegion_of_some hr]
  simp only [hd, ho, hf, Bool.false_eq_true, if_false]

theorem State.flipReady_of {s : State} {r : Region} {o : SwitchOut} {col row : Nat} (hu : r.unflipped.contains (col, row) = true)
    (hs : s.slipReady o = true) (hdrain : o.freeze = false → r.tileDrained col row = true)
    (hsweep : o.freeze = true → r.settling = false ∧ r.freeze.isSome = true ∧ r.nextSweep = some (col, row)) :
    s.flipReady r o col row = true := by
  rw [State.flipReady, hu, hs]
  cases hf : o.freeze with
  | false => simpa using hdrain hf
  | true =>
    obtain ⟨h1, h2, h3⟩ := hsweep hf
    simp [h1, h2, h3]

/-- The state after a flip, before the switch ends: the items that stand in the switch are captured, the tile has flipped, and the incoming
region takes it (R355). -/
def State.flipTile (s : State) (slot : Nat) (r : Region) (o : SwitchOut) (col row : Nat) : State :=
  let s1 := (r.itemsAt slot col row).foldl (fun (a : State) p => a.captureItem slot p.1 p.2) s
  let s2 := s1.modRegion slot fun x =>
    { (x.modSwitch col row fun w => { w with bufs := [] }) with switchOut := x.switchOut.map fun p => { p with flipped := p.flipped ++ [(col, row)] } }
  (o.incoming.map fun k => s2.flipTo k r.par col row).getD s2

/-- TILE_FLIP of a tile that can flip: the last one ends the switch. -/
theorem exec_tileFlip {s : State} {slot col row : Nat} {r q : Region} {o p : SwitchOut} (hr : s.region slot = some r) (hd : r.state = .draining)
    (ho : r.switchOut = some o) (hf : s.flipReady r o col row = true) (hq : (s.flipTile slot r o col row).region slot = some q)
    (hp : q.switchOut = some p) :
    exec (.tileFlip slot col row) s =
      .next (if q.unflipped.isEmpty then (s.flipTile slot r o col row).endSwitch slot q p else s.flipTile slot r o col row) := by
  change execTileFlip slot col row s = _
  unfold State.flipTile at hq ⊢
  cases hi : o.incoming with
  | none =>
    simp only [hi, Option.map_none, Option.getD_none] at hq ⊢
    simp only [execTileFlip, hr, hd, ho, hf, hi, hq, hp, Bool.not_true, Bool.false_eq_true, if_false]
  | some k =>
    simp only [hi, Option.map_some, Option.getD_some] at hq ⊢
    simp only [execTileFlip, hr, hd, ho, hf, hi, hq, hp, Bool.not_true, Bool.false_eq_true, if_false]

theorem State.lastFlips_iff {s : State} {r : Region} {o : SwitchOut} :
    s.lastFlips r o = true ↔ s.slipReady o = true ∧ ∀ k ∈ r.unflipped, r.tileDrained k.1 k.2 = true := by
  simp [State.lastFlips]

/-- DRAIN_DEADLINE_EXPIRY at the deadline, where a tile that is left cannot flip in this fc (R361). -/
theorem exec_drainDeadlineExpiry_due {s : State} {slot : Nat} {r : Region} {o : SwitchOut} (hr : s.region slot = some r) (hd : r.state = .draining)
    (ho : r.switchOut = some o) (hf : o.freeze = false) (hns : o.deadline ≤ s.ns) (hl : s.lastFlips r o = false) :
    exec (.drainDeadlineExpiry slot) s =
      .next ((s.setRegion slot (({ r with switchOut := some { o with freeze := true, overrun := true }, overruns := r.overruns + 1 } : Region).startFreeze
        .switch)).reportFault slot { code := 0x51, src := 10, xna := true, info := r.unflipped.length }) := by
  change execDrainDeadlineExpiry slot s = _
  simp only [execDrainDeadlineExpiry, hr, hd, ho, hf, hl, decide_eq_false (Nat.not_lt.mpr hns), Bool.or_self, Bool.false_eq_true, if_false]

/-- Before the deadline, and where the last flip can fall in the same fc (R372), it does nothing. -/
theorem exec_drainDeadlineExpiry_idle {s : State} {slot : Nat} {r : Region} {o : SwitchOut} (hr : s.region slot = some r) (hd : r.state = .draining)
    (ho : r.switchOut = some o) (h : s.ns < o.deadline ∨ s.lastFlips r o = true) : exec (.drainDeadlineExpiry slot) s = .next s := by
  change execDrainDeadlineExpiry slot s = _
  simp only [execDrainDeadlineExpiry, hr, hd, ho]
  rw [if_pos (by rcases h with h | h <;> simp [h])]

/-- The streams of a region's MEs. -/
def Region.meStreams (r : Region) : List Stream := r.tiles.flatMap fun t => t.elts.flatMap fun e => if e.elt = .me then e.me.streams else []

/-- REGION_COMPLETE of a running region without a shadow role and with nothing but streams left (R124). -/
theorem exec_regionComplete {s : State} {slot : Nat} {r : Region} (hr : s.region slot = some r) (hst : r.state = .resident) (hrun : r.run = true)
    (hf : r.freeze = none) (hsh : r.shadowOf = none) (hd : r.doneButStreams = true) :
    exec (.regionComplete slot) s = .next (if r.meStreams.all Stream.idle then s.endRegion slot 3 0
      else if r.meStreams.all fun x => x.idle || (x.pend.isEmpty && (x.run.map (·.heldOnly)).getD false) then s.setRegion slot r.releaseAll else s) := by
  change execRegionComplete slot s = _
  have hres : (RState.resident != RState.resident) = false := rfl
  simp only [execRegionComplete, hr, hst, hrun, hf, hsh, hd, hres, Option.isSome_none, Bool.not_true, Bool.or_self, Bool.false_eq_true, if_false]
  rfl

/-- Settles O42, step by step from what each does on a region that can take it. -/
theorem switchSteps : Obligations.SwitchSteps := by
  intro s slot r hr
  refine ⟨fun o hd ho => ⟨fun x y k e hf hp hk he hh hq hl => ?_, fun col row hu hs hdrain hsweep => ?_, fun hf hns hleft => ?_, fun h => ?_⟩,
    fun hst hrun hf hsh hd => ⟨fun hidle => ?_, fun hbusy hheld => ?_⟩⟩
  · rw [exec_furrowPass _ hr hd ho hf, Region.furrowStep_elt hp hk he hh hq hl]
  · intro s1 s2 s3 q p hq hp
    have hx := exec_tileFlip hr hd ho (State.flipReady_of hu hs hdrain hsweep) hq hp
    refine ⟨fun hne => ?_, fun hnil => ?_⟩
    · rw [hx, if_neg (by simpa using hne)]
      rfl
    · rw [hx, if_pos (by simp [hnil])]
      rfl
  · refine exec_drainDeadlineExpiry_due hr hd ho hf hns (Bool.eq_false_iff.mpr fun hlast => ?_)
    obtain ⟨hslip, hall⟩ := State.lastFlips_iff.mp hlast
    rcases hleft with hno | ⟨k, hk, hno⟩
    · simp [hslip] at hno
    · simp [hall k hk] at hno
  · refine exec_drainDeadlineExpiry_idle hr hd ho (h.imp_right fun hl => ?_)
    obtain ⟨_, hslip, hall⟩ := hl
    exact State.lastFlips_iff.mpr ⟨hslip, hall⟩
  · rw [exec_regionComplete hr hst hrun hf hsh hd, if_pos (show r.meStreams.all Stream.idle = true from List.all_eq_true.mpr hidle)]
  · obtain ⟨x, hx, hxi⟩ := hbusy
    have hnot : ¬ r.meStreams.all Stream.idle = true := fun hall => by simp [List.all_eq_true.mp hall x hx] at hxi
    rw [exec_regionComplete hr hst hrun hf hsh hd, if_neg hnot, if_pos]
    refine List.all_eq_true.mpr fun z hz => ?_
    rcases hheld z hz with hi | ⟨hpend, hrel⟩
    · simp [hi]
    · simp [hpend, hrel]

end Sys2Proof.Machine

namespace Sys2Proof.Machine

/-! ## Integer forms, lane by lane

### Lanes and the integers they hold (R49, R51) -/

theorem LaneTy.width_mul_lanes_le (t : LaneTy) : t.width * t.lanes ≤ 128 := by
  cases t <;> decide

theorem LaneTy.width_pos (t : LaneTy) : 0 < t.width := by
  cases t <;> decide

theorem lane_mod (w i : Nat) (x : Word) : lane w i x % 2 ^ w = lane w i x := Nat.mod_mod _ _

/-- Lane `i` of a word that is computed lane by lane. -/
theorem lane_wordOfLanes_map {w n i : Nat} (f : Nat → Nat) (hw : w * n ≤ 128) (hi : i < n) :
    lane w i (wordOfLanes w ((List.range n).map f)) = f i % 2 ^ w := by
  rw [lane_wordOfLanes (by simpa using hw)]
  simp [hi]

theorem natCast_ofInt (w : Nat) (x : Int) : (ofInt w x : Int) = x % (2 ^ w : Nat) :=
  Int.toNat_of_nonneg (Int.emod_nonneg _ (Int.natCast_ne_zero.mpr (Nat.ne_of_gt (Nat.two_pow_pos w))))

theorem ofInt_natCast (w n : Nat) : ofInt w (n : Int) = n % 2 ^ w := by
  rw [ofInt, ← Int.natCast_emod, Int.toNat_natCast]

/-- The two's complement reading is the balanced remainder. -/
theorem toSigned_eq_bmod (w x : Nat) : toSigned w x = (x : Int).bmod (2 ^ w) := by
  simp only [toSigned, Int.bmod_def]
  split <;> split <;> omega

theorem clampInt_eq {lo hi : Int} (h : lo ≤ hi) (x : Int) : clampInt lo hi x = max lo (min hi x) := by
  unfold clampInt
  split
  · omega
  · split <;> omega

/-- A lane holds an integer of its type's range (R51). -/
theorem LaneTy.intVal_mem (t : LaneTy) (x : Nat) : t.lo ≤ t.intVal x ∧ t.intVal x ≤ t.hi := by
  have hpos := Nat.two_pow_pos t.width
  have hhalf := Nat.two_pow_pred_add_two_pow_pred t.width_pos
  unfold LaneTy.lo LaneTy.hi LaneTy.intVal
  cases t.signed with
  | true =>
    have hlo := Int.le_bmod (x := x) hpos
    have hhi := Int.bmod_le (x := x) hpos
    simp only [if_true, toSigned_eq_bmod]
    omega
  | false =>
    have hlt := Nat.mod_lt x hpos
    simp only [Bool.false_eq_true, if_false]
    omega

theorem LaneTy.lo_le_hi (t : LaneTy) : t.lo ≤ t.hi := Int.le_trans (t.intVal_mem 0).1 (t.intVal_mem 0).2

/-- An integer of the type's range, written to a lane, is the integer that the lane holds (R51). -/
theorem LaneTy.intVal_ofInt {t : LaneTy} {v : Int} (hlo : t.lo ≤ v) (hhi : v ≤ t.hi) : t.intVal (ofInt t.width v) = v := by
  have hhalf := Nat.two_pow_pred_add_two_pow_pred t.width_pos
  unfold LaneTy.lo at hlo
  unfold LaneTy.hi at hhi
  unfold LaneTy.intVal
  cases hs : t.signed with
  | true =>
    simp only [hs, if_true] at hlo hhi ⊢
    rw [toSigned_eq_bmod, natCast_ofInt, Int.emod_bmod]
    exact Int.bmod_eq_of_le_mul_two (by omega) (by omega)
  | false =>
    simp only [hs, Bool.false_eq_true, if_false] at hlo hhi ⊢
    rw [ofInt_mod, natCast_ofInt]
    exact Int.emod_eq_of_lt hlo (by omega)

/-! ### The lanes of an integer form (R110, R125) -/

/-- The control word of a field form (R130): C of BFI, B of BFX. -/
def IntOp.control (o : IntOp) (b c : Word) : Nat :=
  match o with
  | .bfi => c.toNat
  | _ => b.toNat

/-- The exact result of a form on lane `i` (R125). -/
def intExact (o : IntOp) (t : LaneTy) (a b c : Word) (i : Nat) : Int :=
  intLane o t (o.control b c) (lane t.width i a) (lane t.width i b) (lane t.width i c)

section
variable {t : LaneTy} {i : Nat} (hi : i < t.lanes)
include hi

theorem lane_intWord (o : IntOp) (sat : Bool) (a b c : Word) (p : Option Token) :
    lane t.width i (intWord o t sat a b c p) = if laneOn p t.width i then
      ofInt t.width (if sat then clampInt t.lo t.hi (intExact o t a b c i) else intExact o t a b c i) else lane t.width i a := by
  refine (lane_wordOfLanes_map _ t.width_mul_lanes_le hi).trans ?_
  cases laneOn p t.width i with
  | true => exact ofInt_mod ..
  | false => exact lane_mod ..

/-- A lane that the mask leaves out holds A's lane (R110). -/
theorem lane_intWord_masked (o : IntOp) (sat : Bool) (a b c : Word) {p : Option Token} (hp : laneOn p t.width i = false) :
    lane t.width i (intWord o t sat a b c p) = lane t.width i a := by
  rw [lane_intWord hi, hp, if_neg Bool.false_ne_true]

/-- Without SAT, a lane holds the exact result modulo 2 to the width. -/
theorem lane_intWord_wrap (o : IntOp) (a b c : Word) :
    lane t.width i (intWord o t false a b c none) = ofInt t.width (intExact o t a b c i) :=
  lane_intWord hi o false a b c none

theorem lane_intWord_natCast (o : IntOp) (a b c : Word) :
    (lane t.width i (intWord o t false a b c none) : Int) = intExact o t a b c i % 2 ^ t.width := by
  rw [lane_intWord_wrap hi, natCast_ofInt, Int.natCast_pow]
  rfl

/-- An exact result of the type's range is what the lane holds. -/
theorem intVal_lane_intWord {o : IntOp} {a b c : Word} (hlo : t.lo ≤ intExact o t a b c i) (hhi : intExact o t a b c i ≤ t.hi) :
    t.intVal (lane t.width i (intWord o t false a b c none)) = intExact o t a b c i := by
  rw [lane_intWord_wrap hi, LaneTy.intVal_ofInt hlo hhi]

/-- With SAT, a lane holds the exact result, held between the least and the greatest integer of the type. -/
theorem intVal_lane_intWord_sat (o : IntOp) (a b c : Word) :
    t.intVal (lane t.width i (intWord o t true a b c none)) = max t.lo (min t.hi (intExact o t a b c i)) := by
  have h : lane t.width i (intWord o t true a b c none) = ofInt t.width (clampInt t.lo t.hi (intExact o t a b c i)) :=
    lane_intWord hi o true a b c none
  rw [h, clampInt_eq t.lo_le_hi]
  exact LaneTy.intVal_ofInt (Int.le_max_left _ _) (Int.max_le.mpr ⟨t.lo_le_hi, Int.min_le_left _ _⟩)

end

section
variable (t : LaneTy) (a b c : Word) (i : Nat)

theorem intExact_imulh : intExact .imulh t a b c i = t.intVal (lane t.width i a) * t.intVal (lane t.width i b) / 2 ^ t.width := by
  simp [intExact, intLane]

theorem intExact_imin : intExact .imin t a b c i = min (t.intVal (lane t.width i a)) (t.intVal (lane t.width i b)) := by
  simp only [intExact, intLane]
  split <;> omega

theorem intExact_imax : intExact .imax t a b c i = max (t.intVal (lane t.width i a)) (t.intVal (lane t.width i b)) := by
  simp only [intExact, intLane]
  split <;> omega

/-- A count of the width or more shifts every bit out (R127). -/
theorem intExact_shl_of_le (h : t.width ≤ lane t.width i b) : intExact .shl t a b c i = 0 := if_pos h

theorem intExact_shl_of_lt (h : lane t.width i b < t.width) :
    intExact .shl t a b c i = (lane t.width i a * 2 ^ lane t.width i b % 2 ^ t.width : Nat) := if_neg (Nat.not_le.mpr h)

end

/-- Settles O60: a lane holds the exact result, wrapped or clamped; a minimum or maximum is in the type's range, as both operands are. -/
theorem integerFormsByLane : Obligations.IntegerFormsByLane := by
  intro t a b c i _ hi w m x y z out
  obtain ⟨hxlo, hxhi⟩ := t.intVal_mem (lane w i a)
  obtain ⟨hylo, hyhi⟩ := t.intVal_mem (lane w i b)
  refine ⟨lane_intWord_natCast hi .iadd a b c, lane_intWord_natCast hi .isub a b c, lane_intWord_natCast hi .imul a b c,
    lane_intWord_natCast hi .imad a b c, ?_, ?_, ?_, intVal_lane_intWord_sat hi .iadd a b c, fun hle => ?_, fun hlt => ?_,
    fun o sat p hp => lane_intWord_masked hi o sat a b c hp⟩
  · exact (lane_intWord_natCast hi .imulh a b c).trans (by rw [intExact_imulh])
  · have hmin := intExact_imin t a b c i
    exact (intVal_lane_intWord hi (hmin ▸ Int.le_min.mpr ⟨hxlo, hylo⟩) (hmin ▸ Int.le_trans (Int.min_le_left _ _) hxhi)).trans hmin
  · have hmax := intExact_imax t a b c i
    exact (intVal_lane_intWord hi (hmax ▸ Int.le_trans hxlo (Int.le_max_left _ _)) (hmax ▸ Int.max_le.mpr ⟨hxhi, hyhi⟩)).trans hmax
  · exact (lane_intWord_wrap hi .shl a b c).trans (by rw [intExact_shl_of_le t a b c i hle, ofInt, Int.zero_emod, Int.toNat_zero])
  · exact (lane_intWord_wrap hi .shl a b c).trans
      (by rw [intExact_shl_of_lt t a b c i hlt, ofInt_natCast, Nat.mod_mod])

end Sys2Proof.Machine

namespace Sys2Proof.Machine

/-! ## The words of the control-core forms (R101, R102) -/

/-- The value of two bit vectors side by side. -/
theorem toNat_append_eq_add {n m : Nat} (x : BitVec n) (y : BitVec m) : (x ++ y).toNat = 2 ^ m * x.toNat + y.toNat := by
  rw [BitVec.toNat_append, ← Nat.shiftLeft_add_eq_or_of_lt y.isLt, Nat.shiftLeft_eq, Nat.mul_comm]

section
variable (f7 : BitVec 7) (rs2 rs1 : BitVec 5) (f3 : BitVec 3) (rd : BitVec 5) (opc : BitVec 7)

theorem toNat_rType : (rType f7 rs2 rs1 f3 rd opc).toNat =
    2 ^ 25 * f7.toNat + 2 ^ 20 * rs2.toNat + 2 ^ 15 * rs1.toNat + 2 ^ 12 * f3.toNat + 2 ^ 7 * rd.toNat + opc.toNat := by
  unfold rType
  simp only [toNat_append_eq_add]
  omega

theorem funct3_rType : fld (rType f7 rs2 rs1 f3 rd opc).toNat 14 12 = f3.toNat := by
  rw [toNat_rType, fld]
  omega

theorem funct7_rType : fld (rType f7 rs2 rs1 f3 rd opc).toNat 31 25 = f7.toNat := by
  rw [toNat_rType, fld]
  omega

/-- The decoder reads each field of a word as it was placed. -/
theorem decodeWord_rType : decodeWord (rType f7 rs2 rs1 f3 rd opc) = decodeFields opc.toNat f3.toNat f7.toNat rs2 rs1 rd := by
  unfold decodeWord
  rw [Laws.Words.opcode_rType, funct3_rType, funct7_rType]
  congr 1
  all_goals
    apply BitVec.eq_of_toNat_eq
    rw [BitVec.extractLsb'_toNat, toNat_rType, Nat.shiftRight_eq_div_pow]
    omega

end

/-- Every word is the R-type word of its own fields: no bit lies outside them. -/
theorem rType_fields (w : W32) : rType (.ofNat 7 (fld w.toNat 31 25)) (w.extractLsb' 20 5) (w.extractLsb' 15 5)
    (.ofNat 3 (fld w.toNat 14 12)) (w.extractLsb' 7 5) (.ofNat 7 (fld w.toNat 6 0)) = w := by
  apply BitVec.eq_of_toNat_eq
  have hw := w.isLt
  simp only [toNat_rType, BitVec.extractLsb'_toNat, BitVec.toNat_ofNat, Nat.shiftRight_eq_div_pow, fld]
  omega

/-- A form's word decodes to the form; a machine event has no word. -/
theorem decodeWord_of_encode {i : Instr} {w : W32} (h : encode i = some w) : decodeWord w = .ok i := by
  cases i <;> cases h <;> exact decodeWord_rType ..

/-- Fields that decode are those of the form's word: a form that leaves rs2 unused is read only where that field is 0 (R102). -/
theorem encode_of_decodeFields {opc f3 f7 : Nat} {rs2 rs1 rd : BitVec 5} {i : Instr}
    (h : decodeFields opc f3 f7 rs2 rs1 rd = .ok i) :
    encode i = some (rType (.ofNat 7 f7) rs2 rs1 (.ofNat 3 f3) rd (.ofNat 7 opc)) := by
  unfold decodeFields at h
  by_cases hr : rs2 = 0
  · simp only [hr, if_true] at h ⊢
    split at h <;> cases h <;> rfl
  · simp only [hr, if_false] at h
    split at h <;> cases h <;> rfl

theorem encode_of_decodeWord {w : W32} {i : Instr} (h : decodeWord w = .ok i) : encode i = some w := by
  have hf := encode_of_decodeFields h
  rwa [rType_fields] at hf

/-- Settles O2: a form's word carries its fields, and every word is put together from its own. -/
theorem formsDecodeEncode : Obligations.FormsDecodeEncode :=
  ⟨fun _ _ => decodeWord_of_encode, fun _ _ => encode_of_decodeWord⟩

/-- Settles O1: each word is the encoding of its form, or has fields that R101 does not assign. -/
theorem decodesSpecWords : Obligations.DecodesSpecWords :=
  ⟨decodeWord_of_encode rfl, decodeWord_of_encode rfl, decodeWord_of_encode rfl, decodeWord_of_encode rfl, decodeWord_of_encode rfl,
    decodeWord_of_encode rfl, decodeWord_of_encode rfl, decodeWord_of_encode rfl, decodeWord_of_encode rfl, rfl, rfl, rfl⟩

/-! ## HS-only forms (R102) -/

section
variable {s : State} (w : Nat) (rd : BitVec 5) (body : State → FormEnd)

theorem form_hsOnly_of_virt (hm : (s.hart s.cur).mode = .vs ∨ (s.hart s.cur).mode = .vu) :
    form s true w rd body = s.trap (Exc.virtualInst w) := by
  rcases hm with hm | hm <;> simp [form, formMode, hm, Mode.high, Mode.virt]

theorem form_hsOnly_of_u (hm : (s.hart s.cur).mode = .u) : form s true w rd body = s.trap (Exc.illegal w) := by
  simp [form, formMode, hm, Mode.high, Mode.virt]

end

/-- The words of custom-0 other than RGNQRY's, and those of custom-3 with funct3 1, are the HS-only forms. -/
theorem exec_eq_form_of_hsOnly {i : Instr} {w : W32} (he : encode i = some w)
    (hw : (fld w.toNat 6 0 = 0x0B ∧ fld w.toNat 31 25 ≠ 0x08) ∨ (fld w.toNat 6 0 = 0x7B ∧ fld w.toNat 14 12 = 1)) :
    ∃ rd body, ∀ s, exec i s = .next (form s true w.toNat rd body) := by
  cases i with
  | rgnld | rgngo | rgndrn | rgnfrz | rgnsav | rgnrst | rgnmov | rgnkil | rgnslc | dunego | duneq | svpol | jrnrd =>
    cases he
    exact ⟨_, _, fun _ => rfl⟩
  | _ => cases he <;> simp [Laws.Words.opcode_rType, funct3_rType, funct7_rType] at hw

/-- Settles O11: an HS-only form checks the mode before its body. -/
theorem hsOnlyFormsTrap : Obligations.HsOnlyFormsTrap := by
  intro i w s he hw
  obtain ⟨rd, body, hexec⟩ := exec_eq_form_of_hsOnly he hw
  refine ⟨fun hm => ?_, fun hm => ?_⟩
  · rw [hexec, form_hsOnly_of_virt _ _ _ hm]
  · rw [hexec, form_hsOnly_of_u _ _ _ hm]

/-- Settles O12: the entry, from M mode and from every other, changes the current core alone. -/
theorem trapEntry : Obligations.TrapEntry := by
  intro s e hl c d
  have hd : d = c.trap e := s.hart_modHart s.cur (·.trap e) hl
  have hframe : ∀ k, k ≠ s.cur → (s.trap e).hart k = s.hart k := fun _ hk => s.hart_modHart_ne _ hk
  rw [hd]
  by_cases hm : c.mode = .m
  · simp only [Hart.trap, Hart.trapReturn, hm, if_true, true_and, and_true, ne_eq, not_true, false_implies, forall_const]
    exact ⟨hframe, rfl⟩
  · simp only [Hart.trap, Hart.trapReturn, hm, reduceCtorEq, if_false, true_and, and_true, ne_eq, not_false_iff, false_implies, forall_const]
    exact ⟨hframe, rfl⟩

/-! ## A core's turn -/

/-- What a core's turn does with what its fetch gives. -/
def runFetched : State × Except Exc (List Byte) → Host.Outcome State Fault Refusal
  | (s1, .error e) => .next (s1.trap e)
  | (s1, .ok bs) =>
    match decodeBytes bs with
    | .ok (i, _) => exec i s1
    | .error .illegal => .next (s1.trap (.illegal (ofBytes bs)))
    | .error _ => ((s1.baseRun (.ofNat 32 (ofBytes bs))).map Host.Outcome.next).getD (.refused (.baseIsa (.ofNat 32 (ofBytes bs))))

section
variable {s1 : State} {bs : List Byte}

theorem runFetched_of_form {i : Instr} {rest : List Byte} (h : decodeBytes bs = .ok (i, rest)) : runFetched (s1, .ok bs) = exec i s1 := by
  simp [runFetched, h]

theorem runFetched_of_illegal (h : decodeBytes bs = .error .illegal) :
    runFetched (s1, .ok bs) = .next (s1.trap (.illegal (ofBytes bs))) := by
  simp [runFetched, h]

theorem runFetched_of_base (h : decodeBytes bs = .error .notExtension) : runFetched (s1, .ok bs) =
    ((s1.baseRun (.ofNat 32 (ofBytes bs))).map Host.Outcome.next).getD (.refused (.baseIsa (.ofNat 32 (ofBytes bs)))) := by
  simp [runFetched, h]

end

section
variable {s : State}

theorem hartStep_of_storeWaits (hw : s.storeWaits s.cur = true) : hartStep s = .next s := by
  simp [hartStep, hw]

variable (hon : (s.hart s.cur).on = true) (hw : s.storeWaits s.cur = false)
include hon hw

theorem hartStep_of_parked (hp : (s.hart s.cur).wait = .parked) :
    hartStep s = .next (if (s.hart s.cur).irq then s.modHart s.cur fun c => { c with wait := .none } else s) := by
  simp [hartStep, hw, hon, hp]

theorem hartStep_of_interrupt (hn : (s.hart s.cur).wait = .none) (hi : (s.hart s.cur).irqReady = true) :
    hartStep s = .next (s.trap (Exc.interrupt (s.hart s.cur).mode)) := by
  simp [hartStep, hw, hon, hn, hi]

/-- A core that neither waits nor takes an interrupt fetches. -/
theorem hartStep_of_fetch (hp : (s.hart s.cur).wait ≠ .parked)
    (hi : ¬ ((s.hart s.cur).wait = .none ∧ (s.hart s.cur).irqReady = true)) :
    hartStep s = runFetched (s.hartRead s.cur .fetch false (piecesOf (s.hart s.cur).pc.toNat 4)) := by
  unfold hartStep runFetched
  simp only [hon, hw, Bool.not_true, Bool.or_self, Bool.false_eq_true, if_false, if_neg hp, if_neg hi]
  repeat' split
  all_goals simp_all

end

theorem step_of_on {s : State} (ha : s.agenda = []) (hon : (s.hart s.cur).on = true) : step s = settled (pulled s (hartStep s)) := by
  simp [step, turn, ha, hon]

theorem pulled_next_of_none (s t : State) (ht : t.dune.asked = none) : pulled s (.next t) = .next t := by
  simp [pulled, ht]

/-- Settles O5, along the checks of a core's turn and what the fetched bytes decode to. -/
theorem stepRunsDecodedForm : Obligations.StepRunsDecodedForm := by
  refine ⟨fun s ha hon => ?_, pulled_next_of_none, fun s t asid va ht => by simp [pulled, ht], fun t => ⟨rfl, settled_next⟩,
    fun _ _ => rfl, fun _ _ => rfl⟩
  rw [step_of_on ha hon]
  refine ⟨fun hw => by rw [hartStep_of_storeWaits hw], fun hw => ⟨fun hp => ?_, fun hp => ⟨fun hi => ?_, fun hi s1 => ?_⟩⟩⟩
  · rw [hartStep_of_parked hon hw hp]
    exact ⟨fun hi => by rw [hi]; rfl, fun hi => by rw [hi]; rfl⟩
  · rw [hartStep_of_interrupt hon hw hi.1 hi.2]
  · rw [hartStep_of_fetch hon hw hp hi]
    refine ⟨fun bs hf => ?_, fun e hf => by rw [hf]; rfl⟩
    rw [hf]
    refine ⟨fun i rest hd => by rw [runFetched_of_form hd], fun hd => by rw [runFetched_of_illegal hd], fun hd => ?_⟩
    rw [runFetched_of_base hd]
    exact ⟨fun t ht => by rw [ht]; rfl, fun ht => by rw [ht]; rfl⟩

/-! ### A word placed for fetch (log entry 6) -/

/-- The access table that comes with the word admits the fetch, and no line is poisoned. -/
theorem hartPiece_withFetchWord (n : Nat) :
    let s := State.reset.withFetchWord 32 n
    s.hartPiece s.cur .fetch false 0 4 = (s, .ok 0) := by
  intro s
  have hphys : (s.hart s.cur).physAddr .fetch 0 = .ok 0 := rfl
  have hperm : s.permits (s.hartWho s.cur) 0 .read = true := rfl
  have hpsn : s.poison = [] := rfl
  have hlost : (s.hart s.cur).lost = [] := rfl
  have heff : s.readEffect 0 4 = s := rfl
  simp [State.hartPiece, hphys, hperm, hpsn, hlost, heff, HartAcc.akind, poisoned]

theorem hartRead_withFetchWord (w : W32) :
    let s := State.reset.withFetchWord 32 w.toNat
    s.hartRead s.cur .fetch false (piecesOf (s.hart s.cur).pc.toNat 4) = (s, .ok (toBytes 4 w.toNat)) := by
  intro s
  have hpieces : piecesOf (s.hart s.cur).pc.toNat 4 = [(0, 4)] := rfl
  have hmem : s.mem = memWriteBytes [] 0 (toBytes 4 w.toNat) := congrArg (memWriteN [] 0 4) (Nat.mod_eq_of_lt w.isLt)
  have hbytes : s.bytesAt 0 4 = toBytes 4 w.toNat := by
    rw [s.bytesAt_mem (.inl (by decide)), State.localKey_of_lt (by decide), hmem]
    exact memReadBytes_written 0 (toBytes 4 w.toNat) wf_nil
  have hp : s.hartPiece s.cur .fetch false 0 4 = (s, .ok 0) := hartPiece_withFetchWord w.toNat
  rw [hpieces, ← hbytes]
  simp [State.hartRead, hp]

theorem decodeBytes_toBytes {w : W32} {i : Instr} (h : decodeWord w = .ok i) : decodeBytes (toBytes 4 w.toNat) = .ok (i, []) := by
  have hw : BitVec.ofNat 32 (ofBytes (toBytes 4 w.toNat)) = w := by
    rw [ofBytes_toBytes, show 256 ^ 4 = 2 ^ 32 from rfl, Nat.mod_eq_of_lt w.isLt, BitVec.ofNat_toNat, BitVec.setWidth_eq]
  rw [← hw] at h
  simp only [toBytes] at h ⊢
  simp only [decodeBytes, h]

/-- Settles O7: the fetch gives the bytes of the word, which decode to its form. -/
theorem withFetchWordRuns : Obligations.WithFetchWordRuns := by
  intro w i hd s
  have hf : s.hartRead s.cur .fetch false (piecesOf (s.hart s.cur).pc.toNat 4) = (s, .ok (toBytes 4 w.toNat)) := hartRead_withFetchWord w
  have hstep : step s = settled (pulled s (exec i s)) := by
    have hwait : (s.hart s.cur).wait = .none := rfl
    have hirq : (s.hart s.cur).irqReady = false := rfl
    have hrun : hartStep s = runFetched (s.hartRead s.cur .fetch false (piecesOf (s.hart s.cur).pc.toNat 4)) :=
      hartStep_of_fetch rfl rfl (by simp [hwait]) (by simp [hirq])
    rw [step_of_on rfl rfl, hrun, hf, runFetched_of_form (decodeBytes_toBytes hd)]
  refine ⟨hstep, fun t ht hasked => ?_⟩
  rw [hstep, ht, pulled_next_of_none s t hasked]
  rfl

/-! ## Where a fabric opcode is legal (R92) -/

theorem opcode_eq_div (w : W32) : fld w.toNat 31 24 = w.toNat / 2 ^ 24 := by
  have := w.isLt
  unfold fld
  omega

section
variable {op : Nat}

theorem opKinds_every (h : op < 0x40 ∨ (0xC0 ≤ op ∧ op ≤ 0xC2) ∨ (0xE0 ≤ op ∧ op ≤ 0xE2)) : opKinds op = some fun _ => true := by
  unfold opKinds
  grind

theorem opKinds_pe (h : (0x40 ≤ op ∧ op ≤ 0x56) ∨ (0x58 ≤ op ∧ op ≤ 0x5C) ∨ (0x60 ≤ op ∧ op ≤ 0x6A)) :
    opKinds op = some (· == .pe) := by
  unfold opKinds
  grind

theorem opKinds_me (h : 0x80 ≤ op ∧ op ≤ 0xA3) : opKinds op = some (· == .me) := by
  unfold opKinds
  grind

theorem opKinds_mx (h : 0xB0 ≤ op ∧ op ≤ 0xB8) : opKinds op = some (· == .mx) := by
  unfold opKinds
  grind

theorem opKinds_reserved (hevery : ¬ (op < 0x40 ∨ (0xC0 ≤ op ∧ op ≤ 0xC2) ∨ (0xE0 ≤ op ∧ op ≤ 0xE2)))
    (hpe : ¬ ((0x40 ≤ op ∧ op ≤ 0x56) ∨ (0x58 ≤ op ∧ op ≤ 0x5C) ∨ (0x60 ≤ op ∧ op ≤ 0x6A))) (hme : ¬ (0x80 ≤ op ∧ op ≤ 0xA3))
    (hmx : ¬ (0xB0 ≤ op ∧ op ≤ 0xB8)) : opKinds op = none := by
  unfold opKinds
  grind

end

theorem decodeSlot_of_reserved {w : W32} {k : Kind} (h : opKinds (fld w.toNat 31 24) = none) : decodeSlot k w = .error (0x02, 0x01) := by
  simp [decodeSlot, h]

section
variable {w : W32} {k : Kind} {ok : Kind → Bool} (h : opKinds (fld w.toNat 31 24) = some ok)
include h

theorem decodeSlot_of_other_kind (hk : ok k = false) : decodeSlot k w = .error (0x02, 0x02) := by
  simp [decodeSlot, h, hk]

/-- On a kind on which its opcode is legal, a word is refused for its other fields only. -/
theorem code_of_decodeSlot_error {c d : Nat} (hk : ok k = true) (he : decodeSlot k w = .error (c, d)) : c = 0x01 := by
  simp only [decodeSlot, h, hk, Bool.not_true, Bool.false_eq_true, if_false] at he
  repeat' split at he
  all_goals cases he
  all_goals rfl

theorem decodeSlot_ne_of_legal (hk : ok k = true) : decodeSlot k w ≠ .error (0x02, 0x01) ∧ decodeSlot k w ≠ .error (0x02, 0x02) :=
  ⟨fun he => absurd (code_of_decodeSlot_error h hk he) (by decide), fun he => absurd (code_of_decodeSlot_error h hk he) (by decide)⟩

end

/-- Settles O4, row by row of the table; a word that decodes is of a row, and on the row's kind. -/
theorem fabricOpcodesKinds : Obligations.FabricOpcodesKinds := by
  intro w k op every pe me mx legal
  have hop : fld w.toNat 31 24 = op := opcode_eq_div w
  have hother : (pe ∧ k ≠ .pe) ∨ (me ∧ k ≠ .me) ∨ (mx ∧ k ≠ .mx) → decodeSlot k w = .error (0x02, 0x02) := by
    rintro (⟨h, hk⟩ | ⟨h, hk⟩ | ⟨h, hk⟩)
    · exact decodeSlot_of_other_kind (hop ▸ opKinds_pe h) (by simpa using hk)
    · exact decodeSlot_of_other_kind (hop ▸ opKinds_me h) (by simpa using hk)
    · exact decodeSlot_of_other_kind (hop ▸ opKinds_mx h) (by simpa using hk)
  have hnone : ¬ every → ¬ pe → ¬ me → ¬ mx → decodeSlot k w = .error (0x02, 0x01) := fun h1 h2 h3 h4 =>
    decodeSlot_of_reserved (hop ▸ opKinds_reserved h1 h2 h3 h4)
  refine ⟨?_, hother, hnone, ?_⟩
  · rintro (h | ⟨h, rfl⟩ | ⟨h, rfl⟩ | ⟨h, rfl⟩)
    · exact decodeSlot_ne_of_legal (hop ▸ opKinds_every h) rfl
    · exact decodeSlot_ne_of_legal (hop ▸ opKinds_pe h) rfl
    · exact decodeSlot_ne_of_legal (hop ▸ opKinds_me h) rfl
    · exact decodeSlot_ne_of_legal (hop ▸ opKinds_mx h) rfl
  · rintro ⟨sl, hsl⟩
    have hlisted : every ∨ pe ∨ me ∨ mx := by
      refine Classical.byContradiction fun h => ?_
      simp only [not_or] at h
      obtain ⟨h1, h2, h3, h4⟩ := h
      exact nomatch hsl.symm.trans (hnone h1 h2 h3 h4)
    have hkind : ¬ ((pe ∧ k ≠ .pe) ∨ (me ∧ k ≠ .me) ∨ (mx ∧ k ≠ .mx)) := fun h => nomatch hsl.symm.trans (hother h)
    rcases hlisted with h | h | h | h
    · exact .inl h
    · exact .inr (.inl ⟨h, Classical.not_not.mp fun hk => hkind (.inl ⟨h, hk⟩)⟩)
    · exact .inr (.inr (.inl ⟨h, Classical.not_not.mp fun hk => hkind (.inr (.inl ⟨h, hk⟩))⟩))
    · exact .inr (.inr (.inr ⟨h, Classical.not_not.mp fun hk => hkind (.inr (.inr ⟨h, hk⟩))⟩))

end Sys2Proof.Machine

namespace Sys2Proof.Machine

/-! ## Bit fields side by side

A word is put together with `put` and read with `fld`; these say what a read gives, by the place of the field read. -/

section
variable {hi lo v r : Nat}

/-- A field that was placed above `r` reads as it was placed. -/
@[simp] theorem fld_put_add (hr : r < 2 ^ lo) (hv : v < 2 ^ (hi + 1 - lo)) : fld (put hi lo v + r) hi lo = v := by
  rw [fld, put, Nat.mod_eq_of_lt hv, Nat.mul_comm, Nat.mul_add_div (Nat.two_pow_pos lo), Nat.div_eq_of_lt hr, Nat.add_zero,
    Nat.mod_eq_of_lt hv]

@[simp] theorem fld_put (hv : v < 2 ^ (hi + 1 - lo)) : fld (put hi lo v) hi lo = v := fld_put_add (Nat.two_pow_pos lo) hv

/-- A field that lies below one that was placed does not see it. -/
@[simp] theorem fld_put_add_low {a b : Nat} (h : a < lo) (hb : b ≤ a) : fld (put hi lo v + r) a b = fld r a b := by
  obtain ⟨d, rfl⟩ : ∃ d, lo = b + (a + 1 - b) + d := ⟨lo - (a + 1), by omega⟩
  have he : put hi (b + (a + 1 - b) + d) v + r =
      2 ^ b * (2 ^ (a + 1 - b) * (v % 2 ^ (hi + 1 - (b + (a + 1 - b) + d)) * 2 ^ d)) + r := by
    rw [put, Nat.pow_add, Nat.pow_add, Nat.mul_left_comm (2 ^ (a + 1 - b)), Nat.mul_left_comm (2 ^ b), Nat.mul_assoc (2 ^ b)]
  rw [fld, fld, he, Nat.mul_add_div (Nat.two_pow_pos b), Nat.mul_add_mod]

@[simp] theorem fld_zero (hi lo : Nat) : fld 0 hi lo = 0 := by simp [fld]

@[simp] theorem put_zero (hi lo : Nat) : put hi lo 0 = 0 := by simp [put]

@[simp] theorem fld_put_low {a b : Nat} (h : a < lo) (hb : b ≤ a) : fld (put hi lo v) a b = 0 :=
  (fld_put_add_low (r := 0) h hb).trans (fld_zero a b)

@[simp] theorem fld_of_lt (h : v < 2 ^ lo) : fld v hi lo = 0 := by simp [fld, Nat.div_eq_of_lt h]

@[simp] theorem fld_zero_of_lt (h : v < 2 ^ (hi + 1)) : fld v hi 0 = v := by simp [fld, Nat.mod_eq_of_lt h]

@[simp] theorem put_zero_of_lt (h : v < 2 ^ (hi + 1)) : put hi 0 v = v := by simp [put, Nat.mod_eq_of_lt h]

@[simp] theorem put_add_lt {n : Nat} (hr : r < 2 ^ lo) (h : lo ≤ hi) (hn : 2 ^ (hi + 1) ≤ n) : put hi lo v + r < n := by
  have hv : v % 2 ^ (hi + 1 - lo) + 1 ≤ 2 ^ (hi + 1 - lo) := Nat.mod_lt _ (Nat.two_pow_pos _)
  have he : 2 ^ (hi + 1) = 2 ^ (hi + 1 - lo) * 2 ^ lo := by rw [← Nat.pow_add]; congr 1; omega
  have hm := Nat.mul_le_mul_right (2 ^ lo) hv
  rw [Nat.add_mul] at hm
  unfold put
  omega

@[simp] theorem put_lt {n : Nat} (h : lo ≤ hi) (hn : 2 ^ (hi + 1) ≤ n) : put hi lo v < n := put_add_lt (Nat.two_pow_pos lo) h hn

end

theorem bitN_eq_fld (x i : Nat) : bitN x i = (fld x i i == 1) := by simp [bitN, fld]

@[simp] theorem b2n_false : b2n false = 0 := rfl

@[simp] theorem b2n_beq_one (b : Bool) : (b2n b == 1) = b := by cases b <;> rfl

@[simp] theorem b2n_le_one (b : Bool) : b2n b ≤ 1 := by cases b <;> decide

@[simp] theorem b2n_lt {n : Nat} (h : 1 < n) (b : Bool) : b2n b < n := Nat.lt_of_le_of_lt (b2n_le_one b) h

/-- Two flags in the low bits of MOD. -/
@[simp] theorem put_b2n_add_b2n_lt (b u : Bool) {n : Nat} (h : 4 ≤ n) : put 1 1 (b2n b) + b2n u < n :=
  put_add_lt (b2n_lt (by decide) u) (by decide) h

/-! ## The code sets of R93

Each code lies in its field, and is read back as what it stands for. -/

section
variable {t : LaneTy}

@[simp] theorem tlOf_code (t : LaneTy) : tlOf t.code = some t := by cases t <;> rfl
@[simp] theorem tiOf_code (h : t.isInt = true) : tiOf t.code = some t := by cases t <;> cases h <;> rfl
@[simp] theorem tfOf_code (h : t.isTf = true) : tfOf (t.code - 6) = some t := by cases t <;> cases h <;> rfl

@[simp] theorem LaneTy.code_lt (t : LaneTy) : t.code < 16 := by cases t <;> decide
@[simp] theorem LaneTy.code_lt_of_isInt (h : t.isInt = true) : t.code < 8 := by cases t <;> cases h <;> decide
@[simp] theorem LaneTy.code_sub_lt (t : LaneTy) : t.code - 6 < 8 := by cases t <;> decide

theorem LaneTy.isTf_of_isTf2 (h : t.isTf2 = true) : t.isTf = true := by cases t <;> cases h <;> rfl
theorem LaneTy.isInt_of_isIdx (h : t.isIdx = true) : t.isInt = true := by cases t <;> cases h <;> rfl

end

@[simp] theorem ccOf_code (cc : Cc) : ccOf cc.code = some cc := by cases cc <;> rfl
@[simp] theorem Cc.code_lt (cc : Cc) : cc.code < 8 := by cases cc <;> decide

/-- The comparisons of integers are the first six (R94). -/
theorem Cc.code_lt_six {cc : Cc} (hu : ¬ cc = .un) (ho : ¬ cc = .ord) : cc.code < 6 := by
  cases cc <;> simp_all [Cc.code]

@[simp] theorem rmOf_code (rm : Rm) : rmOf rm.code = some rm := by cases rm <;> rfl
@[simp] theorem Rm.code_lt (rm : Rm) : rm.code < 8 := by cases rm <;> decide
@[simp] theorem fbOf_code (f : BlockFmt) : fbOf f.code = some f := by cases f <;> rfl
@[simp] theorem BlockFmt.code_lt (f : BlockFmt) : f.code < 16 := by cases f <;> decide
@[simp] theorem atOf_code (t : AtomTy) : atOf t.code = some t := by cases t <;> rfl
@[simp] theorem AtomTy.code_lt (t : AtomTy) : t.code < 8 := by cases t <;> decide
@[simp] theorem scopeOf_code (sc : Scope) : scopeOf sc.code = some sc := by cases sc <;> rfl
@[simp] theorem Scope.code_lt (sc : Scope) : sc.code < 8 := by cases sc <;> decide
@[simp] theorem fenceOf_code (k : FenceKind) : fenceOf k.code = some k := by cases k <;> rfl
@[simp] theorem FenceKind.code_lt (k : FenceKind) : k.code < 4 := by cases k <;> decide
@[simp] theorem portOf_code (q : PortName) : portOf q.code = q := by cases q <;> rfl
@[simp] theorem PortName.code_lt (q : PortName) : q.code < 4 := by cases q <;> decide

@[simp] theorem fmtOf_code (f : Fmt) : fmtOf f.code = some f := by
  cases f with
  | lane t => cases t <;> rfl
  | block b => cases b <;> rfl

@[simp] theorem Fmt.code_lt (f : Fmt) : f.code < 32 := by
  cases f with
  | lane t => exact Nat.lt_trans t.code_lt (by decide)
  | block b => exact Nat.add_lt_add_left b.code_lt 16

/-- A register's class is in bits [5:4] of its code, its index in [3:0]. -/
theorem regOf_code {r : Reg} (h : r.wf = true) : regOf (fld r.code 5 4) (fld r.code 3 0) = some r := by
  cases r with
  | d i =>
    have hi : i < 16 := by simpa [Reg.wf] using h
    simp [Reg.code, hi, regOf]
  | p i =>
    have hi : i < 4 := by simpa [Reg.wf] using h
    have hclass : fld (16 + i) 5 4 = 1 := by unfold fld; omega
    have hindex : fld (16 + i) 3 0 = i := by unfold fld; omega
    simp [Reg.code, hclass, hindex, hi, regOf]
  | st | tm | fsw => rfl

theorem Reg.code_lt {r : Reg} (h : r.wf = true) : r.code < 64 := by
  cases r <;> simp [Reg.wf, Reg.code] at h ⊢ <;> omega

/-! ## The extension field of the send forms (R95) -/

section
variable (r : Option Nat) (k : Bool) (l c : Nat)

@[simp] theorem mark_level_lt {n : Nat} (h : 64 ≤ n) : put 5 5 (b2n k) + put 4 2 l < n :=
  put_add_lt (put_lt (by decide) (by decide)) (by decide) h

@[simp] theorem tag_mark_level_lt {n : Nat} (h : 256 ≤ n) : put 7 6 c + (put 5 5 (b2n k) + put 4 2 l) < n :=
  put_add_lt (mark_level_lt k l (by decide)) (by decide) h

theorem encodeSendE_none : encodeSendE none k l = put 5 5 (b2n k) + put 4 2 l := by simp [encodeSendE]

theorem encodeSendE_some : encodeSendE (some c) k l = put 8 8 1 + (put 7 6 c + (put 5 5 (b2n k) + put 4 2 l)) := by
  simp [encodeSendE, Nat.add_assoc]

theorem encodeSendE_lt : encodeSendE r k l < 512 := by
  cases r <;> simp [encodeSendE_none, encodeSendE_some]

theorem mark_encodeSendE : bitN (encodeSendE r k l) 5 = k := by
  cases r <;> simp [encodeSendE_none, encodeSendE_some, bitN_eq_fld]

theorem level_encodeSendE {l : Nat} (hl : l < 8) : fld (encodeSendE r k l) 4 2 = l := by
  cases r <;> simp [encodeSendE_none, encodeSendE_some, hl]

/-- The bits below the level are 0, and so is the level field of a form without one. -/
theorem low_encodeSendE : fld (encodeSendE r k l) 1 0 = 0 ∧ fld (encodeSendE r k 0) 4 0 = 0 := by
  cases r <;> simp [encodeSendE_none, encodeSendE_some]

/-- Without a retag its field is 0. -/
theorem tag_encodeSendE : (bitN (encodeSendE r k l) 8 || fld (encodeSendE r k l) 7 6 == 0) = true := by
  cases r <;> simp [encodeSendE_none, encodeSendE_some, bitN_eq_fld]

theorem retag_encodeSendE {r : Option Nat} (hr : retagOk r = true) :
    (if bitN (encodeSendE r k l) 8 then some (fld (encodeSendE r k l) 7 6) else none) = r := by
  cases r with
  | none => simp [encodeSendE_none, bitN_eq_fld]
  | some c =>
    have hc : c < 4 := by simpa [retagOk] using hr
    simp [encodeSendE_some, bitN_eq_fld, hc]

end

/-! ## Operations (R91, R94)

What MOD means where one code set numbers the opcodes. -/

section
variable (m e : Nat)

theorem decodeMod_int (o : IntOp) : decodeMod o.code m e = (tiOf (fld m 5 3)).bind fun t =>
    guardO (if o.hasSat then fld m 2 1 == 0 else fld m 2 0 == 0) (some (.int o t (o.hasSat && bitN m 0))) := by
  cases o <;> rfl

theorem decodeMod_scale (o : ScaleOp) : decodeMod o.code m e = some (.scale o m) := by cases o <;> rfl

theorem decodeMod_flt (o : FltOp) : decodeMod o.code m e =
    (tfOf (fld m 5 3)).bind fun t => guardO (fld m 2 0 == 0) (some (.flt o t)) := by cases o <;> rfl

theorem decodeMod_spec (o : SpecOp) : decodeMod o.code m e =
    (tfOf (fld m 5 3)).bind fun t => guardO (t.isTf2 && fld m 2 0 == 0) (some (.spec o t)) := by cases o <;> rfl

theorem decodeMod_red (o : RedOp) : decodeMod o.code m e =
    (tlOf (fld m 5 2)).bind fun t => guardO (t.isRed && fld m 1 0 == 0) (some (.red o t)) := by cases o <;> rfl

theorem decodeMod_acc (o : AccOp) : decodeMod o.code m e =
    guardO (fld m 2 0 < 5 && !((o == .gth || o == .sct) && fld m 2 0 == 4)) (some (.acc o (fld m 5 3) (fld m 2 0))) := by
  cases o <;> rfl

theorem decodeMod_atom {o : AtomOp} {r : Bool} (h : (r || o.hasRed) = true) : decodeMod (o.code r) m e =
    (atOf (fld m 2 0)).bind fun t => guardO (o.tyOk t) (some (.atom o r (fld m 5 3) t)) := by
  cases o <;> cases r <;> cases h <;> rfl

end

theorem mod_encodeOp_lt {f : FOp} (hf : f.wf = true) : (encodeOp f).2.1 < 64 := by
  cases f with
  | rdr r | wrr r => exact Reg.code_lt hf
  | state v =>
    cases v with
    | none => exact (by decide : 16 < 64)
    | some v =>
      have hv : v < 16 := by simpa [FOp.wf] using hf
      exact Nat.lt_trans hv (by decide)
  | mldb f | mma f | mmas f => exact Nat.lt_trans f.code_lt (by decide)
  | scan t o => cases o <;> simp [encodeOp]
  | fence k sc =>
    have hsc : sc.code < 16 := Nat.lt_trans sc.code_lt (by decide)
    simp [encodeOp, hsc]
  | isat s d =>
    simp [FOp.wf] at hf
    simp [encodeOp, hf]
  | aadd t w | acc o ch w =>
    simp [FOp.wf] at hf
    have hw : w < 8 := by omega
    simp [encodeOp, hw]
  | tmsk k t =>
    have ht : t < 32 := by simpa [FOp.wf] using hf
    simp [encodeOp, ht]
  | _ => simp [encodeOp, FOp.wf, Nat.add_assoc] at hf ⊢ <;> omega

theorem e_encodeOp_lt (f : FOp) : (encodeOp f).2.2 < 512 := by
  cases f with
  | send | sendp | sende => exact encodeSendE_lt ..
  | state v => cases v <;> exact Nat.zero_lt_succ _
  | _ => simp [encodeOp]

/-- MOD, and E on the forms that use it, give the operation back. -/
theorem decodeMod_encodeOp {f : FOp} (hf : f.wf = true) {c : Nat} (hc : usesE (encodeOp f).1 = true → c = (encodeOp f).2.2) :
    decodeMod (encodeOp f).1 (encodeOp f).2.1 c = some f := by
  cases f with
  | nop | fan | nul | steer | merge | amerge | gate | join | eosq | tagq | psnq | tlk | tinv | pref | xprb | mzro | mdrn | mcnt | mstat
  | mark | halt | trap | bkpt | sldi => rfl
  | recv | peek | drop | sel | carry | strm | strmq | mctx | isat | fcmp | fcls | frnd | pack | unpk | shuf | bcst | slid | zip | uzp | ldot
  | ord | cmpl | fencef | tfil | tevc | mldb | mma | mmas =>
    simp [FOp.wf] at hf
    simp [encodeOp, decodeMod, guardO, bitN_eq_fld, Nat.add_assoc, hf]
  | send | sende | sendp =>
    simp [FOp.wf] at hf
    simp [hc rfl, encodeOp, decodeMod, guardO, hf, retag_encodeSendE, mark_encodeSendE, level_encodeSendE]
  | rdr | wrr => simp [encodeOp, decodeMod, regOf_code hf]
  | state v =>
    cases v with
    | none => rfl
    | some v =>
      have hv : v < 16 := by simpa [FOp.wf] using hf
      have hm : v < 32 := by omega
      simp [encodeOp, decodeMod, guardO, hv, hm, bitN_eq_fld]
  | tmsk k t =>
    have ht : t < 32 := by simpa [FOp.wf] using hf
    simp [encodeOp, decodeMod, bitN_eq_fld, ht]
  | int o t s =>
    simp [FOp.wf] at hf
    obtain ⟨ht, hs⟩ := hf
    cases h : o.hasSat with
    | true => simp [encodeOp, decodeMod_int, bitN_eq_fld, guardO, ht, h]
    | false =>
      have hs : s = false := by simpa [h] using hs
      simp [encodeOp, decodeMod_int, guardO, ht, h, hs]
  | icmp t cc =>
    simp [FOp.wf] at hf
    obtain ⟨⟨ht, hu⟩, ho⟩ := hf
    simp [encodeOp, decodeMod, guardO, ht, Cc.code_lt_six hu ho]
  | aadd t sh =>
    simp [FOp.wf] at hf
    obtain ⟨ht, hsh⟩ := hf
    have hm : sh < 8 := by omega
    simp [encodeOp, decodeMod, guardO, LaneTy.isInt_of_isIdx ht, ht, hsh, hm]
  | abnd t =>
    simp [FOp.wf] at hf
    simp [encodeOp, decodeMod, guardO, LaneTy.isInt_of_isIdx hf, hf]
  | scale o k => exact decodeMod_scale ..
  | flt o t =>
    simp [FOp.wf] at hf
    simp [encodeOp, decodeMod_flt, guardO, hf]
  | spec o t =>
    simp [FOp.wf] at hf
    simp [encodeOp, decodeMod_spec, guardO, LaneTy.isTf_of_isTf2 hf, hf]
  | cvt | qnt | dqt => simp [hc rfl, encodeOp, decodeMod, guardO]
  | red o t =>
    simp [FOp.wf] at hf
    simp [encodeOp, decodeMod_red, guardO, hf]
  | scan t o =>
    simp [FOp.wf] at hf
    cases o <;> simp [encodeOp, decodeMod, guardO, hf]
  | acc o ch w =>
    simp [FOp.wf] at hf
    obtain ⟨⟨hch, hw⟩, ho⟩ := hf
    have hm : w < 8 := by omega
    simp [encodeOp, decodeMod_acc, guardO, hch, hw, ho, hm]
  | atom o r ch t =>
    simp [FOp.wf] at hf
    simp [encodeOp, decodeMod_atom, guardO, hf]
  | fence k sc =>
    have hsc : sc.code < 16 := Nat.lt_trans sc.code_lt (by decide)
    simp [encodeOp, decodeMod, guardO, bitN_eq_fld, hsc]
  | mdrc a => cases a <;> rfl
  | ldi t l => simp [encodeOp, decodeMod, guardO, bitN_eq_fld]

/-- E keeps the limits of R95 on the forms that use it; the others have none. -/
theorem eOk_encodeOp {f : FOp} (hf : f.wf = true) {c : Nat} (hc : usesE (encodeOp f).1 = true → c = (encodeOp f).2.2) :
    eOk (encodeOp f).1 (encodeOp f).2.1 c = true := by
  cases f with
  | int o | scale o | flt o | spec o | red o | acc o => cases o <;> rfl
  | atom o r => cases o <;> cases r <;> rfl
  | send q r k | sendp q r k =>
    simp only [hc rfl, encodeOp, eOk, (low_encodeSendE r k 0).2, tag_encodeSendE]
    rfl
  | sende q r k l =>
    simp [FOp.wf] at hf
    obtain ⟨⟨-, hlo⟩, hl⟩ := hf
    have hne : l ≠ 0 := by omega
    simp [hc rfl, encodeOp, eOk, level_encodeSendE r k hl, (low_encodeSendE r k l).1, hne]
    simpa using tag_encodeSendE r k l
  | cvt d s rm =>
    simp [FOp.wf] at hf
    simp [hc rfl, encodeOp, eOk]
    exact ⟨Ne.symm hf.1, hf.2.imp_left Or.symm⟩
  | qnt | dqt =>
    simp [FOp.wf] at hf
    simp [hc rfl, encodeOp, eOk, hf]
  | state v => cases v <;> rfl
  | _ => rfl

/-! ## Slots (R79, R80) -/

theorem encodeCon_lt (con : Option (Nat × PortName)) : encodeCon con < 512 := by
  cases con with
  | none => decide
  | some p =>
    rw [encodeCon, Nat.add_assoc]
    exact put_add_lt (put_add_lt (put_lt (by decide) (by decide)) (by decide) (by decide)) (by decide) (by decide)

theorem decodeCon_encodeCon {con : Option (Nat × PortName)} (h : conOk con = true) : decodeCon (encodeCon con) = some con := by
  cases con with
  | none => rfl
  | some p =>
    have hs : p.1 < 64 := by simpa [conOk] using h
    simp [encodeCon, decodeCon, bitN_eq_fld, Nat.add_assoc, hs]

/-- Bits [17:9] of a slot's word: E, or the second consumer (R82). -/
def Slot.con1Bits (sl : Slot) : Nat := if usesE (encodeOp sl.op).1 then (encodeOp sl.op).2.2 else encodeCon sl.con1

theorem Slot.con1Bits_lt (sl : Slot) : sl.con1Bits < 512 := by
  unfold Slot.con1Bits
  split
  · exact e_encodeOp_lt sl.op
  · exact encodeCon_lt sl.con1

theorem Slot.con1Bits_of_usesE {sl : Slot} (h : usesE (encodeOp sl.op).1 = true) : sl.con1Bits = (encodeOp sl.op).2.2 := if_pos h

/-- The second consumer is read back; a form that uses E has none. -/
theorem Slot.decode_con1Bits {sl : Slot} (hcon : conOk sl.con1 = true) (he : (!usesE (encodeOp sl.op).1 || sl.con1.isNone) = true) :
    (if usesE (encodeOp sl.op).1 then some none else decodeCon sl.con1Bits) = some sl.con1 := by
  unfold Slot.con1Bits
  cases h : usesE (encodeOp sl.op).1 with
  | true =>
    have hnone : sl.con1 = none := by simpa [h] using he
    simp [hnone]
  | false => simp [decodeCon_encodeCon hcon]

theorem opcode_lt_of_opKinds {op : Nat} {ok : Kind → Bool} (h : opKinds op = some ok) : op < 256 := by
  refine Nat.lt_of_not_le fun hge => ?_
  rw [opKinds_reserved (by omega) (by omega) (by omega) (by omega)] at h
  cases h

section
variable {sl : Slot}

theorem toNat_encodeSlot (sl : Slot) : (encodeSlot sl).toNat =
    put 31 24 (encodeOp sl.op).1 + (put 23 18 (encodeOp sl.op).2.1 + (put 17 9 sl.con1Bits + put 8 0 (encodeCon sl.con0))) := by
  have hw : encodeSlot sl = BitVec.ofNat 32 (put 31 24 (encodeOp sl.op).1 + put 23 18 (encodeOp sl.op).2.1 + put 17 9 sl.con1Bits +
    put 8 0 (encodeCon sl.con0)) := rfl
  rw [hw, BitVec.toNat_ofNat, Nat.add_assoc, Nat.add_assoc]
  have h1 : put 17 9 sl.con1Bits + put 8 0 (encodeCon sl.con0) < 2 ^ 18 := by simp
  have h2 : put 23 18 (encodeOp sl.op).2.1 + (put 17 9 sl.con1Bits + put 8 0 (encodeCon sl.con0)) < 2 ^ 24 :=
    put_add_lt h1 (by decide) (by decide)
  exact Nat.mod_eq_of_lt (put_add_lt h2 (by decide) (by decide))

theorem op_encodeSlot (h : (encodeOp sl.op).1 < 256) : fld (encodeSlot sl).toNat 31 24 = (encodeOp sl.op).1 := by
  rw [toNat_encodeSlot]
  exact fld_put_add (put_add_lt (put_add_lt (put_lt (by decide) (by decide)) (by decide) (by decide)) (by decide) (by decide)) h

theorem mod_encodeSlot (hf : sl.op.wf = true) : fld (encodeSlot sl).toNat 23 18 = (encodeOp sl.op).2.1 := by
  rw [toNat_encodeSlot, fld_put_add_low (by decide) (by decide)]
  exact fld_put_add (put_add_lt (put_lt (by decide) (by decide)) (by decide) (by decide)) (mod_encodeOp_lt hf)

theorem con1_encodeSlot (sl : Slot) : fld (encodeSlot sl).toNat 17 9 = sl.con1Bits := by
  simp [toNat_encodeSlot, sl.con1Bits_lt]

theorem con0_encodeSlot (sl : Slot) : fld (encodeSlot sl).toNat 8 0 = encodeCon sl.con0 := by
  simp [toNat_encodeSlot, encodeCon_lt]

end

/-- What a word decodes to once each check of `decodeSlot` passes. -/
theorem decodeSlot_eq_ok {k : Kind} {w : W32} {ok : Kind → Bool} {f : FOp} {con0 con1 : Option (Nat × PortName)}
    (hok : opKinds (fld w.toNat 31 24) = some ok) (hk : ok k = true)
    (hf : decodeMod (fld w.toNat 31 24) (fld w.toNat 23 18) (fld w.toNat 17 9) = some f)
    (he : eOk (fld w.toNat 31 24) (fld w.toNat 23 18) (fld w.toNat 17 9) = true) (h0 : decodeCon (fld w.toNat 8 0) = some con0)
    (h1 : (if usesE (fld w.toNat 31 24) then some none else decodeCon (fld w.toNat 17 9)) = some con1)
    (hres : (f.hasResult || (con0.isNone && con1.isNone)) = true) : decodeSlot k w = .ok { op := f, con0, con1 } := by
  have hcons : (!f.hasResult && (con0.isSome || con1.isSome)) = false := by
    cases h : f.hasResult <;> simp_all
  simp only [decodeSlot, hok, hk, hf, he, h0, h1, hcons, Bool.not_true, Bool.false_eq_true, if_false]

/-- Settles O3: each field of the word is read as it was placed, and OP, MOD and E give the operation back. -/
theorem fabricSlotsDecodeEncode : Obligations.FabricSlotsDecodeEncode := by
  intro sl k ok hwf hok hk
  simp only [Slot.wf, Bool.and_eq_true] at hwf
  obtain ⟨⟨⟨⟨hf, hcon0⟩, hcon1⟩, hres⟩, he⟩ := hwf
  have hop := op_encodeSlot (opcode_lt_of_opKinds hok)
  apply decodeSlot_eq_ok (hop ▸ hok) hk
  · rw [hop, mod_encodeSlot hf, con1_encodeSlot]
    exact decodeMod_encodeOp hf Slot.con1Bits_of_usesE
  · rw [hop, mod_encodeSlot hf, con1_encodeSlot]
    exact eOk_encodeOp hf Slot.con1Bits_of_usesE
  · rw [con0_encodeSlot]
    exact decodeCon_encodeCon hcon0
  · rw [hop, con1_encodeSlot]
    exact Slot.decode_con1Bits hcon1 he
  · exact hres

end Sys2Proof.Machine

namespace Sys2Proof.Machine

/-! ## The steps of an AGU stream (R211 to R217, R281, R282, R417)

`StreamAt` says where a stream runs; each operation of a step has one lemma that says what runs there after it. -/

/-! ### The ME of a tile, and a stream of it -/

/-- An element with its ME state changed. -/
def Element.modMe (e : Element) (f : Me → Me) : Element := { e with me := f e.me }

@[simp] theorem Element.modMe_me (e : Element) (f : Me → Me) : (e.modMe f).me = f e.me := rfl

@[simp] theorem Me.modStream_spad (m : Me) (i : Nat) (f : Stream → Stream) : (m.modStream i f).spad = m.spad := rfl

@[simp] theorem Me.stream_spadWrite (m : Me) (a : Nat) (bs : List Byte) (psn : Bool) (i : Nat) : (m.spadWrite a bs psn).stream i = m.stream i := rfl

theorem Region.me_of_elem {r : Region} {x y : Nat} {e : Element} (he : r.elem x y .me = some e) : r.me x y = some e.me := by
  simp [Region.me, he]

theorem Region.elem_modMe {r : Region} {x y : Nat} {e : Element} (he : r.elem x y .me = some e) (f : Me → Me) :
    (r.modMe x y f).elem x y .me = some (e.modMe f) :=
  (Region.elem_modElem r x y .me (·.modMe f) fun _ => rfl).trans (by rw [he]; rfl)

theorem Region.elem_modStream {r : Region} {t : TileAt} {e : Element} (he : r.elem t.x t.y .me = some e) (i : Nat) (f : Stream → Stream) :
    (r.modStream t i f).elem t.x t.y .me = some (e.modMe (·.modStream i f)) := Region.elem_modMe he _

/-- A stream that is not idle is one of the ME's list. -/
theorem Me.lt_of_stream_ne {m : Me} {i : Nat} (h : m.stream i ≠ {}) : i < m.streams.length :=
  Nat.lt_of_not_le fun hle => h (by simp [Me.stream, List.getD_eq_getElem?_getD, List.getElem?_eq_none hle])

theorem Me.lt_of_run {m : Me} {i : Nat} {g : SRun} (h : (m.stream i).run = some g) : i < m.streams.length :=
  Me.lt_of_stream_ne fun h0 => by rw [h0] at h; cases h

theorem Me.lt_of_pend {m : Me} {i off : Nat} {rest : List Nat} (h : (m.stream i).pend = off :: rest) : i < m.streams.length :=
  Me.lt_of_stream_ne fun h0 => by rw [h0] at h; cases h

theorem Me.stream_modStream {m : Me} {i : Nat} (h : i < m.streams.length) (f : Stream → Stream) : (m.modStream i f).stream i = f (m.stream i) :=
  upd_getD_self _ _ _ _ h

@[simp] theorem State.countAt_region (s : State) (slot x y elt cls evt n k : Nat) : (s.countAt slot x y elt cls evt n).region k = s.region k := by
  unfold State.countAt State.count
  split
  · split <;> rfl
  · rfl

/-- At the place `t` of the region stands the ME `e`, whose stream `i` runs the descriptor `g`. -/
structure Region.StreamAt (r : Region) (t : TileAt) (i : Nat) (e : Element) (g : SRun) : Prop where
  elem : r.elem t.x t.y .me = some e
  run : (e.me.stream i).run = some g

/-- The same of a state: the region of the place's slot. -/
def State.StreamAt (s : State) (t : TileAt) (i : Nat) (e : Element) (g : SRun) : Prop :=
  ∃ r, s.region t.slot = some r ∧ r.StreamAt t i e g

section
variable {s : State} {t : TileAt} {i : Nat} {r : Region} {e : Element} {g : SRun}

theorem Region.StreamAt.modMe (h : r.StreamAt t i e g) {f : Me → Me} (hf : (f e.me).stream i = e.me.stream i) :
    (r.modMe t.x t.y f).StreamAt t i (e.modMe f) g :=
  ⟨Region.elem_modMe h.elem f, (congrArg Stream.run hf).trans h.run⟩

theorem Region.StreamAt.modStream (h : r.StreamAt t i e g) {f : Stream → Stream} {g' : SRun} (hf : (f (e.me.stream i)).run = some g') :
    (r.modStream t i f).StreamAt t i (e.modMe (·.modStream i f)) g' := by
  refine ⟨Region.elem_modStream h.elem i f, ?_⟩
  rw [Element.modMe_me, Me.stream_modStream (Me.lt_of_run h.run), hf]

theorem Region.StreamAt.modRun (h : r.StreamAt t i e g) (f : SRun → SRun) :
    (r.modRun t i f).StreamAt t i (e.modMe (·.modStream i fun x => { x with run := x.run.map f })) (f g) :=
  h.modStream (by rw [h.run]; rfl)

theorem State.StreamAt.modRegion (h : s.StreamAt t i e g) {f : Region → Region} {e' : Element} {g' : SRun}
    (hf : ∀ r : Region, r.StreamAt t i e g → (f r).StreamAt t i e' g') : (s.modRegion t.slot f).StreamAt t i e' g' := by
  obtain ⟨r, hr, h⟩ := h
  exact ⟨f r, by rw [State.modRegion_of_some hr, State.region_setRegion], hf r h⟩

theorem State.StreamAt.modRun (h : s.StreamAt t i e g) (f : SRun → SRun) :
    (s.modRun t i f).StreamAt t i (e.modMe (·.modStream i fun x => { x with run := x.run.map f })) (f g) :=
  h.modRegion fun _ h => h.modRun f

theorem State.StreamAt.countAt (h : s.StreamAt t i e g) (slot x y elt cls evt n : Nat) : (s.countAt slot x y elt cls evt n).StreamAt t i e g := by
  rwa [State.StreamAt, State.countAt_region]

/-- What the steps of a stream look up first. -/
theorem State.StreamAt.me (h : s.StreamAt t i e g) : ((s.region t.slot).bind fun r => r.me t.x t.y) = some e.me := by
  obtain ⟨r, hr, h⟩ := h
  rw [hr]
  exact Region.me_of_elem h.elem

theorem State.StreamAt.run (h : s.StreamAt t i e g) : (e.me.stream i).run = some g := by
  obtain ⟨r, -, h⟩ := h
  exact h.run

/-! ### Accesses in the scratchpad (R194) -/

/-- An access of `n` bytes at `va`, of a width, that keeps the scratchpad's limits, with every bank swapped in. -/
structure SRun.InSpad (g : SRun) (m : Me) (va n size : Nat) : Prop where
  spad : g.spad = true
  aligned : spadCheck va size = none
  fits : va + n ≤ 0x60000
  swapped : m.swapped = 16

section
variable {va n size : Nat}

theorem SRun.InSpad.va_lt (h : g.InSpad e.me va n size) : va < 2 ^ 64 := by
  have := h.fits
  omega

/-- Such an access goes on at its own address. -/
theorem State.StreamAt.streamAcc_spad (h : s.StreamAt t i e g) (hin : g.InSpad e.me va n size) (scale : Bool) (k : AKind) :
    s.streamAcc t i scale va n size k = (s, .ok va) := by
  obtain ⟨r, hr, h⟩ := h
  simp [State.streamAcc, hr, Region.me_of_elem h.elem, h.run, hin.spad, hin.aligned, hin.swapped, Nat.not_lt.mpr hin.fits]

/-- Bytes of the current unit have been read. -/
def SRun.filled (g : SRun) (bs : List Byte) (psn : Bool) : SRun := { g with part := g.part ++ bs, partPsn := g.partPsn || psn, refill := none }

theorem SRun.part_filled (h : g.part = []) (bs : List Byte) (psn : Bool) : (g.filled bs psn).part = bs := by simp [SRun.filled, h]

theorem SRun.partPsn_filled (h : g.partPsn = false) (bs : List Byte) (psn : Bool) : (g.filled bs psn).partPsn = psn := by simp [SRun.filled, h]

/-- A unit that is there is read no further. -/
theorem State.StreamAt.streamRead_of_full (h : s.StreamAt t i e g) (va size fuel : Nat) (hn : n ≤ g.part.length) :
    s.streamRead t i va n size fuel = s := by
  cases fuel with
  | zero => rfl
  | succ fuel => simp only [State.streamRead, h.me, h.run, Option.bind_some, Option.map_some, hn, if_true]

/-- A unit that lies in the scratchpad is read at once. -/
theorem State.StreamAt.streamRead_spad (h : s.StreamAt t i e g) (hin : g.InSpad e.me va n size) (fuel : Nat) (hn : 0 < n) (hpart : g.part = []) :
    s.streamRead t i va n size (fuel + 1) =
      (s.countAt t.slot t.x t.y 2 2 0 n).modRun t i (·.filled (e.me.spadRead va n) (e.me.spadPsn va n)) := by
  have hnext := (h.countAt t.slot t.x t.y 2 2 0 n).modRun (·.filled (e.me.spadRead va n) (e.me.spadPsn va n))
  have hfull : (g.filled (e.me.spadRead va n) (e.me.spadPsn va n)).part.length = n := by
    rw [SRun.part_filled hpart, Me.spadRead, memReadBytes_length]
  simp only [State.streamRead, h.me, h.run, hpart, hin.spad, Nat.mod_eq_of_lt hin.va_lt, h.streamAcc_spad hin, Option.bind_some, Option.map_some,
    List.length_nil, Nat.not_le.mpr hn, Nat.add_zero, Nat.sub_zero, if_true, if_false]
  exact hnext.streamRead_of_full _ _ _ (Nat.le_of_eq hfull.symm)

/-- Bytes of a store that lie in the scratchpad are written at once. -/
theorem State.StreamAt.streamWrite_spad (h : s.StreamAt t i e g) {bs : List Byte} (hin : g.InSpad e.me va bs.length size) (scale psn : Bool) :
    s.streamWrite t i scale va size bs psn =
      ((s.countAt t.slot t.x t.y 2 2 1 bs.length).modRegion t.slot fun r => r.modMe t.x t.y fun m => m.spadWrite va bs psn, bs.length) := by
  simp [State.streamWrite, h.me, h.run, hin.spad, h.streamAcc_spad hin]

end

/-! ### Loads (R212, R216) -/

/-- What a load keeps for a rollback changes no port, and of the descriptor only what it keeps. -/
theorem Region.StreamAt.keep (h : r.StreamAt t i e g) (unit : List PortItem) (newUnit : Bool) :
    ∃ d k, (r.keep t i unit newUnit).StreamAt t i d { g with kept := k } ∧ d.ports = e.ports := by
  simp only [Region.keep, Region.me_of_elem h.elem, h.run, Option.bind_some, Option.map_some]
  split
  · exact ⟨e, g.kept, h, rfl⟩
  · exact ⟨_, _, (h.modRun _).modStream (h.modRun _).run, rfl⟩

theorem Element.port_modPort {e : Element} {q : Nat} (hq : q < e.ports.length) (f : OutPort → OutPort) : (e.modPort q f).port q = f (e.port q) :=
  upd_getD_self _ _ _ _ hq

/-- Items enter the queue of a port. -/
def Element.pushPort (e : Element) (port : Nat) (its : List PortItem) : Element := e.modPort port fun p => { p with queue := p.queue ++ its }

/-- A load sends: its items enter the port's queue, and are kept. -/
def State.pushItems (s : State) (t : TileAt) (i port : Nat) (its : List PortItem) (newUnit : Bool) : State :=
  s.modRegion t.slot fun r => (r.modElem t.x t.y .me (·.pushPort port its)).keep t i its newUnit

theorem State.StreamAt.pushItems (h : s.StreamAt t i e g) {port : Nat} (hq : port < e.ports.length) (its : List PortItem) (newUnit : Bool) :
    ∃ d k, (s.pushItems t i port its newUnit).StreamAt t i d { g with kept := k } ∧ (d.port port).queue = (e.port port).queue ++ its := by
  obtain ⟨r, hr, h⟩ := h
  have hpush : (r.modElem t.x t.y .me (·.pushPort port its)).StreamAt t i (e.pushPort port its) g :=
    ⟨(Region.elem_modElem r t.x t.y .me (·.pushPort port its) fun _ => rfl).trans (by rw [h.elem]; rfl), h.run⟩
  obtain ⟨d, k, hd, hports⟩ := hpush.keep its newUnit
  refine ⟨d, k, ⟨_, by rw [State.pushItems, State.modRegion_of_some hr, State.region_setRegion], hd⟩, ?_⟩
  rw [Element.port, hports, ← Element.port, Element.pushPort, Element.port_modPort hq]

/-- A load has sent the end-of-stream token that was due; one of level 2 or more stops it in a drain (R357). -/
def Region.eosSent (r : Region) (t : TileAt) (i port level : Nat) : Region :=
  (r.modRun t i fun g => { g with eos := none }).modStream t i fun x =>
    if r.state == .draining && decide (2 ≤ level) then { x with stopped := true, stopPort := some port } else x

theorem Region.StreamAt.eosSent (h : r.StreamAt t i e g) (port level : Nat) :
    ∃ d, (r.eosSent t i port level).StreamAt t i d { g with eos := none } ∧ d.ports = e.ports := by
  have h1 := h.modRun fun g => { g with eos := none }
  refine ⟨_, h1.modStream ?_, rfl⟩
  split <;> exact h1.run

/-- The stream is a load that has not stopped, with nothing to send again and room in its port, at an ME whose units act. -/
structure Region.MayLoad (r : Region) (t : TileAt) (i : Nat) (e : Element) (g : SRun) : Prop extends r.StreamAt t i e g where
  acts : r.acts t.x t.y (.stream t.x t.y i) = true
  fences : e.me.fencesMet e.me.nfence = true
  running : g.ended = false
  load : g.store = false
  goes : (e.me.stream i).stopped = false
  fresh : g.replay = []
  room : 0 < e.portRoom g.pc

theorem State.loadUnit_eos (hr : s.region t.slot = some r) (h : r.MayLoad t i e g) {l : Nat} (hl : g.eos = some l) :
    s.loadUnit t i = ((s.pushItems t i g.pc [{ tok := { eosl := .ofNat 3 l, ctag := g.ctag } }] false).modRegion t.slot fun q =>
      q.eosSent t i g.pc l).checkEnd t i := by
  simp only [State.loadUnit, hr, h.elem, h.run, h.acts, h.fences, h.running, h.load, h.goes, h.fresh, Nat.ne_of_gt h.room, hl, Option.bind_some,
    Option.map_some, Bool.not_true, Bool.or_self, Bool.false_eq_true, if_false]
  rfl

/-- What a load's descriptor is once a unit has been sent. -/
def SRun.sent (g : SRun) (its : List PortItem) : SRun :=
  { g with units := g.units + 1, part := [], partPsn := false, refill := none, eos := g.levelAfter g.units
           psn := g.psn || its.any fun it => it.tok.psn }

/-- With its 16 bytes read, a lane word is sent. -/
theorem State.loadUnit_lane (hr : s.region t.slot = some r) (h : r.MayLoad t i e g) (heos : g.eos = none) (hlane : g.block = none)
    {s1 : State} {d : Element} {g1 : SRun} (hs1 : s.streamRead t i (g.addrs g.units).1 16 16 2 = s1) (h1 : s1.StreamAt t i d g1)
    (hfull : g1.part.length = 16) :
    let its : List PortItem := [{ tok := { word := .ofNat 128 (ofBytes g1.part), ctag := g.ctag, psn := g1.partPsn } }]
    s.loadUnit t i = ((s1.modRun t i (·.sent its)).pushItems t i g.pc its true).checkEnd t i := by
  subst hs1
  simp only [State.loadUnit, hr, h.elem, h.run, h.acts, h.fences, h.running, h.load, h.goes, h.fresh, Nat.ne_of_gt h.room, heos, hlane, h1.me, h1.run,
    hfull, Option.bind_some, Option.map_some, Bool.not_true, Bool.or_self, Bool.false_eq_true, if_false, Nat.lt_irrefl]
  rfl

theorem exec_streamLoadUnit (s : State) (t : TileAt) (i : Nat) : exec (.streamLoadUnit t i) s = .next ((s.loadUnit t i).creditStream t i) := rfl

/-- STREAM_LOAD_UNIT with an end-of-stream token due. -/
theorem exec_streamLoadUnit_eos (hr : s.region t.slot = some r) (h : r.MayLoad t i e g) (hport : g.pc < e.ports.length) {l : Nat}
    (hl : g.eos = some l) : ∃ (u : State) (d : Element) (g' : SRun),
      exec (.streamLoadUnit t i) s = .next ((u.checkEnd t i).creditStream t i) ∧ u.StreamAt t i d g' ∧
        (d.port g.pc).queue = (e.port g.pc).queue ++ [{ tok := { eosl := .ofNat 3 l, ctag := g.ctag } }] ∧ g'.eos = none ∧ g'.units = g.units := by
  have hat : s.StreamAt t i e g := ⟨r, hr, h.toStreamAt⟩
  obtain ⟨d, k, ⟨q, hq, hd⟩, hqueue⟩ := hat.pushItems hport [{ tok := { eosl := .ofNat 3 l, ctag := g.ctag } }] false
  obtain ⟨d', hd', hports⟩ := hd.eosSent g.pc l
  refine ⟨_, d', _, by rw [exec_streamLoadUnit, State.loadUnit_eos hr h hl, State.modRegion_of_some hq],
    ⟨_, State.region_setRegion .., hd'⟩, ?_, rfl, rfl⟩
  rw [Element.port, hports]
  exact hqueue

/-- STREAM_LOAD_UNIT of the next word of a lane format in the scratchpad. -/
theorem exec_streamLoadUnit_spad (hr : s.region t.slot = some r) (h : r.MayLoad t i e g) (hport : g.pc < e.ports.length) (heos : g.eos = none)
    (hlane : g.block = none) (hpart : g.part = []) (hclean : g.partPsn = false) {a : Nat} (ha : (g.addrs g.units).1 = a)
    (hin : g.InSpad e.me a 16 16) : ∃ (u : State) (d : Element) (g' : SRun),
      exec (.streamLoadUnit t i) s = .next ((u.checkEnd t i).creditStream t i) ∧ u.StreamAt t i d g' ∧
        (d.port g.pc).queue = (e.port g.pc).queue ++
          [{ tok := { word := .ofNat 128 (ofBytes (e.me.spadRead a 16)), ctag := g.ctag, psn := e.me.spadPsn a 16 } }] ∧
        g'.eos = g.levelAfter g.units ∧ g'.units = g.units + 1 := by
  have hat : s.StreamAt t i e g := ⟨r, hr, h.toStreamAt⟩
  have hread := hat.streamRead_spad hin 1 (by decide) hpart
  have hfilled := (hat.countAt t.slot t.x t.y 2 2 0 16).modRun (·.filled (e.me.spadRead a 16) (e.me.spadPsn a 16))
  have hunit := State.loadUnit_lane hr h heos hlane (ha ▸ hread) hfilled (by rw [SRun.part_filled hpart, Me.spadRead, memReadBytes_length])
  rw [SRun.part_filled hpart, SRun.partPsn_filled hclean] at hunit
  obtain ⟨d, k, hd, hqueue⟩ := (hfilled.modRun (·.sent _)).pushItems hport _ true
  exact ⟨_, d, _, by rw [exec_streamLoadUnit, hunit], hd, hqueue, rfl, rfl⟩

/-! ### Stores (R214) -/

/-- The stream is a store of a lane format that has nothing to release, at an ME whose units act. -/
structure Region.MayStore (r : Region) (t : TileAt) (i : Nat) (e : Element) (g : SRun) : Prop extends r.StreamAt t i e g where
  acts : r.acts t.x t.y (.stream t.x t.y i) = true
  fences : e.me.fencesMet e.me.nfence = true
  running : g.ended = false
  store : g.store = true
  unheld : g.rel = 0
  lane : g.block = none

/-- A lane word may be taken when it goes into the stream buffer, or its place is in the scratchpad. -/
theorem State.StreamAt.storeReady (h : s.StreamAt t i e g) (hlane : g.block = none)
    (hready : g.hold = true ∨ g.InSpad e.me (g.addrs g.units).1 16 16) : s.storeReady t i g = (s, true) := by
  rcases hready with hhold | hin
  · simp [State.storeReady, hhold]
  · simp [State.storeReady, hlane, h.streamAcc_spad hin]

/-- A store takes the word at the head of its channel. -/
def Region.takeWord (r : Region) (t : TileAt) (i : Nat) (e : Element) (port : Nat) (tok : Token) : Region :=
  ((r.modElem t.x t.y .me fun _ => (e.popChan port).1).addCredits (.chan t.x t.y .me port) (e.popChan port).2.1 (e.popChan port).2.2).modRun t i
    fun h => { h with burst := [tok] }

/-- The word at the head is taken; one that is commit-marked marks the loads that name the channel. -/
theorem State.nextStore_take (hr : s.region t.slot = some r) (h : r.MayStore t i e g) {f : FifoTok} {rest : List FifoTok}
    (hburst : g.burst = []) (hmore : g.units < g.total) (hwords : e.words g.pc s.fc ≠ 0) (hfifo : (e.chan g.pc).fifo = f :: rest)
    (hdata : f.tok.eosl = 0) (hpsn : (cfgPsnf (e.cfg g.pc) && f.tok.psn) = false) (hready : s.storeReady t i g = (s, true)) :
    s.nextStore t i = s.setRegion t.slot
      (if f.tok.cmk then (r.takeWord t i e g.pc f.tok).loadMark t.x t.y g.pc else r.takeWord t i e g.pc f.tok) := by
  have hmark (q : Region) : (if f.tok.cmk then (s.setRegion t.slot q).modRegion t.slot fun r => r.loadMark t.x t.y g.pc else s.setRegion t.slot q) =
      s.setRegion t.slot (if f.tok.cmk then q.loadMark t.x t.y g.pc else q) := by
    split
    · rw [State.modRegion_of_some (State.region_setRegion ..), State.setRegion_setRegion]
    · rfl
  simp only [State.nextStore, hr, h.elem, h.run, h.acts, h.fences, h.running, h.store, h.unheld, h.lane, hburst, Nat.not_le.mpr hmore, hwords, hfifo,
    hdata, hpsn, hready, State.modRegion_of_some hr, hmark, Option.bind_some, Option.map_some, Bool.not_true, Bool.or_self, Bool.false_eq_true,
    Nat.lt_irrefl, List.length_nil, Nat.zero_ne_one, bne_self_eq_false, if_true, if_false]
  rfl

/-- With its word taken, the store moves the unit. -/
theorem State.nextStore_storeUnit (hr : s.region t.slot = some r) (h : r.MayStore t i e g) {k : Token} (hburst : g.burst = [k]) :
    s.nextStore t i = s.storeUnit t i g e := by
  simp only [State.nextStore, hr, h.elem, h.run, h.acts, h.fences, h.running, h.store, h.unheld, h.lane, hburst, Option.bind_some, Option.map_some,
    Bool.not_true, Bool.or_self, Bool.false_eq_true, Nat.lt_irrefl, if_true, if_false, List.length_singleton]

/-- Bytes of the current unit have been written. -/
def SRun.written (g : SRun) (bs : List Byte) : SRun := { g with part := g.part ++ bs, refill := none }

/-- What a store's descriptor is once a unit has been moved. -/
def SRun.moved (g : SRun) (psn : Bool) : SRun := { g with units := g.units + 1, burst := [], part := [], refill := none, psn := g.psn || psn }

/-- A word that is written whole has moved its unit. -/
theorem State.storeUnit_lane {k : Token} {s' : State} (hlane : g.block = none) (hburst : g.burst = [k]) (hhold : g.hold = false)
    (hpart : g.part = []) {a : Nat} (ha : (g.addrs g.units).1 = a) (hlt : a < 2 ^ 64)
    (hw : s.streamWrite t i false a 16 (toBytes 16 k.word.toNat) k.psn = (s', 16)) :
    s.storeUnit t i g e = ((s'.modRun t i (·.written (toBytes 16 k.word.toNat))).modRun t i (·.moved k.psn)).checkEnd t i := by
  have hlen : (toBytes 16 k.word.toNat).length = 16 := toBytes_length 16 _
  have htake : (toBytes 16 k.word.toNat).take 16 = toBytes 16 k.word.toNat := List.take_of_length_le (Nat.le_of_eq hlen)
  simp only [State.storeUnit, hlane, hburst, hpart, hhold, ha, Nat.mod_eq_of_lt hlt, hlen, hw, htake, opnd, List.head?_cons, Option.getD_some,
    List.any_cons, List.any_nil, Option.isSome_none, Bool.or_false, Bool.and_false, Bool.false_eq_true, if_false, Option.bind_none, List.length_nil,
    List.drop_zero, Nat.add_zero, Nat.zero_add, if_true, Nat.lt_irrefl, Nat.zero_lt_succ, Nat.succ_ne_zero]
  rfl

theorem exec_streamStoreUnit (s : State) (t : TileAt) (i : Nat) : exec (.streamStoreUnit t i) s = .next ((s.nextStore t i).creditStream t i) := rfl

/-- STREAM_STORE_UNIT of a word of a lane format whose place is in the scratchpad. -/
theorem exec_streamStoreUnit_spad (hr : s.region t.slot = some r) (h : r.MayStore t i e g) {k : Token} (hburst : g.burst = [k])
    (hhold : g.hold = false) (hpart : g.part = []) {a : Nat} (ha : (g.addrs g.units).1 = a) (hin : g.InSpad e.me a 16 16) :
    ∃ (u : State) (d : Element) (g' : SRun),
      exec (.streamStoreUnit t i) s = .next ((u.checkEnd t i).creditStream t i) ∧ u.StreamAt t i d g' ∧
        d.me.spad = (e.me.spadWrite a (toBytes 16 k.word.toNat) k.psn).spad ∧ g'.burst = [] ∧ g'.units = g.units + 1 := by
  have hat : s.StreamAt t i e g := ⟨r, hr, h.toStreamAt⟩
  have hlen : (toBytes 16 k.word.toNat).length = 16 := toBytes_length 16 _
  have hwrite := hat.streamWrite_spad (bs := toBytes 16 k.word.toNat) (hlen.symm ▸ hin) false k.psn
  rw [hlen] at hwrite
  have hstored := (hat.countAt t.slot t.x t.y 2 2 1 16).modRegion fun r h =>
    h.modMe (f := (·.spadWrite a (toBytes 16 k.word.toNat) k.psn)) (Me.stream_spadWrite ..)
  have hmoved := (hstored.modRun (·.written (toBytes 16 k.word.toNat))).modRun (·.moved k.psn)
  have hstep := (State.nextStore_storeUnit hr h hburst).trans (State.storeUnit_lane h.lane hburst hhold hpart ha hin.va_lt hwrite)
  exact ⟨_, _, _, by rw [exec_streamStoreUnit, hstep], hmoved, by simp only [Element.modMe_me, Me.modStream_spad], rfl, rfl⟩

/-! ### Starts and ends (R213, R417) -/

theorem State.startStream_of_ok (hr : s.region t.slot = some r) (he : r.elem t.x t.y .me = some e) {q : List W64} {fromCmd : Bool} {units : Nat}
    (hok : r.streamBad t.x t.y e { q := q, fromCmd := fromCmd, units := units, markUnits := units } = none) :
    s.startStream t i q fromCmd units =
      (s.setRegion t.slot (r.modStream t i fun x => x.begin { q := q, fromCmd := fromCmd, units := units, markUnits := units }), true) := by
  simp only [State.startStream, hr, he, hok]

section
variable (hr : s.region t.slot = some r) (he : r.elem t.x t.y .me = some e)
include hr he

/-- TRANSLATION_WALK for a chain's request, whose walk succeeds. -/
theorem exec_translationWalk_chain {c : Nat} {q : Req} {s' : State} {k : WalkOk} (hq : (e.me.chain c).reqs.find? (fun p => p.needsWalk) = some q)
    (hm : r.moving = true) (hh : r.holds t.x t.y = true) (hgo : (q.st == .queued && r.stopped (.chain t.x t.y c)) = false)
    (hw : (s.countAt t.slot t.x t.y 2 2 3 (b2n (s.startsWalk (r.dieAt t.x t.y) r.asid q.nextAddr q.op.akind))).translate (some (r.dieAt t.x t.y))
      (some (r.stripAt t.x t.y)) (some r.part) r.asid q.nextAddr q.op.akind = (s', .ok k)) :
    exec (.translationWalk t.slot (.chain t.x t.y c)) s =
      .next (s'.modRegion t.slot fun a => a.modReq t.x t.y c q.seq fun p => { p with paddr := some k.da, mid := k.mid }) := by
  change execTranslationWalk t.slot (.chain t.x t.y c) s = _
  simp only [execTranslationWalk, hr, Region.me_of_elem he, Option.bind_some, hq, hm, hh, hgo, hw, Bool.not_true, Bool.or_self, Bool.false_eq_true,
    if_false]

/-- STREAM_DESCRIPTOR_START of a descriptor that a rollback has put back (R417). -/
theorem exec_streamDescriptorStart_redo {rest : List SRun} (ha : r.acts t.x t.y (.stream t.x t.y i) = true) (hrun : (e.me.stream i).run = none)
    (hredo : (e.me.stream i).redo = g :: rest) (hsw : e.me.swapped = 16) (hgo : (e.me.stream i).stopped = false) :
    exec (.streamDescriptorStart t i) s = .next (s.setRegion t.slot (r.modStream t i fun x => { (x.begin g) with redo := rest })) := by
  change execStreamDescriptorStart t i s = _
  simp only [execStreamDescriptorStart, hr, Region.me_of_elem he, ha, hrun, hredo, hsw, hgo, Bool.not_true, Bool.or_self, Bool.false_eq_true,
    Nat.lt_irrefl, decide_false, if_false]

/-- STREAM_DESCRIPTOR_START of a pending descriptor: it is pending no more, and starts. -/
theorem exec_streamDescriptorStart_pend {off : Nat} {rest : List Nat} (ha : r.acts t.x t.y (.stream t.x t.y i) = true)
    (hrun : (e.me.stream i).run = none) (hredo : (e.me.stream i).redo = []) (hpend : (e.me.stream i).pend = off :: rest)
    (hsw : e.me.swapped = 16) (hgo : (e.me.stream i).stopped = false) :
    exec (.streamDescriptorStart t i) s =
      .next ((s.setRegion t.slot (r.modStream t i fun x => { x with pend := rest })).startStream t i (words64 8 (e.me.spadRead off 64)) false 0).1 := by
  change execStreamDescriptorStart t i s = _
  simp only [execStreamDescriptorStart, hr, Region.me_of_elem he, ha, hrun, hredo, hpend, hsw, hgo, Bool.not_true, Bool.or_self, Bool.false_eq_true,
    Nat.lt_irrefl, decide_false, if_false]

/-- A pending descriptor that keeps the limits runs, and the others stay pending. -/
theorem exec_streamDescriptorStart_ok {off : Nat} {rest : List Nat} (ha : r.acts t.x t.y (.stream t.x t.y i) = true)
    (hrun : (e.me.stream i).run = none) (hredo : (e.me.stream i).redo = []) (hpend : (e.me.stream i).pend = off :: rest)
    (hsw : e.me.swapped = 16) (hgo : (e.me.stream i).stopped = false) (hg : g = { q := words64 8 (e.me.spadRead off 64) })
    (hok : (r.modStream t i fun x => { x with pend := rest }).streamBad t.x t.y (e.modMe (·.modStream i fun x => { x with pend := rest })) g = none) :
    ∃ (u : State) (d : Element), exec (.streamDescriptorStart t i) s = .next u ∧ u.StreamAt t i d g ∧ (d.me.stream i).pend = rest := by
  subst hg
  have hlt : i < e.me.streams.length := Me.lt_of_pend hpend
  have he' := Region.elem_modStream he i fun x => { x with pend := rest }
  have hstart := State.startStream_of_ok (i := i) (fromCmd := false) (units := 0) (s.region_setRegion ..) he' hok
  have hbegun := Me.stream_modStream (m := e.me.modStream i fun x => { x with pend := rest }) (by simpa [Me.modStream] using hlt)
    (·.begin { q := words64 8 (e.me.spadRead off 64) })
  rw [Me.stream_modStream hlt] at hbegun
  exact ⟨_, _, by rw [exec_streamDescriptorStart_pend hr he ha hrun hredo hpend hsw hgo, hstart],
    ⟨_, State.region_setRegion .., Region.elem_modStream he' .., congrArg Stream.run hbegun⟩, congrArg Stream.pend hbegun⟩

/-- STREAM_COMPLETION_TOKEN of an ended stream, with a tracking entry free. -/
theorem exec_streamCompletionToken_of_room (ha : r.acts t.x t.y (.stream t.x t.y i) = true) (hrun : (e.me.stream i).run = some g)
    (hend : g.ended = true) (hroom : e.chainRoom g.cch ≠ 0) :
    exec (.streamCompletionToken t i) s = .next ((s.setRegion t.slot (r.modMe t.x t.y fun m => m.issue g.cch
      { seq := 0, op := .strmDone, st := .performed, ctag := g.ctag,
        reply := some { word := n32x4 i g.units 0 0, ctag := g.ctag, psn := g.psn } } 0)).endStream t i g) := by
  change execStreamCompletionToken t i s = _
  simp only [execStreamCompletionToken, hr, he, hrun, Option.bind_some, Option.map_some, ha, hend, hroom, State.modRegion_of_some hr,
    Bool.not_true, Bool.or_self, Bool.false_eq_true, decide_false, if_false]

end

end

/-- Settles O39, step by step from what each does. -/
theorem streamSteps : Obligations.StreamSteps := by
  intro s t i r e hr he
  refine ⟨fun c q s' k hq hm hh hgo hw => exec_translationWalk_chain hr he hq hm hh hgo hw, fun ha =>
    ⟨fun g rest hrun hredo hsw hgo => exec_streamDescriptorStart_redo hr he ha hrun hredo hsw hgo,
      fun off rest hrun hredo hpend hsw hgo hok => ?_,
      fun g hrun hf hend => ⟨fun hload hgo hfresh hroom hport => ?_, fun hstore hrel hlane =>
        ⟨fun f rest hburst hmore hwords hfifo hdata hpsn hready => ?_, fun k hburst hhold hpart hsp hck hle hsw => ?_⟩⟩,
      fun g hrun hend hroom => exec_streamCompletionToken_of_room hr he ha hrun hend hroom⟩⟩
  · obtain ⟨u, d, hx, ⟨q, hq, hd⟩, hpend'⟩ := exec_streamDescriptorStart_ok hr he ha hrun hredo hpend hsw hgo rfl hok
    exact ⟨u, q, d.me, hx, hq, Region.me_of_elem hd.elem, hd.run, hpend'⟩
  · have h : r.MayLoad t i e g := ⟨⟨he, hrun⟩, ha, hf, hend, hload, hgo, hfresh, hroom⟩
    refine ⟨fun l hl => ?_, fun heos hlane hpart hsp hck hle hsw hclean => ?_⟩
    · obtain ⟨u, d, g', hx, ⟨q, hq, hd⟩, hqueue, heos, hunits⟩ := exec_streamLoadUnit_eos hr h hport hl
      exact ⟨u, q, d, hx, hq, hd.elem, hqueue, by rw [hd.run, Option.map_some, heos, hunits]⟩
    · obtain ⟨u, d, g', hx, ⟨q, hq, hd⟩, hqueue, heos, hunits⟩ :=
        exec_streamLoadUnit_spad hr h hport heos hlane hpart hclean rfl ⟨hsp, hck, hle, hsw⟩
      exact ⟨u, q, d, hx, hq, hd.elem, hqueue, by rw [hd.run, Option.map_some, heos, hunits]⟩
  · have h : r.MayStore t i e g := ⟨⟨he, hrun⟩, ha, hf, hend, hstore, hrel, hlane⟩
    have hat : s.StreamAt t i e g := ⟨r, hr, h.toStreamAt⟩
    rw [exec_streamStoreUnit, State.nextStore_take hr h hburst hmore hwords hfifo hdata hpsn
      (hat.storeReady hlane (hready.imp_right fun ⟨hsp, hck, hle, hsw⟩ => ⟨hsp, hck, hle, hsw⟩))]
    rfl
  · have h : r.MayStore t i e g := ⟨⟨he, hrun⟩, ha, hf, hend, hstore, hrel, hlane⟩
    obtain ⟨u, d, g', hx, ⟨q, hq, hd⟩, hspad, hburst', hunits⟩ :=
      exec_streamStoreUnit_spad hr h hburst hhold hpart rfl ⟨hsp, hck, hle, hsw⟩
    exact ⟨u, q, d.me, hx, hq, Region.me_of_elem hd.elem, hspad, by rw [hd.run, Option.map_some, hburst', hunits]⟩

end Sys2Proof.Machine

namespace Sys2Proof.Machine

/-! ## Atomic operations (R201, R202) -/

/-! ### A location after a write of it -/

/-- A key of memory is no address of a host window (R409). -/
theorem State.localKey_memKey (s : State) (da : Nat) : s.localKey (s.memKey da) = s.memKey da := by
  have hout {a : Nat} (h : inHostWindow a = false) : s.localKey a = a := if_neg (by simp [h])
  unfold State.memKey
  cases s.localOf da with
  | none => exact hout (by simp [inHostWindow]; omega)
  | some a =>
    simp only [Option.map_some, Option.getD_some]
    cases h : inHostWindow a with
    | false => rw [hout h, hout h]
    | true => exact hout (by rw [State.localKey, if_pos h]; simp [inHostWindow]; omega)

@[simp] theorem State.memPut_memKey (s : State) (da a : Nat) (bs : List Byte) (psn : Bool) : (s.memPut da bs psn).memKey a = s.memKey a := by
  rw [State.memPut_frame]; rfl

/-- A location of memory reads as it was written. -/
theorem State.memGet_memPut {s : State} {da : Nat} (bs : List Byte) (psn : Bool) (hs : Inv s) (h : s.memKey da < regSpace ∨ 2 ^ 47 ≤ s.memKey da) :
    (s.memPut da bs psn).memGet da bs.length = bs := by
  have hk := (s.memPut da bs psn).localKey_memKey da
  rw [State.memPut_memKey] at hk
  rw [State.memGet, State.memPut_memKey, State.bytesAt_mem h, hk, State.memPut_mem bs psn h]
  exact memReadBytes_written _ bs hs

/-! ### Numbers of a width -/

theorem ofBytes_lt (bs : List Byte) : ofBytes bs < 2 ^ (8 * bs.length) := by
  induction bs with
  | nil => simp [ofBytes]
  | cons b bs ih =>
    have hb := b.isLt
    have hp : 2 ^ (8 * (b :: bs).length) = 256 * 2 ^ (8 * bs.length) := by
      rw [List.length_cons, Nat.mul_succ, Nat.add_comm, Nat.pow_add]
    rw [ofBytes, hp]
    omega

theorem State.ofBytes_memGet_lt (s : State) (da n : Nat) : ofBytes (s.memGet da n) < 2 ^ (8 * n) := by
  simpa [State.memGet, State.bytesAt_length] using ofBytes_lt (s.memGet da n)

theorem bitN_eq_testBit (x i : Nat) : bitN x i = x.testBit i := by
  rw [Nat.testBit_eq_decide_div_mod_eq]; rfl

theorem testBit_packLanes_one (vs : List Nat) (i : Nat) : (packLanes 1 vs).testBit i = (vs.getD i 0 % 2 == 1) := by
  have h := packLanes_div_mod 1 vs i
  rw [Nat.one_mul, Nat.pow_one] at h
  rw [← bitN_eq_testBit, bitN, h]

/-- An operation bit by bit over a width that holds both numbers is the operation on the numbers. -/
theorem packLanes_bitN_eq_bitwise {f : Bool → Bool → Bool} (hf : f false false = false) {w x y : Nat} (hx : x < 2 ^ w) (hy : y < 2 ^ w) :
    packLanes 1 ((List.range w).map fun i => b2n (f (bitN x i) (bitN y i))) = Nat.bitwise f x y := by
  refine Nat.eq_of_testBit_eq fun i => ?_
  rw [testBit_packLanes_one, Nat.testBit_bitwise hf]
  by_cases hi : i < w
  · rw [← bitN_eq_testBit, ← bitN_eq_testBit]
    cases h : f (bitN x i) (bitN y i) <;> simp [hi, h, b2n]
  · have hp : 2 ^ w ≤ 2 ^ i := Nat.pow_le_pow_right (by decide) (Nat.le_of_not_lt hi)
    rw [Nat.testBit_lt_two_pow (Nat.lt_of_lt_of_le hx hp), Nat.testBit_lt_two_pow (Nat.lt_of_lt_of_le hy hp), hf]
    simp [hi]

/-! ### The new value -/

section
variable {t : AtomTy} {old b : Nat} (c : Nat)

theorem atomNew_min_signed (ht : t.signed = true) :
    atomNew .min t old b c = if toSigned (8 * t.bytes) old < toSigned (8 * t.bytes) b then old else b := by
  simp [atomNew, ht]

theorem atomNew_max_signed (ht : t.signed = true) :
    atomNew .max t old b c = if toSigned (8 * t.bytes) old < toSigned (8 * t.bytes) b then b else old := by
  simp [atomNew, ht]

variable (ho : old < 2 ^ (8 * t.bytes)) (hb : b < 2 ^ (8 * t.bytes))
include ho hb

theorem atomNew_cas : atomNew .cas t old b c = if old = b then c else old := by
  simp [atomNew, Nat.mod_eq_of_lt ho, Nat.mod_eq_of_lt hb]

theorem atomNew_min_unsigned (ht : t.signed = false) : atomNew .min t old b c = min old b := by
  simp only [atomNew, ht, Nat.mod_eq_of_lt ho, Nat.mod_eq_of_lt hb, Bool.false_eq_true, if_false, decide_eq_true_eq]
  split <;> omega

theorem atomNew_max_unsigned (ht : t.signed = false) : atomNew .max t old b c = max old b := by
  simp only [atomNew, ht, Nat.mod_eq_of_lt ho, Nat.mod_eq_of_lt hb, Bool.false_eq_true, if_false, decide_eq_true_eq]
  split <;> omega

theorem atomNew_and : atomNew .and t old b c = old &&& b := packLanes_bitN_eq_bitwise rfl ho hb
theorem atomNew_or : atomNew .or t old b c = old ||| b := packLanes_bitN_eq_bitwise rfl ho hb
theorem atomNew_xor : atomNew .xor t old b c = old ^^^ b := packLanes_bitN_eq_bitwise rfl ho hb

end

/-! ### What an operation leaves -/

/-- A location of memory then holds the new value, cut to the width of the type. -/
theorem State.ofBytes_memGet_atomicAt {s : State} {da b c : Nat} {o : AtomOp} {t : AtomTy} (psn : Bool) (hs : Inv s)
    (h : s.memKey da < regSpace ∨ 2 ^ 47 ≤ s.memKey da) :
    ofBytes ((s.atomicAt da o t b c psn).1.memGet da t.bytes) = atomNew o t (ofBytes (s.memGet da t.bytes)) b c % 2 ^ (8 * t.bytes) := by
  have hget := State.memGet_memPut (toBytes t.bytes (atomNew o t (ofBytes (s.memGet da t.bytes)) b c)) psn hs h
  rw [toBytes_length] at hget
  rw [State.atomicAt, hget, ofBytes_toBytes, Nat.pow_mul]

/-- Settles O38, operation by operation from the new value of each. -/
theorem atomicOperations : Obligations.AtomicOperations := by
  intro s da b c o ty psn hs hb hc w old t new
  have ho : old < 2 ^ w := s.ofBytes_memGet_lt da ty.bytes
  refine ⟨rfl, fun hreg hkey => ?_, fun hkey => ?_, State.atomicAt_inv da o ty b c psn hs⟩
  · have hput := State.memPut_reg (toBytes ty.bytes (atomNew o ty old b c)) psn hreg hkey
    rwa [toBytes_length] at hput
  · have hmod : new = atomNew o ty old b c % 2 ^ w := State.ofBytes_memGet_atomicAt psn hs hkey
    have hnew {v : Nat} (hv : atomNew o ty old b c = v) (hlt : v < 2 ^ w) : new = v := by rw [hmod, hv, Nat.mod_eq_of_lt hlt]
    have hsig (ht : ty = .i32 ∨ ty = .i64) : ty.signed = true := by rcases ht with rfl | rfl <;> rfl
    have huns (ht : ty = .n32 ∨ ty = .n64) : ty.signed = false := by rcases ht with rfl | rfl <;> rfl
    refine ⟨?add, ?swap, ?cas, ?min, ?minU, ?max, ?maxU, ?fadd, ?fmin, ?fmax, ?and, ?or, ?xor, fun a ha => ?out⟩
    case out => exact State.memPut_out _ psn (by rwa [toBytes_length])
    all_goals rintro rfl
    case add => exact hnew rfl (Nat.mod_lt _ (Nat.two_pow_pos w))
    case swap => exact hnew rfl hb
    case cas => exact hnew (atomNew_cas c ho hb) (by split <;> assumption)
    case min => exact fun ht => hnew (atomNew_min_signed c (hsig ht)) (by split <;> assumption)
    case minU => exact fun ht => hnew (atomNew_min_unsigned c ho hb (huns ht)) (Nat.lt_of_le_of_lt (Nat.min_le_left ..) ho)
    case max => exact fun ht => hnew (atomNew_max_signed c (hsig ht)) (by split <;> assumption)
    case maxU => exact fun ht => hnew (atomNew_max_unsigned c ho hb (huns ht)) (Nat.max_lt.mpr ⟨ho, hb⟩)
    case fadd | fmin | fmax => exact hmod
    case and => exact hnew (atomNew_and c ho hb) (Nat.and_lt_two_pow _ hb)
    case or => exact hnew (atomNew_or c ho hb) (Nat.or_lt_two_pow ho hb)
    case xor => exact hnew (atomNew_xor c ho hb) (Nat.xor_lt_two_pow ho hb)

/-! ## STRMQ and SARM (R217, R230, R256) -/

/-- A form that is legal in every mode runs. -/
theorem form_every_mode (s : State) (w : Nat) (rd : BitVec 5) (body : State → FormEnd) : form s false w rd body = (body s).finish s rd := rfl

theorem withRegion_of_byHandle {s : State} {h slot : Nat} {r : Region} (hh : s.byHandle h s.guestTid = .ok (slot, r)) (k : Nat → Region → FormEnd) :
    withRegion s h k = k slot r := by
  rw [withRegion, hh]

/-- Where STRMQ answers, its word has the commands on the stream in [6:2], and nothing above them while there is no ME. -/
theorem Region.streamWord_spec {r : Region} {x y : Nat} (i : Nat) (h : r.state = .loading ∨ (r.me x y).isSome = true) :
    ∃ v, r.streamWord x y i = some v ∧ fld v 6 2 = r.cmdsAt x y i % 32 ∧ ((r.me x y).isNone = true → v < 128) := by
  unfold Region.streamWord
  cases hm : r.me x y with
  | none =>
    have hl : r.state = .loading := h.resolve_right (by simp [hm])
    exact ⟨_, if_pos hl, by simp only [fld, put]; omega, fun _ => by simp only [put]; omega⟩
  | some m => exact ⟨_, rfl, by simp only [fld, put]; omega, by simp⟩

section
variable {s : State} {rs1 : BitVec 5} {slot : Nat} {r : Region} (hh : s.byHandle (s.xreg rs1) s.guestTid = .ok (slot, r))
include hh

theorem exec_strmqCommand (hm : r.midSwitch = false) (rd : BitVec 5) {rs2 : BitVec 5} {v : Nat} (hw : fld (s.xreg rs2) 63 15 = 0)
    (hv : r.streamWord (fld (s.xreg rs2) 6 0) (fld (s.xreg rs2) 11 7) (fld (s.xreg rs2) 14 12) = some v) :
    exec (.strmqCommand rd rs1 rs2) s = .next (s.retire rd v) := by
  change execStrmqCommand rd rs1 rs2 s = _
  simp only [execStrmqCommand, form_every_mode, withRegion_of_byHandle hh, hm, hw, hv, bne_self_eq_false, Bool.false_eq_true, if_false, FormEnd.finish]

/-- An arm word that names an MX of a region on its tiles: the arm joins those of the context that take effect at the end of the fc. -/
theorem State.armRegion_of_mx (hm : r.midSwitch = false) {w : Nat} (hst : r.state = .resident ∨ r.state = .frozen ∨ r.state = .faulted) (hw : fld w 31 14 = 0)
    (hx : (r.elem (fld w 6 0) (fld w 11 7) .mx).isSome = true) :
    s.armRegion slot r w =
      .ok (s.setRegion slot (r.modCtx (fld w 6 0) (fld w 11 7) (fld w 13 12) fun m => { m with pend := m.pend ++ [fld w 63 32] })) := by
  have hst' : (r.state == .resident || r.state == .frozen || r.state == .faulted) = true := by simpa [or_assoc] using hst
  have hx' : (r.elem (fld w 6 0) (fld w 11 7) .mx).isNone = false := by simpa using hx
  simp only [State.armRegion, hst', hm, hw, hx', State.modRegion_of_some (State.byHandle_region hh), bne_self_eq_false, Bool.not_true, Bool.or_self,
    Bool.false_eq_true, if_false]

theorem exec_sarm (rd : BitVec 5) {rs2 : BitVec 5} {s' : State} (ha : s.armRegion slot r (s.xreg rs2) = .ok s') :
    exec (.sarm rd rs1 rs2) s = .next (s'.retire rd 0) := by
  change execSarm rd rs1 rs2 s = _
  simp only [execSarm, form_every_mode, withRegion_of_byHandle hh, ha, FormEnd.finish]

end

/-- Settles O21, from the stream's word and the arm of the region. -/
theorem streamQueryAndArm : Obligations.StreamQueryAndArm := by
  intro s rd rs1 rs2 slot r hh hm w x y
  refine ⟨fun hw hme => ?_, fun hst hw hx => exec_sarm hh rd (State.armRegion_of_mx hh hm hst hw hx)⟩
  obtain ⟨v, hv, hcmds, hlow⟩ := Region.streamWord_spec (fld w 14 12) hme
  exact ⟨v, exec_strmqCommand hh hm rd hw hv, hcmds, hlow⟩

/-! ## Order chains (R191 to R207, R281, R289) -/

/-- A request with the address and the master ID of a page, where it goes through translation (R281). -/
def Req.onPage (q : Req) (pa : Option (Nat × Nat)) : Req :=
  { q with paddr := if q.op.translates then pa.map (·.1) else none, mid := (pa.map (·.2)).getD q.mid }

section
variable {s : State} {t : TileAt} {chain : Nat} {r : Region} {m : Me} {q : Req}

/-- REMOTE_ACK acknowledges the request, and drops what needs no tracking any more. -/
theorem exec_remoteAck (hr : s.region t.slot = some r) (seq : Nat) :
    exec (.remoteAck t chain seq) s = .next (s.setRegion t.slot
      ((r.modReq t.x t.y chain seq fun p => if p.remote && p.st == .performed then { p with st := .acked } else p).modChain t.x t.y chain Chain.sweep)) := by
  change execRemoteAck t chain seq s = _
  rw [execRemoteAck, State.modRegion_of_some hr]

/-- REPLY_DELIVERY of a reply that is ready, at a port with room. -/
theorem exec_replyDelivery {e : Element} {tok : Token} (hr : s.region t.slot = some r) (he : r.elem t.x t.y .me = some e)
    (hq : (e.me.chain chain).reqs.find? (fun p => p.op.replies && p.inUse) = some q) (htok : q.reply = some tok)
    (ha : r.acts t.x t.y (.chain t.x t.y chain) = true) (hready : (e.me.chain chain).replyReady q = true) (hroom : (e.port (8 + chain)).queue.length < 4) :
    exec (.replyDelivery t chain) s = .next (s.setRegion t.slot
      ((r.modElem t.x t.y .me fun a => a.modPort (8 + chain) fun p => { p with queue := p.queue ++ [{ tok := tok }] }).modChain t.x t.y chain fun c =>
        { c with reqs := c.reqs.filterMap fun p =>
            if p.seq = q.seq then (if p.remote && p.st != .acked && !p.op.reads then some { p with reply := none } else none) else some p })) := by
  change execReplyDelivery t chain s = _
  simp only [execReplyDelivery, State.modRegion_of_some hr, he, hq, htok, ha, hready, Nat.not_le.mpr hroom, Bool.not_true, Bool.or_self, Bool.false_eq_true,
    decide_false, if_false]

section
variable (hr : s.region t.slot = some r) (hm : r.me t.x t.y = some m)
include hr hm

/-- REQUEST_SEND of a request that goes to a target and has the page that it needs. -/
theorem exec_requestSend (hq : (m.chain chain).reqs.find? (fun p => p.st == .queued) = some q) (ha : r.acts t.x t.y (.chain t.x t.y chain) = true)
    (hb : m.banksIn q = true) (hpsn : q.psn = false) (hord : q.op ≠ .ord) (hcmpl : q.op ≠ .cmpl) (hev : ∀ a b, q.op ≠ .tevc a b false)
    (hmay : s.maySend m chain (q.onPage (s.reqPage r t.x t.y q)) = true) (hpage : q.op.translates = true → s.reqPage r t.x t.y q ≠ none) :
    exec (.requestSend t chain) s = .next (s.setRegion t.slot (r.modReq t.x t.y chain q.seq fun p =>
      { p with lines := (match p.op with | .tevc slot _ _ => m.spadLines (slot * 512) 8 | _ => [])
               paddr := (q.onPage (s.reqPage r t.x t.y q)).paddr, mid := (q.onPage (s.reqPage r t.x t.y q)).mid, st := .sent
               remote := p.remote || ((q.onPage (s.reqPage r t.x t.y q)).paddr.map fun da => (s.localOf da).isNone).getD false })) := by
  change execRequestSend t chain s = _
  have hgo : (q.op.translates && (s.reqPage r t.x t.y q).isNone) = false := by
    cases h : q.op.translates with
    | false => rfl
    | true => simpa [Option.ne_none_iff_isSome] using hpage h
  rw [Req.onPage] at hmay
  simp only [execRequestSend, State.modRegion_of_some hr, hm, hq, ha, hb, hmay, Bool.not_true, Bool.or_self, Bool.false_eq_true, if_false]
  simp only [hpsn, hgo, Bool.false_eq_true, if_false]
  rfl

variable (hq : m.atTarget chain = some q) (hmov : r.moving = true)
include hq hmov

/-- REQUEST_PERFORM of a scratchpad load (R197). -/
theorem exec_requestPerform_ld {n : Nat} (hop : q.op = .ld n) :
    exec (.requestPerform t chain) s =
      .next (s.donePerform t chain q false (.ofNat 128 (ofBytes (m.spadRead q.addr n))) (m.spadPsn q.addr n)) := by
  change execRequestPerform t chain s = _
  simp only [execRequestPerform, hr, hm, hq, hmov, hop, Bool.not_true, Bool.false_eq_true, if_false]

/-- REQUEST_PERFORM of a global store whose checks pass: its masked bytes are written at the home (R198, R289). -/
theorem exec_requestPerform_stg {n mask da : Nat} {s1 : State} (hop : q.op = .stg n mask) (hda : q.paddr = some da)
    (hck : s.check (r.whoAt t.x t.y q.mid) da .write q.op.bytes.2 = (s1, none)) :
    exec (.requestPerform t chain) s =
      .next ((s1.memPutMasked da mask (toBytes n q.data.toNat) q.dpsn).donePerform t chain q (s1.localOf da).isNone 0 false) := by
  rw [hop] at hck
  change execRequestPerform t chain s = _
  simp only [execRequestPerform, hr, hm, hq, hmov, hop, hda, ReqOp.akind, hck, Bool.not_true, Bool.false_eq_true, if_false]

/-- ATOMIC_APPLY of an atomic whose checks pass: the old value is the reply (R202, R203). -/
theorem exec_atomicApply {o : AtomOp} {ret : Bool} {ty : AtomTy} {b c da : Nat} {s1 : State} (hop : q.op = .atom o ret ty b c) (hda : q.paddr = some da)
    (hck : s.check (r.whoAt t.x t.y q.mid) da .atomic ty.bytes (hostAtomicOk o ret ty) = (s1, none)) :
    exec (.atomicApply t chain) s =
      .next ((s1.atomicAt da o ty b c q.dpsn).1.donePerform t chain q (s1.localOf da).isNone (lane0 (8 * ty.bytes) (s1.atomicAt da o ty b c q.dpsn).2.1)
        (s1.atomicAt da o ty b c q.dpsn).2.2) := by
  change execAtomicApply t chain s = _
  simp only [execAtomicApply, hr, hm, Option.bind_some, hq, hmov, hop, hda, hck, Bool.not_true, Bool.false_eq_true, if_false]

end

end

/-- Settles O37, step by step from what each does. -/
theorem chainRequestsProceed : Obligations.ChainRequestsProceed := by
  intro s t chain r m q hr hm
  exact ⟨fun hq ha hb hpsn hord hcmpl hev hmay hpage => exec_requestSend hr hm hq ha hb hpsn hord hcmpl hev hmay hpage,
    fun hq hmov => ⟨fun n hop => exec_requestPerform_ld hr hm hq hmov hop,
      fun n mask da s1 hop hda hck => exec_requestPerform_stg hr hm hq hmov hop hda hck,
      fun o ret ty b c da s1 hop hda hck => exec_atomicApply hr hm hq hmov hop hda hck⟩,
    exec_remoteAck hr,
    fun e tok he hq htok ha hready hroom => exec_replyDelivery hr he hq htok ha hready hroom⟩

end Sys2Proof.Machine

namespace Sys2Proof.Machine

/-! ## What an ME and an MX do for their tile: bank swaps, drains to ports and to tensors (R225, R235, R236, R355, R374 to R377) -/

/-! ### Bank swaps -/

theorem Tile.elem_modElem_ne (t : Tile) {k j : Elt} (f : Element → Element) (hf : ∀ e, (f e).elt = e.elt) (h : j ≠ k) :
    (t.modElem k f).elem j = t.elem j := by
  refine find?_map_of_fixed t.elts (fun e => e.elt == j) _ (fun e => ?_) fun e he => ?_
  · split
    · rw [hf e]
    · rfl
  · exact if_neg fun hk => h ((beq_iff_eq.mp he).symm.trans (beq_iff_eq.mp hk))

/-- An element of another kind than the one that changed reads as before. -/
theorem Region.elem_modElem_ne (r : Region) (x y : Nat) {k j : Elt} (f : Element → Element) (hf : ∀ e, (f e).elt = e.elt) (h : j ≠ k) :
    (r.modElem x y k f).elem x y j = r.elem x y j := by
  unfold Region.elem Region.modElem
  rw [Region.tile_modTile r x y (·.modElem k f) fun t => ⟨rfl, rfl⟩]
  cases r.tile x y with
  | none => rfl
  | some t => exact Tile.elem_modElem_ne t f hf h

/-- One bank more is swapped (R355). -/
def Me.swapOne (m : Me) : Me := { m with swapped := m.swapped + 1 }

/-- An MX that may select MMAS (R355). -/
def Element.freeMmas (e : Element) : Element := { e with holdMmas := false }

/-- The region with one bank more swapped in the ME of a tile, after `n` of them. -/
def Region.swapBank (r : Region) (x y n : Nat) : Region :=
  if n = 15 then (r.modMe x y Me.swapOne).modElem x y .mx Element.freeMmas else r.modMe x y Me.swapOne

theorem Region.me_swapBank {r : Region} {x y : Nat} {m : Me} (n : Nat) (hm : r.me x y = some m) :
    (r.swapBank x y n).me x y = some m.swapOne := by
  obtain ⟨e, he, rfl⟩ := Option.map_eq_some_iff.mp hm
  have hmod := Region.elem_modMe he Me.swapOne
  unfold Region.swapBank
  split
  · exact Region.me_of_elem ((Region.elem_modElem_ne _ x y Element.freeMmas (fun _ => rfl) (by decide)).trans hmod)
  · exact Region.me_of_elem hmod

theorem Region.mx_swapBank {r : Region} {x y : Nat} {e : Element} (n : Nat) (he : r.elem x y .mx = some e) :
    (r.swapBank x y n).elem x y .mx = some (if n = 15 then e.freeMmas else e) := by
  have hmod : (r.modMe x y Me.swapOne).elem x y .mx = some e :=
    (Region.elem_modElem_ne r x y (·.modMe Me.swapOne) (fun _ => rfl) (by decide)).trans he
  unfold Region.swapBank
  split
  · exact (Region.elem_modElem _ x y .mx Element.freeMmas fun _ => rfl).trans (by rw [hmod]; rfl)
  · exact hmod

section
variable {s : State} {t : TileAt} {r : Region} (hr : s.region t.slot = some r)
include hr

/-- ME_BANK_SWAP of a tile that holds its configuration, with a bank left to swap. -/
theorem exec_meBankSwap {m : Me} (hm : r.me t.x t.y = some m) (hs : m.swapped < 16) (hh : r.holds t.x t.y = true) :
    exec (.meBankSwap t) s = .next (s.setRegion t.slot (r.swapBank t.x t.y m.swapped)) := by
  change execMeBankSwap t s = _
  have hlast : (m.swapped + 1 = 16) = (m.swapped = 15) := by simp
  simp only [execMeBankSwap, State.modRegion_of_some hr, hm, hh, Nat.not_le.mpr hs, hlast, decide_false, Bool.not_true, Bool.or_self,
    Bool.false_eq_true, if_false]
  rfl

/-! ### Drains to ports -/

/-- MX_DRAIN_WORD for a named port that is not done and has room, and in which no word is placed in this fc. -/
theorem exec_mxDrainWord {c port n : Nat} {e : Element} {d : Drain} (he : r.elem t.x t.y .mx = some e) (hd : (e.mx.getD c {}).drain = some d)
    (hn : look d.pos port = some n) (hcopy : d.copy = false) (ha : r.acts t.x t.y (.drain t.x t.y c) = true) (hlen : n < d.len)
    (hdue : e.dueAt port = false) (hroom : 0 < e.portRoom port) :
    exec (.mxDrainWord t c port) s =
      .next (s.setRegion t.slot (r.modCtx t.x t.y c fun m => { m with drain := some { d with due := d.due ++ [port] } })) := by
  change execMxDrainWord t c port s = _
  simp only [execMxDrainWord, State.modRegion_of_some hr, he, hd, hn, hcopy, ha, hdue, Nat.not_le.mpr hlen, Nat.ne_of_gt hroom, Option.bind_some,
    Option.map_some, decide_false, Bool.not_true, Bool.or_self, Bool.false_eq_true, if_false]

end

section
variable {e : Element} {c port n : Nat} {d : Drain} (hn : look d.pos port = some n) (hlen : n < d.len)
include hn hlen

/-- The port takes the drain's next token at the end of its queue. -/
theorem Element.port_placeWord (hp : port < e.ports.length) :
    ((e.placeWord c port d).port port).queue = (e.port port).queue ++ [{ tok := d.token n }] := by
  simp only [Element.placeWord, hn, Nat.not_le.mpr hlen, if_false]
  exact congrArg OutPort.queue (Element.port_modPort hp _)

/-- The drain goes on one word further in the port, or ends once each port has had all of its tokens (R235). -/
theorem Element.drain_placeWord (hc : c < e.mx.length) :
    ((e.placeWord c port d).mx.getD c {}).drain =
      if (insertKV d.pos port (n + 1)).all (fun p => decide (d.len ≤ p.2)) = true then none else some { d with pos := insertKV d.pos port (n + 1) } := by
  simp only [Element.placeWord, hn, Nat.not_le.mpr hlen, if_false]
  exact congrArg MxCtx.drain (upd_getD_self e.mx c _ {} hc)

end

/-! ### Drains to tensors -/

theorem State.handOff_of_none_waiting {s : State} {n : Nat} (h : s.waitingTiles n = []) : s.handOff n = s := by
  rw [State.handOff, h]

/-- A tile whose elements are all performed, and that names no counter, leaves its engine. -/
theorem State.mdrcEnd_of_no_counter (s : State) (n slot x y c : Nat) (r : Region) {d : Drain} (h : d.ctr = 0) :
    s.mdrcEnd n slot x y c r d =
      (s.modCopy n fun e => { e with handoff := e.handoff.tail, turn := false }).modRegion slot fun q =>
        q.modCtx x y c fun m => { m with drain := none, dwp := 0 } := if_pos h

/-- At the head of engine `n`'s queue stands the tile that context `c` of an MX drains, and its turn has come (R377). -/
structure State.TileTurn (s : State) (n slot x y c : Nat) (rest : List (Nat × Nat × Nat × Nat)) (r : Region) (d : Drain) : Prop where
  none_waiting : s.waitingTiles n = []
  head : (s.copyEngine n).handoff = (slot, x, y, c) :: rest
  region : s.region slot = some r
  drain : (r.ctx x y c).bind (·.drain) = some d
  acts : r.acts x y (.drain x y c) = true
  turn : (s.copyEngine n).turn = true ∨ (s.copyEngine n).busyCmd = false

section
variable {s : State} {n slot x y c : Nat} {rest : List (Nat × Nat × Nat × Nat)} {r : Region} {d : Drain} (h : s.TileTurn n slot x y c rest r d)
include h

theorem State.TileTurn.not_held : (!r.acts x y (.drain x y c) || (!(s.copyEngine n).turn && (s.copyEngine n).busyCmd)) = false := by
  rcases h.turn with ht | ht <;> simp [h.acts, ht]

/-- MDRC_ELEMENT_WRITE of a tile whose record has been read goes on with its elements. -/
theorem State.TileTurn.exec_element (hb : d.blk ≠ []) : exec (.mdrcElementWrite n) s = .next (s.mdrcElement n slot x y c r d) := by
  change execMdrcElementWrite n s = _
  simp only [execMdrcElementWrite, State.handOff_of_none_waiting h.none_waiting, h.head, h.region, h.drain, h.not_held, List.isEmpty_eq_false_iff.mpr hb,
    Bool.false_eq_true, if_false]

/-- MDRC_ELEMENT_WRITE of a tile whose record has not been read reads one that keeps the rules (R374, R375). -/
theorem State.TileTurn.exec_record {s1 : State} {bs : List Byte} (hb : d.blk = []) (hva : vaCheck d.recA 8 = none)
    (hread : s.controlBlock r.part r.asid d.recA 64 = (s1, .ok bs)) (hok : tsOk (words64 8 bs) = true)
    (hty : mdrcTypeOk d.isInt (tsType (words64 8 bs)) = true) (hctr : d.ctr % 8 = 0) (hlt : d.ctr < 2 ^ 52) :
    exec (.mdrcElementWrite n) s =
      .next (s1.modRegion slot fun q => q.modCtx x y c fun m => { m with drain := some { d with blk := words64 8 bs } }) := by
  change execMdrcElementWrite n s = _
  have hempty : d.blk.isEmpty = true := List.isEmpty_iff.mpr hb
  simp only [execMdrcElementWrite, State.handOff_of_none_waiting h.none_waiting, h.head, h.region, h.drain, h.not_held, hempty, hva, hread, hok, hty, hctr,
    fld_of_lt hlt, beq_self_eq_true, Bool.and_self, Bool.false_eq_true, if_false, if_true]

/-- The next element is written at its tensor address, where a later one remains (R236, R428). -/
theorem State.TileTurn.exec_write {k k2 da : Nat} {ty : LaneTy} {s1 : State} (hb : d.blk ≠ []) (hk : d.nextElt d.elt = some k)
    (hk2 : d.nextElt (k + 1) = some k2) (hadd : d.add = false) (hty : tlOf (tsType d.blk) = some ty)
    (hacc : s.engineAcc r x y (tsAddr d.blk (d.coord k)) (ty.width / 8) .write = (s1, .ok da)) :
    exec (.mdrcElementWrite n) s = .next ((((s1.memPut da (toBytes (ty.width / 8) (mdrcValue (tsType d.blk) (d.buf.getD k 0).toNat)) d.psn).countAt
        slot x y 3 2 1 (ty.width / 8)).modCopy n fun g => { g with turn := false }).modRegion slot fun q =>
      (q.modCtx x y c fun m => { m with drain := some { d with elt := k + 1 } }).dirtied) := by
  have hlater : ({ d with elt := k + 1 } : Drain).nextElt (k + 1) = some k2 := hk2
  have hwrite : ¬d.add = true := by simp [hadd]
  rw [h.exec_element hb]
  simp only [State.mdrcElement, hk, hty, if_neg hwrite, hacc, hlater, Option.map_some, Option.getD_some, Option.isNone_some, Bool.false_eq_true, if_false]

/-- With no element and no counter left, the drain buffer is free and the engine takes the next tile (R236). -/
theorem State.TileTurn.exec_end (hb : d.blk ≠ []) (hnone : d.nextElt d.elt = none) (hctr : d.ctr = 0) :
    exec (.mdrcElementWrite n) s = .next ((s.modCopy n fun e => { e with handoff := rest, turn := false }).modRegion slot fun q =>
      q.modCtx x y c fun m => { m with drain := none, dwp := 0 }) := by
  rw [h.exec_element hb, State.mdrcElement, hnone]
  simp only [State.mdrcEnd_of_no_counter s n slot x y c r hctr, State.modCopy, h.head, List.tail_cons]

end

/-- Settles O40, step by step from what each does. -/
theorem tileSteps : Obligations.TileSteps := by
  refine ⟨fun s t r hr => ⟨fun m hm hs hh => ?_, ?_⟩, ?_, ?_⟩
  · exact ⟨_, exec_meBankSwap hr hm hs hh, Region.me_swapBank _ hm, fun e he => Region.mx_swapBank _ he⟩
  · exact fun c port e d n he hd hn hcopy ha hlen hdue hroom => exec_mxDrainWord hr he hd hn hcopy ha hlen hdue hroom
  · exact fun e c port n d hn hlen hp hc => ⟨Element.port_placeWord hn hlen hp, Element.drain_placeWord hn hlen hc⟩
  · intro s n slot x y c rest r d hwait hhead hr hd ha hturn
    have h : s.TileTurn n slot x y c rest r d := ⟨hwait, hhead, hr, hd, ha, hturn⟩
    exact ⟨fun s1 bs hb hva hread hok hty hctr hlt => h.exec_record hb hva hread hok hty hctr hlt,
      fun k k2 ty s1 da hb hk hk2 hadd hty hacc => h.exec_write hb hk hk2 hadd hty hacc,
      fun hb hnone hctr => h.exec_end hb hnone hctr⟩

end Sys2Proof.Machine

namespace Sys2Proof.Machine

/-! ## Invalidation of translations (R283 to R287) -/

/-! ### A store to XIVC -/

section
variable (s : State) (h asid sz : Nat)

theorem exec_invalidatePage : exec (.invalidatePage h asid sz) s = .next (s.storeXivc h (put 39 28 asid + put 3 2 sz)) := rfl

theorem exec_invalidateAsid : exec (.invalidateAsid h asid) s = .next (s.storeXivc h (put 39 28 asid + 1)) := rfl

theorem exec_invalidateAll : exec (.invalidateAll h) s = .next (s.storeXivc h 2) := rfl

end

/-- A store to XIVC that the device table admits reaches the block. -/
theorem State.storeXivc_of_permits {s : State} {h : Nat} (v : Nat) (hp : s.powered = true)
    (ha : s.permits (s.hartWho h) (xlatBase + 0x10) .write = true) : s.storeXivc h v = s.writeXlat 0x10 v (some h) :=
  State.regWrite_of_permits _ hp (.inr ⟨h, rfl⟩) ha

/-- With fewer than 16 commands pending and no store waiting, a store to XIVC is performed. -/
theorem State.writeXlat_xivc {s : State} (v : Nat) (who : Option Nat) (hh : s.xlat.held = []) (hn : s.xlat.pending.length < 16) :
    s.writeXlat 0x10 v who = s.runXivc v :=
  if_neg (by simp only [hh, List.isEmpty_nil, Bool.not_true, Bool.false_or, Bool.and_eq_true, decide_eq_true_eq]; omega)

/-- With 16 commands pending, or behind stores that wait, it waits (log entry 84). -/
theorem State.writeXlat_xivc_waits {s : State} (v : Nat) (who : Option Nat) (hw : 16 ≤ s.xlat.pending.length ∨ s.xlat.held ≠ []) :
    s.writeXlat 0x10 v who = { s with xlat := { s.xlat with held := s.xlat.held ++ [(who, 0x10, v)] } } := by
  refine if_pos ?_
  rcases hw with hn | hh
  · simp [hn]
  · simp [hh]

/-! ### The commands of XIVC (R286) -/

theorem State.runXivc_page (s : State) (asid : Nat) {sz : Nat} (hsz : sz < 3) :
    s.runXivc (put 39 28 asid + put 3 2 sz) = s.invalPage (asid % 4096) sz := by
  have hasid : fld (put 39 28 asid + put 3 2 sz) 39 28 = asid % 4096 := by simp only [fld, put]; omega
  have hsize : fld (put 39 28 asid + put 3 2 sz) 3 2 = sz := by simp only [fld, put]; omega
  have hkind : fld (put 39 28 asid + put 3 2 sz) 1 0 = 0 := by simp only [fld, put]; omega
  simp only [State.runXivc, hasid, hsize, hkind, if_neg (Nat.ne_of_lt hsz)]

theorem State.runXivc_size_three (s : State) (asid : Nat) : s.runXivc (put 39 28 asid + put 3 2 3) = s.rejectInval :=
  if_pos (by simp only [fld, put]; omega)

theorem State.runXivc_asid (s : State) (asid : Nat) :
    s.runXivc (put 39 28 asid + 1) = s.invalidate { asid := some (asid % 4096), range := none } := by
  have hasid : fld (put 39 28 asid + 1) 39 28 = asid % 4096 := by simp only [fld, put]; omega
  have hsize : fld (put 39 28 asid + 1) 3 2 = 0 := by simp only [fld, put]; omega
  have hkind : fld (put 39 28 asid + 1) 1 0 = 1 := by simp only [fld, put]; omega
  simp only [State.runXivc, hasid, hsize, hkind, if_neg (show ¬0 = 3 by decide)]

theorem State.runXivc_all (s : State) : s.runXivc 2 = s.invalidate { asid := none, range := none } := rfl

/-- The translations that INVALIDATE_PAGE removes: those of the ASID that meet the page XIVA names (R287). -/
def State.pageSet (s : State) (asid sz : Nat) : TransSet := { asid := some asid, range := some (s.xlat.vpg * 65536, szBytes sz) }

theorem State.invalPage_of_aligned {s : State} (asid : Nat) {sz : Nat} (hsz : sz < 3) (hal : s.xlat.vpg * 65536 % szBytes sz = 0) :
    s.invalPage asid sz = s.invalidate (s.pageSet asid sz) :=
  if_neg (by simp [hsz, hal])

theorem State.invalPage_of_misaligned {s : State} (asid : Nat) {sz : Nat} (hal : s.xlat.vpg * 65536 % szBytes sz ≠ 0) :
    s.invalPage asid sz = s.rejectInval :=
  if_pos (by simp [hal])

/-! ### Which translations a set holds -/

theorem State.pageSet_has (s : State) (asid sz : Nat) (k : Trans) :
    (s.pageSet asid sz).has k = true ↔
      k.asid = asid ∧ k.va < s.xlat.vpg * 65536 + szBytes sz ∧ s.xlat.vpg * 65536 < k.va + k.size := by
  simp [State.pageSet, TransSet.has, TransSet.meets, @eq_comm Nat k.asid]

theorem TransSet.has_of_asid (asid : Nat) (k : Trans) : TransSet.has { asid := some asid, range := none } k = true ↔ k.asid = asid := by
  simp [TransSet.has, TransSet.meets, @eq_comm Nat k.asid]

theorem TransSet.has_of_all (k : Trans) : TransSet.has { asid := none, range := none } k = true := rfl

/-! ### What an invalidation keeps (R287) -/

theorem look_map_snd {κ ν : Type} [DecidableEq κ] (l : List (κ × ν)) (f : ν → ν) (k : κ) :
    look (l.map fun p => (p.1, f p.2)) k = (look l k).map f := by
  induction l with
  | nil => rfl
  | cons p l ih => by_cases h : p.1 = k <;> simp [look, h, ih]

theorem Region.tile_dropTrans (r : Region) (t : TransSet) (x y : Nat) :
    (r.dropTrans t).tile x y = (r.tile x y).map fun k => k.modElem .me fun e => e.modMe (·.dropTrans t) :=
  List.find?_map

theorem Region.me_dropTrans (r : Region) (t : TransSet) (x y : Nat) : (r.dropTrans t).me x y = (r.me x y).map (·.dropTrans t) := by
  unfold Region.me Region.elem
  rw [Region.tile_dropTrans]
  cases r.tile x y with
  | none => rfl
  | some k =>
    have he := Tile.elem_modElem k .me (fun e => e.modMe (·.dropTrans t)) fun _ => rfl
    simp only [Option.map_some, Option.bind_some, he, Option.map_map]
    rfl

theorem Me.stream_dropTrans (m : Me) (t : TransSet) (i : Nat) : (m.dropTrans t).stream i = (m.stream i).drop t := by
  simp only [Me.stream, Me.dropTrans, List.getD_eq_getElem?_getD, List.getElem?_map]
  cases m.streams[i]? <;> rfl

/-- A stream of the ME at a tile of a region's slot. -/
def State.streamEntry (s : State) (slot x y i : Nat) : Option Stream := ((s.region slot).bind fun r => r.me x y).map fun m => m.stream i

theorem State.streamEntry_invalidate (s : State) (t : TransSet) (slot x y i : Nat) :
    (s.invalidate t).streamEntry slot x y i = (s.streamEntry slot x y i).map (·.drop t) := by
  have hr : (s.invalidate t).region slot = (s.region slot).map (·.dropTrans t) := look_map_snd s.regions (·.dropTrans t) slot
  unfold State.streamEntry
  rw [hr]
  cases s.region slot with
  | none => rfl
  | some r =>
    simp only [Option.map_some, Option.bind_some, Region.me_dropTrans, Option.map_map]
    exact congrArg (Option.map · _) (funext fun m => Me.stream_dropTrans m t i)

theorem State.mem_tcache_invalidate (s : State) (t : TransSet) (k : Trans) :
    k ∈ (s.invalidate t).tcache ↔ k ∈ s.tcache ∧ ¬ t.has k = true := by
  simp [State.invalidate, State.dropTranslations]

/-- A stream keeps the translations outside the set, and all that is not a translation. -/
theorem Stream.drop_spec (a : Stream) (t : TransSet) :
    (∀ k, (a.drop t).teData = some k ↔ a.teData = some k ∧ ¬ t.has k = true) ∧
    (∀ k, (a.drop t).teScale = some k ↔ a.teScale = some k ∧ ¬ t.has k = true) ∧
    { a.drop t with teData := a.teData, teScale := a.teScale } = a := by
  simp [Stream.drop, Option.filter_eq_some_iff]

theorem State.invalidate_pending_length (s : State) (t : TransSet) :
    (s.invalidate t).xlat.pending.length = s.xlat.pending.length + 1 := by
  simp [State.invalidate, State.dropTranslations]

/-! ### Completion -/

theorem State.releaseXlat_of_none_held {s : State} (h : s.xlat.held = []) : s.releaseXlat = s := by
  simp only [State.releaseXlat, h, List.foldl_nil]
  rw [← h]

/-- The oldest command completes when none of its requests is open, and the stores that waited go on. -/
theorem exec_invalidationComplete {s : State} {p : Inval} {rest : List Inval} (hp : s.xlat.pending = p :: rest)
    (hr : ∀ k ∈ p.reqs, s.reqSettled k = true) :
    exec .invalidationComplete s =
      .next ({ s with xlat := { s.xlat with pending := rest, done := (s.xlat.done + 1) % 2 ^ 31 } } : State).releaseXlat := by
  change execInvalidationComplete s = _
  simp only [execInvalidationComplete, hp, if_pos (List.all_eq_true.mpr hr)]

theorem exec_invalidationComplete_open {s : State} {p : Inval} {rest : List Inval} (hp : s.xlat.pending = p :: rest)
    (hr : ∃ k ∈ p.reqs, s.reqSettled k = false) : exec .invalidationComplete s = .next s := by
  obtain ⟨k, hk, hopen⟩ := hr
  have hall : ¬ p.reqs.all s.reqSettled = true := fun h => by simp [List.all_eq_true.mp h k hk] at hopen
  change execInvalidationComplete s = _
  simp only [execInvalidationComplete, hp, if_neg hall]

/-- Settles O52, command by command from the set of translations that each removes. -/
theorem invalidationSteps : Obligations.InvalidationSteps := by
  refine ⟨fun s h asid hp ha => ?_, fun s p rest hpend =>
    ⟨fun hr => ⟨exec_invalidationComplete hpend hr, fun hh => State.releaseXlat_of_none_held hh⟩, exec_invalidationComplete_open hpend⟩⟩
  intro entry kept
  have hkept (ts : TransSet) (gone : Trans → Prop) (hg : ∀ k, ts.has k = true ↔ gone k) : kept (s.invalidate ts) gone := by
    refine ⟨fun k => by rw [State.mem_tcache_invalidate, hg], fun slot x y i => ?_⟩
    have he : entry (s.invalidate ts) slot x y i = (entry s slot x y i).map (·.drop ts) := State.streamEntry_invalidate s ts slot x y i
    rw [he]
    cases entry s slot x y i with
    | none => trivial
    | some a =>
      simp only [← hg]
      exact a.drop_spec ts
  refine ⟨fun hh hn => ?_, fun hw => ?_⟩
  · have hrun (v : Nat) : s.storeXivc h v = s.runXivc v := (State.storeXivc_of_permits v hp ha).trans (State.writeXlat_xivc v _ hh hn)
    refine ⟨fun sz hsz hal => ?_, ?_, ?_, fun sz hsz => ?_⟩
    · refine ⟨s.invalidate (s.pageSet (asid % 4096) sz), ?_, rfl, s.invalidate_pending_length _, rfl, hkept _ _ (s.pageSet_has _ sz)⟩
      rw [exec_invalidatePage, hrun, State.runXivc_page s asid hsz, State.invalPage_of_aligned _ hsz hal]
    · refine ⟨s.invalidate { asid := some (asid % 4096), range := none }, ?_, rfl, s.invalidate_pending_length _, rfl,
        hkept _ _ (TransSet.has_of_asid _)⟩
      rw [exec_invalidateAsid, hrun, State.runXivc_asid]
    · have hall (k : Trans) := iff_true_intro (TransSet.has_of_all k)
      refine ⟨s.invalidate { asid := none, range := none }, ?_, rfl, s.invalidate_pending_length _, rfl, ?_, hkept _ _ hall⟩
      · rw [exec_invalidateAll, hrun, State.runXivc_all]
      · exact List.eq_nil_iff_forall_not_mem.mpr fun k hk => ((s.mem_tcache_invalidate _ k).mp hk).2 (TransSet.has_of_all k)
    · rw [exec_invalidatePage, hrun]
      rcases hsz with rfl | ⟨hsz, hal⟩
      · rw [State.runXivc_size_three, State.rejectInval]
      · rw [State.runXivc_page s asid hsz, State.invalPage_of_misaligned _ hal, State.rejectInval]
  · have hwait (v : Nat) : s.storeXivc h v = { s with xlat := { s.xlat with held := s.xlat.held ++ [(some h, 0x10, v)] } } :=
      (State.storeXivc_of_permits v hp ha).trans (State.writeXlat_xivc_waits v _ hw)
    refine ⟨fun sz => ?_, ?_, ?_, by simp [State.storeWaits]⟩
    · rw [exec_invalidatePage, hwait]
    · rw [exec_invalidateAsid, hwait]
    · rw [exec_invalidateAll, hwait]

end Sys2Proof.Machine

namespace Sys2Proof.Machine

/-! ## Links (R285, R405 to R410) -/

/-! ### A lane group after it changed -/

theorem State.look_modGroup_self (s : State) (g : Nat) (f : LaneGroup → LaneGroup) :
    look (s.modGroup g f).groups g = some (f ((look s.groups g).getD {})) := look_insertKV_self _ _ _

/-- What a change of a lane group keeps: its configuration, its link state and the flits that wait at it. -/
structure LaneGroup.SameLink (a b : LaneGroup) : Prop where
  cfg : b.cfg = a.cfg
  gen : b.gen = a.gen
  lst : b.lst = a.lst
  waiting : b.waiting = a.waiting

theorem LaneGroup.SameLink.trans {a b c : LaneGroup} (h : a.SameLink b) (h' : b.SameLink c) : a.SameLink c :=
  ⟨h'.cfg.trans h.cfg, h'.gen.trans h.gen, h'.lst.trans h.lst, h'.waiting.trans h.waiting⟩

section
variable {s : State} {g : Nat} {lg n : LaneGroup} (hg : look s.groups g = some lg) (h : lg.SameLink n)
include hg

/-- What a change of a group keeps reads the same at every group after it. -/
theorem State.map_look_modGroup {α : Type} {φ : LaneGroup → α} (hφ : φ n = φ lg) (k : Nat) :
    (look (s.modGroup g fun _ => n).groups k).map φ = (look s.groups k).map φ := by
  by_cases hk : k = g
  · subst hk
    rw [State.look_modGroup_self, hg, Option.map_some, Option.map_some, hφ]
  · exact congrArg _ (look_insertKV_ne _ _ hk)

include h

theorem State.groupUp_modGroup_sameLink (k : Nat) : (s.modGroup g fun _ => n).groupUp k = s.groupUp k := by
  have hup (t : State) : t.groupUp k = ((look t.groups k).map fun x => x.lst == 2).getD false := by
    unfold State.groupUp
    cases look t.groups k <;> rfl
  rw [hup, hup, State.map_look_modGroup hg (by rw [h.lst])]

theorem State.stripes_modGroup_sameLink : (s.modGroup g fun _ => n).stripes g = s.stripes g := by
  have hsub : (s.modGroup g fun _ => n).subLink g = s.subLink g := by
    simp only [State.subLink, State.look_modGroup_self, hg, h.gen, h.cfg]
    refine List.filter_congr fun k _ => congrArg (Option.getD · false) (State.map_look_modGroup hg ?_ k)
    rw [h.cfg]
  unfold State.stripes
  rw [hsub, funext (State.groupUp_modGroup_sameLink hg h)]

end

/-! ### Replays and the flits that wait -/

/-- A state that differs from another in its counter banks alone. -/
def SameButBanks (s t : State) : Prop := t = { s with banks := t.banks }

theorem SameButBanks.trans {s t u : State} (h1 : SameButBanks s t) (h2 : SameButBanks t u) : SameButBanks s u := by
  unfold SameButBanks at *
  rw [h2, h1]

theorem State.count_sameButBanks (s : State) (cls evt : Nat) (p : CtrPlace) (n : Nat) : SameButBanks s (s.count cls evt p n) := by
  unfold State.count
  split <;> rfl

/-- A replay is counted (R428), and changes nothing else. -/
theorem State.replay_sameButBanks (s : State) (g : Nat) : SameButBanks s (s.replay g) :=
  List.foldlRecOn _ _ (motive := SameButBanks s) rfl fun a ha _ _ => ha.trans (a.count_sameButBanks _ _ _ _)

theorem State.replay_groups (s : State) (g : Nat) : (s.replay g).groups = s.groups := by rw [s.replay_sameButBanks g]

theorem State.replay_xlat (s : State) (g : Nat) : (s.replay g).xlat = s.xlat := by rw [s.replay_sameButBanks g]

theorem State.replay_regions (s : State) (g : Nat) : (s.replay g).regions = s.regions := by rw [s.replay_sameButBanks g]

/-- Nothing waits at the groups of a sub-link that are up. -/
def State.NoneWaits (s : State) (g : Nat) : Prop := ∀ k ∈ s.stripes g, ((look s.groups k).map (·.waiting)).getD [] = []

theorem State.refill_of_noneWaits {s : State} {g : Nat} (h : s.NoneWaits g) (fuel : Nat) : s.refill g fuel = s := by
  cases fuel with
  | zero => rfl
  | succ fuel =>
    have hnone : ((s.stripes g).findSome? fun k => ((look s.groups k).bind fun x => x.waiting.head?).map fun f => (k, f)) = none := by
      refine List.findSome?_eq_none_iff.mpr fun k hk => ?_
      have hw := h k hk
      cases hl : look s.groups k with
      | none => rfl
      | some x =>
        rw [hl] at hw
        have hx : x.waiting = [] := hw
        simp [hx]
    simp only [State.refill, hnone]

/-- A change that keeps what waits starts no flit, where none waits. -/
theorem State.refill_modGroup_of_noneWaits {s : State} {g : Nat} {lg n : LaneGroup} (hg : look s.groups g = some lg) (h : lg.SameLink n)
    (hw : s.NoneWaits g) (fuel : Nat) : (s.modGroup g fun _ => n).refill g fuel = s.modGroup g fun _ => n := by
  refine State.refill_of_noneWaits (fun k hk => ?_) fuel
  rw [State.stripes_modGroup_sameLink hg h] at hk
  rw [State.map_look_modGroup hg h.waiting]
  exact hw k hk

/-! ### What a received flit and its acknowledgement change (R406) -/

section
variable (lg : LaneGroup) (seq k ns : Nat) (refused crcOk : Bool)

theorem LaneGroup.received_sameLink : lg.SameLink (lg.received seq crcOk) := by
  fun_cases LaneGroup.received lg seq crcOk <;> exact ⟨rfl, rfl, rfl, rfl⟩

theorem LaneGroup.acked_sameLink : lg.SameLink (lg.acked k refused ns) := ⟨rfl, rfl, rfl, rfl⟩

@[simp] theorem LaneGroup.received_replays : (lg.received seq crcOk).replays = lg.replays := by
  fun_cases LaneGroup.received lg seq crcOk <;> rfl

@[simp] theorem LaneGroup.received_unacked : (lg.received seq crcOk).unacked = lg.unacked := by
  fun_cases LaneGroup.received lg seq crcOk <;> rfl

@[simp] theorem LaneGroup.received_tx : (lg.received seq crcOk).tx = lg.tx := by
  fun_cases LaneGroup.received lg seq crcOk <;> rfl

theorem LaneGroup.received_next : lg.received lg.rxSeq true = { lg with rxSeq := (lg.rxSeq + 1) % 65536, refused := none } := if_pos rfl

theorem LaneGroup.received_other {seq : Nat} (h : seq ≠ lg.rxSeq) : lg.received seq true = lg := if_neg h

theorem LaneGroup.received_bad : lg.received seq false = { lg with refused := some lg.rxSeq } := rfl

@[simp] theorem LaneGroup.acked_rxSeq : (lg.acked k refused ns).rxSeq = lg.rxSeq := rfl

@[simp] theorem LaneGroup.acked_refused : (lg.acked k refused ns).refused = lg.refused := rfl

/-- An acknowledgement of all that was sent empties the replay buffer. -/
theorem LaneGroup.acked_all {k : Nat} (h : k = lg.tx) : (lg.acked k refused ns).unacked = [] := if_pos h.symm

/-- Without a refusal, the refusals in a row do not grow. -/
theorem LaneGroup.acked_replays_le : (lg.acked k false ns).replays ≤ lg.replays := by
  have hle (moved : Bool) : (if moved then 0 else lg.replays) ≤ lg.replays := by cases moved <;> simp
  simp only [LaneGroup.acked, Bool.false_and, b2n, Bool.false_eq_true, if_false, Nat.add_zero]
  exact hle _

/-- A refusal of the oldest unacknowledged flit, which acknowledges none, is one more in the row. -/
theorem LaneGroup.acked_replays_of_head {k : Nat} (hk : lg.unacked.head?.map (·.num) = some k) (htx : k ≠ lg.tx) :
    (lg.acked k true ns).replays = lg.replays + 1 := by
  cases hu : lg.unacked with
  | nil => simp [hu] at hk
  | cons u us =>
    have hn : u.num = k := by simpa [hu] using hk
    simp [LaneGroup.acked, hu, hn, Ne.symm htx, b2n]

end

/-! ### FLIT_RECEIVE, training and loss -/

/-- A group whose training has ended: it is up and knows its peer (R405). -/
def LaneGroup.trained (lg : LaneGroup) (gen peerMod peerGroup ns : Nat) : LaneGroup :=
  { lg with lst := 2, gen := gen, pmod := peerMod % 8192, plg := peerGroup % 64, rxSeq := 0, refused := none, replays := 0, ackAt := ns }

theorem LaneGroup.trained_of_lt (lg : LaneGroup) (gen : Nat) {peerMod peerGroup : Nat} (ns : Nat) (hm : peerMod < 8192) (hp : peerGroup < 64) :
    lg.trained gen peerMod peerGroup ns =
      { lg with lst := 2, gen := gen, pmod := peerMod, plg := peerGroup, rxSeq := 0, refused := none, replays := 0, ackAt := ns } := by
  rw [LaneGroup.trained, Nat.mod_eq_of_lt hm, Nat.mod_eq_of_lt hp]

@[simp] theorem State.inbound_header (s : State) (g : Nat) : s.inbound g .header = s := rfl

section
variable {s : State} {g : Nat} {lg : LaneGroup} (hg : look s.groups g = some lg)
include hg

/-- A flit with a right CRC that refuses none: its acknowledgement takes effect, and so does the message of the next number. -/
theorem exec_flitReceive_acked {f : FlitIn} (acked : Nat) (hl : lg.lst = 2) (hr : lg.replays < 64) (hroom : s.noRoom f.msg = false) :
    let s1 := (s.modGroup g fun _ => (lg.received f.seq true).acked acked false s.ns).refill g 512
    exec (.flitReceive g f true acked false) s =
      .next (if (f.seq == lg.rxSeq && !s.heldAlready g f.orig) = true then s1.inbound g f.msg else s1) := by
  have hle := (lg.received f.seq true).acked_replays_le acked s.ns
  rw [LaneGroup.received_replays] at hle
  have hkeep : ¬64 < ((lg.received f.seq true).acked acked false s.ns).replays := by omega
  change execFlitReceive g f true acked false s = _
  simp only [execFlitReceive, hg, hl, hroom, bne_self_eq_false, Bool.and_false, Bool.or_self, Bool.false_eq_true, if_false, if_true, Bool.true_and,
    if_neg hkeep]

/-- A flit with a wrong CRC acknowledges nothing and brings nothing: it is refused. -/
theorem exec_flitReceive_bad (f : FlitIn) (acked : Nat) (refused : Bool) (hl : lg.lst = 2) (hr : lg.replays < 64) :
    exec (.flitReceive g f false acked refused) s = .next ((s.modGroup g fun _ => { lg with refused := some lg.rxSeq }).refill g 512) := by
  have hkeep : ¬64 < lg.replays := by omega
  change execFlitReceive g f false acked refused s = _
  simp only [execFlitReceive, hg, hl, LaneGroup.received_bad, bne_self_eq_false, Bool.false_and, Bool.or_self, Bool.false_eq_true, if_false,
    if_neg hkeep]

/-- A refusal beyond the 64th in a row loses the group. -/
theorem exec_flitReceive_loses {f : FlitIn} {acked : Nat} (hl : lg.lst = 2) (hroom : s.noRoom f.msg = false)
    (hr : 64 < ((lg.received f.seq true).acked acked true s.ns).replays) :
    exec (.flitReceive g f true acked true) s =
      .next ((((s.modGroup g fun _ => (lg.received f.seq true).acked acked true s.ns).replay g).refill g 512).loseGroup g) := by
  change execFlitReceive g f true acked true s = _
  simp only [execFlitReceive, hg, hl, hroom, bne_self_eq_false, Bool.and_false, Bool.or_self, Bool.false_eq_true, if_false, if_true, Bool.and_self,
    if_pos hr]

/-- A flit without a message changes its lane group alone, where no flit waits. -/
theorem exec_flitReceive_header (seq acked : Nat) (hl : lg.lst = 2) (hr : lg.replays < 64) (hw : s.NoneWaits g) :
    exec (.flitReceive g { seq := seq } true acked false) s = .next (s.modGroup g fun _ => (lg.received seq true).acked acked false s.ns) := by
  have hsame := (lg.received_sameLink seq true).trans ((lg.received seq true).acked_sameLink acked s.ns false)
  rw [exec_flitReceive_acked hg acked hl hr rfl]
  simp only [State.inbound_header, ite_self, State.refill_modGroup_of_noneWaits hg hsame hw]

/-- A group in training comes up with a generation that a link may have (R405), and training gives the module its number (R285). -/
theorem exec_laneGroupTrainingDone {gen : Nat} (peerMod peerGroup own : Nat) (hl : lg.lst = 1) (hgen : gen = 1 ∨ gen = 2) :
    exec (.laneGroupTrainingDone g gen peerMod peerGroup own) s =
      .next (({ s.modGroup g (·.trained gen peerMod peerGroup s.ns) with xlat := { s.xlat with xmod := own % 8192 } } : State).replay g) := by
  have hok : ¬(lg.lst != 1 || decide (gen = 0) || decide (3 ≤ gen)) = true := by rcases hgen with rfl | rfl <;> simp [hl]
  change execLaneGroupTrainingDone g gen peerMod peerGroup own s = _
  simp only [execLaneGroupTrainingDone, hg, if_neg hok]
  rfl

theorem exec_laneGroupLost (h : lg.lst = 1 ∨ (lg.lst = 2 ∧ lg.unacked ≠ [] ∧ lg.ackAt + 100000 ≤ s.ns)) :
    exec (.laneGroupLost g) s = .next (s.loseGroup g) := by
  change execLaneGroupLost g s = _
  simp only [execLaneGroupLost, hg]
  rw [if_pos (by simpa using h)]

theorem exec_laneGroupLost_of_recent (hl : lg.lst = 2) (h : s.ns < lg.ackAt + 100000) : exec (.laneGroupLost g) s = .next s := by
  change execLaneGroupLost g s = _
  simp only [execLaneGroupLost, hg]
  rw [if_neg (by omega)]

end

/-- Settles O55, step by step from what each does to its lane group. -/
theorem linkSteps : Obligations.LinkSteps := by
  refine ⟨fun _ _ => rfl, fun s g lg hg => ⟨fun gen peerMod peerGroup own hl hgen hmod hgroup hown => ?_,
    fun hw => ⟨fun seq hl hr _ => ?_, fun seq acked refused msg hl hr => ?_, fun hl hr => ?_⟩,
    fun acked msg orig hl hr hroom => ⟨fun hheld => ?_, fun hheld => ?_⟩,
    fun seq acked hl hk htx hr => ?_, exec_laneGroupLost hg, exec_laneGroupLost_of_recent hg⟩⟩
  · rw [exec_laneGroupTrainingDone hg peerMod peerGroup own hl hgen]
    refine ⟨_, _, rfl, ?_, ?_, LaneGroup.trained_of_lt lg gen s.ns hmod hgroup, ?_, ?_⟩
    · rw [State.replay_groups]
      exact (State.look_modGroup_self s g (·.trained gen peerMod peerGroup s.ns)).trans (by rw [hg, Option.getD_some])
    · rw [State.replay_xlat, Nat.mod_eq_of_lt hown]
    · exact State.replay_mem _ g
    · exact State.replay_regions _ g
  · refine ⟨_, _, exec_flitReceive_header hg seq lg.tx hl hr hw, State.look_modGroup_self s g _, rfl, ?_⟩
    refine ⟨?_, fun hne => ?_⟩
    · rintro rfl
      simp [LaneGroup.received_next]
    · simp [LaneGroup.received_other lg hne]
  · have hsame : lg.SameLink { lg with refused := some lg.rxSeq } := ⟨rfl, rfl, rfl, rfl⟩
    refine ⟨_, { lg with refused := some lg.rxSeq }, exec_flitReceive_bad hg _ acked refused hl hr, ?_⟩
    rw [State.refill_modGroup_of_noneWaits hg hsame hw]
    exact ⟨State.look_modGroup_self s g _, rfl, rfl⟩
  · exact ⟨_, _, exec_flitReceive_header hg _ lg.tx hl (by omega) hw, State.look_modGroup_self s g _,
      LaneGroup.acked_all _ _ _ (LaneGroup.received_tx ..).symm, by simp [LaneGroup.received_next]⟩
  · rw [exec_flitReceive_acked hg acked hl hr hroom, if_pos (by simp [hheld])]
  · rw [exec_flitReceive_acked hg acked hl hr hroom, if_neg (by simp [hheld])]
  · refine exec_flitReceive_loses hg hl rfl ?_
    rw [LaneGroup.acked_replays_of_head _ s.ns (by rwa [LaneGroup.received_unacked]) (by rwa [LaneGroup.received_tx]), LaneGroup.received_replays, hr]
    decide

end Sys2Proof.Machine

namespace Sys2Proof.Machine

set_option Elab.async false

/-! ## Boot, resets, throttling and loss of power (R449 to R457) -/

/-! ### The throttle level (R455) -/

/-- The throttle level after an evaluation below 115 °C. -/
def Mgmt.level (m : Mgmt) (pnow tj : Nat) : Nat :=
  if 105 ≤ tj then 7
  else if m.plim < pnow ∨ 100 < tj then min 7 (m.tlvl + 1)
  else if 100 * pnow < 95 * m.plim ∧ tj < 95 then m.tlvl - 1
  else m.tlvl

theorem exec_throttleEvaluation {s : State} {pnow tj tcool : Nat} (hp : s.powered = true) (hnow : pnow < 65536) (htj : tj < 115) (hcool : tcool < 256) :
    exec (.throttleEvaluation pnow tj tcool) s =
      .next { s with mgmt := { s.mgmt with pnow := pnow, tj := tj, tcool := tcool, tlvl := s.mgmt.level pnow tj } } := by
  change execThrottleEvaluation pnow tj tcool s = _
  rw [execThrottleEvaluation, if_neg (by simp [hp]), if_neg (by omega), Nat.mod_eq_of_lt hnow, Nat.mod_eq_of_lt (by omega : tj < 256),
    Nat.mod_eq_of_lt hcool]
  rfl

theorem Mgmt.level_le (m : Mgmt) (pnow tj : Nat) (h : m.tlvl ≤ 7) : m.level pnow tj ≤ 7 := by
  fun_cases Mgmt.level m pnow tj <;> omega

/-- Above the limit power or 100 °C, and below 105 °C, the level rises. -/
theorem Mgmt.level_rises {m : Mgmt} {pnow tj : Nat} (ht : tj < 105) (h : m.plim < pnow ∨ 100 < tj) : m.level pnow tj = min 7 (m.tlvl + 1) := by
  rw [Mgmt.level, if_neg (by omega), if_pos h]

/-- Below 95 °C and 95 % of the limit power the level falls. -/
theorem Mgmt.level_falls {m : Mgmt} {pnow tj : Nat} (ht : tj < 95) (h : 100 * pnow < 95 * m.plim) : m.level pnow tj = m.tlvl - 1 := by
  rw [Mgmt.level, if_neg (by omega), if_neg (by omega), if_pos ⟨h, ht⟩]

/-- Between the bounds the level stays. -/
theorem Mgmt.level_stays {m : Mgmt} {pnow tj : Nat} (ht : tj ≤ 100) (hp : pnow ≤ m.plim) (h : 95 ≤ tj ∨ 95 * m.plim ≤ 100 * pnow) :
    m.level pnow tj = m.tlvl := by
  rw [Mgmt.level, if_neg (by omega), if_neg (by omega), if_neg (by omega)]

/-! ### The thermal trip (R456) -/

theorem exec_thermalTrip {s : State} {tj : Nat} (hp : s.powered = true) (ht : 115 ≤ tj) : exec (.thermalTrip tj) s = .next (s.tripped tj) := by
  change execThermalTrip tj s = _
  rw [execThermalTrip, if_pos (by simp [hp, ht])]

theorem exec_thermalTrip_of_lt {s : State} {tj : Nat} (ht : tj < 115) : exec (.thermalTrip tj) s = .next s := by
  change execThermalTrip tj s = _
  rw [execThermalTrip, if_neg (by simp; omega)]

theorem exec_throttleEvaluation_trips {s : State} {tj : Nat} (pnow tcool : Nat) (hp : s.powered = true) (ht : 115 ≤ tj) :
    exec (.throttleEvaluation pnow tj tcool) s = .next (s.tripped tj) := by
  change execThrottleEvaluation pnow tj tcool s = _
  rw [execThrottleEvaluation, if_neg (by simp [hp]), if_pos ht]

/-! ### The boot steps (R449) -/

/-- Every step of the boot passes with manifest `m`. -/
structure State.Boots (s : State) (m : Manifest) : Prop where
  manifest : s.flash.manifest = some m
  signed : m.signed = true
  rollback : s.fuseRollback ≤ m.rollback
  images : s.flash.imagesOk m = true
  trains : s.flash.trains = true
  bedrock : s.flash.bedrockOk = true
  fields : m.fieldsOk = true

/-- What a boot reads, the flash and the rollback fuses, stands after a reset of either kind. -/
theorem State.Boots.blank {s : State} {m : Manifest} (h : s.Boots m) : s.blank.Boots m := ⟨h.1, h.2, h.3, h.4, h.5, h.6, h.7⟩

theorem State.Boots.warmBase {s : State} {m : Manifest} (h : s.Boots m) : s.warmBase.Boots m := ⟨h.1, h.2, h.3, h.4, h.5, h.6, h.7⟩

/-- The module after a boot whose every step has passed: complete, the harts released. -/
def State.booted (s : State) (m : Manifest) : State :=
  ({ ({ s with defects := s.flash.defects, jtag := m.jtag, components := s.flash.images } : State).bootFields m with
    harts := bootHarts m true } : State).bootStop 8 0

theorem State.Boots.boot {s : State} {m : Manifest} (h : s.Boots m) : s.boot = s.booted m := by
  have hroll := h.rollback
  rw [State.boot, h.manifest]
  dsimp only
  rw [if_neg (by simp [h.signed, hroll]), if_neg (by simp [h.images]), if_neg (by simp [h.trains]), if_neg (by simp [h.bedrock]),
    if_neg (by simp [h.fields])]
  rfl

/-- A manifest whose signature or rollback number fails stops the boot at step 2. -/
theorem State.boot_unsigned {s : State} {m : Manifest} (hm : s.flash.manifest = some m) (h : m.signed = false ∨ m.rollback < s.fuseRollback) :
    s.boot = s.bootStop 2 2 := by
  rw [State.boot, hm]
  exact if_pos (by simpa using h)

/-- An image that does not match its hash stops the boot at step 3. -/
theorem State.boot_mismatch {s : State} {m : Manifest} (hm : s.flash.manifest = some m) (hs : m.signed = true) (hr : s.fuseRollback ≤ m.rollback)
    (h : s.flash.imagesOk m = false) : s.boot = s.bootStop 3 3 := by
  rw [State.boot, hm]
  dsimp only
  rw [if_neg (by simp [hs, hr]), if_pos (by simp [h])]

/-- A reset holds every hart; a boot that stops leaves them so. -/
theorem State.blank_hart_off (s : State) (stage err h : Nat) : ((s.blank.bootStop stage err).hart h).on = false := by
  change ((List.replicate 64 ({} : Hart)).getD h {}).on = false
  rw [List.getD_eq_getElem?_getD, List.getElem?_replicate]
  split <;> rfl

/-- A hart that a boot has released: Ilhus starts on hart 0 of each partition, the others wait (R449; log entry 121). -/
theorem State.booted_hart (s : State) (m : Manifest) {h : Nat} (hh : h < 64) :
    (s.booted m).hart h =
      { on := true, oxmid := .ofNat 12 (m.mids.getD h 0), wait := if m.parts.all fun p => h != 8 * p.1 then .parked else .none } := by
  change (bootHarts m true).getD h {} = _
  simp only [bootHarts, List.getD_eq_getElem?_getD, List.getElem?_map, List.getElem?_range hh, Option.map_some, Option.getD_some, true_and]

/-- The journals of the booted partitions: a kept one, or an empty one (R451). -/
theorem State.bootFields_journals (s : State) (m : Manifest) :
    (s.bootFields m).journals = m.parts.map fun p => (s.journals.find? (·.first == p.1)).getD { first := p.1 } := rfl

/-- Every journal after the boot is a partition's, kept or empty. -/
theorem State.of_mem_bootFields_journals {s : State} {m : Manifest} {j : Journal} (hj : j ∈ (s.bootFields m).journals) :
    (∃ l, (j.first, l) ∈ m.parts) ∧ (j ∈ s.journals ∨ j = { first := j.first }) := by
  rw [State.bootFields_journals] at hj
  obtain ⟨⟨f, l⟩, hp, rfl⟩ := List.mem_map.mp hj
  dsimp only
  cases hf : s.journals.find? (·.first == f) with
  | none => exact ⟨⟨l, hp⟩, .inr rfl⟩
  | some j =>
    have hfirst : j.first = f := by simpa using List.find?_some hf
    exact ⟨⟨l, by rwa [Option.getD_some, hfirst]⟩, .inl (List.mem_of_find?_eq_some hf)⟩

/-- Each partition's journal stands after the boot. -/
theorem State.mem_bootFields_journals (s : State) {m : Manifest} {p : Nat × Nat} (hp : p ∈ m.parts) :
    (s.journals.find? (·.first == p.1)).getD { first := p.1 } ∈ (s.bootFields m).journals := by
  rw [State.bootFields_journals]
  exact List.mem_map_of_mem (f := fun p : Nat × Nat => (s.journals.find? (·.first == p.1)).getD { first := p.1 }) hp

/-! ### Resets (R451, R453) -/

theorem exec_coldReset (s : State) : exec .coldReset s = .next s.blank.boot := rfl

theorem exec_coldReset_of_boots {s : State} {m : Manifest} (h : s.Boots m) : exec .coldReset s = .next (s.blank.booted m) := by
  rw [exec_coldReset, h.blank.boot]

/-- MID 0x000 may write the management block (R453). -/
theorem State.permits_mgmt (s : State) : s.permits (s.regWho .hardpan) mgmtBase .write = true := by
  have ht : targetOf mgmtBase = some 40 := by decide
  simp only [State.permits, ht]
  simp [State.regWho, State.regAdmits, mgmtBase]

theorem exec_warmReset_hardpan {s : State} (hp : s.powered = true) : exec (.warmReset .hardpan) s = .next s.warm := by
  change execWarmReset .hardpan s = _
  rw [execWarmReset, State.regWrite_of_permits _ hp (.inl rfl) s.permits_mgmt, if_pos hp]

theorem exec_warmReset_of_boots {s : State} {m : Manifest} (hp : s.powered = true) (h : s.Boots m) :
    exec (.warmReset .hardpan) s = .next (s.warmBase.booted m) := by
  rw [exec_warmReset_hardpan hp, State.warm, h.warmBase.boot]

/-- Settles O57, from the throttle level, the boot's steps and what each reset keeps. -/
theorem powerSteps : Obligations.PowerSteps := by
  refine ⟨fun s pnow tj tcool hp hnow htj hcool hlvl => ?_, fun s tj => ⟨fun hp ht => ?_, exec_thermalTrip_of_lt⟩, fun s => ⟨?_, ?_, ?_, ?_⟩⟩
  · refine ⟨_, exec_throttleEvaluation hp hnow htj hcool, rfl, Mgmt.level_le _ _ _ hlvl, fun h => if_pos h, fun h h' => ?_, fun h h' => ?_, fun h h1 h2 => ?_⟩
    · exact Mgmt.level_rises h h'
    · exact Mgmt.level_falls h h'
    · exact Mgmt.level_stays h h1 h2
  · exact ⟨_, exec_thermalTrip hp ht, fun pnow tcool => exec_throttleEvaluation_trips pnow tcool hp ht, rfl, rfl, rfl, rfl, rfl, rfl, rfl⟩
  · intro m hm hs hr hi ht hb hf
    have boots : s.Boots m := ⟨hm, hs, hr, hi, ht, hb, hf⟩
    refine ⟨⟨_, exec_coldReset_of_boots boots, rfl, rfl, rfl, rfl, rfl, rfl, rfl, rfl, fun h hh => ?_⟩,
      fun hp => ⟨_, exec_warmReset_of_boots hp boots, rfl, rfl, rfl, rfl, fun j hj => ?_, fun p hpm => ⟨fun j hj => ?_, fun hn => ?_⟩⟩⟩
    · rw [State.booted_hart _ _ hh]
      refine ⟨rfl, rfl, rfl, rfl, fun ⟨p, hp, he⟩ => if_neg fun hall => ?_, fun hne => if_pos ?_⟩
      · simpa [he] using List.all_eq_true.mp hall p hp
      · exact List.all_eq_true.mpr fun p hp => by simpa using hne p hp
    · exact State.of_mem_bootFields_journals (s := s.warmBase) hj
    · have := s.warmBase.mem_bootFields_journals hpm
      rwa [show s.warmBase.journals = s.journals from rfl, hj] at this
    · have := s.warmBase.mem_bootFields_journals hpm
      rwa [show s.warmBase.journals = s.journals from rfl, hn] at this
  · intro m hm h
    exact ⟨_, (exec_coldReset s).trans (by rw [State.boot_unsigned (s := s.blank) hm h]), rfl, rfl, s.blank_hart_off 2 2⟩
  · intro m hm hs hr hi
    exact ⟨_, (exec_coldReset s).trans (by rw [State.boot_mismatch (s := s.blank) hm hs hr hi]), rfl, rfl, s.blank_hart_off 3 3⟩
  · exact ⟨_, rfl, rfl, rfl, rfl, rfl, rfl, rfl, rfl⟩

end Sys2Proof.Machine

namespace Sys2Proof.Machine

set_option Elab.async false

/-! ## The queues of the front end (R306 to R315) -/

@[simp] theorem State.vcp_modVcp (s : State) (v : Nat) (f : Vcp → Vcp) : (s.modVcp v f).vcp v = f (s.vcp v) := by
  simp [State.vcp, State.modVcp]

theorem State.vcp_modVcp_ne (s : State) {v u : Nat} (f : Vcp → Vcp) (h : u ≠ v) : (s.modVcp v f).vcp u = s.vcp u := by
  simp only [State.vcp, State.modVcp, look_insertKV_ne _ _ h]

/-! ### NOTIFY (R309) -/

/-- The queues that a doorbell's mask names: all four for an empty one. -/
def doorbellMask (qmsk : Nat) : Nat := if qmsk % 16 = 0 then 15 else qmsk % 16

/-- A VCP whose doorbell has been rung. -/
def Vcp.rung (c : Vcp) (qmsk : Nat) : Vcp := { c with scan := c.scan ||| doorbellMask qmsk }

/-- A VCP joins the service list at its end, unless it stands there. -/
def State.enlist (s : State) (v : Nat) : State := { s with service := if s.service.contains v then s.service else s.service ++ [v] }

@[simp] theorem State.vcp_enlist (s : State) (v u : Nat) : (s.enlist v).vcp u = s.vcp u := rfl

theorem State.enlist_of_contains {s : State} {v : Nat} (h : s.service.contains v = true) : (s.enlist v).service = s.service := if_pos h

theorem State.enlist_of_not_contains {s : State} {v : Nat} (h : s.service.contains v = false) : (s.enlist v).service = s.service ++ [v] :=
  if_neg (by rw [h]; decide)

theorem exec_notify {s : State} {v : Nat} (qmsk : Nat) (hv : v < 256) (hen : (s.vcp v).en = true) :
    exec (.notify v qmsk) s = .next ((s.modVcp v (·.rung qmsk)).enlist v) := by
  change execNotify v qmsk s = _
  rw [execNotify, State.notify, if_neg (by simp [hen, hv]), State.enlist, State.modVcp_service]
  cases s.service.contains v <;> rfl

/-! ### The configuration words (R306, R308) -/

/-- A queue whose VCP's word was written is not stopped, and is to be validated afresh (log entry 67). -/
theorem VQueue.of_mem_afresh {l : List VQueue} {q : VQueue} (h : q ∈ l.map (·.afresh)) : q.valid = false ∧ q.stop = none := by
  obtain ⟨x, -, rfl⟩ := List.mem_map.mp h
  exact ⟨rfl, rfl⟩

/-- A VCP whose first word is written: EN, PRV and bits 50 to 20. -/
def Vcp.withVc0 (c : Vcp) (n : Nat) : Vcp :=
  { c with vc0 := .ofNat 64 (put 63 62 (fld n 63 62) + put 50 20 (fld n 50 20)), shv := false, queues := c.queues.map (·.afresh) }

/-- A VCP whose second word is written: the page, bits 51 to 12. -/
def Vcp.withVc1 (c : Vcp) (n : Nat) : Vcp :=
  { c with vc1 := .ofNat 64 (put 51 12 (fld n 51 12)), shv := false, queues := c.queues.map (·.afresh) }

theorem Vcp.withVc0_vc0 (c : Vcp) (n : Nat) : (c.withVc0 n).vc0 = .ofNat 64 (put 63 62 (fld n 63 62) + put 50 20 (fld n 50 20)) := by
  simp only [Vcp.withVc0]

theorem Vcp.withVc0_vc1 (c : Vcp) (n : Nat) : (c.withVc0 n).vc1 = c.vc1 := by cases c; rfl

theorem Vcp.withVc1_vc1 (c : Vcp) (n : Nat) : (c.withVc1 n).vc1 = .ofNat 64 (put 51 12 (fld n 51 12)) := by
  simp only [Vcp.withVc1]

theorem Vcp.withVc1_vc0 (c : Vcp) (n : Nat) : (c.withVc1 n).vc0 = c.vc0 := by cases c; rfl

theorem exec_vcpConfigWrite {s : State} {m : Master} {v word : Nat} (value : W64) (hv : v < 256) (hw : word < 4) (hp : s.powered = true) (hm : m.OnDie)
    (ha : s.permits (s.regWho m) (vcpBase v + 8 * word) .write = true) :
    exec (.vcpConfigWrite m v word value) s = .next (s.writeVcp v word value.toNat) := by
  change execVcpConfigWrite m v word value s = _
  rw [execVcpConfigWrite, if_neg (by simp; omega), State.regWrite_of_permits _ hp hm ha]

theorem State.writeVcp_zero (s : State) (v n : Nat) : s.writeVcp v 0 n = s.modVcp v (·.withVc0 n) := rfl

theorem State.writeVcp_one (s : State) (v n : Nat) : s.writeVcp v 1 n = s.modVcp v (·.withVc1 n) := rfl

/-! ### VCP_SCAN (R309, R311) -/

/-- A VCP taken from the service list, its pending mask cleared. -/
def State.takeVcp (s : State) (v : Nat) : State :=
  ({ s with service := s.service.filter (· != v) } : State).modVcp v fun c => { c with scan := 0 }

/-- The scans of a VCP's pending queues, in rising order, and the mask of those with packets left. -/
def State.scanQueues (s : State) (v mask : Nat) : State × Nat :=
  ((List.range 4).filter (bitN mask ·)).foldl
    (fun (a : State × Nat) q => ((a.1.scanQueue v q).1, if (a.1.scanQueue v q).2 then a.2 + 2 ^ q else a.2)) (s, 0)

/-- A VCP after its scans: the scan counter has risen, and the queues with packets left are pending again. -/
def State.scanned (p : State × Nat) (v : Nat) : State :=
  p.1.modVcp v fun c => { c with nseq := (c.nseq + 1) % 2 ^ 32, scan := c.scan ||| p.2 }

theorem exec_vcpScan_disabled {s : State} {v : Nat} (hn : s.nextVcp = some v) (hen : (s.vcp v).en = false) :
    exec .vcpScan s = .next (s.takeVcp v) := by
  change execVcpScan s = _
  simp only [execVcpScan, hn, hen]
  rfl

section
variable {s : State} {v : Nat} (hn : s.nextVcp = some v) (hen : (s.vcp v).en = true)
include hn hen

/-- A visit that leaves no packets: the VCP has left the list. -/
theorem exec_vcpScan_done (h : ((s.takeVcp v).scanQueues v (s.vcp v).scan).2 = 0) :
    exec .vcpScan s = .next (State.refuseUndefined (State.scanned ((s.takeVcp v).scanQueues v (s.vcp v).scan) v)
      (State.scanned ((s.takeVcp v).scanQueues v (s.vcp v).scan) v).pipe.length) := by
  change execVcpScan s = _
  unfold State.scanQueues at h
  simp only [execVcpScan, hn, hen]
  exact congrArg (fun t : State => Host.Outcome.next (t.refuseUndefined _)) (if_pos h)

/-- A visit that leaves packets: the VCP joins the list again. -/
theorem exec_vcpScan_more (h : ((s.takeVcp v).scanQueues v (s.vcp v).scan).2 ≠ 0) :
    exec .vcpScan s = .next (let t := State.scanned ((s.takeVcp v).scanQueues v (s.vcp v).scan) v
      State.refuseUndefined { t with service := t.service ++ [v] } t.pipe.length) := by
  change execVcpScan s = _
  unfold State.scanQueues at h
  simp only [execVcpScan, hn, hen]
  exact congrArg (fun t : State => Host.Outcome.next (t.refuseUndefined _)) (if_neg h)

end

/-! ### COMPLETION_ENTRY_WRITE (R315, R334) -/

/-- A due entry as its ring holds it: the words, and the phase of the ring's turn. -/
def DueEntry.bytes (d : DueEntry) (ctotal : Nat) : List Byte :=
  bytesOf64 [BitVec.ofNat 64 (put 63 63 (b2n (ctotal / d.view.rsize % 2 == 0)) + wd d.words 0), d.words.getD 1 0, d.words.getD 2 0, d.words.getD 3 0]

section
variable {s : State} {v q : Nat}

theorem exec_completionEntryWrite_nil (hd : ((s.vcp v).queue q).due = []) : exec (.completionEntryWrite v q) s = .next s := by
  change execCompletionEntryWrite v q s = _
  rw [execCompletionEntryWrite, hd]

theorem exec_completionEntryWrite_cons {d : DueEntry} {rest : List DueEntry} (hd : ((s.vcp v).queue q).due = d :: rest) :
    exec (.completionEntryWrite v q) s = .next (s.writeEntry v q d rest) := by
  change execCompletionEntryWrite v q s = _
  rw [execCompletionEntryWrite, hd]

variable {d : DueEntry} {s1 : State} {g : Nat} (hg : s.guestWord v q d.view = (s1, some g)) (hc : fld g 47 32 < d.view.rsize) (rest : List DueEntry)
include hg hc

/-- While the ring is full the entry stays due; CHEAD is as it was read. -/
theorem State.writeEntry_full
    (hf : (((s1.vcp v).queue q).ctail + d.view.rsize - fld g 47 32) % d.view.rsize = d.view.rsize - 1) :
    s.writeEntry v q d rest = s1.modQueue v q fun y => { y with chead := fld g 47 32 } := by
  unfold State.writeEntry
  simp only [hg]
  rw [if_neg (by omega), if_pos hf]

/-- An entry that its ring has room for is written, and CTAIL moves past it. -/
theorem State.writeEntry_room {s3 : State}
    (hr : (((s1.vcp v).queue q).ctail + d.view.rsize - fld g 47 32) % d.view.rsize ≠ d.view.rsize - 1)
    (hw : (s1.modQueue v q fun y => { y with chead := fld g 47 32 }).vcpWrite d.view (d.view.cring + 32 * ((s1.vcp v).queue q).ctail)
      (d.bytes ((s1.vcp v).queue q).ctotal) = (s3, none)) :
    s.writeEntry v q d rest =
      ((s3.modQueue v q fun y => { y with due := rest, ctail := (y.ctail + 1) % d.view.rsize, ctotal := (y.ctotal + 1) % (2 * d.view.rsize) }).writeDev
        v q d.view).raiseVector v q := by
  unfold DueEntry.bytes at hw
  unfold State.writeEntry
  simp only [hg]
  rw [if_neg (by omega), if_neg hr, hw]

end

/-- Settles O48, step by step from what each does to its VCP or queue. -/
theorem vcpSteps : Obligations.VcpSteps := by
  intro s v
  refine ⟨fun qmsk hv hen => ?_, fun m word value hv hp hm ha => ⟨?_, ?_⟩,
    fun hn => ⟨exec_vcpScan_disabled hn, fun hen => ⟨exec_vcpScan_done hn hen, exec_vcpScan_more hn hen⟩⟩,
    fun q => exec_completionEntryWrite_nil, fun q d rest g s1 hd hg hc => ⟨fun hf => ?_, fun s3 hr hw => ?_⟩⟩
  · refine ⟨_, exec_notify qmsk hv hen, ?_, State.enlist_of_contains, State.enlist_of_not_contains, fun u hu => ?_⟩
    · rw [State.vcp_enlist, State.vcp_modVcp]
      rfl
    · rw [State.vcp_enlist, State.vcp_modVcp_ne _ _ hu]
  · rintro rfl
    refine ⟨_, exec_vcpConfigWrite value hv (by decide) hp hm ha, ?_⟩
    rw [State.writeVcp_zero, State.vcp_modVcp]
    exact ⟨Vcp.withVc0_vc0 _ _, Vcp.withVc0_vc1 _ _, fun q hq => VQueue.of_mem_afresh hq, rfl⟩
  · rintro rfl
    refine ⟨_, exec_vcpConfigWrite value hv (by decide) hp hm ha, ?_⟩
    rw [State.writeVcp_one, State.vcp_modVcp]
    exact ⟨Vcp.withVc1_vc1 _ _, Vcp.withVc1_vc0 _ _, fun q hq => VQueue.of_mem_afresh hq, rfl⟩
  · rw [exec_completionEntryWrite_cons hd, State.writeEntry_full hg hc rest hf]
  · rw [exec_completionEntryWrite_cons hd, State.writeEntry_room hg hc rest hr hw]

end Sys2Proof.Machine

namespace Sys2Proof.Machine

set_option Elab.async false

/-! ## Placement, emission, and Bedrock itself (R314, R318, R319, R329) -/

/-! ### PLACEMENT_SEARCH (R329, R341) -/

section
variable {s : State} {slot : Nat} {r : Region} {i : Image} (hr : s.region slot = some r) (hl : r.state = .loading) (hi : r.image = some i)

section
variable (hp : r.place = none) (hb : s.stageBefore r false = false) (hrb : s.rollbackBefore r = false)
include hr hl hi hp hb hrb

theorem exec_placementSearch_placed {s1 : State} {p : Place} (hs : s.search (r.tenancy slot) slot r i r.plc = .placed s1 p) :
    exec (.placementSearch slot) s = .next (s1.modRegion slot fun x => { x with place := some p }) := by
  change execPlacementSearch slot s = _
  simp [execPlacementSearch, hr, hl, hi, hp, hb, hrb, hs]

theorem exec_placementSearch_waits {s1 : State} (hs : s.search (r.tenancy slot) slot r i r.plc = .none_ s1) (hw : r.nowait = false) :
    exec (.placementSearch slot) s = .next (s1.modRegion slot fun x => { x with searched := true }) := by
  change execPlacementSearch slot s = _
  simp [execPlacementSearch, hr, hl, hi, hp, hb, hrb, hs, hw]

theorem exec_placementSearch_busy {s1 : State} {q : PktRef} (hs : s.search (r.tenancy slot) slot r i r.plc = .none_ s1) (hw : r.nowait = true)
    (ho : r.owner = some q) : exec (.placementSearch slot) s = .next ((s1.finish q 4 0 0 (refuseWord .busy) 0).freeSlot slot) := by
  change execPlacementSearch slot s = _
  simp [execPlacementSearch, hr, hl, hi, hp, hb, hrb, hs, hw, ho]

theorem exec_placementSearch_rejected {s1 : State} {st : Nat} (hs : s.search (r.tenancy slot) slot r i r.plc = .reject s1 st) :
    exec (.placementSearch slot) s = .next (s1.rejectRegion slot st) := by
  change execPlacementSearch slot s = _
  simp [execPlacementSearch, hr, hl, hi, hp, hb, hrb, hs]

end

/-! ### EMIT (R318) -/

/-- The configured region, resident, with the commands that waited for it admitted. -/
def State.emitted (s1 : State) (slot : Nat) (r : Region) : State :=
  r.waitCmds.foldl (fun (a : State) e => a.admitCmd slot e) ((s1.modRegion slot fun x => { x with waitCmds := [] }).toState slot .resident)

section
variable {p : Place} {s1 : State} (hp : r.place = some p) (hb : s.stageBefore r true = false) (hc : s.configureAt slot r p i = some s1)
include hr hl hi hp hb hc

theorem exec_emit_packet {q : PktRef} (ho : r.owner = some q) :
    exec (.emit slot) s = .next (
      let t := (s1.emitted slot r).due q 1 0 (handleOf slot r.gen) 0 (handleOf slot r.gen) (!r.early)
      if r.goWhenEmitted then t.beginRun slot else t) := by
  change execEmit slot s = _
  simp only [execEmit, hr, hl, hi, hp, hb, hc, ho]
  rfl

theorem exec_emit_form (ho : r.owner = none) :
    exec (.emit slot) s = .next (if r.goWhenEmitted then (s1.emitted slot r).beginRun slot else s1.emitted slot r) := by
  change execEmit slot s = _
  simp only [execEmit, hr, hl, hi, hp, hb, hc, ho]
  rfl

end
end

/-! ### A LAUNCH that waits for a slot (log entry 64) -/

/-- A region goes into the lowest free slot. -/
theorem State.addRegion_slot {s s1 : State} {r : Region} {k : Nat} (h : s.addRegion r = some (s1, k)) : s.freeSlotAt = some k := by
  unfold State.addRegion at h
  obtain ⟨j, hj, he⟩ := Option.map_eq_some_iff.mp h
  rw [hj, (Prod.mk.inj he).2]

/-- A free slot holds no region. -/
theorem State.region_of_freeSlotAt {s : State} {slot : Nat} (h : s.freeSlotAt = some slot) : s.region slot = none := by
  simpa using List.find?_some h

/-- The first LAUNCH that waits for a slot takes the free one, and is its queue's latest. -/
theorem exec_placementSearch_seats {s s1 : State} {slot k : Nat} {r : Region} {rest : List Region} {q : PktRef} (hf : s.freeSlotAt = some slot)
    (hl : s.launches = r :: rest) (ho : r.owner = some q) (ha : ({ s with launches := rest } : State).addRegion r = some (s1, k)) :
    exec (.placementSearch slot) s = .next (s1.modQueue q.v q.q fun x => { x with latest := some (s1.handle k) }) := by
  change execPlacementSearch slot s = _
  simp only [execPlacementSearch, State.region_of_freeSlotAt hf, if_pos hf, State.seatLaunch, hl, ho, ha]

/-! ### BEDROCK_FAULT (R319) -/

section
variable {s : State}

theorem exec_bedrockFault_staged {e : Option Nat × PktRef} (he : s.firstStaged = some e) :
    exec .bedrockFault s =
      .next ((({ s with bedrock := [] } : State).loseStaged e).reloadRecord e.2.view.part e.2.view.tid e.2.v e.2.q e.2.seq) := by
  change execBedrockFault s = _
  simp only [execBedrockFault, he]

variable (he : s.firstStaged = none)
include he

theorem exec_bedrockFault_fetched {p : Packet} (hp : s.nextPacket = some p) :
    exec .bedrockFault s = .next (
      let s0 : State := { s with bedrock := [] }
      let o := (s0.accept p 0).2
      ((s0.accept p 0).1.faultPacket o { code := 0x01 }).reloadRecord o.view.part o.view.tid o.v o.q o.seq) := by
  change execBedrockFault s = _
  simp only [execBedrockFault, he, hp, State.loseFetched]

theorem exec_bedrockFault_idle (hp : s.nextPacket = none) :
    exec .bedrockFault s = .next (s.journals.foldl (fun (a : State) j => a.reloadRecord j.first 0 0xFF 0 0) { s with bedrock := [] }) := by
  change execBedrockFault s = _
  simp only [execBedrockFault, he, hp]

end

/-! ### BEDROCK_UPDATE (log entry 70) -/

theorem State.stagesEmpty_iff (s : State) :
    s.stagesEmpty = true ↔ s.pipe = [] ∧ s.staged = [] ∧ ∀ e ∈ s.vcps, ∀ x ∈ e.2.queues, x.due = [] := by
  simp [State.stagesEmpty, and_assoc]

theorem exec_bedrockUpdate_applied {s : State} {image signature : List Byte} (he : s.stagesEmpty = true)
    (hs : Config.falconVerify Config.updateKey image signature = true) : exec (.bedrockUpdate image signature) s = .next { s with bedrock := image } := by
  change execBedrockUpdate image signature s = _
  rw [execBedrockUpdate, if_pos (by rw [he, hs]; rfl)]

theorem exec_bedrockUpdate_ignored {s : State} {image signature : List Byte}
    (h : s.stagesEmpty = true → Config.falconVerify Config.updateKey image signature = false) : exec (.bedrockUpdate image signature) s = .next s := by
  change execBedrockUpdate image signature s = _
  rw [execBedrockUpdate, if_neg fun hc => ?_]
  obtain ⟨he, hs⟩ := Bool.and_eq_true_iff.mp hc
  rw [h he] at hs
  cases hs

/-- Settles O51, by what each outcome of a search, an emit, a Bedrock fault and an update leaves. -/
theorem bedrockSteps : Obligations.BedrockSteps := by
  refine ⟨fun s slot r i hr hl hi => ⟨fun hp hb hrb => ⟨?_, ?_, ?_, ?_⟩, fun p s1 hp hb hc => ⟨fun q ho => ?_, fun ho => ?_⟩⟩,
    fun s slot r rest s1 k q hf hl ho ha => ⟨?_, exec_placementSearch_seats hf hl ho ha⟩,
    fun s => ⟨fun slot o he => exec_bedrockFault_staged he, fun o he => exec_bedrockFault_staged he, fun p he hp => exec_bedrockFault_fetched he hp,
      exec_bedrockFault_idle⟩,
    fun s image signature => ⟨fun hpipe hst hdue hs => ?_, fun h => exec_bedrockUpdate_ignored fun he => ?_⟩⟩
  · exact fun _ _ => exec_placementSearch_placed hr hl hi hp hb hrb
  · exact fun _ => exec_placementSearch_waits hr hl hi hp hb hrb
  · exact fun _ _ => exec_placementSearch_busy hr hl hi hp hb hrb
  · exact fun _ _ => exec_placementSearch_rejected hr hl hi hp hb hrb
  · exact exec_emit_packet hr hl hi hp hb hc ho
  · exact exec_emit_form hr hl hi hp hb hc ho
  · exact Option.some.inj ((State.addRegion_slot ha).symm.trans hf)
  · exact exec_bedrockUpdate_applied (s.stagesEmpty_iff.mpr ⟨hpipe, hst, hdue⟩) hs
  · obtain ⟨hpipe, hst, hdue⟩ := s.stagesEmpty_iff.mp he
    rcases h with h | h | ⟨e, hev, x, hx, h⟩ | h
    · exact absurd hpipe h
    · exact absurd hst h
    · exact absurd (hdue e hev x hx) h
    · exact h

end Sys2Proof.Machine

namespace Sys2Proof.Machine

set_option Elab.async false

/-! ## Parity errors, policies, release instants and trace records (R319, R423, R433, R441 to R445) -/

/-! ### Parity errors of the harts (R423) -/

/-- A hart after the parity error of hart `h`: reset if it is `h`, told if it runs Ilhus in the same partition. -/
def State.parityHart (s : State) (h k : Nat) (c : Hart) : Hart :=
  if k = h then Hart.reset c
  else if s.hartPart k = s.hartPart h ∧ s.isIlhus c.oxmid.toNat then { c with irq := true, irqFc := if c.irq then c.irqFc else s.fc } else c

/-- The module after the parity error of hart `h`, its record not yet delivered. -/
def State.parityStop (s : State) (h : Nat) : State := { s with draws := s.draws + 1, harts := s.harts.mapIdx (s.parityHart h) }

theorem exec_hartParityError {s : State} {h : Nat} (hh : h < 64) (hon : (s.hart h).on = true) :
    exec (.hartParityError h) s = .next ((s.parityStop h).ilhusFault (s.hartPart h) ((parityRec s.draws s.ns).words 0 0 0)) := by
  change execHartParityError h s = _
  rw [execHartParityError, if_neg (by simp [hh, hon])]
  rfl

theorem State.parityStop_hart {s : State} (h : Nat) {k : Nat} (hk : k < s.harts.length) :
    (s.parityStop h).hart k = s.parityHart h k (s.hart k) := by
  simp [State.parityStop, State.hart, List.getD_eq_getElem?_getD, List.getElem?_mapIdx, List.getElem?_eq_getElem hk]

theorem State.parityHart_self (s : State) (h : Nat) (c : Hart) : s.parityHart h h c = { oxmid := c.oxmid } := if_pos rfl

theorem State.parityHart_ilhus {s : State} {h k : Nat} {c : Hart} (hk : k ≠ h) (hp : s.hartPart k = s.hartPart h)
    (hi : s.isIlhus c.oxmid.toNat = true) : s.parityHart h k c = { c with irq := true, irqFc := if c.irq then c.irqFc else s.fc } := by
  rw [State.parityHart, if_neg hk, if_pos ⟨hp, hi⟩]

theorem State.parityHart_other {s : State} {h k : Nat} {c : Hart} (hk : k ≠ h)
    (ho : s.hartPart k ≠ s.hartPart h ∨ s.isIlhus c.oxmid.toNat = false) : s.parityHart h k c = c := by
  rw [State.parityHart, if_neg hk, if_neg]
  rintro ⟨hp, hi⟩
  rcases ho with ho | ho
  · exact ho hp
  · rw [hi] at ho; cases ho

/-! ### The parity error of the Hardpan core (R319, R423) -/

/-- Every packet in flight is lost, and each journal has the record of the reload (log entry 45). -/
theorem exec_hardpanParityError (s : State) :
    exec .hardpanParityError s = .next (
      let t := s.pipe.foldl (fun (a : State) p => (a.loseFetched p).1) (s.staged.foldl State.loseStaged { s with bedrock := [] })
      t.journals.foldl (fun (a : State) j => a.reloadRecord j.first 0 0xFF 0 0) t) := rfl

theorem exec_hardpanParityError_idle {s : State} (hp : s.pipe = []) (hs : s.staged = []) (hj : s.journals = []) :
    exec .hardpanParityError s = .next { s with bedrock := [] } := by
  rw [exec_hardpanParityError, hp, hs]
  simp only [List.foldl_nil, hj]

theorem exec_hardpanParityError_fetched {s : State} {p : Packet} (hp : s.pipe = [p]) (hs : s.staged = []) :
    exec .hardpanParityError s = .next (
      let a := ({ s with bedrock := [] } : State).accept p 0
      let t := a.1.faultPacket a.2 { code := 0x01 }
      t.journals.foldl (fun (a : State) j => a.reloadRecord j.first 0 0xFF 0 0) t) := by
  simp only [exec_hardpanParityError, hp, hs, List.foldl_nil, List.foldl_cons, State.loseFetched]

/-! ### Policies (R441; log entry 47) -/

/-- A block that is read unpoisoned: the Hardpan core's code for it, with bit 63, goes to the result word. -/
theorem exec_policyCheck {s s1 s2 : State} {p w k : Nat} {rest : List (Nat × Nat)} {bs : List Byte} (hw : s.polWait = (p, w) :: rest)
    (hr : ({ s with polWait := rest } : State).physRead { mid := 0 } .read (piecesOf p 3344) = (s1, .ok (bs, false)))
    (hk : s1.hardpanRequest bs = (s2, k)) :
    exec .policyCheck s = .next (s2.physWrite { mid := 0 } .write (piecesOf w 8) (toBytes 8 (2 ^ 63 + k))).1 := by
  change execPolicyCheck s = _
  rw [execPolicyCheck, hw]
  simp only [hr, hk]

/-! ### Release instants (R444, R445) -/

theorem exec_releaseInstant_of_not {s : State} {tid : Nat} (h : s.instantNow tid = false) : exec (.releaseInstant tid) s = .next s := by
  change execReleaseInstant tid s = _
  rw [execReleaseInstant, if_pos (by rw [h]; rfl)]

theorem exec_releaseInstant {s : State} {tid : Nat} (h : s.instantNow tid = true) :
    exec (.releaseInstant tid) s =
      .next { s with banks := s.banks.map (fun b => b.release (s.instantIn b.part)), policies := s.policies.map (fun p => p.settle s.instantAny) } := by
  change execReleaseInstant tid s = _
  rw [execReleaseInstant, if_neg (by rw [h]; decide)]

/-! ### Trace records (R433) -/

theorem exec_traceRecordWrite {s : State} {slot : Nat} {t : Trace} (h : s.traces.find? (·.slot == slot) = some t) :
    exec (.traceRecordWrite slot) s =
      .next { (s.writeTrace t).1 with traces := (s.writeTrace t).1.traces.map fun u => if u.slot = slot then (s.writeTrace t).2 else u } := by
  change execTraceRecordWrite slot s = _
  simp only [execTraceRecordWrite, h]

/-- Settles O56, step by step from what each does. -/
theorem parityAndPolicySteps : Obligations.ParityAndPolicySteps := by
  refine ⟨fun s h hh hlen hon => ⟨s.parityStop h, exec_hartParityError hh hon, ?_, fun k hk hne hp hi => ?_, fun k hk hne ho => ?_, rfl⟩,
    fun s => ⟨exec_hardpanParityError_idle, fun p => exec_hardpanParityError_fetched⟩, fun s s1 s2 p w k rest bs hw hr hk => exec_policyCheck hw hr hk,
    fun s bs => ⟨fun h => if_pos h, fun h => if_neg h⟩, fun s tid => ⟨exec_releaseInstant_of_not, exec_releaseInstant⟩,
    fun s slot t ht => exec_traceRecordWrite ht⟩
  · rw [State.parityStop_hart h (by rwa [hlen]), State.parityHart_self]
  · rw [State.parityStop_hart h (by rwa [hlen]), State.parityHart_ilhus hne hp hi]
  · rw [State.parityStop_hart h (by rwa [hlen]), State.parityHart_other hne ho]

end Sys2Proof.Machine

namespace Sys2Proof.Machine

set_option Elab.async false

/-! ## Rollback, defect marks and scrubs (R413 to R422) -/

/-! ### ROLLBACK (R341, R417, R418) -/

/-- A region stopped by a second Grit mismatch, whose rollback is due and whose image can be read. -/
structure State.RollsBack (s : State) (slot : Nat) (r : Region) (z : Freeze) (s1 : State) (img : Image) : Prop where
  region : s.region slot = some r
  freeze : r.freeze = some z
  why : z.why = .rollback
  settled : z.settled = true
  state : r.state = .resident ∨ r.state = .draining
  turn : s.launchBefore r.part z.order = false
  image : s.readImageAt r.part r.img = (s1, .ok img)

/-- Nothing holds such a rollback back. -/
theorem State.RollsBack.due {s s1 : State} {slot : Nat} {r : Region} {z : Freeze} {img : Image} (h : s.RollsBack slot r z s1 img) :
    ¬(z.why != .rollback || !z.settled || s.launchBefore r.part z.order || (r.state != .resident && r.state != .draining)) = true := by
  rcases h.state with hst | hst <;> simp [h.why, h.settled, h.turn, hst]

/-- Without a placement the region is killed, its record saying so in INFO[63]. -/
theorem exec_rollback_unplaced {s s1 s2 : State} {slot : Nat} {r : Region} {z : Freeze} {img : Image} (h : s.RollsBack slot r z s1 img)
    (hs : (s1.clearOwned slot).search { self := some slot } slot r img (2 ^ 63) = .none_ s2) :
    exec (.rollback slot) s = .next ((s2.report40 slot r (2 ^ 63)).faultKill slot 0x40) := by
  change execRollback slot s = _
  simp only [execRollback, h.region, h.freeze, if_neg h.due, h.image, hs]

/-- The state in which a placed region takes its activation values: its shadow has ended (log entry 38), its owned windows are written anew. -/
def State.replaced (s2 : State) (slot : Nat) (r : Region) (img : Image) : State :=
  ((r.shadow.map fun k => s2.endOne k 4 0x40).getD s2).setRegion slot
    { r with image := some img, ownedAt := ((s2.region slot).map (·.ownedAt)).getD [], shadow := none, shadowOf := none }

theorem exec_rollback_placed {s s1 s2 : State} {slot : Nat} {r : Region} {z : Freeze} {img j : Image} {p : Place} (h : s.RollsBack slot r z s1 img)
    (hs : (s1.clearOwned slot).search { self := some slot } slot r img (2 ^ 63) = .placed s2 p) (hj : s2.relocate r.part p img = some j) :
    exec (.rollback slot) s = .next
      (((((s2.replaced slot r img).report40 slot r 0).modRegion slot fun x => x.rolled p j).toState slot .rolledBack).releaseSettle slot 0) := by
  change execRollback slot s = _
  simp only [execRollback, h.region, h.freeze, if_neg h.due, h.image, hs, hj, State.replaced]
  cases r.shadow <;> rfl

/-! ### DEFECT_MARK_PERSIST (R413) -/

theorem exec_defectMarkPersist {s : State} {col row m : Nat} (h : look s.defects (col, row) = some m) :
    exec (.defectMarkPersist col row) s = .next { s with flash := { s.flash with defects := insertKV s.flash.defects (col, row) m } } := by
  change execDefectMarkPersist col row s = _
  rw [execDefectMarkPersist, h]

/-! ### SCRUB_READ (R414, R420, R422) -/

theorem exec_scrubRead_line {s : State} {a k : Nat} (found : EccResult) (ht : targetOf a = some k) (hk : k < 32) :
    exec (.scrubRead (.line a) found) s = .next (s.scrubLine k a found) := by
  change execScrubRead (.line a) found s = _
  simp only [execScrubRead, ht, if_pos hk]

theorem exec_scrubRead_elt {s : State} {w : ScrubOf} {e : EltAt} (found : EccResult) (he : w.elt = some e) :
    exec (.scrubRead w found) s = .next (s.scrubElt w e found) := by
  cases w <;> cases he <;> rfl

theorem exec_scrubRead_unit {s : State} {w : ScrubOf} {slot x y elt : Nat} (found : EccResult) (hu : w.unit = some (slot, x, y, elt)) :
    exec (.scrubRead w found) s = .next (s.scrubUnit slot x y elt found) := by
  cases w <;> cases hu <;> rfl

/-- Lines that are marked or lost, one more among them. -/
def addLine (l : List Nat) (a : Nat) : List Nat := if l.contains a then l else l ++ [a]

theorem contains_addLine (l : List Nat) (a : Nat) : (addLine l a).contains a = true := by
  unfold addLine
  split
  · assumption
  · simp

/-- A line that cannot be corrected carries the poison marker, and is counted. -/
theorem State.scrubLine_uncorrectable (s : State) (k a : Nat) :
    s.scrubLine k a .uncorrectable =
      let s1 := s.modScrub k fun x => x.advance k (scrubLineNo k (a / 64 * 64)) s.ns
      ({ s1 with poison := addLine s1.poison (a / 64) } : State).uncorrected k := by
  unfold State.scrubLine
  simp only [Nat.mul_div_cancel _ (show 0 < 64 by decide)]
  rfl

/-- What an uncorrectable error of a structure of an element leaves: the structure struck, the error counted; of a store, the region frozen. -/
theorem State.scrubElt_uncorrectable {s : State} {w : ScrubOf} {e : EltAt} {r : Region} (hr : s.region e.slot = some r)
    (he : (r.elem e.x e.y e.elt).isSome = true) :
    s.scrubElt w e .uncorrectable =
      let s1 := (s.setRegion e.slot (r.modElem e.x e.y e.elt fun el => el.struck w)).uncorrected (64 + r.stripAt e.x e.y)
      if w.isStore then s1.storeFault e.slot e.x e.y e.elt.code else s1 := by
  unfold State.scrubElt
  simp only [hr]
  rw [if_neg (by simp [Option.isSome_iff_ne_none.mp he]), State.modRegion_of_some hr]

/-- An uncorrectable error of the tables of a CCU or a switch is counted and freezes the region. -/
theorem State.scrubUnit_uncorrectable {s : State} {slot x y elt : Nat} {r : Region} (hr : s.region slot = some r)
    (hu : (if elt = 5 then (r.switch (r.phys x y).1 (r.phys x y).2).isSome else (r.tile x y).isSome) = true) :
    s.scrubUnit slot x y elt .uncorrectable = (s.uncorrected (64 + r.stripAt x y)).storeFault slot x y elt := by
  unfold State.scrubUnit
  simp only [hr]
  by_cases h5 : elt = 5
  · rw [if_pos h5] at hu
    rw [if_neg (by simp [h5, Option.isSome_iff_ne_none.mp hu])]
  · rw [if_neg h5] at hu
    rw [if_neg (by simp [h5, Option.isSome_iff_ne_none.mp hu])]

/-- The switch of a skipped column: its record has no image column (R331). -/
theorem exec_scrubRead_through {s : State} {slot col row : Nat} {r : Region} (hr : s.region slot = some r) (hw : (r.switch col row).isSome = true)
    (hi : r.imageOf col row = none) :
    exec (.scrubRead (.through slot col row) .uncorrectable) s =
      .next ((s.uncorrected (64 + stripOfCol col)).storeFault slot 0 (row - ((r.place.map (·.orow)).getD 0)) 5 true) := by
  change Host.Outcome.next (s.scrubThrough slot col row .uncorrectable) = _
  unfold State.scrubThrough
  simp only [hr]
  rw [if_neg (by simp [hi, Option.isSome_iff_ne_none.mp hw])]

/-- A hart that has lost a dirty line of its caches. -/
def Hart.lose (c : Hart) (a : Nat) : Hart := { c with lost := addLine c.lost (a / 64) }

theorem exec_scrubRead_cache {s : State} {h : Nat} (a : Nat) (hh : h < 64) :
    exec (.scrubRead (.cache h a) .uncorrectable) s = .next ((s.modHart h (·.lose a)).uncorrected (64 + hartStrip h)) := by
  change Host.Outcome.next (s.scrubCache h a .uncorrectable) = _
  unfold State.scrubCache
  dsimp only
  rw [if_neg (by omega)]
  rfl

/-! ### SCRUB_WRITEBACK (R421) -/

theorem memReadBytes_getD (m : Memory) {a n i : Nat} (hi : i < n) : (memReadBytes m a n).getD i 0 = memRead m (a + i) := by
  induction n generalizing a i with
  | zero => omega
  | succ n ih =>
    cases i with
    | zero => simp [memReadBytes]
    | succ i =>
      rw [memReadBytes, List.getD_cons_succ, ih (by omega)]
      congr 1
      omega

/-- Bytes that are written back as they were read leave memory as it reads. -/
theorem memRead_writeBack {m : Memory} (a n b : Nat) (h : Memory.wf m = true) : memRead (memWriteBytes m a (memReadBytes m a n)) b = memRead m b := by
  by_cases hb : b < a ∨ a + n ≤ b
  · exact memRead_memWriteBytes_out _ _ _ (by rwa [memReadBytes_length])
  · obtain ⟨i, rfl⟩ := Nat.exists_eq_add_of_le (by omega : a ≤ b)
    rw [memRead_memWriteBytes_in _ _ h (by rw [memReadBytes_length]; omega), memReadBytes_getD _ (by omega)]

@[simp] theorem State.scrubOf_modScrub (s : State) (t : Nat) (f : Scrub → Scrub) : (s.modScrub t f).scrubOf t = f (s.scrubOf t) := by
  simp [State.scrubOf, State.modScrub]

/-- The line of a target that waits for its write-back is written as it was read, when nothing has changed it since. -/
def State.wroteBack (s : State) (k a : Nat) (bs : List Byte) : State :=
  { s.modScrub k (fun x => { x with pending := none }) with mem := if memReadBytes s.mem a 64 = bs then memWriteBytes s.mem a bs else s.mem }

theorem State.wroteBack_pending (s : State) (k a : Nat) (bs : List Byte) : ((s.wroteBack k a bs).scrubOf k).pending = none := by
  change ((s.modScrub k fun x => { x with pending := none }).scrubOf k).pending = none
  rw [State.scrubOf_modScrub]

theorem State.memRead_wroteBack {s : State} (k a : Nat) (bs : List Byte) (b : Nat) (hs : Inv s) : memRead (s.wroteBack k a bs).mem b = memRead s.mem b := by
  unfold State.wroteBack
  dsimp only
  split
  next he => rw [← he, memRead_writeBack a 64 b hs]
  next => rfl

theorem exec_scrubWriteback {s : State} {k a : Nat} {bs : List Byte} (hp : (s.scrubOf k).pending = some (a, bs)) :
    exec (.scrubWriteback k) s = .next (s.wroteBack k a bs) := by
  change execScrubWriteback k s = _
  simp only [execScrubWriteback, hp, State.wroteBack]
  split <;> rfl

/-- Settles O43, by what a rollback's search finds and by what each scrub reads. -/
theorem recoverySteps : Obligations.RecoverySteps := by
  refine ⟨fun s s1 slot r z img hr hz hwhy hset hst hb hi => ?_, fun s col row m h => ?_, fun s a k ht hk => ⟨?_, ?_, ?_⟩,
    fun s w e r he hstore hr hel => ?_, fun s w e r he hstore hr hel => ?_, fun s w slot x y elt r hu hr hel => ?_,
    fun s slot col row r hr hw hi => exec_scrubRead_through hr hw hi, fun s h a hh => ?_, fun s k a bs hp hs =>
      ⟨_, exec_scrubWriteback hp, s.wroteBack_pending k a bs, fun b => State.memRead_wroteBack k a bs b hs⟩⟩
  · have rolls : s.RollsBack slot r z s1 img := ⟨hr, hz, hwhy, hset, hst, hb, hi⟩
    exact ⟨fun s2 => exec_rollback_unplaced rolls, fun s2 p j => exec_rollback_placed rolls⟩
  · exact ⟨_, exec_defectMarkPersist h, look_insertKV_self _ _ _, rfl⟩
  · exact exec_scrubRead_line .clean ht hk
  · exact exec_scrubRead_line .corrected ht hk
  · exact ⟨_, by rw [exec_scrubRead_line .uncorrectable ht hk, State.scrubLine_uncorrectable], contains_addLine _ _, rfl⟩
  · rw [exec_scrubRead_elt _ he, State.scrubElt_uncorrectable hr hel]
    exact congrArg Host.Outcome.next (if_neg (by rw [hstore]; decide))
  · rw [exec_scrubRead_elt _ he, State.scrubElt_uncorrectable hr hel]
    exact congrArg Host.Outcome.next (if_pos hstore)
  · rw [exec_scrubRead_unit _ hu, State.scrubUnit_uncorrectable hr hel]
    rfl
  · exact ⟨_, exec_scrubRead_cache a hh, rfl, upd_length _ _ _, fun hl => by
      rw [State.hart_modHart _ _ _ hl]
      exact contains_addLine _ _⟩

end Sys2Proof.Machine

namespace Sys2Proof.Machine

set_option Elab.async false

/-! ## Freezes, the settled front, the watchdog and the no-progress detector (R344, R345, R347, R369 to R372, R436) -/

section
variable {s : State} {slot : Nat} {r : Region} {z : Freeze}

/-! ### FREEZE_RECEIPT (R344) -/

theorem exec_freezeReceipt {u : UnitId} (hr : s.region slot = some r) (hz : r.freeze = some z) (hs : z.settled = false)
    (hg : z.got.contains u = false) (hu : r.units.contains u = true) :
    exec (.freezeReceipt slot u) s = .next (s.setRegion slot { r with freeze := some { z with got := z.got ++ [u] } }) := by
  change execFreezeReceipt slot u s = _
  rw [execFreezeReceipt, State.modRegion_of_some hr]
  simp only [hz, hs, hg, hu, Bool.or_self, Bool.not_true, Bool.false_eq_true, if_false]

/-! ### FRONT_SETTLE (R345) -/

theorem exec_frontSettle (hr : s.region slot = some r) (hz : r.freeze = some z) (hs : z.settled = false) (hn : r.settledNow z = true) :
    exec (.frontSettle slot) s = .next (s.settle slot r z) := by
  change execFrontSettle slot s = _
  simp only [execFrontSettle, hr, hz]
  rw [if_pos (by rw [hs, hn]; rfl)]

theorem exec_frontSettle_of_not (hr : s.region slot = some r) (hz : r.freeze = some z) (h : z.settled = true ∨ r.settledNow z = false) :
    exec (.frontSettle slot) s = .next s := by
  change execFrontSettle slot s = _
  simp only [execFrontSettle, hr, hz]
  rw [if_neg]
  rcases h with h | h <;> simp [h]

/-- The state in which the front counts as settled, before anything follows from it. -/
def State.settled (s : State) (slot : Nat) (r : Region) (z : Freeze) : State :=
  s.setRegion slot { r with freeze := some { z with settled := true } }

/-- The region leaves RUN for a state in which it stands, and the forms that wait for its front go on (R252). -/
def State.standsAs (s : State) (slot : Nat) (st : RState) : State :=
  ((s.modRegion slot fun x => { x with run := false, stp := false, stopAt := none }).toState slot st).releaseSettle slot 0

/-- A fault that froze the region is delivered once the front has settled (R345, R347). -/
theorem State.settle_fault {f : FaultRec} (hk : r.killWhenDone = none) (hw : z.why = .fault) (hf : r.fault = some f) :
    s.settle slot r z = ((s.settled slot r z).deliverFault slot f).standsAs slot .faulted := by
  simp only [State.settle, State.settled, State.standsAs, hk, hw, hf]

/-- A freeze that a form or a migration asked for leaves the region frozen (R345). -/
theorem State.settle_frozen (hk : r.killWhenDone = none) (hroll : z.why ≠ .rollback) (hswitch : z.why ≠ .switch) (hstop : z.why ≠ .stop)
    (hf : r.fault = none) : s.settle slot r z = (s.settled slot r z).standsAs slot .frozen := by
  cases hw : z.why with
  | rollback => exact absurd hw hroll
  | switch => exact absurd hw hswitch
  | stop => exact absurd hw hstop
  | form | fault | migrate => simp only [State.settle, State.settled, State.standsAs, hk, hw, hf]

/-- The debug block takes the stop's cause, node and place (R436). -/
theorem State.settle_stop {a : Nat × Nat × Nat × Nat} (hk : r.killWhenDone = none) (hw : z.why = .stop) (hf : r.fault = none)
    (ha : r.stopAt = some a) :
    s.settle slot r z = (((s.settled slot r z).modRegion slot fun x => { x with stp := true }).modDebug slot fun d =>
      { d with bkn := a.1, snode := a.2.1, sloc := a.2.2.1 }).traceStop slot a := by
  simp only [State.settle, State.settled, hk, hw, hf, ha]

/-! ### WATCHDOG_EXPIRY (R369, R370, R372) -/

theorem exec_watchdogExpiry (hr : s.region slot = some r) (hst : r.state = .resident) (hrun : r.run = true) (hstp : r.stp = false)
    (hz : ∀ z, r.freeze = some z → z.why ≠ .fault ∧ z.why ≠ .rollback) (hw : (s.frBlock r.part).wdl ≠ 0)
    (ha : (s.frBlock r.part).wdl.toNat * 1000000 ≤ r.active) :
    exec (.watchdogExpiry slot) s = .next (s.raiseFault slot { code := 0x52, det := 1, src := 10, xna := true, info := r.active }) := by
  have hw0 : (s.frBlock r.part).wdl.toNat ≠ 0 := fun h => hw (BitVec.eq_of_toNat_eq h)
  change execWatchdogExpiry slot s = _
  simp only [execWatchdogExpiry, hr]
  rw [if_pos]
  cases hf : r.freeze with
  | none => simp [hst, hrun, hstp, hw0, ha]
  | some z => simp [hst, hrun, hstp, hw0, ha, hz z hf]

theorem exec_watchdogExpiry_of_not (hr : s.region slot = some r)
    (h : (r.state ≠ .resident ∨ r.run = false) ∨ (s.frBlock r.part).wdl = 0 ∨ r.active < (s.frBlock r.part).wdl.toNat * 1000000) :
    exec (.watchdogExpiry slot) s = .next s := by
  change execWatchdogExpiry slot s = _
  simp only [execWatchdogExpiry, hr]
  rw [if_neg]
  rcases h with (h | h) | h | h <;> simp [h]

/-! ### NO_PROGRESS_REPORT (R371) -/

theorem exec_noProgressReport (hr : s.region slot = some r) (hst : r.state = .resident) (hrun : r.run = true) (hstp : r.stp = false)
    (harm : r.noProgArmed = true) (hn : 2 ^ 24 ≤ r.noProg) :
    exec (.noProgressReport slot) s = .next ((s.reportFault slot { code := 0x52, det := 2, src := 10, xna := true, info := r.noProg }).modRegion slot
      fun x => { x with noProgArmed := false }) := by
  change execNoProgressReport slot s = _
  simp only [execNoProgressReport, hr]
  rw [if_pos]
  simp only [hst, hrun, hstp, harm, hn, decide_true, beq_self_eq_true, Bool.not_false, Bool.and_self]

theorem exec_noProgressReport_of_not (hr : s.region slot = some r)
    (h : (r.state ≠ .resident ∨ r.run = false) ∨ r.noProgArmed = false ∨ r.noProg < 2 ^ 24) :
    exec (.noProgressReport slot) s = .next s := by
  change execNoProgressReport slot s = _
  simp only [execNoProgressReport, hr]
  rw [if_neg]
  rcases h with (h | h) | h | h
  · simp [h]
  · simp [h]
  · simp [h]
  · rw [decide_eq_false (Nat.not_le.mpr h), Bool.and_false]
    exact Bool.false_ne_true

end

/-- Settles O41, by what a settled front brings about for each reason of the freeze. -/
theorem freezeSteps : Obligations.FreezeSteps := by
  intro s slot r hr
  refine ⟨fun z u => exec_freezeReceipt hr, fun z hz hs hn hk => ⟨fun f hw hf => ?_, fun hroll hswitch hstop hf => ?_, fun a hw hf ha => ?_⟩,
    fun z => exec_frontSettle_of_not hr, fun h => ⟨exec_watchdogExpiry_of_not hr (.inl h), exec_noProgressReport_of_not hr (.inl h)⟩,
    fun hst hrun hstp => ⟨exec_watchdogExpiry hr hst hrun hstp, fun h => exec_watchdogExpiry_of_not hr (.inr h),
      exec_noProgressReport hr hst hrun hstp, fun h => exec_noProgressReport_of_not hr (.inr h)⟩⟩
  · rw [exec_frontSettle hr hz hs hn, State.settle_fault hk hw hf]
    rfl
  · rw [exec_frontSettle hr hz hs hn, State.settle_frozen hk hroll hswitch hstop hf]
    rfl
  · rw [exec_frontSettle hr hz hs hn, State.settle_stop hk hw hf ha]
    rfl

end Sys2Proof.Machine

namespace Sys2Proof.Machine

set_option Elab.async false

/-! ## The partition table, partition blocks and lane-group control registers (R402, R403, R405) -/

/-! ### Writes of the Hardpan core -/

/-- The block of every register admits MID 0x000. -/
theorem State.regAdmits_zero (s : State) (addr : Nat) (write : Bool) : s.regAdmits addr 0 write = true := by
  unfold State.regAdmits
  have hh : hostMid 0 = false := by decide
  have ht : ∀ t, s.tableRule t 0 = true := fun _ => rfl
  simp only [hh, ht, beq_self_eq_true, Bool.true_or, Bool.or_true, Bool.not_false, ite_self]
  split <;> rfl

theorem State.permits_hardpan (s : State) {addr : Nat} (k : AKind) (ht : targetOf addr = some 40) : s.permits (s.regWho .hardpan) addr k = true := by
  simp only [State.permits, ht, if_true]
  exact s.regAdmits_zero addr k.dirties

/-- Where no target is, a denial has no journal. -/
theorem State.recordDenial_of_no_target (s : State) (w : Who) {addr : Nat} (k : AKind) (ht : targetOf addr = none) : s.recordDenial w addr k = s := by
  simp only [State.recordDenial, ht]

theorem targetOf_registers {addr : Nat} (hlo : 0x7F0000000000 ≤ addr) (hhi : addr < 0x800000000000) : targetOf addr = some 40 := by
  rw [targetOf, if_neg (by omega), if_neg (by omega), if_pos ⟨hlo, hhi⟩]

theorem targetOf_beyond {addr : Nat} (h : 0x800000000000 ≤ addr) : targetOf addr = none := by
  rw [targetOf, if_neg (by omega), if_neg (by omega), if_neg (by omega)]

/-- The Hardpan core's write of a register is performed. -/
theorem State.regWrite_hardpan {s : State} {addr : Nat} (f : State → State) (hp : s.powered = true) (hlo : 0x7F0000000000 ≤ addr)
    (hhi : addr < 0x800000000000) : s.regWrite .hardpan addr f = f s :=
  State.regWrite_of_permits f hp (.inl rfl) (s.permits_hardpan .write (targetOf_registers hlo hhi))

/-- Beyond the registers there is nothing that the Hardpan core writes. -/
theorem State.regWrite_hardpan_beyond {s : State} {addr : Nat} (f : State → State) (hp : s.powered = true) (h : 0x800000000000 ≤ addr) :
    s.regWrite .hardpan addr f = s := by
  have ht := targetOf_beyond h
  have hw : inHostWindow addr = false := by
    rw [inHostWindow, decide_eq_false (p := addr < 0x500000000000) (by omega), Bool.and_false]
  rw [State.regWrite_of_not_permits f hp (.inl rfl) (by simp [State.permits, ht, hw]), s.recordDenial_of_no_target _ _ ht]

/-! ### The word of a strip (R402) -/

theorem exec_partitionTableWrite_hardpan {s : State} {k : Nat} (value : W64) (hp : s.powered = true) (hk : k < 8) :
    exec (.partitionTableWrite .hardpan k value) s = .next (s.writePart k value.toNat) := by
  change execPartitionTableWrite .hardpan k value s = _
  rw [execPartitionTableWrite, if_neg (by omega), State.regWrite_hardpan _ hp (by omega) (by omega)]

/-- A strip's word of V, PERR and a range. -/
def stripWord (v perr : Bool) (range : Nat) : Nat := put 63 63 (b2n v) + (put 62 62 (b2n perr) + range)

theorem fld_range_lt (x : Nat) : fld x 5 0 < 64 := Nat.mod_lt _ (by decide)

theorem fld_eq_b2n_bitN (x i : Nat) : fld x i i = b2n (bitN x i) := by
  have h : fld x i i < 2 := by
    rw [fld, Nat.add_sub_cancel_left]
    exact Nat.mod_lt _ (by decide)
  rw [bitN_eq_fld]
  generalize fld x i i = n at h
  interval_cases n <;> rfl

section
variable (v perr : Bool) {range : Nat} (hrange : range < 64)
include hrange

theorem stripWord_low_lt : put 62 62 (b2n perr) + range < 2 ^ 63 := put_add_lt (by omega) (by decide) (by decide)

theorem stripWord_lt : stripWord v perr range < 2 ^ 64 := put_add_lt (stripWord_low_lt perr hrange) (by decide) (by decide)

theorem fld_stripWord_range : fld (stripWord v perr range) 5 0 = range := by
  rw [stripWord, fld_put_add_low (by decide) (by decide), fld_put_add_low (by decide) (by decide), fld_zero_of_lt hrange]

theorem bitN_stripWord_v : bitN (stripWord v perr range) 63 = v := by
  rw [bitN_eq_fld, stripWord, fld_put_add (stripWord_low_lt perr hrange) (b2n_lt (by decide) v), b2n_beq_one]

theorem bitN_stripWord_perr : bitN (stripWord v perr range) 62 = perr := by
  rw [bitN_eq_fld, stripWord, fld_put_add_low (by decide) (by decide), fld_put_add (by omega) (b2n_lt (by decide) perr), b2n_beq_one]

end

/-- Two words have the same V and range when they agree but for PERR. -/
theorem stripWord_inj {v w : Bool} {a b : Nat} (ha : a < 64) (hb : b < 64) : put 63 63 (b2n v) + a = put 63 63 (b2n w) + b ↔ v = w ∧ a = b := by
  cases v <;> cases w <;> simp [put, b2n] <;> omega

def State.putPart (s : State) (k w : Nat) : State := { s with partTab := insertKV s.partTab k (.ofNat 64 w) }

theorem State.partWord_putPart_self {s : State} {k w : Nat} (hw : w < 2 ^ 64) : (s.putPart k w).partWord k = w := by
  rw [State.partWord, State.putPart, look_insertKV_self, Option.getD_some, BitVec.toNat_ofNat, Nat.mod_eq_of_lt hw]

theorem State.partWord_putPart_ne {s : State} {k j w : Nat} (h : j ≠ k) : (s.putPart k w).partWord j = s.partWord j := by
  simp [State.partWord, State.putPart, look_insertKV_ne _ _ h]

/-- A strip's word reads as it was put together. -/
theorem State.readsAs_putPart (s : State) (k : Nat) (v perr : Bool) {range : Nat} (hr : range < 64) :
    let w := (s.putPart k (stripWord v perr range)).partWord k
    bitN w 63 = v ∧ fld w 5 0 = range ∧ bitN w 62 = perr := by
  intro w
  have hw : w = stripWord v perr range := State.partWord_putPart_self (stripWord_lt v perr hr)
  rw [hw]
  exact ⟨bitN_stripWord_v v perr hr, fld_stripWord_range v perr hr, bitN_stripWord_perr v perr hr⟩

/-- A valid word of another strip contradicts a range for strip k: it names another range, and one of the two ranges takes in the other's strip. -/
def State.partClash (s : State) (k v : Nat) : Bool :=
  (List.range 8).any fun j => j != k && bitN (s.partWord j) 63 && fld (s.partWord j) 5 0 != fld v 5 0 &&
    ((decide (fld v 5 3 ≤ j) && decide (j ≤ fld v 2 0)) || (decide (fld (s.partWord j) 5 3 ≤ k) && decide (k ≤ fld (s.partWord j) 2 0)))

/-- Strip k takes the V and the range of a word that is written to it. -/
def State.TakesPart (s : State) (k v : Nat) : Prop :=
  fld v 5 3 ≤ k ∧ k ≤ fld v 2 0 ∧ s.partClash k v = false ∧
    (s.stripBusy k = false ∨ bitN v 63 = bitN (s.partWord k) 63 ∧ fld v 5 0 = fld (s.partWord k) 5 0)

/-- The model's check of a word written to strip k: it is not taken. -/
def State.partBad (s : State) (k v : Nat) : Bool :=
  decide (k < fld v 5 3) || decide (fld v 2 0 < k) || s.partClash k v ||
    (!(put 63 63 (fld v 63 63) + fld v 5 0 == put 63 63 (fld (s.partWord k) 63 63) + fld (s.partWord k) 5 0) && s.stripBusy k)

theorem State.writePart_eq (s : State) (k v : Nat) : s.writePart k v = s.putPart k
    (if s.partBad k v then put 63 63 (fld (s.partWord k) 63 63) + put 62 62 1 + fld (s.partWord k) 5 0
     else put 63 63 (fld v 63 63) + fld v 5 0 + put 62 62 (b2n (bitN (s.partWord k) 62 && !bitN v 62))) := rfl

section
variable {s : State} {k v : Nat}

theorem State.takesPart_iff : s.TakesPart k v ↔ s.partBad k v = false := by
  rw [State.TakesPart, State.partBad, ← stripWord_inj (fld_range_lt v) (fld_range_lt _), ← fld_eq_b2n_bitN, ← fld_eq_b2n_bitN]
  simp only [Bool.or_eq_false_iff, Bool.and_eq_false_iff, decide_eq_false_iff_not, Nat.not_lt, Bool.not_eq_false', beq_iff_eq, and_assoc,
    or_comm (a := s.stripBusy k = false)]

theorem State.writePart_of_takes (h : s.TakesPart k v) :
    s.writePart k v = s.putPart k (stripWord (bitN v 63) (bitN (s.partWord k) 62 && !bitN v 62) (fld v 5 0)) := by
  rw [State.writePart_eq, State.takesPart_iff.mp h, if_neg Bool.false_ne_true, fld_eq_b2n_bitN, stripWord, Nat.add_assoc,
    Nat.add_comm (fld v 5 0)]

theorem State.writePart_of_not_takes (h : ¬ s.TakesPart k v) :
    s.writePart k v = s.putPart k (stripWord (bitN (s.partWord k) 63) true (fld (s.partWord k) 5 0)) := by
  rw [State.writePart_eq, if_pos (Bool.eq_true_of_not_eq_false (mt State.takesPart_iff.mpr h)), fld_eq_b2n_bitN, stripWord, Nat.add_assoc]
  rfl

end

/-! ### A word of a partition's block (R403) -/

theorem State.lt_of_isPart {s : State} {p : Nat} (h : s.isPart p = true) : p < 8 := by
  simp only [State.isPart, State.partOf, beq_iff_eq, Option.ite_none_right_eq_some, Option.some_inj] at h
  rw [← h.2]
  exact Nat.mod_lt _ (by decide)

theorem State.writePartBlock_beyond (s : State) {p i : Nat} (v : Nat) (hi : 7 ≤ i) : s.writePartBlock p i v = s := by
  rw [State.writePartBlock, if_neg (by omega), if_neg (by omega), if_neg (by omega)]

/-- A number past the block's seven words writes nothing, even where it lies past every register. -/
theorem exec_partitionBlockWrite_hardpan {s : State} {p : Nat} (i : Nat) (value : W64) (hp : s.powered = true) (hpart : s.isPart p = true) :
    exec (.partitionBlockWrite .hardpan p i value) s = .next (s.writePartBlock p i value.toNat) := by
  have hp8 := State.lt_of_isPart hpart
  change execPartitionBlockWrite .hardpan p i value s = _
  rw [execPartitionBlockWrite, if_neg (by simp [hpart])]
  by_cases ha : 0x7F0004001000 + 0x100 * p + 8 * i < 0x800000000000
  · rw [State.regWrite_hardpan _ hp (by omega) ha]
  · rw [State.regWrite_hardpan_beyond _ hp (by omega), State.writePartBlock_beyond _ _ (by omega)]

def State.putPartBlk (s : State) (p i w : Nat) : State := { s with partBlk := insertKV s.partBlk (p, i) (.ofNat 64 w) }

theorem State.partBlock_putPartBlk_self {s : State} {p i w : Nat} (hw : w < 2 ^ 64) : (s.putPartBlk p i w).partBlock p i = w := by
  simp only [State.partBlock, State.putPartBlk, look_insertKV_self, BitVec.toNat_ofNat, Nat.mod_eq_of_lt hw]

theorem State.partBlock_putPartBlk_ne {s : State} {p i o j w : Nat} (h : o ≠ p ∨ j ≠ i) : (s.putPartBlk p i w).partBlock o j = s.partBlock o j := by
  rw [State.partBlock, State.putPartBlk, look_insertKV_ne _ _ (by grind)]
  rfl

/-- The lane groups that the list words but word i of partition p's block name. -/
def State.otherGroups (s : State) (p i : Nat) : List Nat :=
  (List.range 8).flatMap fun o => [4, 5].flatMap fun j => if o = p ∧ j = i then [] else groupsIn (s.partBlock o j)

theorem maskBytes_lt (w mask : Nat) : maskBytes w mask < 2 ^ 64 := by
  have h := ofBytes_lt ((toBytes 8 w).map fun b => b &&& .ofNat 8 mask)
  rwa [List.length_map, toBytes_length] at h

section
variable (s : State) (p : Nat) {i : Nat} (v : Nat)

theorem State.writePartBlock_tenants (hi : i < 4) : s.writePartBlock p i v = s.putPartBlk p i v := by
  rw [State.writePartBlock, if_pos hi]
  rfl

theorem State.writePartBlock_groups (hi : i = 4 ∨ i = 5) : s.writePartBlock p i v =
    if (groupsIn (maskBytes v 0xBF) ++ s.otherGroups p i).Nodup then s.putPartBlk p i (maskBytes v 0xBF) else s := by
  rw [State.writePartBlock, if_neg (by omega), if_pos (by omega)]
  rfl

theorem State.writePartBlock_hqos : s.writePartBlock p 6 v = s.putPartBlk p 6 (if v % 256 = 0 then 1 else v % 256) := rfl

/-- A write of a block's word writes that word, or nothing. -/
theorem State.writePartBlock_cases (i : Nat) : s.writePartBlock p i v = s ∨ ∃ w, s.writePartBlock p i v = s.putPartBlk p i w := by
  by_cases h4 : i < 4
  · exact .inr ⟨_, s.writePartBlock_tenants p v h4⟩
  by_cases h6 : i < 6
  · rw [s.writePartBlock_groups p v (by omega)]
    split
    · exact .inr ⟨_, rfl⟩
    · exact .inl rfl
  by_cases h7 : i = 6
  · exact .inr ⟨_, h7 ▸ s.writePartBlock_hqos p v⟩
  · exact .inl (s.writePartBlock_beyond v (by omega))

theorem State.writePartBlock_frame (i : Nat) : s.writePartBlock p i v = { s with partBlk := (s.writePartBlock p i v).partBlk } := by
  rcases s.writePartBlock_cases p v i with h | ⟨w, h⟩
  · rw [h]
  · rw [h]
    rfl

theorem State.partBlock_writePartBlock_ne {i o j : Nat} (h : o ≠ p ∨ j ≠ i) : (s.writePartBlock p i v).partBlock o j = s.partBlock o j := by
  rcases s.writePartBlock_cases p v i with hw | ⟨w, hw⟩
  · rw [hw]
  · rw [hw, State.partBlock_putPartBlk_ne h]

end

/-! ### The control register of a lane group (R405) -/

theorem exec_laneGroupControlWrite_hardpan {s : State} {g : Nat} (value : W64) (hp : s.powered = true) (hg : g < 64) :
    exec (.laneGroupControlWrite .hardpan g value) s = .next (s.modGroup g (·.write value.toNat)) := by
  change execLaneGroupControlWrite .hardpan g value s = _
  have hlo : 0x7F0005000000 ≤ laneBase g := Nat.le_add_right _ _
  have hhi : laneBase g < 0x7F0005000200 := by unfold laneBase; omega
  rw [execLaneGroupControlWrite, if_neg (by omega), State.regWrite_hardpan _ hp (by omega) (by omega)]

section
variable {lg : LaneGroup} {v : Nat}

theorem LaneGroup.write_of_up (h : lg.lst = 2) (hv : fld v 62 56 ≠ fld lg.cfg.toNat 62 56) : lg.write v = lg := by
  rw [LaneGroup.write, if_pos ⟨h, hv⟩]

theorem toNat_ofNat_put {hi lo : Nat} (v : Nat) (h : lo ≤ hi) (hhi : hi < 64) : (BitVec.ofNat 64 (put hi lo v)).toNat = put hi lo v := by
  rw [BitVec.toNat_ofNat, Nat.mod_eq_of_lt (put_lt h (Nat.pow_le_pow_right (by decide) hhi))]

/-- The link state after a write that the group takes. -/
def LaneGroup.enabled (lg : LaneGroup) (v : Nat) : Nat :=
  if bitN v 63 then (if lg.lst = 0 ∨ lg.lst = 3 then 1 else lg.lst) else 0

theorem LaneGroup.write_of_taken (h : lg.lst ≠ 2 ∨ fld v 62 56 = fld lg.cfg.toNat 62 56) :
    lg.write v = { lg with cfg := .ofNat 64 (put 63 56 (fld v 63 56)), lst := lg.enabled v } := by
  rw [LaneGroup.write, if_neg (by grind), LaneGroup.enabled]
  cases bitN v 63 with
  | false => rfl
  | true =>
    by_cases hl : lg.lst = 0 ∨ lg.lst = 3
    · simp only [if_pos hl, Bool.not_true, Bool.false_eq_true, if_false, if_true]
    · simp only [if_neg hl, Bool.not_true, Bool.false_eq_true, if_false, if_true]

end

/-- Settles O54, by what the Hardpan core's write of each of the three registers leaves. -/
theorem fabricTables : Obligations.FabricTables := by
  intro s hp
  refine ⟨fun k value hk => ?_, fun p i value hpart => ?_, fun g value hg => ?_⟩
  · refine ⟨_, exec_partitionTableWrite_hardpan value hp hk, rfl, fun j hj => ?_, fun ht => ?_, fun ht => ?_⟩
    · exact State.partWord_putPart_ne hj
    · rw [State.writePart_of_takes ht]
      exact s.readsAs_putPart k _ _ (fld_range_lt _)
    · rw [State.writePart_of_not_takes ht]
      exact s.readsAs_putPart k _ _ (fld_range_lt _)
  · refine ⟨_, exec_partitionBlockWrite_hardpan i value hp hpart, s.writePartBlock_frame p _ i, fun o j => s.partBlock_writePartBlock_ne p _,
      fun hi => ?_, fun hi => ?_, fun hi => ?_⟩
    · rw [s.writePartBlock_tenants p _ hi]
      exact State.partBlock_putPartBlk_self value.isLt
    · subst hi
      rw [s.writePartBlock_hqos p]
      exact State.partBlock_putPartBlk_self (by split <;> omega)
    · rw [s.writePartBlock_groups p _ hi]
      refine ⟨fun hn => ?_, fun hn => if_neg fun h => hn (List.nodup_append.mp h).1,
        fun g hw ho => if_neg fun h => (List.nodup_append.mp h).2.2 g hw g ho rfl⟩
      exact (congrArg (State.partBlock · p i) (if_pos hn)).trans (State.partBlock_putPartBlk_self (maskBytes_lt _ _))
  · refine ⟨_, _, exec_laneGroupControlWrite_hardpan value hp hg, rfl, s.look_modGroup_self g _, LaneGroup.write_of_up, fun ht => ?_⟩
    rw [LaneGroup.write_of_taken ht]
    exact ⟨toNat_ofNat_put _ (by decide) (by decide), fun he => if_neg (ne_true_of_eq_false he), fun he => if_pos he⟩

end Sys2Proof.Machine

namespace Sys2Proof.Machine

set_option Elab.async false

/-! ## Collectives (R379 to R384) -/

/-- A fault that is no page fault pauses nothing, so no neighbour is told of it (R384). -/
theorem State.collFault_eq_cmdFault (s : State) (k : Nat) (c : Cmd) {f : AccFault} (hf : f.code ≠ 0x10) :
    s.collFault k c f = s.cmdFault (.coll k) c f := by
  unfold State.collFault
  exact if_neg hf

section
variable {s : State} {k : Nat} {c : Cmd}

/-! ### COLL_START_EXCHANGE (R379) -/

theorem State.tellHeader_of_told (h : (s.collEngine k).told = true) : s.tellHeader k c = s := by
  unfold State.tellHeader
  exact if_pos h

@[simp] theorem State.collEngine_modColl (s : State) (k : Nat) (f : CollEngine → CollEngine) : (s.modColl k f).collEngine k = f (s.collEngine k) := by
  simp [State.collEngine, State.modColl]

theorem State.told_tellHeader : ((s.tellHeader k c).collEngine k).told = true := by
  unfold State.tellHeader
  split
  · assumption
  · rw [State.collEngine_modColl]

variable (hc : s.collCmd k = some c)
include hc

section
variable {prev next : CollHdr} (he : (s.collEngine k).exchanged = false)
include he

/-- With both neighbours' headers equal to the engine's the exchange is over. -/
theorem exec_collStartExchange_of_equal (hp : (s.tellHeader k c).rankHeader k c (c.rankBefore 1) 0 prev = some c.header)
    (hn : (s.tellHeader k c).rankHeader k c (c.rankAfter 1) 1 next = some c.header) :
    exec (.collStartExchange k prev next) s = .next
      ((((s.tellHeader k c).dropHeaders k c).modColl k fun e => { e with exchanged := true, lastIn := s.ns, lastOut := s.ns }).goOn k) := by
  change execCollStartExchange k prev next s = _
  simp only [execCollStartExchange, hc, he, hp, hn, Bool.false_eq_true, if_false, and_self, if_true]

theorem exec_collStartExchange_of_differ {p n : CollHdr} (hp : (s.tellHeader k c).rankHeader k c (c.rankBefore 1) 0 prev = some p)
    (hn : (s.tellHeader k c).rankHeader k c (c.rankAfter 1) 1 next = some n) (hd : p ≠ c.header ∨ n ≠ c.header) :
    exec (.collStartExchange k prev next) s = .next (((s.tellHeader k c).dropHeaders k c).cmdFault (.coll k) c { code := 1, det := 1 }) := by
  change execCollStartExchange k prev next s = _
  simp only [execCollStartExchange, hc, he, hp, hn, Bool.false_eq_true, if_false]
  rw [if_neg (not_and_or.mpr hd), State.collFault_eq_cmdFault _ _ _ (by decide)]

theorem exec_collStartExchange_of_missing (h : (s.tellHeader k c).rankHeader k c (c.rankBefore 1) 0 prev = none ∨
    (s.tellHeader k c).rankHeader k c (c.rankAfter 1) 1 next = none) : exec (.collStartExchange k prev next) s = .next (s.tellHeader k c) := by
  change execCollStartExchange k prev next s = _
  simp only [execCollStartExchange, hc, he, Bool.false_eq_true, if_false]
  split
  next p n hp hn => simp [hp, hn] at h
  next => rfl

end

/-! ### COLL_HOP_UNIT (R380 to R383) -/

theorem exec_collHopUnit_of_other {n : Nat} (unit : List Byte) (hn : n ≠ (s.collEngine k).nextRecv) :
    exec (.collHopUnit k n unit) s = .next s := by
  change execCollHopUnit k n unit s = _
  simp only [execCollHopUnit, hc]
  rw [if_pos (by simp [hn])]

end

/-- The engine has room for what a unit brings: in the incoming block of KV rotation, else among the units to be relayed. -/
def State.hopRoom (s : State) (k : Nat) (c : Cmd) : Bool :=
  if c.op = 0 then decide ((s.collEngine k).incoming.length < c.count) else decide ((s.collEngine k).relayed.length < 64)

theorem State.hopRoom_rotation {s : State} {k : Nat} {c : Cmd} (hop : c.op = 0) (h : (s.collEngine k).incoming.length < c.count) :
    s.hopRoom k c = true := by
  rw [State.hopRoom, if_pos hop, decide_eq_true h]

theorem State.hopRoom_relay {s : State} {k : Nat} {c : Cmd} (hop : c.op ≠ 0) (h : (s.collEngine k).relayed.length < 64) :
    s.hopRoom k c = true := by
  rw [State.hopRoom, if_neg hop, decide_eq_true h]

/-- The next unit of the exchange, which a neighbour on this module keeps and has sent, comes to an engine with room for it. -/
structure State.UnitComes (s : State) (k : Nat) (c : Cmd) (unit : List Byte) : Prop where
  cmd : s.collCmd k = some c
  exchanged : (s.collEngine k).exchanged = true
  due : (s.collEngine k).nextRecv < c.hopTotal
  length : unit.length = 64
  kept : ∀ p, s.localRank c (c.rankBefore 1) = some p →
    s.sameColl c (c.rankBefore 1) = true ∧ look p.unacked (s.collEngine k).nextRecv = some unit
  room : s.hopRoom k c = true

/-- A unit that is taken is acknowledged, and the engine goes on. -/
theorem State.UnitComes.exec_of_takeUnit {s s1 : State} {k : Nat} {c c1 : Cmd} {unit : List Byte} (h : s.UnitComes k c unit)
    (ht : s.takeUnit k c (s.collEngine k).nextRecv unit = (s1, .ok c1)) :
    exec (.collHopUnit k (s.collEngine k).nextRecv unit) s =
      .next (((s1.setHead (.coll k) c1).ackHop c (s.collEngine k).nextRecv).goOn k) := by
  have hroom := h.room
  rw [State.hopRoom] at hroom
  change execCollHopUnit k _ unit s = _
  simp only [execCollHopUnit, h.cmd, ht]
  rw [if_neg]
  rw [hroom]
  cases hr : s.localRank c (c.rankBefore 1) with
  | none => simp [h.exchanged, h.due, h.length]
  | some p =>
    obtain ⟨hsame, hlook⟩ := h.kept p hr
    simp [h.exchanged, h.due, h.length, hsame, hlook]

/-- The engine after it has taken unit n: what joins the incoming block, and what waits to be relayed. -/
def State.tookUnit (a : State) (k n ns : Nat) (inc : List Byte) (out : List (Nat × List Byte)) : State :=
  a.modColl k fun e => { e with nextRecv := n + 1, lastIn := ns, incoming := e.incoming ++ inc, relayed := e.relayed ++ out }

/-- The partials of a unit of reduce-scatter with this rank's own elements added (R381). -/
def Cmd.hopSums (c : Cmd) (unit own : List Byte) : List Nat :=
  ((if c.f32 then codes32 unit else codes16 unit).zip (codes16 own)).map fun p => addPartial c.f32 p.1 p.2

section
variable {s : State} {k : Nat} {c : Cmd} {n : Nat} {unit : List Byte}

theorem State.takeUnit_rotation (hop : c.op = 0) : s.takeUnit k c n unit = (s.tookUnit k n s.ns unit [], .ok c) := by
  simp only [State.takeUnit, hop, State.tookUnit, List.append_nil]

theorem State.takeUnit_gather {s1 : State} (hop : c.op = 2)
    (hw : s.cmdWrite (.coll k) c (wd c.c 6 + c.count * c.rankBefore (n / c.hopUnits + 1) + 64 * (n % c.hopUnits)) unit = (s1, none)) :
    let p := (s1.tookUnit k n s.ns [] (if n + c.hopUnits < c.hopTotal then [(n + c.hopUnits, unit)] else [])).delivered k c 64
    s.takeUnit k c n unit = (p.1, .ok p.2) := by
  by_cases hl : n + c.hopUnits < c.hopTotal
  · simp only [State.takeUnit, hop, hw, State.tookUnit, List.append_nil, if_pos hl, if_neg (Nat.not_le.mpr hl), ge_iff_le]
  · simp only [State.takeUnit, hop, hw, State.tookUnit, List.append_nil, if_neg hl, if_pos (Nat.not_lt.mp hl), ge_iff_le]

section
variable {s1 : State} {own : List Byte} (hop : c.op = 1)
  (hr : s.cmdRead (.coll k) c (c.chunkAddr (c.rankBefore (n / c.hopUnits + 2)) (n % c.hopUnits)) (2 * c.perHop) = (s1, .ok own))
include hop hr

theorem State.takeUnit_scatter (hl : n + c.hopUnits < c.hopTotal) : s.takeUnit k c n unit =
    (s1.tookUnit k n s.ns [] [(n + c.hopUnits, bytesOfCodes (if c.f32 then 4 else 2) (c.hopSums unit own))], .ok c) := by
  simp only [State.takeUnit, hop, hr, State.tookUnit, List.append_nil, Cmd.hopSums, if_neg (Nat.not_le.mpr hl), ge_iff_le]

theorem State.takeUnit_scatter_last {s2 : State} (hl : c.hopTotal ≤ n + c.hopUnits)
    (hw : s1.cmdWrite (.coll k) c (wd c.c 6 + 2 * c.perHop * (n % c.hopUnits)) (bytesOfCodes 2 ((c.hopSums unit own).map (resultOf c.f32))) = (s2, none)) :
    let p := (s2.tookUnit k n s.ns [] []).delivered k c (2 * c.perHop)
    s.takeUnit k c n unit = (p.1, .ok p.2) := by
  simp only [Cmd.hopSums] at hw
  simp only [State.takeUnit, hop, hr, hw, State.tookUnit, List.append_nil, if_pos hl, ge_iff_le]

end

end

section
variable {s : State} {k : Nat} {c : Cmd} (hc : s.collCmd k = some c)
include hc

/-! ### COLL_HOP_ACK (R383) -/

theorem State.head_of_collCmd : (s.collEngine k).cmds.q.head? = some c := (Option.filter_eq_some_iff.mp hc).1

theorem exec_collHopAck {n : Nat} (ha : s.localRank c (c.rankAfter 1) = none ∨ (s.collEngine k).acks.contains n = true)
    (hk : (look (s.collEngine k).unacked n).isSome = true) : exec (.collHopAck k n) s = .next
      ((s.modColl k fun e => { e with unacked := eraseKV e.unacked n, acks := e.acks.erase n, lastOut := s.ns }).goOn k) := by
  change execCollHopAck k n s = _
  simp only [execCollHopAck, State.head_of_collCmd hc]
  rw [if_neg]
  rcases ha with ha | ha
  · simp [ha, Option.isSome_iff_ne_none.mp hk]
  · rw [ha]
    simp [Option.isSome_iff_ne_none.mp hk]

/-! ### COLL_HOP_TIMEOUT (R383, R384, R393) -/

theorem exec_collHopTimeout_of_late (he : (s.collEngine k).exchanged = true)
    (hl : ((s.collEngine k).nextRecv < c.hopTotal ∧ (s.collEngine k).lastIn + gHto c.grp * 1000000 ≤ s.ns ∧
        s.rankPaused c (c.rankBefore 1) = false ∧ (s.collEngine k).inPaused = false) ∨
      ((s.collEngine k).unacked ≠ [] ∧ (s.collEngine k).lastOut + gHto c.grp * 1000000 ≤ s.ns ∧
        s.rankPaused c (c.rankAfter 1) = false ∧ (s.collEngine k).outPaused = false ∧ s.hopLossDue (s.collEngine k) = false)) :
    exec (.collHopTimeout k) s = .next (s.cmdFault (.coll k) c { code := 0x60 }) := by
  change execCollHopTimeout k s = _
  simp only [execCollHopTimeout, hc, he]
  rw [if_pos, State.collFault_eq_cmdFault _ _ _ (by decide)]
  rcases hl with ⟨hdue, hlate, hpause, hin⟩ | ⟨hdue, hlate, hpause, hout, hloss⟩
  · simp [hdue, hlate, hpause, hin]
  · simp [hdue, hlate, hpause, hout, hloss]

theorem exec_collHopTimeout_of_early (hin : s.ns < (s.collEngine k).lastIn + gHto c.grp * 1000000)
    (hout : s.ns < (s.collEngine k).lastOut + gHto c.grp * 1000000) : exec (.collHopTimeout k) s = .next s := by
  change execCollHopTimeout k s = _
  simp only [execCollHopTimeout, hc]
  rw [if_neg]
  simp [Nat.not_le.mpr hin, Nat.not_le.mpr hout]

/-! ### KV_STEP_WRITE (R382) -/

/-- The state in which step s's block stands in its slot and STEPC has risen: the engine works on the next step. -/
def State.kvStepped (s3 : State) (k stepc st ns : Nat) : State :=
  ((s3.atomicAt stepc .add .n64 1 0 false).1).modColl k fun g => { g with step := st + 1, incoming := [], lastIn := ns }

theorem exec_kvStepWrite {s1 s2 s3 : State} {da stepc : Nat} (hop : c.op = 0) (hst : (s.collEngine k).step < gNr c.grp)
    (hin : c.count ≤ (s.collEngine k).incoming.length) (hsent : ((s.collEngine k).step - 1) * c.hopUnits ≤ (s.collEngine k).nextSend)
    (hcons : s.cmdAcc (.coll k) c (wd c.grp 3) 8 .read = (s1, .ok da)) (hpsn : s1.memPsn da 8 = false)
    (hfree : (s.collEngine k).step ≤ ofBytes (s1.memGet da 8) + 2) (hstepc : s1.cmdAcc (.coll k) c (wd c.grp 2) 8 .atomic = (s2, .ok stepc))
    (hw : s2.cmdWrite (.coll k) c (wd c.c 6 + c.count * ((s.collEngine k).step % 2)) (s.collEngine k).incoming = (s3, none)) :
    let p := (s3.kvStepped k stepc (s.collEngine k).step s.ns).delivered k c c.count
    exec (.kvStepWrite k) s = .next ((p.1.setHead (.coll k) p.2).goOn k) := by
  change execKvStepWrite k s = _
  simp only [execKvStepWrite, hc, hcons, hpsn, hstepc, hw]
  rw [if_neg (by simp [hop, hst, hin, hsent]), if_neg Bool.false_ne_true, if_neg (Nat.not_lt.mpr hfree)]
  rfl

end

/-- Settles O46, step by step, a hop unit by what its operation makes of it. -/
theorem collectiveSteps : Obligations.CollectiveSteps := by
  intro s k c hc
  refine ⟨fun prev next he => ⟨State.tellHeader_of_told, State.told_tellHeader, exec_collStartExchange_of_equal hc he,
      fun p n => exec_collStartExchange_of_differ hc he, exec_collStartExchange_of_missing hc he⟩,
    fun n unit => exec_collHopUnit_of_other hc unit, fun unit he hdue hlen hkept => ?_, fun n => exec_collHopAck hc,
    ⟨exec_collHopTimeout_of_late hc, exec_collHopTimeout_of_early hc⟩, fun s1 s2 s3 da step => exec_kvStepWrite hc⟩
  have comes : s.hopRoom k c = true → s.UnitComes k c unit := fun hroom => ⟨hc, he, hdue, hlen, hkept, hroom⟩
  refine ⟨fun hop hroom => ?_, fun s1 hop hroom hw => ?_, fun s1 own hop hroom hr => ?_⟩
  · exact (comes (State.hopRoom_rotation hop hroom)).exec_of_takeUnit (State.takeUnit_rotation hop)
  · exact (comes (State.hopRoom_relay (by omega) hroom)).exec_of_takeUnit (State.takeUnit_gather hop hw)
  · have hrelay := comes (State.hopRoom_relay (by omega) hroom)
    exact ⟨fun hl => hrelay.exec_of_takeUnit (State.takeUnit_scatter hop hr hl),
      fun s2 hl hw => hrelay.exec_of_takeUnit (State.takeUnit_scatter_last hop hr hl hw)⟩

end Sys2Proof.Machine

namespace Sys2Proof.Machine

set_option Elab.async false

/-! ## Migrations (R386 to R391) -/

/-- A source that copies: no policy of it waits for its check, it has not notified, and its region stands. -/
structure State.Copies (s : State) (stream : Nat) (g : Migration) (r : Region) : Prop where
  stream : look s.dune.streams stream = some g
  source : g.atDest = false
  notified : g.notified = false
  policy : g.polWait = false
  region : s.region g.slot = some r
  stands : r.migFails g = none

section
variable {s : State} {stream : Nat} {g : Migration} {r : Region}

/-! ### Pages -/

/-- A page whose record can be read, and that moves, leaves the list and is counted. -/
theorem State.migPage_of_moves {s1 s2 : State} {i : Nat} {rest : List Nat} {w : List W64} (ht : g.todo = i :: rest)
    (hr : s.pageRec r g i = (s1, .ok w)) (hm : s1.movePage r w = (s2, none)) :
    s.migPage stream g r i = s2.modMig stream fun x => { x with todo := rest, units := x.units + pageUnits } := by
  simp only [State.migPage, hr, hm, ht, List.tail_cons]

section
variable {s1 : State} {i : Nat} {w : List W64} (hr : s.pageRec r g i = (s1, .ok w))
include hr

/-- A page of a round is copied once its leaf, if it has one, has been cleared in the round and the requests of that clearing have settled. -/
theorem State.roundPage_of_cleared (hl : ∀ l, s1.leafOf r.asid (recVa w) = some l → g.cleared.contains l.1 = true ∧ g.waits.all s1.reqSettled = true) :
    s.roundPage stream g r i = s1.migPage stream g r i := by
  simp only [State.roundPage, hr]
  cases hleaf : s1.leafOf r.asid (recVa w) with
  | none => rfl
  | some l =>
    obtain ⟨hc, hw⟩ := hl l hleaf
    simp only [hc, hw, if_true]

/-- The state in which a leaf has been cleared of D for the first time in a round. -/
def State.clearing (s2 : State) (stream : Nat) (l : Nat × Nat × Nat) (ws : List (Nat × Nat × Nat × Nat × Nat)) : State :=
  s2.modMig stream fun x => { x with cleared := x.cleared ++ [l.1], waits := ws }

theorem State.roundPage_of_clearing {s2 : State} {l : Nat × Nat × Nat} {ws : List (Nat × Nat × Nat × Nat × Nat)}
    (hl : s1.leafOf r.asid (recVa w) = some l) (hn : g.cleared.contains l.1 = false) (hc : s1.cleanLeaf r (recVa w) l = (s2, ws))
    (hw : ws.all (s2.clearing stream l ws).reqSettled = false) : s.roundPage stream g r i = s2.clearing stream l ws := by
  simp only [State.clearing] at hw ⊢
  simp only [State.roundPage, hr, hl, hn, hc, hw, Bool.false_eq_true, if_false]

end

/-! ### DUNE_PAGE_COPY (R387, R390) -/

section
variable (h : s.Copies stream g r)
include h

theorem exec_dunePageCopy_page {i : Nat} {rest : List Nat} (he : g.ending = false) (ht : g.todo = i :: rest) :
    exec (.dunePageCopy stream) s = .next (s.roundPage stream g r i) := by
  change execDunePageCopy stream s = _
  simp [execDunePageCopy, h.stream, h.source, h.notified, h.policy, h.region, h.stands, he, ht]

theorem exec_dunePageCopy_roundEnd (he : g.ending = false) (ht : g.todo = []) :
    exec (.dunePageCopy stream) s = .next (s.roundEnd stream g r) := by
  change execDunePageCopy stream s = _
  simp [execDunePageCopy, h.stream, h.source, h.notified, h.policy, h.region, h.stands, he, ht]

section
variable (he : g.ending = true) (hf : r.state = .frozen)
include he hf

theorem exec_dunePageCopy_save (hs : g.saved = false) : exec (.dunePageCopy stream) s = .next (s.migSave stream g r) := by
  change execDunePageCopy stream s = _
  simp [execDunePageCopy, h.stream, h.source, h.notified, h.policy, h.region, h.stands, he, hf, hs]

theorem exec_dunePageCopy_remaining {i : Nat} {rest : List Nat} (hs : g.saved = true) (hm : migMode g.m = 0) (ht : g.todo = i :: rest) :
    exec (.dunePageCopy stream) s = .next (s.migPage stream g r i) := by
  change execDunePageCopy stream s = _
  simp [execDunePageCopy, h.stream, h.source, h.notified, h.policy, h.region, h.stands, he, hf, hs, hm, ht]

end

end

theorem State.roundEnd_of_last (hl : g.round = migRounds g.m ∨ (s.dirtyRecs g r).length ≤ migDirty g.m) :
    s.roundEnd stream g r = (s.modMig stream fun x => { x with todo := s.dirtyRecs g r, ending := true }).migFreeze g.slot :=
  if_pos hl

theorem State.roundEnd_of_more (hn : g.round ≠ migRounds g.m) (hd : migDirty g.m < (s.dirtyRecs g r).length) :
    s.roundEnd stream g r =
      s.modMig stream fun x => { x with todo := s.dirtyRecs g r, round := g.round + 1, cleared := [], waits := [] } :=
  if_neg (not_or.mpr ⟨hn, Nat.not_le.mpr hd⟩)

theorem State.migSave_of_written {s1 : State} (hw : s.physWrite (s.migWho r) .write
      (piecesOf (2 ^ 60 + migDsav g.m) (r.saveBytes g.slot 1).length) (r.saveBytes g.slot 1) = (s1, none)) :
    s.migSave stream g r = ((s1.stopTrace g.slot).sendSessions g r).modMig stream fun x => { x with saved := true } := by
  simp only [State.migSave, hw]

/-! ### POSTCOPY_PUSH (R388) -/

section
variable (hg : look s.dune.streams stream = some g) (hd : g.atDest = false) (hr : s.region g.slot = some r) (hn : g.notified = true)
include hg hd hr hn

theorem exec_postcopyPush {i : Nat} {rest : List Nat} (ht : g.todo = i :: rest) :
    exec (.postcopyPush stream) s = .next (s.pushPage stream g r i) := by
  change execPostcopyPush stream s = _
  simp [execPostcopyPush, hg, hd, hr, hn, ht]

theorem exec_postcopyPush_done (ht : g.todo = []) : exec (.postcopyPush stream) s = .next (s.endMigration stream g 0) := by
  change execPostcopyPush stream s = _
  simp [execPostcopyPush, hg, hd, hr, hn, ht]

end

/-- A migration with the pages that are left: it ends with the last of them. -/
def State.leaves (s : State) (stream : Nat) (g1 : Migration) : State :=
  if g1.todo.isEmpty then s.endMigration stream g1 0 else s.modMig stream fun _ => g1

theorem State.leaves_of_last {g1 : Migration} (h : g1.todo = []) : s.leaves stream g1 = s.endMigration stream g1 0 :=
  if_pos (List.isEmpty_iff.mpr h)

theorem State.leaves_of_more {g1 : Migration} (h : g1.todo ≠ []) : s.leaves stream g1 = s.modMig stream fun _ => g1 :=
  if_neg (mt List.isEmpty_iff.mp h)

theorem State.pushPage_of_moves {s1 s2 s3 : State} {i : Nat} {rest : List Nat} {w : List W64} (ht : g.todo = i :: rest)
    (hr : s.pageRec r g i = (s1, .ok w)) (hm : s1.movePage r w = (s2, none))
    (hw : s2.physWrite (migSelf r) .write [(2 ^ 60 + migModule g.m * 2 ^ 47 + fld (wd w 2) 46 3 * 8, 8)] (toBytes 8 (wd w 3)) = (s3, none)) :
    s.pushPage stream g r i = s3.leaves stream { g with todo := rest, units := g.units + pageUnits } := by
  have hleft : ({ g with todo := g.todo.erase i, units := g.units + pageUnits } : Migration) =
      { g with todo := rest, units := g.units + pageUnits } := by rw [ht, List.erase_cons_head]
  rw [← hleft]
  fun_cases State.pushPage s stream g r i
  next hr' => cases hr.symm.trans hr'
  next hr' _ _ hm' =>
    cases hr.symm.trans hr'
    cases hm.symm.trans hm'
  next hr' _ hm' _ _ _ hw' =>
    cases hr.symm.trans hr'
    cases hm.symm.trans hm'
    cases hw.symm.trans hw'
  next hr' _ hm' _ _ hw' _ hl =>
    cases hr.symm.trans hr'
    cases hm.symm.trans hm'
    cases hw.symm.trans hw'
    exact (if_pos hl).symm
  next hr' _ hm' _ _ hw' _ hl =>
    cases hr.symm.trans hr'
    cases hm.symm.trans hm'
    cases hw.symm.trans hw'
    exact (if_neg hl).symm

/-! ### POSTCOPY_DEMAND_PULL (R388, R391) -/

/-- The destination's part of a migration after a page of its list has come; an attempt to pull that page is over. -/
def Migration.arrived (g : Migration) (rec : Nat) : Migration :=
  let mine := (g.pull.map fun p => p.1 == rec).getD false
  { g with todo := g.todo.filter (· != rec), units := g.units + pageUnits, pull := if mine then none else g.pull
           attempts := if mine then 0 else g.attempts }

theorem exec_postcopyDemandPull {s1 s3 : State} {rec : Nat} {page : PageIn} (hg : look s.dune.streams stream = some g) (hd : g.atDest = true)
    (ht : g.todo.contains rec = true) (hc : s.check (s.destWho g) (fld (wd (g.recs.getD rec []) 1) 59 16 * 65536) .write 65536 = (s1, none))
    (hw : let s2 := s1.putPage (fld (wd (g.recs.getD rec []) 1) 59 16 * 65536) page.bytes page.marked
      s2.physWrite { s2.destWho g with mid := 0 } .write [(fld (wd (g.recs.getD rec []) 2) 46 3 * 8, 8)]
        (toBytes 8 (wd (g.recs.getD rec []) 3)) = (s3, none)) :
    exec (.postcopyDemandPull stream rec page) s = .next ((List.range 8).foldl State.goOn (s3.leaves stream (g.arrived rec))) := by
  dsimp only at hw
  change execPostcopyDemandPull stream rec page s = _
  simp only [execPostcopyDemandPull, hg, hc, hw]
  rw [if_neg (by rw [hd, ht]; decide)]
  rfl

/-! ### PULL_ATTEMPT_TIMEOUT (R389) -/

/-- The module that a destination's migration pulls from has no route to it that is up. -/
def State.noRouteBack (s : State) (g : Migration) : Prop := s.routeTo (((s.migTarget g).map (·.2.part)).getD 0) g.src = some none

section
variable {i t0 : Nat} (hg : look s.dune.streams stream = some g) (hp : g.pull = some (i, t0))
include hg hp

theorem exec_pullAttemptTimeout_of_early (ht : s.ns < t0 + 1000 * migTimeout g.m) : exec (.pullAttemptTimeout stream) s = .next s := by
  change execPullAttemptTimeout stream s = _
  simp only [execPullAttemptTimeout, hg, hp]
  rw [if_pos (by simp [ht])]

variable (hd : g.atDest = true) (ht : t0 + 1000 * migTimeout g.m ≤ s.ns)
include hd ht

theorem exec_pullAttemptTimeout_of_again (ha : g.attempts + 1 < migTries g.m) (hr : ¬ s.noRouteBack g) :
    exec (.pullAttemptTimeout stream) s = .next (s.modMig stream fun x => { x with pull := some (i, s.ns), attempts := g.attempts + 1 }) := by
  change execPullAttemptTimeout stream s = _
  simp only [execPullAttemptTimeout, hg, hp]
  rw [if_neg (by simp [hd, ht]), if_neg]
  rw [Bool.or_eq_true, decide_eq_true_eq, beq_iff_eq]
  exact not_or.mpr ⟨Nat.not_le.mpr ha, hr⟩

theorem exec_pullAttemptTimeout_of_lost (hl : migTries g.m ≤ g.attempts + 1 ∨ s.noRouteBack g) :
    exec (.pullAttemptTimeout stream) s = .next (s.pageLost stream g) := by
  change execPullAttemptTimeout stream s = _
  simp only [execPullAttemptTimeout, hg, hp]
  rw [if_neg (by simp [hd, ht]), if_pos]
  rw [Bool.or_eq_true, decide_eq_true_eq, beq_iff_eq]
  exact hl

end

end

/-- Settles O47, by the phase that a source's migration is in and by what comes to its destination. -/
theorem migrationSteps : Obligations.MigrationSteps := by
  intro s stream g hg
  refine ⟨fun r hd hr => ⟨fun hn hp hf => ?_, fun hn => ⟨fun i rest w s1 s2 s3 ht hrec hm hw => ?_, exec_postcopyPush_done hg hd hr hn⟩⟩,
    fun rec page s1 s3 hd ht => ?_, fun i t0 hd hp => ⟨exec_pullAttemptTimeout_of_early hg hp, exec_pullAttemptTimeout_of_again hg hp hd,
      exec_pullAttemptTimeout_of_lost hg hp hd⟩⟩
  · have h : s.Copies stream g r := ⟨hg, hd, hn, hp, hr, hf⟩
    refine ⟨fun i rest w s1 he ht hrec => ⟨fun s2 hl hrec1 hm => ?_, fun l s2 ws hl hc hcl hw => ?_⟩, fun he ht => ⟨fun hl => ?_, fun hround hdirty => ?_⟩,
      fun he hfr => ⟨fun s1 hs hw => ?_, fun i rest w s1 s2 hs hmode ht hrec hm => ?_⟩⟩
    · rw [exec_dunePageCopy_page h he ht, State.roundPage_of_cleared hrec hl, State.migPage_of_moves ht hrec1 hm]
    · rw [exec_dunePageCopy_page h he ht]
      exact congrArg Host.Outcome.next (State.roundPage_of_clearing hrec hl hc hcl hw)
    · rw [exec_dunePageCopy_roundEnd h he ht, State.roundEnd_of_last hl]
    · rw [exec_dunePageCopy_roundEnd h he ht, State.roundEnd_of_more hround hdirty]
    · rw [exec_dunePageCopy_save h he hfr hs, State.migSave_of_written hw]
    · rw [exec_dunePageCopy_remaining h he hfr hs hmode ht, State.migPage_of_moves ht hrec hm]
  · rw [exec_postcopyPush hg hd hr hn ht, State.pushPage_of_moves ht hrec hm hw]
    exact ⟨fun hl => congrArg Host.Outcome.next (State.leaves_of_last hl), fun hl => congrArg Host.Outcome.next (State.leaves_of_more hl)⟩
  · intro w dst hc s2 hw
    rw [exec_postcopyDemandPull hg hd ht hc hw]
    exact ⟨fun hl => by rw [State.leaves_of_last (g1 := g.arrived rec) hl]; rfl, fun hl => by rw [State.leaves_of_more (g1 := g.arrived rec) hl]; rfl⟩

end Sys2Proof.Machine

namespace Sys2Proof.Machine

set_option Elab.async false

/-! ## Reset and the environment's turns (R449, log entries 1, 74, 122) -/

/-- Settles O9: nothing is listed in memory at reset. -/
theorem resetMeetsInvariant : Obligations.ResetMeetsInvariant := wf_nil

section
variable {s : State} {rest : List Turn}

theorem step_of_event {i : Instr} (ha : s.agenda = .event i :: rest) :
    step s = settled (pulled { s with agenda := rest } (exec i { s with agenda := rest })) := by
  rw [step, turn, ha]

theorem step_of_hart {h : Nat} (ha : s.agenda = .hart h :: rest) :
    step s = settled (pulled { s with agenda := rest, cur := h } (hartStep { s with agenda := rest, cur := h })) := by
  rw [step, turn, ha]

theorem step_of_tick {ns : Nat} (ha : s.agenda = .tick ns :: rest) :
    step s = .next (State.tick { s with agenda := rest } ns).settleRegs := by
  rw [step, turn, ha]
  rfl

/-- With no turn left and the current core off, time passes. -/
theorem step_of_off (ha : s.agenda = []) (hoff : (s.hart s.cur).on = false) : step s = .next (s.tick 1).settleRegs := by
  rw [step, turn, ha]
  dsimp only
  rw [if_neg (ne_true_of_eq_false hoff)]
  rfl

end

/-- Settles O6, by the turn that comes first. -/
theorem stepRunsEvents : Obligations.StepRunsEvents := by
  refine fun s rest => ⟨fun i ha => ⟨step_of_event ha, fun t ht hasked => ?_⟩, fun h => step_of_hart, fun ns => step_of_tick, step_of_off⟩
  rw [step_of_event ha, ht, pulled_next_of_none _ t hasked]

end Sys2Proof.Machine

namespace Sys2Proof.Machine

set_option Elab.async false

/-! ## How a form ends (R102, R239 to R242)

Reset, what retiring writes, and the forms that only ask: the queries, the fences and the refusals. -/

/-- Settles O8: every part named has its default. -/
theorem resetLeaves : Obligations.ResetLeaves := by
  refine ⟨fun h hh => ?_, fun _ => ⟨rfl, rfl⟩, fun _ => rfl, rfl, rfl, rfl, rfl, rfl⟩
  have hart : State.reset.hart h = {} := List.getD_replicate _ hh
  rw [hart]
  exact ⟨rfl, rfl, rfl⟩

/-- A write of a register touches the registers alone. -/
theorem Hart.setReg_frame (c : Hart) (r : BitVec 5) (v : Nat) : c.setReg r v = { c with x := (c.setReg r v).x } := by
  unfold Hart.setReg
  split <;> rfl

/-- The core of a form that retires. -/
theorem State.hart_retire {s : State} (hl : s.cur < s.harts.length) (rd : BitVec 5) (v : Nat) :
    (s.retire rd v).hart s.cur = { (s.hart s.cur).setReg rd v with pc := (s.hart s.cur).pc + 4, wait := .none } :=
  s.hart_modHart s.cur _ hl

/-- Settles O13, from the one write of the core. -/
theorem retireWrites : Obligations.RetireWrites := by
  intro s rd v hl hx c d
  have hd : d = { c.setReg rd v with pc := c.pc + 4, wait := .none } := State.hart_retire hl rd v
  have hreg (q : BitVec 5) : d.reg q = (c.setReg rd v).reg q := by rw [hd]; rfl
  refine ⟨fun h0 => (hreg rd).trans (c.reg_setReg rd v h0 hx), d.reg_zero, fun q hq => (hreg q).trans (c.reg_setReg_ne v hq), ?_, ?_,
    fun k hk => s.hart_modHart_ne _ hk, rfl⟩
  · rw [hd]
  · rw [hd, c.setReg_frame rd v]

/-! ### The course of a form -/

theorem form_of_high {s : State} (hm : (s.hart s.cur).mode.high = true) (hsOnly : Bool) (w : Nat) (rd : BitVec 5) (body : State → FormEnd) :
    form s hsOnly w rd body = (body s).finish s rd := by
  simp [form, formMode, hm]

theorem withRegion_of_error {s : State} {h : Nat} {e : Refuse} (hh : s.byHandle h s.guestTid = .error e) (k : Nat → Region → FormEnd) :
    withRegion s h k = refuse s e := by
  rw [withRegion, hh]

theorem withBlock_of_load {s s1 : State} {phys : Bool} {va n : Nat} {bs : List Byte} (h : s.formLoad phys va n = (s1, .ok bs))
    (k : State → List W64 → FormEnd) : withBlock s phys va n k = k s1 (words64 (n / 8) bs) := by
  rw [withBlock, h]

theorem withBarrier_of_piece {s s1 : State} {a : HartAcc} {va pa : Nat} (h : s.hartPiece s.cur a false va 32 = (s1, .ok pa))
    (k : State → Nat → FormEnd) : withBarrier s a va k = k s1 (s1.domainOf pa) := by
  rw [withBarrier, h]

/-- A refusal word without low bits is bit 63 and the code (R240). -/
theorem refuseWord_eq_code (c : Refuse) : refuseWord c = 2 ^ 63 + c.code * 2 ^ 56 := by
  cases c <;> rfl

/-- How a form ends that is refused. -/
theorem finish_refuse (s t : State) (rd : BitVec 5) (c : Refuse) : (refuse t c).finish s rd = t.retire rd (2 ^ 63 + c.code * 2 ^ 56) := by
  rw [refuse, refuseWord_eq_code, FormEnd.finish]

/-! ### Handles and alignment (R240, R250) -/

theorem State.byHandle_badArg {s : State} {h : Nat} (tid : Option Nat) (hh : fld h 63 32 ≠ 0 ∨ fld h 15 9 ≠ 0) : s.byHandle h tid = .error .badArg := by
  have hb : (fld h 63 32 != 0 || fld h 15 9 != 0) = true := by simpa using hh
  rw [State.byHandle, if_pos hb]

theorem State.byHandle_noHandle {s : State} {h : Nat} (tid : Option Nat) (h1 : fld h 63 32 = 0) (h2 : fld h 15 9 = 0)
    (hg : ∀ r, s.region (fld h 8 0) = some r → r.gen ≠ fld h 31 16) : s.byHandle h tid = .error .noHandle := by
  have hb : ¬ (fld h 63 32 != 0 || fld h 15 9 != 0) = true := by simp [h1, h2]
  rw [State.byHandle, if_neg hb]
  dsimp only
  split
  · next r hr => rw [if_pos (bne_iff_ne.mpr (hg r hr))]
  · rfl

/-- A form that looks its handle up first answers with the handle's refusal. -/
theorem form_of_bad_handle {s : State} {rs1 : BitVec 5} {e : Refuse} (hm : (s.hart s.cur).mode.high = true)
    (hh : s.byHandle (s.xreg rs1) s.guestTid = .error e) (hsOnly : Bool) (w : Nat) (rd : BitVec 5) (k : State → Nat → Region → FormEnd) :
    form s hsOnly w rd (fun s => withRegion s (s.xreg rs1) (k s)) = s.retire rd (2 ^ 63 + e.code * 2 ^ 56) := by
  rw [form_of_high hm, withRegion_of_error hh, finish_refuse]

/-- A form that checks an address first gives ALIGN. -/
theorem form_of_misaligned {s : State} {r : BitVec 5} {n : Nat} {hsOnly : Bool} (hm : hsOnly = false ∨ (s.hart s.cur).mode.high = true)
    (h : s.xreg r % n ≠ 0) (w : Nat) (rd : BitVec 5) (k : State → FormEnd) :
    form s hsOnly w rd (fun s => if s.xreg r % n != 0 then refuse s .align else k s) = s.retire rd (2 ^ 63 + 11 * 2 ^ 56) := by
  have hbody : form s hsOnly w rd (fun s => if s.xreg r % n != 0 then refuse s .align else k s) = (refuse s .align).finish s rd := by
    rcases hm with rfl | hm
    · rw [form_every_mode, if_pos (bne_iff_ne.mpr h)]
    · rw [form_of_high hm, if_pos (bne_iff_ne.mpr h)]
  rw [hbody, finish_refuse]
  rfl

/-- The forms that take a region's handle in rs1 answer with its refusal. -/
theorem exec_of_bad_handle {s : State} {rs1 : BitVec 5} {e : Refuse} (hm : (s.hart s.cur).mode.high = true)
    (hh : s.byHandle (s.xreg rs1) s.guestTid = .error e) (rd rs2 : BitVec 5) :
    let no (i : Instr) : Prop := exec i s = .next (s.retire rd (2 ^ 63 + e.code * 2 ^ 56))
    (s.xreg rs2 < 2 → no (.rgngo rd rs1 rs2)) ∧ no (.rgndrn rd rs1 rs2) ∧ no (.rgnqry rd rs1 rs2) ∧ no (.strmqCommand rd rs1 rs2) ∧
      no (.sarm rd rs1 rs2) ∧ no (.trcoff rd rs1) := by
  refine ⟨fun hf => ?_, congrArg Host.Outcome.next (form_of_bad_handle hm hh ..), congrArg Host.Outcome.next (form_of_bad_handle hm hh ..),
    congrArg Host.Outcome.next (form_of_bad_handle hm hh ..), congrArg Host.Outcome.next (form_of_bad_handle hm hh ..),
    congrArg Host.Outcome.next (form_of_bad_handle hm hh ..)⟩
  change execRgngo rd rs1 rs2 s = _
  simp only [execRgngo, form_of_high hm, if_neg (Nat.not_le.mpr hf), withRegion_of_error hh, finish_refuse]

/-- Settles O18: what a form checks first, the handle or the alignment, decides its answer. -/
theorem handleAndAlignmentRefusals : Obligations.HandleAndAlignmentRefusals := by
  intro s rd rs1 rs2 no
  have align {i : Instr} {r : BitVec 5} {n w : Nat} {k : State → FormEnd} {hsOnly : Bool} (hm : hsOnly = false ∨ (s.hart s.cur).mode.high = true)
      (hi : exec i s = .next (form s hsOnly w rd fun s => if s.xreg r % n != 0 then refuse s .align else k s)) (h : s.xreg r % n ≠ 0) : no i 11 :=
    hi.trans (congrArg Host.Outcome.next (form_of_misaligned hm h w rd k))
  refine ⟨fun hm => ⟨fun hbad => exec_of_bad_handle hm (State.byHandle_badArg _ hbad) rd rs2,
      fun h1 h2 hg => exec_of_bad_handle hm (State.byHandle_noHandle _ h1 h2 hg) rd rs2,
      fun h => ⟨align (.inr hm) rfl h, align (.inr hm) rfl h⟩, align (.inr hm) rfl⟩,
    fun h => ⟨align (.inl rfl) rfl h, align (.inl rfl) rfl h⟩, fun h => ⟨align (.inl rfl) rfl h, align (.inl rfl) rfl h, align (.inl rfl) rfl h⟩,
    fun h => ⟨align (.inl rfl) rfl h, align (.inl rfl) rfl h, align (.inl rfl) rfl h, align (.inl rfl) rfl h, align (.inl rfl) rfl h⟩, fun h => ?_⟩
  change execTrcon rd rs1 rs2 s = _
  have hx : s.dropTraceClaim.xreg rs2 % 64 ≠ 0 := h
  simp only [execTrcon, form_every_mode, if_pos (bne_iff_ne.mpr hx), finish_refuse]
  rfl

/-! ### RGNQRY (R253) -/

/-- The fields of the state word. -/
theorem Region.stateWord_fields (r : Region) :
    fld r.stateWord 3 0 = r.state.code ∧ bitN r.stateWord 4 = r.run ∧ bitN r.stateWord 5 = r.shadowOf.isSome ∧ bitN r.stateWord 7 = r.stp ∧
      fld r.stateWord 15 8 = r.lastFault % 256 ∧ fld r.stateWord 51 40 = r.asid % 4096 ∧ r.stateWord < 2 ^ 55 := by
  have hcode : r.state.code < 8 := by cases r.state <;> decide
  have hbit (b : Bool) (i : Nat) : put i i (b2n b) = b2n b * 2 ^ i := by cases b <;> simp [put, b2n]
  have hb2n (b : Bool) : b2n b < 2 := b2n_lt (by decide) b
  have hback (b : Bool) : (b2n b == 1) = b := b2n_beq_one b
  have hrun := hb2n r.run
  have hshd := hb2n r.shadowOf.isSome
  have hnr := hb2n r.nonReplayable
  have hstp := hb2n r.stp
  simp only [Region.stateWord, bitN, hbit]
  generalize b2n r.nonReplayable = nr at *
  refine ⟨?_, ?_, ?_, ?_, ?_, ?_, ?_⟩
  · simp only [fld, put]; omega
  · conv_rhs => rw [← hback r.run]
    simp only [put]; congr 1; omega
  · conv_rhs => rw [← hback r.shadowOf.isSome]
    simp only [put]; congr 1; omega
  · conv_rhs => rw [← hback r.stp]
    simp only [put]; congr 1; omega
  · simp only [fld, put]; omega
  · simp only [fld, put]; omega
  · simp only [put]; omega

section
variable {s : State} {rs1 rs2 : BitVec 5} {slot : Nat} {r : Region} (hh : s.byHandle (s.xreg rs1) s.guestTid = .ok (slot, r))
include hh

/-- A selector that the mode may use retires with its word, or with BADARG where there is none. -/
theorem exec_rgnqry (hv : (s.hart s.cur).mode.virt = false ∨ (s.xreg rs2 ≠ 2 ∧ s.xreg rs2 ≠ 3)) (rd : BitVec 5) :
    exec (.rgnqry rd rs1 rs2) s = .next (s.retire rd ((r.query slot (s.xreg rs2)).getD (2 ^ 63 + 2 ^ 56))) := by
  have hd : ((s.hart s.cur).mode.virt && (decide (s.xreg rs2 = 2) || decide (s.xreg rs2 = 3))) = false := by
    rcases hv with h | ⟨h2, h3⟩ <;> simp [*]
  change execRgnqry rd rs1 rs2 s = _
  simp only [execRgnqry, form_every_mode, withRegion_of_byHandle hh, hd, Bool.false_eq_true, if_false]
  cases r.query slot (s.xreg rs2) with
  | some v => rfl
  | none => rw [finish_refuse]; rfl

theorem exec_rgnqry_denied (hv : (s.hart s.cur).mode.virt = true) (hsel : s.xreg rs2 = 2 ∨ s.xreg rs2 = 3) (rd : BitVec 5) :
    exec (.rgnqry rd rs1 rs2) s = .next (s.retire rd (2 ^ 63 + 5 * 2 ^ 56)) := by
  have hd : ((s.hart s.cur).mode.virt && (decide (s.xreg rs2 = 2) || decide (s.xreg rs2 = 3))) = true := by simpa [hv] using hsel
  change execRgnqry rd rs1 rs2 s = _
  simp only [execRgnqry, form_every_mode, withRegion_of_byHandle hh, hd, if_true, finish_refuse]
  rfl

end

/-- Settles O17, selector by selector. -/
theorem regionQueryWords : Obligations.RegionQueryWords := by
  intro s rd rs1 rs2 slot r hh virt
  have answer {sel v : Nat} (hsel : s.xreg rs2 = sel) (hok : virt = false ∨ (sel ≠ 2 ∧ sel ≠ 3)) (hq : r.query slot sel = some v) :
      exec (.rgnqry rd rs1 rs2) s = .next (s.retire rd v) := by
    subst hsel
    rw [exec_rgnqry hh hok, hq, Option.getD_some]
  refine ⟨fun h => ⟨r.stateWord, answer h (.inr (by decide)) rfl, r.stateWord_fields⟩, fun h => answer h (.inr (by decide)) rfl,
    fun h => answer h (.inr (by decide)) rfl, fun h hv hs => answer h (.inl hv) (by simp [Region.query, hs]), fun h hv => exec_rgnqry_denied hh hv h rd,
    fun h => ?_⟩
  have hq : r.query slot (s.xreg rs2) = none := by
    unfold Region.query
    split
    case h_6 => rfl
    all_goals omega
  rw [exec_rgnqry hh (.inr (by omega)), hq, Option.getD_none]

/-! ### Tickets (R244, R263) -/

section
variable {s : State} {t cls : Nat}

/-- How CPYQ and COLLQ end, by the ticket's class and what the ticket names. -/
theorem queryForm_of_class {w : Nat} (h0 : fld t 63 52 = 0) (hc : fld t 51 48 = cls) (hw : s.cmdState t s.guestTid = .ok w) :
    queryForm s t cls = .ret w s := by
  simp only [queryForm, h0, hc, hw, bne_self_eq_false, Bool.or_self, Bool.false_eq_true, if_false]

theorem queryForm_of_not_held (h0 : fld t 63 52 = 0) (hc : fld t 51 48 = cls) (hw : s.cmdState t s.guestTid = .error .notFound) :
    queryForm s t cls = refuse s .notFound := by
  simp only [queryForm, h0, hc, hw, bne_self_eq_false, Bool.or_self, Bool.false_eq_true, if_false]

theorem queryForm_of_bad (h : fld t 63 52 ≠ 0 ∨ fld t 51 48 ≠ cls) : queryForm s t cls = refuse s .badArg := by
  have hb : (fld t 63 52 != 0 || fld t 51 48 != cls) = true := by simpa using h
  rw [queryForm, if_pos hb]

end

/-- How DUNEQ ends, by its ticket. -/
theorem exec_duneq {s : State} {rs1 : BitVec 5} (hm : (s.hart s.cur).mode.high = true) (h0 : fld (s.xreg rs1) 63 52 = 0) (hc : fld (s.xreg rs1) 51 48 = 4)
    (hu : fld (s.xreg rs1) 47 32 = 0) (rd : BitVec 5) :
    exec (.duneq rd rs1) s = .next (s.retire rd (((s.dune.stateWord (fld (s.xreg rs1) 31 0)).map (·.2)).getD (2 ^ 63 + 12 * 2 ^ 56))) := by
  change execDuneq rd rs1 s = _
  simp only [execDuneq, form_of_high hm, h0, hc, hu, bne_self_eq_false, Bool.or_self, Bool.false_eq_true, if_false]
  cases s.dune.stateWord (fld (s.xreg rs1) 31 0) with
  | some p => rfl
  | none => dsimp only; rw [finish_refuse]; rfl

theorem exec_duneq_of_bad {s : State} {rs1 : BitVec 5} (hm : (s.hart s.cur).mode.high = true)
    (hb : fld (s.xreg rs1) 63 52 ≠ 0 ∨ fld (s.xreg rs1) 51 48 ≠ 4 ∨ fld (s.xreg rs1) 47 32 ≠ 0) (rd : BitVec 5) :
    exec (.duneq rd rs1) s = .next (s.retire rd (2 ^ 63 + 2 ^ 56)) := by
  have hb' : (fld (s.xreg rs1) 63 52 != 0 || fld (s.xreg rs1) 51 48 != 4 || fld (s.xreg rs1) 47 32 != 0) = true := by simpa [or_assoc] using hb
  change execDuneq rd rs1 s = _
  simp only [execDuneq, form_of_high hm, if_pos hb', finish_refuse]
  rfl

/-- Settles O26, by the class of the ticket and what it names. -/
theorem ticketQueryForms : Obligations.TicketQueryForms := by
  intro s rd rs1 t cls
  have cpyq {v : Nat} (h : (queryForm s t 2).finish s rd = s.retire rd v) : exec (.cpyq rd rs1) s = .next (s.retire rd v) := congrArg Host.Outcome.next h
  have collq {v : Nat} (h : (queryForm s t 3).finish s rd = s.retire rd v) : exec (.collq rd rs1) s = .next (s.retire rd v) := congrArg Host.Outcome.next h
  have bad {k : Nat} (h : fld t 63 52 ≠ 0 ∨ cls ≠ k) : (queryForm s t k).finish s rd = s.retire rd (2 ^ 63 + 2 ^ 56) := by
    rw [queryForm_of_bad h, finish_refuse]; rfl
  have gone {k : Nat} (h0 : fld t 63 52 = 0) (hw : s.cmdState t s.guestTid = .error .notFound) (hc : cls = k) :
      (queryForm s t k).finish s rd = s.retire rd (2 ^ 63 + 12 * 2 ^ 56) := by
    rw [queryForm_of_not_held h0 hc hw, finish_refuse]; rfl
  have held {k w : Nat} (h0 : fld t 63 52 = 0) (hw : s.cmdState t s.guestTid = .ok w) (hc : cls = k) : (queryForm s t k).finish s rd = s.retire rd w := by
    rw [queryForm_of_class h0 hc hw]; rfl
  refine ⟨fun h0 => ⟨fun w hw => ⟨fun hc => cpyq (held h0 hw hc), fun hc => collq (held h0 hw hc)⟩,
      fun hw => ⟨fun hc => cpyq (gone h0 hw hc), fun hc => collq (gone h0 hw hc)⟩, fun hc => cpyq (bad (.inr hc)), fun hc => collq (bad (.inr hc)),
      fun hm hc hu => ⟨fun tid w hw => ?_, fun hw => ?_⟩, fun hm hc => exec_duneq_of_bad hm (.inr hc) rd⟩,
    fun h0 => ⟨cpyq (bad (.inl h0)), collq (bad (.inl h0)), fun hm => exec_duneq_of_bad hm (.inl h0) rd⟩⟩
  · rw [exec_duneq hm h0 hc hu, hw]; rfl
  · rw [exec_duneq hm h0 hc hu, hw]; rfl

/-! ### Fences and the control-block cache (R264, R265) -/

section
variable {s : State} {rd rs1 rs2 : BitVec 5}

theorem exec_fencex (hf : fenceOk (s.xreg rs1) = true) :
    exec (.fencex rd rs1) s = .next (if bitN (s.xreg rs1) 8 && s.hartCmds s.cur then s else s.retire rd 0) := by
  change execFencex rd rs1 s = _
  simp only [execFencex, form_every_mode, hf, Bool.not_true, Bool.false_eq_true, if_false]
  split <;> rfl

/-- An address space of a CBINV or CBSYNC: BADARG beyond the ASIDs, DENIED where the caller may not use it. -/
def State.asidRefuse (s : State) (asid : Nat) : Option Refuse :=
  if 4096 ≤ asid then some .badArg else if !s.mayUse s.askHart asid then some .denied else none

theorem exec_cbinv : exec (.cbinv rd rs1 rs2) s = .next (match s.asidRefuse (s.xreg rs2) with
    | some e => s.retire rd (refuseWord e)
    | none => ({ s with cbcache := s.cbcache.filter fun e => !(e.1.1 == s.xreg rs1 && s.ownBlock (s.xreg rs2) e.1) } : State).retire rd 0) := by
  change execCbinv rd rs1 rs2 s = _
  simp only [execCbinv, form_every_mode, State.asidRefuse]
  split
  · rfl
  · split <;> rfl

theorem exec_cbsync : exec (.cbsync rd rs1) s = .next (match s.asidRefuse (s.xreg rs1) with
    | some e => s.retire rd (refuseWord e)
    | none => ({ s with cbcache := s.cbcache.filter fun e => !s.ownBlock (s.xreg rs1) e.1 } : State).retire rd 0) := by
  change execCbsync rd rs1 s = _
  simp only [execCbsync, form_every_mode, State.asidRefuse]
  split
  · rfl
  · split <;> rfl

variable {asid : Nat}

theorem State.asidRefuse_of_le (h : 4096 ≤ asid) : s.asidRefuse asid = some .badArg := if_pos h

theorem State.asidRefuse_of_mayUse (h : asid < 4096) (hu : s.mayUse s.askHart asid = true) : s.asidRefuse asid = none := by
  simp [State.asidRefuse, Nat.not_le.mpr h, hu]

theorem State.asidRefuse_of_not_mayUse (h : asid < 4096) (hu : s.mayUse s.askHart asid = false) : s.asidRefuse asid = some .denied := by
  simp [State.asidRefuse, Nat.not_le.mpr h, hu]

end

/-- Settles O27, from what each form checks. -/
theorem fenceAndCacheForms : Obligations.FenceAndCacheForms := by
  intro s rd rs1 rs2
  refine ⟨fun hf => ⟨fun h => ?_, fun h8 hc => ?_⟩, fun ha hu => ?_, fun ha hu => ?_, fun ha => ?_, fun ha hu => ?_, fun ha => ?_, fun ha hu => ?_⟩
  · have hn : (bitN (s.xreg rs1) 8 && s.hartCmds s.cur) = false := by rcases h with h | h <;> simp [h]
    rw [exec_fencex hf, hn]; rfl
  · rw [exec_fencex hf, h8, hc]; rfl
  · rw [exec_cbinv, State.asidRefuse_of_mayUse ha hu]
  · rw [exec_cbsync, State.asidRefuse_of_mayUse ha hu]
  · rw [exec_cbinv, State.asidRefuse_of_le ha]; rfl
  · rw [exec_cbinv, State.asidRefuse_of_not_mayUse ha hu]; rfl
  · rw [exec_cbsync, State.asidRefuse_of_le ha]; rfl
  · rw [exec_cbsync, State.asidRefuse_of_not_mayUse ha hu]; rfl

end Sys2Proof.Machine

namespace Sys2Proof.Machine

set_option Elab.async false

/-! ## Barriers (R257 to R259, R271)

The words of a barrier in memory, the sole writer's update of them, and the forms and steps that act on barriers. -/

/-! ### The words of a barrier (R257) -/

/-- A part of what was written reads as that part. -/
theorem memReadBytes_written_part {m : Memory} (a : Nat) (bs : List Byte) {off n : Nat} (hm : Memory.wf m = true) (h : off + n ≤ bs.length) :
    memReadBytes (memWriteBytes m a bs) (a + off) n = (bs.drop off).take n := by
  have hall := memReadBytes_written a bs hm
  have hsplit : bs.length = off + (n + (bs.length - off - n)) := by omega
  rw [hsplit, ← memReadBytes_append, ← memReadBytes_append] at hall
  conv_rhs => rw [← hall]
  rw [List.drop_left' (memReadBytes_length ..), List.take_left' (memReadBytes_length ..)]

theorem State.localKey_add (s : State) {a i : Nat} (ha : a % 32 = 0) (hi : i < 32) : s.localKey (a + i) = s.localKey a + i := by
  have hw : inHostWindow (a + i) = inHostWindow a := by
    unfold inHostWindow
    congr 1 <;> exact decide_eq_decide.mpr (by omega)
  have hslice : fld (a + i) 43 40 = fld a 43 40 := by unfold fld; omega
  unfold State.localKey
  rw [hw, hslice]
  split <;> omega

/-- An aligned block of 32 bytes lies in one piece in memory. -/
theorem State.memKey_add (s : State) {da i : Nat} (ha : da % 32 = 0) (hi : i < 32) : s.memKey (da + i) = s.memKey da + i := by
  have hq : (da + i) / 2 ^ 47 = da / 2 ^ 47 := by omega
  have hr : (da + i) % 2 ^ 47 = da % 2 ^ 47 + i := by omega
  unfold State.memKey State.localOf
  rw [hq, hr]
  split
  · exact s.localKey_add (by omega) hi
  · change 2 ^ 60 + (da + i) % 2 ^ 60 = 2 ^ 60 + da % 2 ^ 60 + i
    omega

theorem State.memKey_mod (s : State) {da : Nat} (ha : da % 32 = 0) : s.memKey da % 32 = 0 := by
  unfold State.memKey State.localOf
  split
  · simp only [Option.map_some, Option.getD_some, State.localKey]
    split <;> omega
  · change (2 ^ 60 + da % 2 ^ 60) % 32 = 0
    omega

/-- A barrier's address in the module's memory, not in its registers, in a canonical memory. -/
structure State.BarAt (s : State) (da : Nat) : Prop where
  inv : Inv s
  aligned : da % 32 = 0
  inMem : s.memKey da < regSpace ∨ 2 ^ 47 ≤ s.memKey da

theorem State.barWord_lt (s : State) (da i : Nat) : s.barWord da i < 2 ^ 64 := s.ofBytes_memGet_lt (da + 8 * i) 8

theorem State.barPut_frame (s : State) (da b0 b1 b2 b3 : Nat) :
    s.barPut da b0 b1 b2 b3 = { s with mem := (s.barPut da b0 b1 b2 b3).mem, poison := (s.barPut da b0 b1 b2 b3).poison,
                                       resv := (s.barPut da b0 b1 b2 b3).resv, regOps := (s.barPut da b0 b1 b2 b3).regOps } :=
  s.memPut_frame ..

theorem State.BarAt.barPut {s : State} {da : Nat} (h : s.BarAt da) (b0 b1 b2 b3 : Nat) : (s.barPut da b0 b1 b2 b3).BarAt da :=
  ⟨State.barPut_inv _ _ _ _ _ h.inv, h.aligned, by rw [State.barPut, State.memPut_memKey]; exact h.inMem⟩

/-- The bytes of one word among words laid end to end. -/
theorem bytesOf64_word {l : List W64} {i : Nat} (hi : i < l.length) : ((bytesOf64 l).drop (8 * i)).take 8 = toBytes 8 (l.getD i 0).toNat := by
  induction l generalizing i with
  | nil => exact absurd hi (Nat.not_lt_zero i)
  | cons w l ih =>
    have hb : bytesOf64 (w :: l) = toBytes 8 w.toNat ++ bytesOf64 l := rfl
    cases i with
    | zero => rw [hb]; exact List.take_left' (toBytes_length ..)
    | succ i =>
      rw [hb, show 8 * (i + 1) = 8 + 8 * i by omega, ← List.drop_drop, List.drop_left' (toBytes_length ..), List.getD_cons_succ]
      exact ih (by simpa using hi)

/-- The word of a barrier as memory holds it. -/
theorem State.BarAt.barWord_eq {s : State} {da : Nat} (h : s.BarAt da) {i : Nat} (hi : i < 4) :
    s.barWord da i = ofBytes (memReadBytes s.mem (s.localKey (s.memKey da + 8 * i)) 8) := by
  have hmod := s.memKey_mod h.aligned
  have hin := h.inMem
  have hmem : s.memKey da + 8 * i < regSpace ∨ 2 ^ 47 ≤ s.memKey da + 8 * i := by unfold regSpace at hin ⊢; omega
  rw [State.barWord, State.memGet, s.memKey_add h.aligned (by omega), State.bytesAt_mem hmem]

/-- States with one memory and one map of it hold the same words. -/
theorem State.BarAt.barWord_congr {s t : State} {da : Nat} (h : s.BarAt da) (ht : t.BarAt da) (hm : t.mem = s.mem) (hk : t.memKey da = s.memKey da)
    (hl : ∀ a, t.localKey a = s.localKey a) {i : Nat} (hi : i < 4) : t.barWord da i = s.barWord da i := by
  rw [h.barWord_eq hi, ht.barWord_eq hi, hm, hk, hl]

/-- The words of a barrier read as they were put. -/
theorem State.BarAt.barWord_barPut {s : State} {da : Nat} (h : s.BarAt da) (b0 b1 b2 b3 : Nat) {i : Nat} (hi : i < 4) :
    (s.barPut da b0 b1 b2 b3).barWord da i = [b0, b1, b2, b3].getD i 0 % 2 ^ 64 := by
  have hkey : (s.barPut da b0 b1 b2 b3).memKey (da + 8 * i) = s.memKey da + 8 * i := by
    rw [State.barPut, State.memPut_memKey, s.memKey_add h.aligned (by omega)]
  have hloc : (s.barPut da b0 b1 b2 b3).localKey (s.memKey da + 8 * i) = s.memKey da + 8 * i := by
    rw [← hkey, State.localKey_memKey]
  have hda : (s.barPut da b0 b1 b2 b3).memKey da = s.memKey da := State.memPut_memKey ..
  have hmem : (s.barPut da b0 b1 b2 b3).mem = memWriteBytes s.mem (s.memKey da) (bytesOf64 ([b0, b1, b2, b3].map (BitVec.ofNat 64))) := by
    rw [State.barPut, State.memPut_mem _ _ h.inMem]
  have hlen : (bytesOf64 ([b0, b1, b2, b3].map (BitVec.ofNat 64))).length = 32 := by simp [bytesOf64, toBytes_length]
  have hword : (([b0, b1, b2, b3].map (BitVec.ofNat 64)).getD i 0).toNat = [b0, b1, b2, b3].getD i 0 % 2 ^ 64 := by
    rw [List.getD_eq_getElem _ _ (by simpa using hi), List.getD_eq_getElem _ _ (by simpa using hi), List.getElem_map, BitVec.toNat_ofNat]
  rw [(h.barPut b0 b1 b2 b3).barWord_eq hi, hda, hloc, hmem, memReadBytes_written_part _ _ h.inv (by omega), bytesOf64_word (by simpa using hi), hword,
    ofBytes_toBytes]
  exact Nat.mod_mod _ _

/-- What is put at a barrier changes no byte beside it. -/
theorem State.memRead_barPut_out {s : State} {da a : Nat} (b0 b1 b2 b3 : Nat) (ha : a < s.memKey da ∨ s.memKey da + 32 ≤ a) :
    memRead (s.barPut da b0 b1 b2 b3).mem a = memRead s.mem a :=
  s.memPut_out _ false (by simpa [bytesOf64, toBytes_length] using ha)

/-! ### The sole writer's update (R258) -/

/-- ARR and PB are written, the other words kept. -/
def State.barWrote (s : State) (da arr pb : Nat) : State :=
  s.barPut da (s.barWord da 0) (s.barWord da 1 / 2 ^ 32 * 2 ^ 32 + arr % 2 ^ 32) (pb % 2 ^ 64) (s.barWord da 3)

theorem State.barSet_eq (s : State) (da arr pb : Nat) : s.barSet da arr pb = (s.barWrote da arr pb).barCheck da := rfl

section
variable {s : State} {da : Nat} (h : s.BarAt da) (arr pb : Nat)
include h

theorem State.BarAt.barWrote : (s.barWrote da arr pb).BarAt da := h.barPut ..

theorem State.BarAt.barWord_barWrote {i : Nat} (hi : i < 4) : (s.barWrote da arr pb).barWord da i =
    [s.barWord da 0, s.barWord da 1 / 2 ^ 32 * 2 ^ 32 + arr % 2 ^ 32, pb % 2 ^ 64, s.barWord da 3].getD i 0 % 2 ^ 64 := h.barWord_barPut _ _ _ _ hi

theorem State.BarAt.barWord0_barWrote : (s.barWrote da arr pb).barWord da 0 = s.barWord da 0 := by
  rw [h.barWord_barWrote _ _ (by decide), List.getD_cons_zero, Nat.mod_eq_of_lt (s.barWord_lt da 0)]

theorem State.BarAt.barWord1_barWrote : (s.barWrote da arr pb).barWord da 1 % 2 ^ 32 = arr % 2 ^ 32 := by
  rw [h.barWord_barWrote _ _ (by decide), List.getD_cons_succ, List.getD_cons_zero]
  omega

theorem State.BarAt.barWord2_barWrote : (s.barWrote da arr pb).barWord da 2 = pb % 2 ^ 64 := by
  rw [h.barWord_barWrote _ _ (by decide), List.getD_cons_succ, List.getD_cons_succ, List.getD_cons_zero, Nat.mod_mod]

theorem State.BarAt.barWord3_barWrote : (s.barWrote da arr pb).barWord da 3 = s.barWord da 3 := by
  rw [h.barWord_barWrote _ _ (by decide), List.getD_cons_succ, List.getD_cons_succ, List.getD_cons_succ, List.getD_cons_zero,
    Nat.mod_eq_of_lt (s.barWord_lt da 3)]

theorem State.BarAt.barPh_barWrote : (s.barWrote da arr pb).barPh da = s.barPh da := by
  rw [State.barPh, h.barWord0_barWrote]; rfl

/-- Where an arrival or a byte is missing, the phase goes on. -/
theorem State.BarAt.barSet_of_open (hc : ¬ (arr % 2 ^ 32 = s.barWord da 0 % 2 ^ 32 ∧ pb % 2 ^ 64 = 0)) : s.barSet da arr pb = s.barWrote da arr pb := by
  rw [State.barSet_eq, State.barCheck, h.barWord0_barWrote, h.barWord1_barWrote, h.barWord2_barWrote, if_neg hc]

/-- With every arrival in and no byte missing, the phase completes. -/
theorem State.BarAt.barSet_of_full (ha : arr % 2 ^ 32 = s.barWord da 0 % 2 ^ 32) (hp : pb % 2 ^ 64 = 0) :
    s.barSet da arr pb = (s.barWrote da arr pb).barComplete da false := by
  rw [State.barSet_eq, State.barCheck, h.barWord0_barWrote, h.barWord1_barWrote, h.barWord2_barWrote, if_pos ⟨ha, hp⟩]

end

theorem State.barWrote_frame (s : State) (da arr pb : Nat) :
    s.barWrote da arr pb = { s with mem := (s.barWrote da arr pb).mem, poison := (s.barWrote da arr pb).poison, resv := (s.barWrote da arr pb).resv,
                                    regOps := (s.barWrote da arr pb).regOps } :=
  s.barPut_frame ..

section
variable (s : State) (da arr pb : Nat)

@[simp] theorem State.barWrote_harts : (s.barWrote da arr pb).harts = s.harts := by rw [State.barWrote_frame]
@[simp] theorem State.barWrote_notifies : (s.barWrote da arr pb).notifies = s.notifies := by rw [State.barWrote_frame]
@[simp] theorem State.barWrote_pushes : (s.barWrote da arr pb).pushes = s.pushes := by rw [State.barWrote_frame]
@[simp] theorem State.barWrote_credits : (s.barWrote da arr pb).credits = s.credits := by rw [State.barWrote_frame]
@[simp] theorem State.barWrote_fc : (s.barWrote da arr pb).fc = s.fc := by rw [State.barWrote_frame]
@[simp] theorem State.barWrote_memKey (a : Nat) : (s.barWrote da arr pb).memKey a = s.memKey a := State.memPut_memKey ..

end

/-! ### complete(b, f) -/

/-- The first word once the phase is complete: PH flips, LFF says whether it failed. -/
def State.flipWord (s : State) (da : Nat) (f : Bool) : Nat := put 63 63 (b2n (!s.barPh da)) + put 62 62 (b2n f) + s.barWord da 0 % 2 ^ 62

/-- The words that a completed phase leaves. -/
def State.flipped (s : State) (da : Nat) (f : Bool) : State :=
  s.barPut da (s.flipWord da f) (s.barWord da 1 / 2 ^ 32 * 2 ^ 32) 0 ((s.barWord da 3 + 1) % 2 ^ 64)

theorem State.barComplete_eq (s : State) (da : Nat) (f : Bool) : s.barComplete da f =
    { s.flipped da f with harts := s.harts.map fun c => c.freed da (s.barPh da) s.fc, notifies := s.notifies.filter fun n => n.addr != da,
                          pushes := s.pushes ++ (s.notifies.filter fun n => n.addr == da).map fun n => n.push ((s.barWord da 3 + 1) % 2 ^ 64) f } := rfl

theorem State.flipped_frame (s : State) (da : Nat) (f : Bool) :
    s.flipped da f = { s with mem := (s.flipped da f).mem, poison := (s.flipped da f).poison, resv := (s.flipped da f).resv,
                              regOps := (s.flipped da f).regOps } := s.barPut_frame ..

section
variable (s : State) (da : Nat) (f : Bool)

theorem State.barComplete_harts : (s.barComplete da f).harts = s.harts.map fun c => c.freed da (s.barPh da) s.fc := by rw [State.barComplete_eq]
theorem State.barComplete_notifies : (s.barComplete da f).notifies = s.notifies.filter fun n => n.addr != da := by rw [State.barComplete_eq]
theorem State.barComplete_pushes : (s.barComplete da f).pushes =
    s.pushes ++ (s.notifies.filter fun n => n.addr == da).map fun n => n.push ((s.barWord da 3 + 1) % 2 ^ 64) f := by rw [State.barComplete_eq]
theorem State.barComplete_credits : (s.barComplete da f).credits = s.credits := by rw [State.barComplete_eq, State.flipped_frame]
theorem State.barComplete_fails : (s.barComplete da f).fails = s.fails := by rw [State.barComplete_eq, State.flipped_frame]

end

section
variable {s : State} {da : Nat} (f : Bool)

theorem State.memRead_barComplete_out {a : Nat} (ha : a < s.memKey da ∨ s.memKey da + 32 ≤ a) :
    memRead (s.barComplete da f).mem a = memRead s.mem a := by
  rw [State.barComplete_eq]
  exact State.memRead_barPut_out _ _ _ _ ha

/-- The fields of the first word. -/
theorem State.flipWord_fields (s : State) (da : Nat) (f : Bool) : s.flipWord da f < 2 ^ 64 ∧ bitN (s.flipWord da f) 63 = (!s.barPh da) ∧
    bitN (s.flipWord da f) 62 = f ∧ s.flipWord da f % 2 ^ 32 = s.barWord da 0 % 2 ^ 32 := by
  have hph : b2n (!s.barPh da) < 2 := b2n_lt (by decide) _
  have hf : b2n f < 2 := b2n_lt (by decide) _
  have hback (b : Bool) : (b2n b == 1) = b := b2n_beq_one b
  unfold State.flipWord
  refine ⟨?_, ?_, ?_, ?_⟩
  · simp only [put]; omega
  · conv_rhs => rw [← hback (!s.barPh da)]
    simp only [bitN, put]; congr 1; omega
  · conv_rhs => rw [← hback f]
    simp only [bitN, put]; congr 1; omega
  · simp only [put]; omega

variable (h : s.BarAt da)
include h

/-- The words of a barrier whose phase is complete. -/
theorem State.BarAt.barWord_barComplete {i : Nat} (hi : i < 4) : (s.barComplete da f).barWord da i =
    [s.flipWord da f, s.barWord da 1 / 2 ^ 32 * 2 ^ 32, 0, (s.barWord da 3 + 1) % 2 ^ 64].getD i 0 % 2 ^ 64 := by
  have hput : (s.flipped da f).BarAt da := h.barPut ..
  have hc : (s.barComplete da f).BarAt da := ⟨hput.inv, h.aligned, hput.inMem⟩
  rw [hput.barWord_congr hc rfl rfl (fun _ => rfl) hi]
  exact h.barWord_barPut _ _ _ _ hi

theorem State.BarAt.barWord0_barComplete : (s.barComplete da f).barWord da 0 = s.flipWord da f := by
  rw [h.barWord_barComplete f (by decide), List.getD_cons_zero, Nat.mod_eq_of_lt (s.flipWord_fields da f).1]

theorem State.BarAt.barPh_barComplete : (s.barComplete da f).barPh da = !s.barPh da := by
  obtain ⟨_, hph, _⟩ := s.flipWord_fields da f
  rw [State.barPh, h.barWord0_barComplete, hph]

theorem State.BarAt.barLff_barComplete : (s.barComplete da f).barLff da = f := by
  obtain ⟨_, _, hlff, _⟩ := s.flipWord_fields da f
  rw [State.barLff, h.barWord0_barComplete, hlff]

theorem State.BarAt.exp_barComplete : (s.barComplete da f).barWord da 0 % 2 ^ 32 = s.barWord da 0 % 2 ^ 32 := by
  obtain ⟨_, _, _, hexp⟩ := s.flipWord_fields da f
  rw [h.barWord0_barComplete, hexp]

theorem State.BarAt.arr_barComplete : (s.barComplete da f).barWord da 1 % 2 ^ 32 = 0 := by
  rw [h.barWord_barComplete f (by decide), List.getD_cons_succ, List.getD_cons_zero]
  omega

theorem State.BarAt.barWord2_barComplete : (s.barComplete da f).barWord da 2 = 0 := by
  rw [h.barWord_barComplete f (by decide), List.getD_cons_succ, List.getD_cons_succ, List.getD_cons_zero, Nat.zero_mod]

theorem State.BarAt.barPhc_barComplete : (s.barComplete da f).barPhc da = (s.barPhc da + 1) % 2 ^ 64 := by
  rw [State.barPhc, h.barWord_barComplete f (by decide), List.getD_cons_succ, List.getD_cons_succ, List.getD_cons_succ, List.getD_cons_zero, Nat.mod_mod,
    State.barPhc]

end

/-- Settles O23: the phase is complete where every arrival is in and no byte is missing, and goes on everywhere else. -/
theorem barrierPhaseRule : Obligations.BarrierPhaseRule := by
  intro s da arr pb hs ha hm harr hpb b0 phc t
  have h : s.BarAt da := ⟨hs, ha, hm⟩
  have hb := h.barWrote arr pb
  have harr' : arr % 2 ^ 32 = arr := Nat.mod_eq_of_lt harr
  have hpb' : pb % 2 ^ 64 = pb := Nat.mod_eq_of_lt hpb
  have hphc : (s.barWrote da arr pb).barPhc da = phc := h.barWord3_barWrote arr pb
  split
  next hc =>
    obtain ⟨h1, h2⟩ := hc
    have ht : t = (s.barWrote da arr pb).barComplete da false := h.barSet_of_full arr pb (harr'.trans h1) (hpb'.trans h2)
    refine ⟨?_, ?_, ?_, ?_, ?_, ?_, ?_, ?_, ?_⟩
    · rw [ht, hb.barPh_barComplete, h.barPh_barWrote]
    · rw [ht, hb.barLff_barComplete]
    · rw [ht, hb.exp_barComplete, h.barWord0_barWrote]
    · rw [ht, hb.arr_barComplete]
    · rw [ht, hb.barWord2_barComplete]
    · rw [ht, hb.barPhc_barComplete, hphc]
    · rw [ht, State.barComplete_notifies, State.barWrote_notifies]
    · rw [ht, State.barComplete_pushes, State.barWrote_pushes, State.barWrote_notifies, h.barWord3_barWrote]
    · rw [ht, State.barComplete_harts, State.barWrote_harts, h.barPh_barWrote, State.barWrote_fc]
  next hc =>
    have ht : t = s.barWrote da arr pb := h.barSet_of_open arr pb (by rwa [harr', hpb'])
    rw [ht]
    exact ⟨h.barWord0_barWrote arr pb, (h.barWord1_barWrote arr pb).trans harr', (h.barWord2_barWrote arr pb).trans hpb', hphc, State.barWrote_notifies ..,
      State.barWrote_pushes .., State.barWrote_harts ..⟩

/-! ### The forms over barriers -/

section
variable {s : State} {rd rs1 rs2 : BitVec 5} {pa : Nat} (ha : s.xreg rs1 % 32 = 0)
include ha

theorem exec_binit (hp : s.hartPiece s.cur .amo false (s.xreg rs1) 32 = (s, .ok pa)) (h0 : s.xreg rs2 ≠ 0) (hlt : s.xreg rs2 < 2 ^ 32) :
    exec (.binit rd rs1 rs2) s = .next ((s.barPut (s.domainOf pa) (s.xreg rs2) 0 0 0).retire rd 0) := by
  have hn : (decide (s.xreg rs2 = 0) || decide (2 ^ 32 ≤ s.xreg rs2)) = false := by simpa [h0] using hlt
  change execBinit rd rs1 rs2 s = _
  simp only [execBinit, form_every_mode, ha, hn, withBarrier_of_piece hp, bne_self_eq_false, Bool.false_eq_true, if_false, FormEnd.finish]

omit ha in
/-- An arrival with the phase's parity, within EXP, and with room for its notify registration. -/
theorem State.arrive_of_fits {da w cnt hart tid : Nat} (hpar : bitN w 63 = s.barPh da) (hexp : s.barWord da 1 % 2 ^ 32 + cnt ≤ s.barWord da 0 % 2 ^ 32)
    (hroom : bitN w 59 = true → (s.notifies.filter fun m => m.home == s.barHome da).length < 256) :
    s.arrive da w cnt hart tid =
      .ok ((if bitN w 59 then { s with notifies := s.notifies ++ [{ addr := da, home := s.barHome da, hart := hart, fifo := fld w 58 56, tid := tid }] } else s : State).barSet da
        (s.barWord da 1 % 2 ^ 32 + cnt) (s.barWord da 2 + fld w 47 0)) := by
  have hfull : (bitN w 59 && decide (256 ≤ (s.notifies.filter fun m => m.home == s.barHome da).length)) = false := by
    cases hn : bitN w 59 with
    | false => rfl
    | true => simpa using hroom hn
  simp only [State.arrive, hpar, hfull, bne_self_eq_false, Bool.false_eq_true, if_false, if_neg (Nat.not_lt.mpr hexp)]

theorem arriveForm_of_ok {w cnt : Nat} {t : State} (hp : s.hartPiece s.cur .amo false (s.xreg rs1) 32 = (s, .ok pa)) (hw : arriveOk w = true)
    (hok : s.arrive (s.domainOf pa) w cnt s.cur s.curTid = .ok t) :
    arriveForm s (s.xreg rs1) w cnt = .ret (fld (t.barPhc (s.domainOf pa)) 62 0) t := by
  simp only [arriveForm, ha, hw, withBarrier_of_piece hp, hok, bne_self_eq_false, Bool.not_true, Bool.false_eq_true, if_false]

/-- A BWAIT that no completed phase has released retires with its result, or waits for its phase. -/
theorem exec_bwait (hp : s.hartPiece s.cur .load false (s.xreg rs1) 32 = (s, .ok pa)) (hw : s.xreg rs2 < 2)
    (hrel : ∀ a q, (s.hart s.cur).wait ≠ .released a q) :
    exec (.bwait rd rs1 rs2) s = .next (match s.bwaitResult (s.domainOf pa) (s.xreg rs2 == 1) ((s.hart s.cur).irqDue s.fc) with
      | some v => s.retire rd v
      | none => s.modHart s.cur fun c => { c with wait := .bwait (s.domainOf pa) (s.xreg rs2 == 1) rd }) := by
  change execBwait rd rs1 rs2 s = _
  simp only [execBwait, form_every_mode, ha, if_neg (Nat.not_le.mpr hw), withBarrier_of_piece hp, bne_self_eq_false, Bool.false_eq_true, if_false]
  cases hwait : (s.hart s.cur).wait with
  | released a q => exact absurd hwait (hrel a q)
  | _ => cases s.bwaitResult (s.domainOf pa) (s.xreg rs2 == 1) ((s.hart s.cur).irqDue s.fc) <;> rfl

theorem exec_bwait_released (hp : s.hartPiece s.cur .load false (s.xreg rs1) 32 = (s, .ok pa)) (hw : s.xreg rs2 < 2) {a : Nat} {q : BitVec 5}
    (hrel : (s.hart s.cur).wait = .released a q) : exec (.bwait rd rs1 rs2) s = .next (s.retire rd (s.bwaitWord a)) := by
  change execBwait rd rs1 rs2 s = _
  simp only [execBwait, form_every_mode, ha, if_neg (Nat.not_le.mpr hw), withBarrier_of_piece hp, bne_self_eq_false, Bool.false_eq_true, if_false, hrel,
    FormEnd.finish]

theorem exec_btest (hp : s.hartPiece s.cur .load false (s.xreg rs1) 32 = (s, .ok pa)) (hw : s.xreg rs2 < 2) :
    exec (.btest rd rs1 rs2) s =
      .next (s.retire rd (b2n (s.barPh (s.domainOf pa) != (s.xreg rs2 == 1)) + 2 * b2n (s.barLff (s.domainOf pa)))) := by
  change execBtest rd rs1 rs2 s = _
  simp only [execBtest, form_every_mode, ha, if_neg (Nat.not_le.mpr hw), withBarrier_of_piece hp, bne_self_eq_false, Bool.false_eq_true, if_false, FormEnd.finish]

end

/-- What a BWAIT has once its phase has flipped, and before (R259). -/
theorem State.bwaitResult_of_flipped {s : State} {da : Nat} {par : Bool} (irq : Bool) (h : s.barPh da ≠ par) :
    s.bwaitResult da par irq = some (s.bwaitWord da) := if_pos (bne_iff_ne.mpr h)

theorem State.bwaitResult_of_open {s : State} {da : Nat} {par : Bool} (irq : Bool) (h : s.barPh da = par) :
    s.bwaitResult da par irq = if irq then some (refuseWord .intr) else none := by
  simp [State.bwaitResult, h]

theorem State.bwaitWord_passed {s : State} {da : Nat} (h : s.barLff da = false) : s.bwaitWord da = fld (s.barPhc da) 62 0 := by
  simp [State.bwaitWord, h]

theorem State.bwaitWord_failed {s : State} {da : Nat} (h : s.barLff da = true) : s.bwaitWord da = refuseWord .faulted (s.barPhc da % 2 ^ 48) := by
  simp [State.bwaitWord, h]

/-- FAULTED carries the low 48 bits of the phase count. -/
theorem refuseWord_faulted (n : Nat) : refuseWord .faulted (n % 2 ^ 48) = 2 ^ 63 + 13 * 2 ^ 56 + n % 2 ^ 48 := by
  have hp : put 62 56 (Refuse.code .faulted) = 13 * 2 ^ 56 := by norm_num [put, Refuse.code]
  rw [refuseWord, hp]
  omega

/-- A place of memory that a core's access passes. -/
theorem State.memKey_domainOf {s : State} {pa : Nat} (h : pa < regSpace) :
    s.memKey (s.domainOf pa) < regSpace ∨ 2 ^ 47 ≤ s.memKey (s.domainOf pa) := by
  unfold regSpace at h ⊢
  have hd : s.domainOf pa = s.xlat.xmod * 2 ^ 47 + pa := by
    rw [State.domainOf, if_pos (by omega), Nat.mod_eq_of_lt (by omega)]
  unfold State.memKey State.localOf
  split
  · rw [Option.map_some, Option.getD_some, State.localKey, hd]
    split
    · right; omega
    · left; omega
  · rw [Option.map_none, Option.getD_none]
    right; omega

/-- Settles O22, form by form. -/
theorem barrierForms : Obligations.BarrierForms := by
  intro s rd rs1 rs2 pa ha da w
  refine ⟨fun hp => ⟨fun h0 hlt hs => ⟨_, exec_binit ha hp h0 hlt, fun hpa => ?_⟩, fun hw hpar hroom => ⟨fun hexp => ?_, fun hexp => ?_⟩⟩,
    fun hp hw => ⟨fun hrel => ⟨fun hne hl => ?_, fun hne hl => ?_, fun he hi => ?_, fun he hi => ?_⟩, fun a q hrel => ?_, exec_btest ha hp hw⟩⟩
  · have hget : (s.barPut da w 0 0 0).memGet da 32 = bytesOf64 ([w, 0, 0, 0].map (BitVec.ofNat 64)) :=
      State.memGet_memPut (bytesOf64 ([w, 0, 0, 0].map (BitVec.ofNat 64))) false hs (State.memKey_domainOf hpa)
    have hw64 : w % 2 ^ 64 = w := Nat.mod_eq_of_lt (by omega)
    rw [hget]
    simp only [bytesOf64, List.map_cons, List.map_nil, List.flatMap_cons, List.flatMap_nil, BitVec.toNat_ofNat, hw64, Nat.zero_mod, List.append_nil,
      List.append_assoc]
  · exact congrArg (fun f : FormEnd => Host.Outcome.next (f.finish s rd)) (arriveForm_of_ok ha hp hw (State.arrive_of_fits hpar hexp hroom))
  · exact congrArg (fun f : FormEnd => Host.Outcome.next (f.finish s rd)) (arriveForm_of_ok ha hp hw (State.arrive_of_fits (cnt := 0) hpar hexp hroom))
  · rw [exec_bwait ha hp hw hrel, State.bwaitResult_of_flipped _ hne, State.bwaitWord_passed hl]
  · rw [exec_bwait ha hp hw hrel, State.bwaitResult_of_flipped _ hne, State.bwaitWord_failed hl, refuseWord_faulted]
  · rw [exec_bwait ha hp hw hrel, State.bwaitResult_of_open _ he, hi]; rfl
  · rw [exec_bwait ha hp hw hrel, State.bwaitResult_of_open _ he, hi]; rfl
  · rw [exec_bwait_released ha hp hw hrel]
    cases hl : s.barLff a with
    | false => rw [State.bwaitWord_passed hl]; rfl
    | true => rw [State.bwaitWord_failed hl, refuseWord_faulted]; rfl

/-! ### Credits, failures, notify tokens and waiting cores (R258, R259) -/

section
variable {s : State} {da : Nat}

theorem State.memRead_barSet_out {a : Nat} (arr pb : Nat) (ha : a < s.memKey da ∨ s.memKey da + 32 ≤ a) :
    memRead (s.barSet da arr pb).mem a = memRead s.mem a := by
  have hw : memRead (s.barWrote da arr pb).mem a = memRead s.mem a := State.memRead_barPut_out _ _ _ _ ha
  rw [State.barSet_eq, State.barCheck]
  split
  · rw [State.memRead_barComplete_out _ (by rwa [State.barWrote_memKey]), hw]
  · exact hw

theorem State.barSet_credits (arr pb : Nat) : (s.barSet da arr pb).credits = s.credits := by
  rw [State.barSet_eq, State.barCheck]
  split
  · rw [State.barComplete_credits, State.barWrote_credits]
  · exact State.barWrote_credits ..

theorem exec_barrierCredit {n : Nat} {m : BarMsg} (hn : s.credits[n]? = some m) :
    exec (.barrierCredit n) s = .next (({ s with credits := s.credits.eraseIdx n } : State).barCredit m.addr m.par m.bytes) := by
  change execBarrierCredit n s = _
  rw [execBarrierCredit, hn]

theorem exec_barrierFail_of_parity {n : Nat} {m : BarMsg} (hn : s.fails[n]? = some m)
    (hp : m.par = ({ s with fails := s.fails.eraseIdx n } : State).barPh m.addr) :
    exec (.barrierFail n) s =
      .next ((({ s with fails := s.fails.eraseIdx n } : State).barComplete m.addr true).deliverFor m.hdl (issuerRing m.pkt m.fq) m.part m.tid m.asid
        { code := 0x70, src := 8, f4 := m.ticket, info := m.va }) := by
  change execBarrierFail n s = _
  simp only [execBarrierFail, hn, if_pos hp]

theorem exec_barrierFail_of_stale {n : Nat} {m : BarMsg} (hn : s.fails[n]? = some m)
    (hp : m.par ≠ ({ s with fails := s.fails.eraseIdx n } : State).barPh m.addr) :
    exec (.barrierFail n) s = .next { s with fails := s.fails.eraseIdx n } := by
  change execBarrierFail n s = _
  simp only [execBarrierFail, hn, if_neg hp]

/-- A credit is applied where its parity is the phase's. -/
theorem State.barCredit_of_parity {par : Bool} (k : Nat) (h : par = s.barPh da) :
    s.barCredit da par k = s.barSet da (s.barWord da 1 % 2 ^ 32) (s.barWord da 2 + 2 ^ 64 - k % 2 ^ 64) := if_pos h

theorem State.barCredit_of_stale {par : Bool} (k : Nat) (h : par ≠ s.barPh da) : s.barCredit da par k = s := if_neg h

theorem exec_barrierNotifyPush {n : Nat} {p : NotifyPush} (hn : s.pushes[n]? = some p) (hf : (s.hart p.hart).fifoFull p.fifo = false) :
    exec (.barrierNotifyPush n) s =
      .next (({ s with pushes := s.pushes.eraseIdx n } : State).modHart p.hart fun c => c.setFifo p.fifo (c.fifo p.fifo ++ [p.tok])) := by
  change execBarrierNotifyPush n s = _
  simp only [execBarrierNotifyPush, hn, hf, Bool.false_eq_true, if_false]

theorem exec_barrierNotifyPush_full {n : Nat} {p : NotifyPush} (hn : s.pushes[n]? = some p) (hf : (s.hart p.hart).fifoFull p.fifo = true) :
    exec (.barrierNotifyPush n) s = .next s := by
  change execBarrierNotifyPush n s = _
  simp only [execBarrierNotifyPush, hn, hf, if_true]

theorem exec_bwaitWake {h : Nat} {par : Bool} {rd : BitVec 5} (hw : (s.hart h).wait = .bwait da par rd) :
    exec (.bwaitWake h) s = .next (((s.bwaitResult da par ((s.hart h).irqDue s.fc)).map (s.retireAt h rd)).getD s) := by
  change execBwaitWake h s = _
  rw [execBwaitWake, hw]
  dsimp only
  cases s.bwaitResult da par ((s.hart h).irqDue s.fc) <;> rfl

theorem exec_bwaitWake_released {h : Nat} {rd : BitVec 5} (hw : (s.hart h).wait = .released da rd) :
    exec (.bwaitWake h) s = .next (s.retireAt h rd (s.bwaitWord da)) := by
  change execBwaitWake h s = _
  rw [execBwaitWake, hw]

end

/-- What a credit of the phase's parity does (R258). -/
theorem State.BarAt.barCredit {s : State} {da : Nat} (h : s.BarAt da) {par : Bool} (k : Nat) (hp : par = s.barPh da) :
    let t := s.barCredit da par k
    let pb := (s.barWord da 2 + 2 ^ 64 - k % 2 ^ 64) % 2 ^ 64
    let all := s.barWord da 1 % 2 ^ 32 = s.barWord da 0 % 2 ^ 32
    (¬ all ∨ pb ≠ 0 → t.barWord da 2 = pb ∧ t.barPh da = s.barPh da ∧ t.barPhc da = s.barPhc da ∧ t.harts = s.harts) ∧
    (all → pb = 0 → t.barWord da 2 = 0 ∧ t.barPh da = !s.barPh da ∧ t.barLff da = false ∧ t.barPhc da = (s.barPhc da + 1) % 2 ^ 64 ∧
      t.harts = s.harts.map fun c => c.freed da (s.barPh da) s.fc) := by
  intro t pb all
  have hw := h.barWrote (s.barWord da 1 % 2 ^ 32) (s.barWord da 2 + 2 ^ 64 - k % 2 ^ 64)
  have ht : t = s.barSet da (s.barWord da 1 % 2 ^ 32) (s.barWord da 2 + 2 ^ 64 - k % 2 ^ 64) := State.barCredit_of_parity k hp
  rw [ht]
  refine ⟨fun hopen => ?_, fun hall h0 => ?_⟩
  · rw [h.barSet_of_open _ _ (by rw [Nat.mod_mod]; exact fun hc => hopen.elim (fun h => h hc.1) fun h => h hc.2)]
    exact ⟨h.barWord2_barWrote _ _, h.barPh_barWrote _ _, h.barWord3_barWrote _ _, State.barWrote_harts ..⟩
  · rw [h.barSet_of_full _ _ ((Nat.mod_mod _ _).trans hall) h0]
    refine ⟨hw.barWord2_barComplete _, ?_, hw.barLff_barComplete _, ?_, ?_⟩
    · rw [hw.barPh_barComplete, h.barPh_barWrote]
    · rw [hw.barPhc_barComplete, State.barPhc, h.barWord3_barWrote, State.barPhc]
    · rw [State.barComplete_harts, State.barWrote_harts, h.barPh_barWrote, State.barWrote_fc]

theorem State.memRead_barCredit_out {s : State} {da a : Nat} (par : Bool) (k : Nat) (ha : a < s.memKey da ∨ s.memKey da + 32 ≤ a) :
    memRead (s.barCredit da par k).mem a = memRead s.mem a := by
  unfold State.barCredit
  split
  · exact State.memRead_barSet_out _ _ ha
  · rfl

theorem State.barCredit_credits (s : State) (da : Nat) (par : Bool) (k : Nat) : (s.barCredit da par k).credits = s.credits := by
  unfold State.barCredit
  split
  · exact State.barSet_credits ..
  · rfl

/-- Settles O45, step by step from what each does to its barrier. -/
theorem barrierSteps : Obligations.BarrierSteps := by
  refine ⟨fun s n m hs ha hm => ⟨fun hn => ?_, fun hn => ?_⟩,
    fun s n p hn => ⟨fun hf => exec_barrierNotifyPush hn hf, fun hf => exec_barrierNotifyPush_full hn hf⟩,
    fun s h da par rd hw => ⟨fun hne hl => ?_, fun hne hl => ?_, fun he hi => ?_, fun he hi => ?_⟩, fun s h da rd hw => ⟨fun hl => ?_, fun hl => ?_⟩⟩
  · have h : s.BarAt m.addr := ⟨hs, ha, hm⟩
    have h1 : ({ s with credits := s.credits.eraseIdx n } : State).BarAt m.addr := ⟨hs, ha, hm⟩
    have word {i : Nat} (hi : i < 4) := h.barWord_congr h1 rfl rfl (fun _ => rfl) hi
    have hph : ({ s with credits := s.credits.eraseIdx n } : State).barPh m.addr = s.barPh m.addr := congrArg (bitN · 63) (word (by decide))
    have hphc : ({ s with credits := s.credits.eraseIdx n } : State).barPhc m.addr = s.barPhc m.addr := word (by decide)
    refine ⟨_, exec_barrierCredit hn, State.barCredit_credits .., State.barCredit_inv _ _ _ hs, fun hp => State.barCredit_of_stale _ (by rwa [hph]), fun hp => ?_⟩
    obtain ⟨hopen, hfull⟩ := h1.barCredit (par := m.par) m.bytes (by rwa [hph])
    rw [hph, hphc, word (i := 0) (by decide), word (i := 1) (by decide), word (i := 2) (by decide)] at hopen hfull
    exact ⟨hopen, hfull, fun a ho => State.memRead_barCredit_out _ _ ho⟩
  · have h : s.BarAt m.addr := ⟨hs, ha, hm⟩
    have h1 : ({ s with fails := s.fails.eraseIdx n } : State).BarAt m.addr := ⟨hs, ha, hm⟩
    have word {i : Nat} (hi : i < 4) := h.barWord_congr h1 rfl rfl (fun _ => rfl) hi
    have hph : ({ s with fails := s.fails.eraseIdx n } : State).barPh m.addr = s.barPh m.addr := congrArg (bitN · 63) (word (by decide))
    have hphc : ({ s with fails := s.fails.eraseIdx n } : State).barPhc m.addr = s.barPhc m.addr := word (by decide)
    refine ⟨fun hp => exec_barrierFail_of_stale hn (by rwa [hph]), fun hp => ⟨_, exec_barrierFail_of_parity hn (by rwa [hph]), State.barComplete_fails .., ?_,
      h1.barLff_barComplete true, ?_, ?_⟩⟩
    · rw [h1.barPh_barComplete, hph]
    · rw [h1.barPhc_barComplete, hphc]
    · rw [State.barComplete_harts, hph]
  · rw [exec_bwaitWake hw, State.bwaitResult_of_flipped _ hne, State.bwaitWord_passed hl]; rfl
  · rw [exec_bwaitWake hw, State.bwaitResult_of_flipped _ hne, State.bwaitWord_failed hl]; rfl
  · rw [exec_bwaitWake hw, State.bwaitResult_of_open _ he, hi]; rfl
  · rw [exec_bwaitWake hw, State.bwaitResult_of_open _ he, hi]; rfl
  · rw [exec_bwaitWake_released hw, State.bwaitWord_passed hl]
  · rw [exec_bwaitWake_released hw, State.bwaitWord_failed hl]

end Sys2Proof.Machine

namespace Sys2Proof.Machine

set_option Elab.async false

/-! ## The lifecycle forms (R250 to R252)

Starting, draining, freezing and killing a region, and loading, saving, restoring and moving one. -/

section
variable {s : State} {rd rs1 rs2 : BitVec 5} {slot : Nat} {r : Region}

/-! ### RGNGO -/

/-- A region that RGNGO may start: one that stands still, or, with ACK, one whose fault can be resumed (R252, R348). -/
def Region.StartsOn (r : Region) (flags : Nat) : Prop :=
  (flags = 0 ∧ ((r.state = .resident ∧ r.run = false ∧ r.settling = false) ∨ r.state = .frozen ∨ r.state = .rolledBack)) ∨
    (flags = 1 ∧ r.state = .faulted ∧ resumable r.lastFault = true)

section
variable (hm : (s.hart s.cur).mode.high = true) (hh : s.byHandle (s.xreg rs1) s.guestTid = .ok (slot, r)) (hsh : r.shadowOf = none)
include hm hh hsh

theorem exec_rgngo_of_startsOn (hf : r.StartsOn (s.xreg rs2)) : exec (.rgngo rd rs1 rs2) s = .next ((s.go slot).retire rd 0) := by
  change execRgngo rd rs1 rs2 s = _
  have hlt : ¬ 2 ≤ s.xreg rs2 := by
    rcases hf with ⟨h, _⟩ | ⟨h, _⟩ <;> omega
  simp only [execRgngo, form_of_high hm, if_neg hlt, withRegion_of_byHandle hh, hsh, Option.isSome_none, Bool.false_eq_true, if_false]
  rcases hf with ⟨_, ⟨hst, hrun, hset⟩ | hst | hst⟩ | ⟨h1, hst, hres⟩
  · simp only [hst, hrun, hset, Bool.false_eq_true, if_false, FormEnd.finish]
  · simp only [hst, FormEnd.finish]
  · simp only [hst, FormEnd.finish]
  · simp only [hst, h1, hres, decide_true, Bool.and_self, if_true, FormEnd.finish]

theorem exec_rgngo_loading (hst : r.state = .loading) (hf : s.xreg rs2 < 2) :
    exec (.rgngo rd rs1 rs2) s = .next ((s.setRegion slot { r with goWhenEmitted := true }).retire rd 0) := by
  change execRgngo rd rs1 rs2 s = _
  simp only [execRgngo, form_of_high hm, if_neg (Nat.not_le.mpr hf), withRegion_of_byHandle hh, hsh, hst, Option.isSome_none, Bool.false_eq_true, if_false,
    State.modRegion_of_some (State.byHandle_region hh), FormEnd.finish]

/-- While a freeze settles, RGNGO holds its core. -/
theorem exec_rgngo_settling (hst : r.state = .resident) (hset : r.settling = true) (hf : s.xreg rs2 < 2) :
    exec (.rgngo rd rs1 rs2) s = .next (s.modHart s.cur fun c => { c with wait := .form }) := by
  change execRgngo rd rs1 rs2 s = _
  simp only [execRgngo, form_of_high hm, if_neg (Nat.not_le.mpr hf), withRegion_of_byHandle hh, hsh, hst, hset, Option.isSome_none, Bool.false_eq_true, if_false,
    if_true, State.holdForm, FormEnd.finish]

end

/-! ### A switch out begins (R357, R361) -/

/-- A front that settles for something else than a stop puts the switch into freeze mode at once. -/
theorem Region.startSwitch_switchOut (r : Region) (incoming : Option Nat) (deadline : Nat) :
    (r.startSwitch { incoming := incoming, deadline := deadline }).switchOut =
      some { incoming := incoming, deadline := deadline, freeze := (r.freeze.map fun z => decide (z.why ≠ .stop)).getD false } := by
  unfold Region.startSwitch
  cases r.freeze with
  | none => rfl
  | some z => by_cases h : z.why = .stop <;> simp [h]

theorem State.beginSwitch_region (hr : s.region slot = some r) (incoming : Option Nat) (us : Nat) :
    ∃ q, (s.beginSwitch slot incoming us).region slot = some q ∧ q.state = .draining ∧
      q.switchOut = some { incoming := incoming, deadline := s.ns + 1000 * us, freeze := (r.freeze.map fun z => decide (z.why ≠ .stop)).getD false } := by
  have hm : (s.modRegion slot fun x => x.startSwitch { incoming := incoming, deadline := s.ns + 1000 * us }).region slot =
      some (r.startSwitch { incoming := incoming, deadline := s.ns + 1000 * us }) := by
    rw [State.modRegion_of_some hr, State.region_setRegion]
  exact ⟨_, State.toState_region .draining hm, rfl, r.startSwitch_switchOut _ _⟩

theorem Region.drainable_of_running (hst : r.state = .resident) (hrun : r.run = true) (hsh : r.shadowOf = none) : r.drainable = true := by
  simp [Region.drainable, hst, hrun, hsh]

theorem exec_rgndrn (hm : (s.hart s.cur).mode.high = true) (hh : s.byHandle (s.xreg rs1) s.guestTid = .ok (slot, r)) (hd : r.drainable = true)
    (hs : r.shadow = none) (hsave : r.save.addr ≠ 0) :
    exec (.rgndrn rd rs1 rs2) s = .next ((s.beginSwitch slot none (if s.xreg rs2 = 0 then 50 else s.xreg rs2)).retire rd 0) := by
  change execRgndrn rd rs1 rs2 s = _
  simp only [execRgndrn, form_of_high hm, withRegion_of_byHandle hh, hd, hs, if_neg hsave, Option.isSome_none, Bool.not_true, Bool.or_self,
    Bool.false_eq_true, if_false, FormEnd.finish]

theorem exec_rgnslc {k : Nat} {p : Region} (hm : (s.hart s.cur).mode.high = true) (hh : s.byHandle (s.xreg rs1) s.guestTid = .ok (slot, r))
    (hk : s.byHandle (s.xreg rs2) s.guestTid = .ok (k, p)) (hd : r.drainable = true) (hs : r.shadow = some k) (hp : p.state = .loading ∨ p.state = .resident)
    (hsave : r.save.addr ≠ 0) :
    exec (.rgnslc rd rs1 rs2) s = .next ((s.beginSwitch slot (some k) (s.hart s.cur).oxdl.toNat).retire rd 0) := by
  have hst : (p.state == .loading || p.state == .resident) = true := by simpa using hp
  change execRgnslc rd rs1 rs2 s = _
  simp only [execRgnslc, form_of_high hm, withRegion_of_byHandle hh, withRegion_of_byHandle hk, hd, hs, hst, if_neg hsave, bne_self_eq_false, Bool.not_true,
    Bool.or_self, Bool.false_eq_true, if_false, FormEnd.finish]

end

/-- Settles O14: a region starts through `State.go`, and drains through `State.beginSwitch`. -/
theorem lifecycleStartsAndDrains : Obligations.LifecycleStartsAndDrains := by
  intro s rd rs1 rs2 slot r hm hh
  have hr := State.byHandle_region hh
  refine ⟨fun hsh hf => ?_, fun hsh hst hf => exec_rgngo_loading hm hh hsh hst hf, fun hsh hst hset hf => exec_rgngo_settling hm hh hsh hst hset hf,
    fun hst hrun hsh hs hsave => ?_, fun k p hk hst hrun hsh hs hp hsave => ?_⟩
  · obtain ⟨q, hq⟩ := State.go_region hr
    exact ⟨_, q, exec_rgngo_of_startsOn hm hh hsh hf, rfl, hq⟩
  · obtain ⟨q, hq⟩ := State.beginSwitch_region hr none (if s.xreg rs2 = 0 then 50 else s.xreg rs2)
    exact ⟨_, q, exec_rgndrn hm hh (Region.drainable_of_running hst hrun hsh) hs hsave, hq⟩
  · obtain ⟨q, hq⟩ := State.beginSwitch_region hr (some k) (s.hart s.cur).oxdl.toNat
    exact ⟨_, q, exec_rgnslc hm hh hk (Region.drainable_of_running hst hrun hsh) hs hp hsave, hq⟩

/-! ### RGNFRZ and RGNKIL -/

section
variable {s : State} {rd rs1 rs2 : BitVec 5} {slot : Nat} {r : Region}

section
variable (hm : (s.hart s.cur).mode.high = true) (hin : s.inSettle = false) (hh : s.byHandle (s.xreg rs1) s.guestTid = .ok (slot, r))
include hm hin hh

/-- While another core waits in RGNFRZ on the region, this one waits where it stands. -/
theorem exec_rgnfrz_behind (hw : s.settleWaiter slot false = true) : exec (.rgnfrz rd rs1) s = .next s := by
  change execRgnfrz rd rs1 s = _
  simp only [execRgnfrz, form_of_high hm, hin, withRegion_of_byHandle hh, hw, Bool.false_eq_true, if_false, if_true, FormEnd.finish]

theorem exec_rgnkil_behind (hw : s.settleWaiter slot true = true) : exec (.rgnkil rd rs1) s = .next s := by
  change execRgnkil rd rs1 s = _
  simp only [execRgnkil, form_of_high hm, hin, withRegion_of_byHandle hh, hw, Bool.false_eq_true, if_false, if_true, FormEnd.finish]

theorem exec_rgnfrz_stopped (hw : s.settleWaiter slot false = false) (hst : r.state = .resident) (hrun : r.run = true) (hstp : r.stp = true) :
    exec (.rgnfrz rd rs1) s = .next (((s.setRegion slot
      { r with run := false, stp := false, stopAt := none, freeze := some { why := .form, settled := true } }).toState slot .frozen).retire rd 0) := by
  change execRgnfrz rd rs1 s = _
  simp only [execRgnfrz, form_of_high hm, hin, withRegion_of_byHandle hh, hw, hst, hrun, hstp, State.modRegion_of_some (State.byHandle_region hh),
    Bool.not_true, Bool.false_eq_true, if_false, if_true, FormEnd.finish]

theorem exec_rgnfrz_running (hw : s.settleWaiter slot false = false) (hst : r.state = .resident) (hrun : r.run = true) (hstp : r.stp = false)
    (hfr : r.freeze = none) :
    exec (.rgnfrz rd rs1) s = .next ((s.setRegion slot { r with freeze := some { why := .form } }).modHart s.cur
      fun c => { c with wait := .settle slot rd false }) := by
  change execRgnfrz rd rs1 s = _
  simp only [execRgnfrz, form_of_high hm, hin, withRegion_of_byHandle hh, hw, hst, hrun, hstp, hfr, State.modRegion_of_some (State.byHandle_region hh),
    Region.startFreeze, State.waitSettle, Bool.not_true, Bool.false_eq_true, if_false, FormEnd.finish]
  rfl

theorem exec_rgnfrz_draining (hw : s.settleWaiter slot false = false) (hst : r.state = .draining) :
    exec (.rgnfrz rd rs1) s = .next ((s.setRegion slot
      { (r.startFreeze .switch) with switchOut := r.switchOut.map fun o => { o with freeze := true } }).modHart s.cur
      fun c => { c with wait := .settle slot rd false }) := by
  change execRgnfrz rd rs1 s = _
  simp only [execRgnfrz, form_of_high hm, hin, withRegion_of_byHandle hh, hw, hst, State.modRegion_of_some (State.byHandle_region hh),
    State.waitSettle, Bool.false_eq_true, if_false, FormEnd.finish]
  rfl

theorem exec_rgnkil_killed (hw : s.settleWaiter slot true = false) (hst : r.state = .killed) :
    exec (.rgnkil rd rs1) s = .next ((s.freeSlot slot).retire rd 0) := by
  change execRgnkil rd rs1 s = _
  simp only [execRgnkil, form_of_high hm, hin, withRegion_of_byHandle hh, hw, hst, beq_self_eq_true, Bool.false_eq_true, if_false, if_true, FormEnd.finish]

theorem exec_rgnkil (hw : s.settleWaiter slot true = false) (hst : r.state ≠ .killed) :
    exec (.rgnkil rd rs1) s = .next (match s.kill slot r 4 with
      | (s1, true) => s1.retire rd 0
      | (s1, false) => s1.modHart s1.cur fun c => { c with wait := .settle slot rd true }) := by
  change execRgnkil rd rs1 s = _
  simp only [execRgnkil, form_of_high hm, hin, withRegion_of_byHandle hh, hw, beq_eq_false_iff_ne.mpr hst, Bool.false_eq_true, if_false]
  rcases s.kill slot r 4 with ⟨s1, _ | _⟩ <;> rfl

end

/-- A kill of a region that neither settles nor switches nor enters ends it at once. -/
theorem State.kill_at_once (hset : r.settling = false) (hsw : r.switchBegun = false) (hsh : r.shadowOf = none) (st : Nat) :
    s.kill slot r st = (s.endRegion slot st r.lastFault, true) := by
  simp [State.kill, hset, hsw, hsh]

/-- A kill of a region whose front is settling is kept for later. -/
theorem State.kill_later (hr : s.region slot = some r) (hset : r.settling = true) (st : Nat) :
    s.kill slot r st = (s.setRegion slot { r with killWhenDone := some st }, false) := by
  simp [State.kill, hset, State.modRegion_of_some hr]

theorem Region.startFreeze_isSome (r : Region) (why : FreezeWhy) : (r.startFreeze why).freeze.isSome = true := by
  unfold Region.startFreeze
  split
  · rfl
  · next z hz =>
    split
    · rw [hz]; rfl
    · rfl

end

/-- Settles O15, by the state the region is in. -/
theorem lifecycleFreezesAndKills : Obligations.LifecycleFreezesAndKills := by
  intro s rd rs1 slot r hm hin hh
  have hr := State.byHandle_region hh
  refine ⟨exec_rgnfrz_behind hm hin hh, exec_rgnkil_behind hm hin hh, fun hw => ⟨fun hst hrun hstp => ?_, exec_rgnfrz_running hm hin hh hw, fun hst => ?_⟩,
    fun hw => ⟨exec_rgnkil_killed hm hin hh hw, fun hst hset hsw hsh => ?_, fun hst hset => ?_⟩⟩
  · exact ⟨_, _, exec_rgnfrz_stopped hm hin hh hw hst hrun hstp, State.toState_region .frozen (State.region_setRegion ..), rfl, rfl, rfl⟩
  · exact ⟨_, _, exec_rgnfrz_draining hm hin hh hw hst, State.region_setRegion .., r.startFreeze_isSome .switch, rfl⟩
  · rw [exec_rgnkil hm hin hh hw hst, State.kill_at_once hset hsw hsh]
  · rw [exec_rgnkil hm hin hh hw hst, State.kill_later hr hset]
    rfl

/-! ### RGNLD, RGNSAV, RGNRST and RGNMOV -/

section
variable {s : State} {rd rs1 rs2 : BitVec 5} {slot : Nat} {r : Region}

/-- The words of a descriptor of RGNLD keep their limits (R251). -/
structure State.DescriptorOk (s : State) (l : List W64) : Prop where
  image : fld (wd l 0) 63 47 = 0 ∧ fld (wd l 0) 5 0 = 0
  high : fld (wd l 1) 63 31 = 0
  save : fld (wd l 3) 63 47 = 0 ∧ fld (wd l 3) 11 0 = 0
  rest : wd l 5 = 0 ∧ wd l 6 = 0 ∧ wd l 7 = 0
  part : s.isPart (fld (wd l 1) 30 28) = true
  plc : s.plcOk (fld (wd l 1) 30 28) (wd l 2) = true

/-- The region that RGNLD loads from a descriptor. -/
def loadedRegion (l : List W64) (at_ : Nat) (occ : Option Nat) : Region :=
  { gen := 0, tid := fld (wd l 1) 15 0, asid := fld (wd l 1) 27 16, part := fld (wd l 1) 30 28, plc := at_, img := { addr := wd l 0 },
    save := { addr := wd l 3 }, fq := wd l 4, shadowOf := occ }

/-- An occupant holds the region in a slot as its shadow. -/
def State.holdShadow (s : State) (occ : Option Nat) (slot : Nat) : State :=
  match occ with
  | some o => s.modRegion o fun x => { x with shadow := some slot }
  | none => s

section
variable (hm : (s.hart s.cur).mode.high = true)
include hm

theorem exec_rgnld {bs : List Byte} {occ : Option Nat} {at_ k : Nat} {s2 : State} (ha : s.xreg rs1 % 64 = 0)
    (hl : s.formLoad true (s.xreg rs1) 64 = (s, .ok bs)) (hd : s.DescriptorOk (words64 8 bs)) (ho : s.occupant (wd (words64 8 bs) 2) = .ok occ)
    (hp : s.placeWord (fld (wd (words64 8 bs) 1) 30 28) (wd (words64 8 bs) 2) occ = some at_)
    (hadd : s.addRegion (loadedRegion (words64 8 bs) at_ occ) = some (s2, k)) :
    exec (.rgnld rd rs1) s = .next (((s2.holdShadow occ k).checkImage k).retire rd (s2.handle k)) := by
  obtain ⟨⟨h0, h1⟩, h2, ⟨h3, h4⟩, ⟨h5, h6, h7⟩, hpart, hplc⟩ := hd
  unfold loadedRegion at hadd
  change execRgnld rd rs1 s = _
  simp only [execRgnld, form_of_high hm, ha, withBlock_of_load hl, h0, h1, h2, h3, h4, h5, h6, h7, hpart, hplc, ho, hp, hadd, bne_self_eq_false, Bool.not_true,
    Bool.or_self, Bool.false_eq_true, if_false, FormEnd.finish]
  cases occ <;> rfl

variable (hh : s.byHandle (s.xreg rs1) s.guestTid = .ok (slot, r))
include hh

theorem exec_rgnsav {sp : SpaceAddr} {s1 : State} (ha : s.xreg rs2 % 4096 = 0) (hlt : s.xreg rs2 < 2 ^ 47) (hst : r.state = .frozen ∨ r.state = .faulted)
    (hs : r.shadow = none) (hmid : r.midSwitch = false) (hsp : r.areaFor (s.xreg rs2) = some sp)
    (hw : s.areaWrite r.part sp 0 (r.saveBytes slot 1) = (s1, none)) :
    exec (.rgnsav rd rs1 rs2) s = .next ((s1.becomeSaved slot sp).retire rd 0) := by
  have hstill : (r.state == .resident && r.settling) = false := by rcases hst with h | h <;> simp [h]
  have hfit : (r.state == .frozen || r.state == .faulted) = true := by simpa using hst
  change execRgnsav rd rs1 rs2 s = _
  simp only [execRgnsav, form_of_high hm, ha, if_neg (Nat.not_le.mpr hlt), withRegion_of_byHandle hh, hmid, hstill, hfit, hs, hsp, hw, Option.isSome_none,
    bne_self_eq_false, Bool.not_true, Bool.or_self, Bool.false_eq_true, if_false, FormEnd.finish]

theorem exec_rgnrst {occ : Option Nat} {s1 s2 s3 : State} {i : Image} {a : Restored} {p : Place} {at_ : Nat} (hst : r.state = .saved)
    (hplc : s.plcOk r.part (s.xreg rs2) = true) (ho : s.occupant (s.xreg rs2) = .ok occ) (hp : s.placeWord r.part (s.xreg rs2) occ = some at_)
    (hback : s.readBack slot r r.savedAt = (s1, .ok (i, a)))
    (hsearch : s1.search { self := some slot, occupant := occ } slot { r with shadowOf := occ } i at_ = .placed s2 p)
    (hin : s2.installArea slot { r with shadowOf := occ, ownedAt := ((s2.region slot).map (·.ownedAt)).getD [] } p i (a.rehost r s.cur) = some s3) :
    exec (.rgnrst rd rs1 rs2) s = .next ((((s3.holdShadow occ slot).toState slot .resident)).retire rd 0) := by
  have hsv : (r.state != .saved) = false := bne_eq_false_iff_eq.mpr hst
  change execRgnrst rd rs1 rs2 s = _
  simp only [execRgnrst, form_of_high hm, withRegion_of_byHandle hh, hsv, hplc, ho, hp, hback, Region.tenancy, hsearch, hin, Bool.not_true,
    Bool.false_eq_true, if_false, FormEnd.finish]
  cases occ <;> rfl

theorem exec_rgnmov {i i2 : Image} {s1 s2 s3 s4 : State} {p : Place} {a : Restored}
    (hst : (r.state = .resident ∧ r.run = false ∧ r.settling = false) ∨ r.state = .frozen) (hs : r.shadow = none) (hsh : r.shadowOf = none)
    (hsave : r.save.addr ≠ 0) (hplc : s.plcOk r.part (s.xreg rs2) = true) (hshd : plcShadow (s.xreg rs2) = false) (hi : r.image = some i)
    (hsearch : (s.clearOwned slot).search { self := some slot } slot r i (s.xreg rs2) = .placed s1 p)
    (hw : s1.areaWrite r.part r.save 0 (r.saveBytes slot 1) = (s2, none)) (hback : s2.readBack slot r r.save = (s3, .ok (i2, a)))
    (hin : s3.installArea slot { r with ownedAt := ((s3.region slot).map (·.ownedAt)).getD [] } p i2 a = some s4) :
    exec (.rgnmov rd rs1 rs2) s = .next (((s4.retireApart slot r).modRegion slot fun x =>
      { x with freeze := if r.state = .frozen then some { why := .form, settled := true } else none }).retire rd 0) := by
  have hstill : (r.state == .resident && r.settling) = false := by rcases hst with ⟨_, _, h⟩ | h <;> simp [h]
  have hfit : ((r.state == .resident && !r.run) || r.state == .frozen) = true := by rcases hst with ⟨h, hrun, _⟩ | h <;> simp [*]
  have hmid : r.midSwitch = false := by simp [Region.midSwitch, hsh]
  have hten : r.tenancy slot = { self := some slot } := by rw [Region.tenancy, hsh]
  have hno1 : r.shadow.isSome = false := by rw [hs]; rfl
  have hno2 : r.shadowOf.isSome = false := by rw [hsh]; rfl
  simp only [hi] at hin
  change execRgnmov rd rs1 rs2 s = _
  simp only [execRgnmov, form_of_high hm, withRegion_of_byHandle hh, hmid, hstill, hfit, hno1, hno2, hplc, hshd, hi, hten, hsearch, hw, hback, hin,
    decide_eq_false hsave, Bool.not_true, Bool.or_self, Bool.false_eq_true, if_false, FormEnd.finish]

end

/-- A SHDW placement names a fit occupant. -/
theorem State.occupant_of_fit {plc k : Nat} {o : Region} (hp : plcShadow plc = true) (hk : s.byHandle (plcOccupant plc) none = .ok (k, o))
    (hst : o.state = .resident ∨ o.state = .frozen) (hs : o.shadow = none) (hsh : o.shadowOf = none) : s.occupant plc = .ok (some k) := by
  have hfit : ((o.state == .resident || o.state == .frozen) && o.shadow.isNone && o.shadowOf.isNone) = true := by
    rw [hs, hsh]; simpa using hst
  simp only [State.occupant, hp, hk, Bool.not_true, Bool.false_eq_true, if_false]
  exact if_pos hfit

theorem State.occupant_of_plain {plc : Nat} (hp : plcShadow plc = false) : s.occupant plc = .ok none := by
  simp [State.occupant, hp]

end

/-- Settles O16, form by form along its course to the end. -/
theorem lifecycleLoadsAndSaves : Obligations.LifecycleLoadsAndSaves := by
  intro s rd rs1 rs2 hm
  refine ⟨fun bs occ at_ s2 k ha hl h0 h1 h2 h3 h4 h5 h6 h7 hpart hplc ho hp hadd => ?_, fun plc k o => State.occupant_of_fit,
    fun plc => State.occupant_of_plain, fun slot r hh => ⟨fun sp s1 => exec_rgnsav hm hh, fun occ s1 i a s2 p s3 at_ hst hplc ho hp hb hs hi => ?_,
    fun i s1 p s2 s3 i2 a s4 => exec_rgnmov hm hh⟩⟩
  · exact exec_rgnld hm ha hl ⟨⟨h0, h1⟩, h2, ⟨h3, h4⟩, ⟨h5, h6, h7⟩, hpart, hplc⟩ ho hp hadd
  · exact exec_rgnrst hm hh hst hplc ho hp hb hs hi

end Sys2Proof.Machine

namespace Sys2Proof.Machine

set_option Elab.async false

/-! ## Forms that queue commands and the token FIFOs (R244 to R247, R254, R255, R260 to R262) -/

/-! ### Token FIFOs (R260) -/

section
variable {s : State} {rd rs1 rs2 : BitVec 5}

theorem exec_tfpsh (hf : s.xreg rs1 < 8) (hv : s.xreg rs2 < 2 ^ 33) :
    exec (.tfpsh rd rs1 rs2) s = .next (if (s.hart s.cur).fifoFull (s.xreg rs1) then s.retire rd (2 ^ 63 + 8 * 2 ^ 56)
      else (s.modHart s.cur fun h => h.setFifo (s.xreg rs1) (h.fifo (s.xreg rs1) ++
        [{ word := .ofNat 32 (s.xreg rs2), psn := bitN (s.xreg rs2) 32, tid := s.curTid }])).retire rd 0) := by
  have hgood : (decide (8 ≤ s.xreg rs1) || decide (2 ^ 33 ≤ s.xreg rs2)) = false := by simpa using ⟨hf, hv⟩
  change execTfpsh rd rs1 rs2 s = _
  simp only [execTfpsh, form_every_mode, hgood, Bool.false_eq_true, if_false]
  split
  · rw [finish_refuse]; rfl
  · rfl

/-- TFPOP once the engines have had their turn: what stands behind the heads of other tenants. -/
theorem exec_tfpop (hf : s.xreg rs1 < 8) :
    let s1 := (s.headsOn s.cur (s.xreg rs1)).foldl State.issue s
    exec (.tfpop rd rs1) s = .next (match ((s1.hart s1.cur).fifo (s.xreg rs1)).dropWhile fun (t : TfTok) => t.tid != s1.curTid with
      | [] => (s1.modHart s1.cur fun h => h.setFifo (s.xreg rs1) []).retire rd (2 ^ 63 + 7 * 2 ^ 56)
      | t :: rest => (s1.modHart s1.cur fun h => h.setFifo (s.xreg rs1) rest).retire rd (t.word.toNat + put 32 32 (b2n t.psn))) := by
  intro s1
  change execTfpop rd rs1 s = _
  simp only [execTfpop, form_every_mode, if_neg (Nat.not_le.mpr hf)]
  change Host.Outcome.next ((match ((s1.hart s1.cur).fifo (s.xreg rs1)).dropWhile fun (t : TfTok) => t.tid != s1.curTid with
    | [] => refuse (s1.modHart s1.cur fun c => c.setFifo (s.xreg rs1) []) .empty
    | t :: rest => .ret (t.word.toNat + put 32 32 (b2n t.psn)) (s1.modHart s1.cur fun c => c.setFifo (s.xreg rs1) rest)).finish s rd) = _
  split
  · rw [finish_refuse]; rfl
  · rfl

theorem exec_tfqry (hf : s.xreg rs1 < 8) :
    exec (.tfqry rd rs1) s = .next (s.retire rd ((((s.hart s.cur).fifo (s.xreg rs1)).filter fun t => t.tid == s.curTid).length +
      put 15 8 (min 255 (s.headsOn s.cur (s.xreg rs1)).length))) := by
  change execTfqry rd rs1 s = _
  simp only [execTfqry, form_every_mode, if_neg (Nat.not_le.mpr hf), FormEnd.finish]

/-- There are eight FIFOs. -/
theorem exec_tf_of_bad (hf : 8 ≤ s.xreg rs1) :
    exec (.tfpsh rd rs1 rs2) s = .next (s.retire rd (2 ^ 63 + 2 ^ 56)) ∧ exec (.tfpop rd rs1) s = .next (s.retire rd (2 ^ 63 + 2 ^ 56)) ∧
      exec (.tfqry rd rs1) s = .next (s.retire rd (2 ^ 63 + 2 ^ 56)) := by
  have hbad : (decide (8 ≤ s.xreg rs1) || decide (2 ^ 33 ≤ s.xreg rs2)) = true := by simp [hf]
  refine ⟨?_, ?_, ?_⟩
  · change execTfpsh rd rs1 rs2 s = _
    simp only [execTfpsh, form_every_mode, hbad, if_true, finish_refuse]
    rfl
  · change execTfpop rd rs1 s = _
    simp only [execTfpop, form_every_mode, if_pos hf, finish_refuse]
    rfl
  · change execTfqry rd rs1 s = _
    simp only [execTfqry, form_every_mode, if_pos hf, finish_refuse]
    rfl

end

theorem put_bit (i : Nat) (b : Bool) : put i i (b2n b) = 2 ^ i * b2n b := by
  cases b <;> simp [put, b2n]

/-- Heads of other tenants are dropped up to the first token of a tenant. -/
theorem dropWhile_others {skipped rest : List TfTok} {t : TfTok} {tid : Nat} (hs : ∀ u ∈ skipped, u.tid ≠ tid) (ht : t.tid = tid) :
    ((skipped ++ t :: rest).dropWhile fun u => u.tid != tid) = t :: rest := by
  rw [List.dropWhile_append_of_pos fun u hu => bne_iff_ne.mpr (hs u hu), List.dropWhile_cons_of_neg (by simp [ht])]

/-- The two counts of TFQRY's word. -/
theorem tfqryWord_fields {n : Nat} (m : Nat) (hn : n ≤ 64) :
    fld (n + put 15 8 (min 255 m)) 6 0 = n ∧ fld (n + put 15 8 (min 255 m)) 15 8 = min 255 m := by
  simp only [fld, put]
  omega

/-- Settles O24, from how each form ends by the FIFO that it finds. -/
theorem tokenFifoForms : Obligations.TokenFifoForms := by
  intro s rd rs1 rs2 f c
  refine ⟨fun hf => ⟨fun hv hroom => ?_, fun hv hfull => ?_, ⟨fun skipped t rest hl hs ht => ?_, fun hs => ?_, State.headsOn_none⟩, _, exec_tfqry hf, fun hlen => ?_⟩,
    exec_tf_of_bad⟩
  · rw [exec_tfpsh hf hv, if_neg (by simpa using hroom)]
  · rw [exec_tfpsh hf hv, if_pos hfull]
  · rw [exec_tfpop hf, hl, dropWhile_others hs ht]
    dsimp only
    rw [put_bit]
  · rw [exec_tfpop hf, List.dropWhile_eq_nil_iff.mpr fun u hu => bne_iff_ne.mpr (hs u hu)]
  · exact tfqryWord_fields _ ((List.length_filter_le _ _).trans hlen)

/-! ### Stream commands (R247, R254, R255) -/

/-- What a command records at acceptance is its barrier's parity alone (R258). -/
theorem State.recordPar_snd (s : State) (q : QueueId) (c : Cmd) : (s.recordPar q c).2 = { c with par := (s.recordPar q c).2.par } := by
  unfold State.recordPar
  split
  · rfl
  · split <;> rfl

/-- The parity has no part in the ticket. -/
theorem State.ticketOf_recordPar (s : State) (q : QueueId) (c : Cmd) : ticketOf q (s.recordPar q c).2 = ticketOf q c := by
  rw [State.recordPar_snd]
  cases q <;> rfl

section
variable {s : State} {slot : Nat} {r : Region} {kind : Nat} {c : List W64}

/-- A stream command that finds its ME and room joins the queues of its streams. -/
theorem State.acceptStrm_of_room {streams : List Nat} (hme : r.state = .loading ∨ (r.me (fld (wd c 3) 6 0) (fld (wd c 3) 11 7)).isSome = true)
    (hroom : ∀ k ∈ streams, r.cmdsAt (fld (wd c 3) 6 0) (fld (wd c 3) 11 7) k < 16) :
    let x := fld (wd c 3) 6 0
    let y := fld (wd c 3) 11 7
    let i := streams.headD 0
    let cmd : Cmd := { kind := kind, c := c, seq := r.nextSeq x y i % 2 ^ 32, hart := s.cur, tid := s.curTid, asid := r.asid, part := r.part }
    let p := s.recordPar (.stream slot x y i) cmd
    s.acceptStrm slot r kind c streams = .ret (streamTicket x y (cmd.stream i) cmd.seq)
      (p.1.modRegion slot fun q => streams.foldl (fun (a : Region) k => a.enqueue x y k p.2 (k == i)) q) := by
  intro x y i cmd p
  have h1 : (r.state != .loading && (r.me x y).isNone) = false := by
    rcases hme with h | h
    · simp [h]
    · rw [← Option.not_isSome, h]; simp
  have h2 : (streams.any fun k => decide (16 ≤ r.cmdsAt x y k)) = false := by
    simpa [List.any_eq_false] using fun k hk => hroom k hk
  unfold State.acceptStrm
  rw [if_neg (by rw [h1]; decide), if_neg (by rw [h2]; decide)]
  exact congrArg (FormEnd.ret · _) (s.ticketOf_recordPar (.stream slot x y i) cmd)

/-- The course of STRM and STRMB with everything in order. -/
theorem strmForm_of_good {h va : Nat} {kindOk : List W64 → Bool} {bs : List Byte} (ha : va % 128 = 0) (hl : s.formLoad false va 128 = (s, .ok bs))
    (hh : s.byHandle h s.guestTid = .ok (slot, r)) (htakes : r.state.takesStrm = true) (hmid : r.midSwitch = false)
    (hhead : headerRefuse (words64 16 bs) kind true = none) (hk : kindOk (words64 16 bs) = true) (streams : List W64 → List Nat) :
    strmForm s h va kind kindOk streams = s.acceptStrm slot r kind (words64 16 bs) (streams (words64 16 bs)) := by
  simp only [strmForm, ha, withBlock_of_load hl, withRegion_of_byHandle hh, htakes, hmid, hhead, hk, bne_self_eq_false, Bool.not_true, Bool.or_self,
    Bool.false_eq_true, if_false]

/-- A stream barrier is numbered by the lowest stream that it names. -/
theorem stream_of_barrier {cmd : Cmd} (hk : cmd.kind = 2) (d : Nat) (hn : (List.range 8).filter cmd.names ≠ []) :
    cmd.stream d = ((List.range 8).filter cmd.names).headD 0 := by
  rw [Cmd.stream, if_pos hk, ← List.head?_filter]
  cases hl : (List.range 8).filter cmd.names with
  | nil => exact absurd hl hn
  | cons a l => rfl

end

/-- A mask of eight streams that is not 0 names a stream. -/
theorem exists_stream_of_mask {w : Nat} (h : fld w 22 15 ≠ 0) : (List.range 8).filter (fun k => bitN w (15 + k)) ≠ [] := by
  intro hl
  have hz (k : Nat) (hk : k < 8) : w / 2 ^ (15 + k) % 2 = 0 := by
    have hn := List.filter_eq_nil_iff.mp hl k (List.mem_range.mpr hk)
    have hb : ¬ w / 2 ^ (15 + k) % 2 = 1 := by simpa [bitN] using hn
    omega
  have h0 := hz 0 (by omega)
  have h1 := hz 1 (by omega)
  have h2 := hz 2 (by omega)
  have h3 := hz 3 (by omega)
  have h4 := hz 4 (by omega)
  have h5 := hz 5 (by omega)
  have h6 := hz 6 (by omega)
  have h7 := hz 7 (by omega)
  unfold fld at h
  omega

/-- Settles O20: the shared course of the two forms, with one stream and with those of a mask. -/
theorem streamCommandForms : Obligations.StreamCommandForms := by
  intro s rd rs1 rs2 bs slot r ha hl hh htakes hmid c x y hme
  refine ⟨fun hhead hz ht hroom => ?_, fun hhead hz1 hz2 hmask ht hroom => ?_⟩
  · change Host.Outcome.next (form s false _ rd _) = _
    rw [form_every_mode, strmForm_of_good ha hl hh htakes hmid hhead (by rw [hz, ht]; rfl),
      State.acceptStrm_of_room hme (by simpa using hroom)]
    simp only [List.headD_cons, List.foldl_cons, List.foldl_nil, beq_self_eq_true, FormEnd.finish]
    rfl
  · have hgood : (fld (wd c 3) 63 23 == 0 && fld (wd c 3) 14 12 == 0 && fld (wd c 3) 22 15 != 0 && (c.drop 4).all (· == 0)) = true := by
      rw [hz1, hz2, ht, bne_iff_ne.mpr hmask]; rfl
    change Host.Outcome.next (form s false _ rd _) = _
    rw [form_every_mode, strmForm_of_good ha hl hh htakes hmid hhead hgood, State.acceptStrm_of_room hme hroom,
      stream_of_barrier rfl _ (exists_stream_of_mask hmask)]
    rfl

/-! ### Engine commands (R246, R261, R262) -/

section
variable {s : State} {rd rs1 rs2 : BitVec 5} {bs : List Byte} (ha : s.xreg rs1 % 128 = 0) (hl : s.formLoad false (s.xreg rs1) 128 = (s, .ok bs))
include ha hl

/-- How CPY, CPYT and COLL end whose check passes. -/
theorem exec_cpy_of_ready {t : State} {q : QueueId} {cmd : Cmd} (hc : s.checkCopy s.askHart 3 (words64 16 bs) (s.xreg rs2) = .ok t q cmd) :
    exec (.cpy rd rs1 rs2) s = .next ((t.enqueueCmd q cmd).retire rd (ticketOf q cmd)) := by
  change execCpy rd rs1 rs2 s = _
  simp only [execCpy, form_every_mode, copyForm, ha, withBlock_of_load hl, hc, bne_self_eq_false, Bool.false_eq_true, if_false, Ready.formEnd, FormEnd.finish]

theorem exec_cpyt_of_ready {t : State} {q : QueueId} {cmd : Cmd} (hc : s.checkCopy s.askHart 4 (words64 16 bs) (s.xreg rs2) = .ok t q cmd) :
    exec (.cpyt rd rs1 rs2) s = .next ((t.enqueueCmd q cmd).retire rd (ticketOf q cmd)) := by
  change execCpyt rd rs1 rs2 s = _
  simp only [execCpyt, form_every_mode, copyForm, ha, withBlock_of_load hl, hc, bne_self_eq_false, Bool.false_eq_true, if_false, Ready.formEnd, FormEnd.finish]

theorem exec_coll_of_ready {t : State} {q : QueueId} {cmd : Cmd} (hc : s.checkColl s.askHart (words64 16 bs) (s.xreg rs2) = .ok t q cmd) :
    exec (.coll rd rs1 rs2) s = .next ((t.enqueueCmd q cmd).retire rd (ticketOf q cmd)) := by
  change execColl rd rs1 rs2 s = _
  simp only [execColl, form_every_mode, ha, withBlock_of_load hl, hc, bne_self_eq_false, Bool.false_eq_true, if_false, Ready.formEnd, FormEnd.finish]

end

section
variable {s : State} {u : Asker} {c : List W64} {sel : Nat}

theorem State.queueReady_of_room {q : QueueId} (cmd : Cmd) (h : (s.cmdQueue q).q.length < 256) :
    s.queueReady q cmd = .ok s q { cmd with seq := (s.cmdQueue q).next } := if_neg (Nat.not_le.mpr h)

/-- The command of a CPY, CPYT or COLL before it has its number. -/
def Asker.cmd (u : Asker) (kind : Nat) (c : List W64) (blocks : List (List W64)) : Cmd :=
  { kind := kind, c := c, seq := 0, hart := u.hart, tid := u.tid, asid := fld (wd c 0) 39 28, part := u.part, pkt := u.pkt, blocks := blocks }

theorem State.checkCopy_bytes {n : Nat} (hu : s.mayUse u (fld (wd c 0) 39 28) = true) (hh : headerRefuse c 3 false = none)
    (hs : s.selectEngine u.die sel = some n) (h3 : wd c 3 = 0) (h6 : wd c 6 ≠ 0) (hmax : wd c 6 ≤ 2 ^ 40) (hz : (c.drop 7).all (· == 0) = true) :
    s.checkCopy u 3 c sel = s.queueReady (.copy n) (u.cmd 3 c []) := by
  simp only [State.checkCopy, hh, hs, h3, hu, hz, decide_eq_false h6, decide_eq_false (Nat.not_lt.mpr hmax), bne_self_eq_false, Bool.not_true, Bool.or_self,
    Bool.false_eq_true, if_false, if_true]
  rfl

theorem State.checkCopy_tensors {n : Nat} {s2 s3 : State} {a b : List W64} (hu : s.mayUse u (fld (wd c 0) 39 28) = true) (hh : headerRefuse c 4 false = none)
    (hs : s.selectEngine u.die sel = some n) (h3 : wd c 3 < 2) (hz : (c.drop 6).all (· == 0) = true)
    (hA : s.takeBlock u.part (fld (wd c 0) 39 28) (wd c 4) 64 = (s2, .ok a)) (hB : s2.takeBlock u.part (fld (wd c 0) 39 28) (wd c 5) 64 = (s3, .ok b))
    (htA : tsOk a = true) (htB : tsOk b = true) (hp : pairOk (tsType a) (tsType b) = true) (hadd : wd c 3 = 1 → addTypeOk (tsType b) = true) :
    s.checkCopy u 4 c sel = (s3.queueReady (.copy n) (u.cmd 4 c [a, b])).keep s := by
  have h43 : ¬ (4 : Nat) = 3 := by decide
  have hno : (wd c 3 == 1 && !addTypeOk (tsType b)) = false := by
    by_cases h1 : wd c 3 = 1
    · simp [hadd h1]
    · simp [h1]
  simp only [State.checkCopy, hh, hs, if_neg h43, decide_eq_false (Nat.not_le.mpr h3), hz, hu, hA, hB, htA, htB, hp, hno, Bool.not_true, Bool.or_self,
    Bool.false_eq_true, if_false]
  rfl

theorem State.checkColl_good {s2 : State} {g t : List W64} (hu : s.mayUse u (fld (wd c 0) 39 28) = true) (hh : headerRefuse c 5 false = none) (hsel : sel < 8)
    (hlo : (s.partRange u.part).1 ≤ sel) (hhi : sel ≤ (s.partRange u.part).2) (hw : collWordsOk c = true) (h5 : wd c 5 % 64 = 0) (h6 : wd c 6 % 64 = 0)
    (hG : s.takeGroup u.part (fld (wd c 0) 39 28) (wd c 4) = (s2, .ok (g, t))) (hg : groupOk g (fld (wd c 7) 3 0) = true) (hal : groupAligned g = true)
    (hr : ranksOk t (gNr g) (gMyr g) s2.xlat.xmod sel = true) :
    s.checkColl u c sel = (s2.queueReady (.coll sel) (u.cmd 5 c [g, t])).keep s := by
  simp only [State.checkColl, hh, decide_eq_false (Nat.not_le.mpr hsel), decide_eq_false (Nat.not_lt.mpr hlo), decide_eq_false (Nat.not_lt.mpr hhi), hw, h5, h6, hu,
    hG, hg, hal, hr, bne_self_eq_false, Bool.not_true, Bool.or_self, Bool.false_eq_true, if_false]
  rfl

end

theorem put_class (k : Nat) (h : k < 16) : put 51 48 k = k * 2 ^ 48 := by
  rw [put, Nat.mod_eq_of_lt (by omega)]

theorem ticketOf_copy (n : Nat) (c : Cmd) : ticketOf (.copy n) c = 2 * 2 ^ 48 + put 47 32 n + put 31 0 c.seq := by
  rw [ticketOf, put_class 2 (by decide)]

theorem ticketOf_coll (k : Nat) (c : Cmd) : ticketOf (.coll k) c = 3 * 2 ^ 48 + put 47 32 k + put 31 0 c.seq := by
  rw [ticketOf, put_class 3 (by decide)]

/-- Settles O25: each form's check passes, its queue has room, and the command is queued with its number. -/
theorem engineCommandForms : Obligations.EngineCommandForms := by
  intro s rd rs1 rs2 bs ha hl c u asid hu
  refine ⟨fun n hh hs h3 h6 hmax hz hroom => ?_, fun n s2 s3 a b hh hs h3 hz hA hB htA htB hp hadd hroom => ?_,
    fun s2 g t hh hsel hlo hhi hw h5 h6 hG hg hal hr hroom => ?_, fun t q cmd => rfl⟩
  · have hc := State.checkCopy_bytes hu hh hs h3 h6 hmax hz
    rw [State.queueReady_of_room (q := .copy n) _ hroom] at hc
    rw [exec_cpy_of_ready ha hl hc, ticketOf_copy]
    rfl
  · have hc := State.checkCopy_tensors hu hh hs h3 hz hA hB htA htB hp hadd
    rw [State.queueReady_of_room (q := .copy n) _ hroom] at hc
    rw [exec_cpyt_of_ready ha hl hc, ticketOf_copy]
    rfl
  · have hc := State.checkColl_good hu hh hsel hlo hhi hw h5 h6 hG hg hal hr
    rw [State.queueReady_of_room (q := .coll (s.xreg rs2)) _ hroom] at hc
    rw [exec_coll_of_ready ha hl hc, ticketOf_coll]
    rfl

end Sys2Proof.Machine

namespace Sys2Proof.Machine

set_option Elab.async false

/-! ## Counter banks, traces, migrations, policies and the journal (R266 to R270) -/

/-! ### Counter banks (R266, R267) -/

/-- A CTRSEL that asks for a bank with everything in order, in a state in which its core has no request. -/
structure State.AsksBank (u : State) (rs1 rs2 : BitVec 5) (bs : List Byte) : Prop where
  lt : u.xreg rs1 < 512
  asks : bitN (u.xreg rs1) 8 = false
  load : u.formLoad false (u.xreg rs2) 256 = (u, .ok bs)
  events : (words64 32 bs).findSome? (u.eventRefuse u.guestTid (u.hartPart u.cur)) = none
  owner : u.bankOwner (u.hartPart u.cur) (fld (u.xreg rs1) 7 4) = none ∨ u.bankOwner (u.hartPart u.cur) (fld (u.xreg rs1) 7 4) = u.guestTid
  held : u.bankHeld (u.hartPart u.cur) (fld (u.xreg rs1) 7 4) = false
  own : ∀ b, u.selBank (fld (u.xreg rs1) 3 0) = some b → u.bankDenied b = false

section
variable {s : State} {rd rs1 rs2 : BitVec 5}

/-- A core without a request has none to drop. -/
theorem State.dropBankClaim_of_none (h : s.bankClaim = none) : s.dropBankClaim = s := by
  have hall : s.banks.filter (fun b => !(b.prov && b.hart == s.cur)) = s.banks :=
    List.filter_eq_self.mpr fun b hb => by simpa [imp_iff_not_or] using List.find?_eq_none.mp h b hb
  rw [State.dropBankClaim, hall]

theorem exec_ctrsel_free (hw : s.dropBankClaim.xreg rs1 < 512) (h8 : bitN (s.dropBankClaim.xreg rs1) 8 = true) :
    exec (.ctrsel rd rs1 rs2) s = .next (match s.dropBankClaim.selBank (fld (s.dropBankClaim.xreg rs1) 3 0) with
      | none => s.dropBankClaim.retire rd 0
      | some b => (if s.dropBankClaim.bankDenied b then refuse s.dropBankClaim .denied
          else .ret 0 (s.dropBankClaim.freeBank (s.dropBankClaim.hartPart s.dropBankClaim.cur) b.bank)).finish s rd) := by
  change execCtrsel rd rs1 rs2 s = _
  simp only [execCtrsel, form_every_mode, if_neg (Nat.not_le.mpr hw), h8, if_true]
  cases s.dropBankClaim.selBank (fld (s.dropBankClaim.xreg rs1) 3 0) <;> rfl

theorem exec_ctrsel_of_asks {bs : List Byte} (h : s.dropBankClaim.AsksBank rs1 rs2 bs) :
    exec (.ctrsel rd rs1 rs2) s = .next ((s.dropBankClaim.askBank s.bankClaim (s.dropBankClaim.hartPart s.dropBankClaim.cur) (fld (s.dropBankClaim.xreg rs1) 7 4)
      (fld (s.dropBankClaim.xreg rs1) 3 0) (words64 32 bs)).finish s rd) := by
  obtain ⟨hw, h8, hl, hev, hown, hheld, hmine⟩ := h
  change execCtrsel rd rs1 rs2 s = _
  unfold execCtrsel
  rw [form_every_mode]
  generalize s.dropBankClaim = u at *
  have hfree : ((u.bankOwner (u.hartPart u.cur) (fld (u.xreg rs1) 7 4)).isSome && u.bankOwner (u.hartPart u.cur) (fld (u.xreg rs1) 7 4) != u.guestTid) = false := by
    rcases hown with h | h <;> simp [h]
  have hok : ((u.selBank (fld (u.xreg rs1) 3 0)).map u.bankDenied).getD false = false := by
    cases hs : u.selBank (fld (u.xreg rs1) 3 0) with
    | none => rfl
    | some b => exact hmine b hs
  simp only [if_neg (Nat.not_le.mpr hw), h8, withBlock_of_load hl, hev, hfree, hheld, hok, Bool.false_eq_true, if_false]

variable {u : State} {part bank sel : Nat} {ev : List W64} {claim : Option CtrBank}

/-- A guest's request, an operator's of its own bank, and one whose fc has passed are granted. -/
theorem State.askBank_granted (h : u.guestTid.isSome = true ∨ (∃ b, u.findBank part bank = some b ∧ b.prov = false) ∨
      (∃ b, claim = some b ∧ b.fc < u.fc ∧ b.bank = bank ∧ b.part = part)) :
    u.askBank claim part bank sel ev = .ret 0 (u.grantBank part bank sel ev) := by
  unfold State.askBank
  rcases h with h | ⟨b, hb, hp⟩ | ⟨b, hb, hfc, h1, h2⟩
  · simp [h]
  · simp [hb, hp]
  · simp [hb, hfc, h1, h2]

/-- An operator's first request for a free bank waits. -/
theorem State.askBank_waits (hg : u.guestTid = none) (hb : u.findBank part bank = none) :
    u.askBank none part bank sel ev =
      ({ u with banks := u.banks ++ [{ part := part, bank := bank, tid := none, hart := u.cur, ctrs := [], fc := u.fc, prov := true }] } : State).holdForm := by
  simp [State.askBank, hg, hb]

/-- A granted bank stands last, and in the place of what was there. -/
theorem State.grantBank_banks (u : State) (part bank sel : Nat) (ev : List W64) :
    ∃ l, (u.grantBank part bank sel ev).banks =
        l ++ [{ part := part, bank := bank, tid := u.guestTid, hart := u.cur, ctrs := ev.map (u.bindCounter u.guestTid part), fc := u.fc }] ∧
      ∀ b ∈ l, b ∈ u.banks ∧ ¬ (b.part = part ∧ b.bank = bank) := by
  have hfreed (t : State) (k : Nat) (b : CtrBank) (hb : b ∈ (t.freeBank part k).banks) : b ∈ t.banks ∧ ¬ (b.part = part ∧ b.bank = k) := by
    simpa [imp_iff_not_or, not_and_or] using List.mem_filter.mp hb
  unfold State.grantBank
  cases u.selBank sel with
  | none => exact ⟨_, rfl, hfreed u bank⟩
  | some c => exact ⟨_, rfl, fun b hb => ⟨(hfreed u c.bank b (hfreed _ bank b hb).1).1, (hfreed _ bank b hb).2⟩⟩

theorem exec_ctrrd_status {b : CtrBank} (hw : s.xreg rs1 < 1024) (hb : s.selBank (fld (s.xreg rs1) 3 0) = some b) (hd : s.bankDenied b = false)
    (h9 : bitN (s.xreg rs1) 9 = true) : exec (.ctrrd rd rs1) s = .next ((s.setBank { b with mig := false }).retire rd b.status) := by
  change execCtrrd rd rs1 s = _
  simp only [execCtrrd, form_every_mode, if_neg (Nat.not_le.mpr hw), hb, hd, h9, Bool.false_eq_true, if_false, if_true, FormEnd.finish]

theorem exec_ctrrd_counter {b : CtrBank} (hw : s.xreg rs1 < 1024) (hb : s.selBank (fld (s.xreg rs1) 3 0) = some b) (hd : s.bankDenied b = false)
    (h9 : bitN (s.xreg rs1) 9 = false) (ha : bitN b.abs.toNat (fld (s.xreg rs1) 8 4) = false) :
    exec (.ctrrd rd rs1) s = .next ((s.readCounter b (fld (s.xreg rs1) 8 4)).1.retire rd (s.readCounter b (fld (s.xreg rs1) 8 4)).2) := by
  change execCtrrd rd rs1 s = _
  simp only [execCtrrd, form_every_mode, if_neg (Nat.not_le.mpr hw), hb, hd, h9, ha, Bool.false_eq_true, if_false, FormEnd.finish]

theorem exec_ctrclr_guest {b : CtrBank} {t : Nat} (hw : s.xreg rs1 < 16) (hb : s.selBank (s.xreg rs1) = some b) (hd : s.bankDenied b = false)
    (hg : s.guestTid = some t) :
    exec (.ctrclr rd rs1) s = .next ((s.setBank { b with ctrs := b.ctrs.map fun c => { c with live := 0, released := 0, clear := false } }).retire rd 0) := by
  change execCtrclr rd rs1 s = _
  simp only [execCtrclr, form_every_mode, if_neg (Nat.not_le.mpr hw), hb, hd, hg, Option.isSome_some, Bool.true_or, Bool.false_eq_true, if_false, if_true,
    FormEnd.finish]

end

/-- Settles O28, form by form. -/
theorem counterForms : Obligations.CounterForms := by
  intro s rd rs1 rs2 w sel bank part u
  refine ⟨State.dropBankClaim_of_none, fun hw h8 hs => ?_, fun b hw h8 hs hd => ?_, fun bs hw h8 hl => ?_, fun b hw hb hd => ⟨exec_ctrrd_status hw hb hd, exec_ctrrd_counter hw hb hd⟩,
    fun b t hw hb hd hg => exec_ctrclr_guest hw hb hd hg⟩
  · have hsel : s.dropBankClaim.selBank (fld (s.dropBankClaim.xreg rs1) 3 0) = none := hs
    rw [exec_ctrsel_free hw h8, hsel]
  · have hsel : s.dropBankClaim.selBank (fld (s.dropBankClaim.xreg rs1) 3 0) = some b := hs
    have hden : s.dropBankClaim.bankDenied b = false := hd
    rw [exec_ctrsel_free hw h8, hsel]
    dsimp only
    rw [hden, if_neg Bool.false_ne_true]
    rfl
  · intro ev hev hown hheld hmine
    have h : s.dropBankClaim.AsksBank rs1 rs2 bs := ⟨hw, h8, hl, hev, hown, hheld, hmine⟩
    refine ⟨fun hgrant => ⟨?_, u.grantBank_banks part bank sel ev⟩, fun hg hb hc => ?_⟩
    · rw [exec_ctrsel_of_asks h]
      exact congrArg (fun f : FormEnd => Host.Outcome.next (f.finish s rd)) (State.askBank_granted hgrant)
    · have hu : s.dropBankClaim = s := State.dropBankClaim_of_none hc
      have hb' : s.findBank part bank = none := by rw [← hu]; exact hb
      rw [exec_ctrsel_of_asks h, hc, hu]
      exact congrArg (fun f : FormEnd => Host.Outcome.next (f.finish s rd)) (State.askBank_waits hg hb')

/-! ### Traces (R268) -/

section
variable {s : State} {rd rs1 rs2 : BitVec 5} {slot : Nat} {r : Region}

/-- A TRCON with everything in order, in a state in which its core waits for no units. -/
structure State.AsksTrace (u : State) (rs1 rs2 : BitVec 5) (bs : List Byte) (slot pa : Nat) (r : Region) : Prop where
  aligned : u.xreg rs2 % 64 = 0
  load : u.formLoad false (u.xreg rs2) 64 = (u, .ok bs)
  handle : u.byHandle (u.xreg rs1) u.guestTid = .ok (slot, r)
  tiles : r.strips ≠ []
  still : r.midSwitch = false
  words : traceBlockOk (words64 8 bs) (u.hart u.cur).mode.virt = true
  guest : (u.hart u.cur).mode.virt = true → u.mayUse u.askHart (tbAsid (words64 8 bs)) = true
  operator : (u.hart u.cur).mode.virt = false → u.trc r.tid ≠ 2
  units : u.unitsBusy r.strips = false
  place : u.hartPiece u.cur .load false (u.xreg rs2) 64 = (u, .ok pa)

/-- The trace that a TRCON asks for. -/
def State.askedTrace (u : State) (tb : List W64) (slot pa : Nat) : Trace :=
  { slot := slot, hart := u.cur, mid := (u.hart u.cur).oxmid.toNat, part := u.hartPart u.cur, blk := pa, tb := tb, op := !(u.hart u.cur).mode.virt, fc := u.fc }

theorem exec_trcon_of_asks {bs : List Byte} {pa : Nat} (h : s.dropTraceClaim.AsksTrace rs1 rs2 bs slot pa r) :
    exec (.trcon rd rs1 rs2) s =
      .next ((s.dropTraceClaim.askUnits (s.traceClaim slot) r.strips (s.dropTraceClaim.askedTrace (words64 8 bs) slot pa)).finish s rd) := by
  obtain ⟨ha, hl, hh, ht, hmid, hw, hguest, hop, hunits, hp⟩ := h
  change execTrcon rd rs1 rs2 s = _
  unfold execTrcon
  rw [form_every_mode]
  generalize s.dropTraceClaim = u at *
  have hsome : r.strips.isEmpty = false := by simpa using ht
  have hright : (((u.hart u.cur).mode.virt && !u.mayUse u.askHart (tbAsid (words64 8 bs))) || (!(u.hart u.cur).mode.virt && u.trc r.tid == 2)) = false := by
    cases hv : (u.hart u.cur).mode.virt with
    | true => simp [hguest hv]
    | false => simpa using hop hv
  simp only [ha, withBlock_of_load hl, withRegion_of_byHandle hh, hsome, hmid, hw, hright, hunits, hp, bne_self_eq_false, Bool.not_true, Bool.or_self,
    Bool.false_eq_true, if_false]
  rfl

variable {u : State} {strips : List Nat} {t : Trace}

theorem State.askUnits_guest (claim : Option Trace) (ht : t.op = false) :
    u.askUnits claim strips t = .ret 0 { u.outbidTraces strips with traces := (u.outbidTraces strips).traces ++ [t] } := by
  simp [State.askUnits, ht]

theorem State.askUnits_operator_first (ht : t.op = true) :
    u.askUnits none strips t = ({ u with traces := u.traces ++ [{ t with prov := true }] } : State).holdForm := by
  simp [State.askUnits, ht]

theorem State.askUnits_operator_due {c : Trace} (ht : t.op = true) (hc : c.fc < u.fc) :
    u.askUnits (some c) strips t = .ret 0 { u with traces := u.traces ++ [t] } := by
  simp [State.askUnits, ht, hc]

/-- Where no request stands, none gives way. -/
theorem State.outbidTraces_of_none (h : (s.traces.filter fun c => c.prov && s.traceOver strips c) = []) :
    s.dropTraceClaim.outbidTraces strips = s.dropTraceClaim := by
  have hall : s.dropTraceClaim.traces.filter (fun c => !(c.prov && s.traceOver strips c)) = s.dropTraceClaim.traces :=
    List.filter_eq_self.mpr fun c hc => by simpa [imp_iff_not_or] using List.filter_eq_nil_iff.mp h c (List.mem_filter.mp hc).1
  exact congrArg (fun l => { s.dropTraceClaim with traces := l }) hall

theorem exec_trcoff (hh : s.byHandle (s.xreg rs1) s.guestTid = .ok (slot, r)) (hmid : r.midSwitch = false)
    (hmay : ∀ t, s.traces.find? (fun u => u.slot == slot) = some t → (s.hart s.cur).mode.virt = false ∨ t.op = false) :
    exec (.trcoff rd rs1) s = .next ((s.stopTrace slot).retire rd 0) := by
  have hok : (((s.traces.find? (·.slot == slot)).map fun t => (s.hart s.cur).mode.virt && t.op) == some true) = false := by
    cases hf : s.traces.find? (·.slot == slot) with
    | none => rfl
    | some t => rcases hmay t hf with h | h <;> simp [h]
  change execTrcoff rd rs1 s = _
  simp only [execTrcoff, form_every_mode, withRegion_of_byHandle hh, hmid, hok, Bool.false_eq_true, if_false, FormEnd.finish]

end

/-- Settles O29: a guest's TRCON outbids, an operator's waits for its fc to pass. -/
theorem traceForms : Obligations.TraceForms := by
  refine ⟨fun s rd rs1 rs2 bs slot pa r ha => ?_, fun s rd rs1 slot r hh hmid hmay => exec_trcoff hh hmid hmay⟩
  intro u hl hh ht hmid tb virt hw hguest hop hunits hp t u2
  have h : s.dropTraceClaim.AsksTrace rs1 rs2 bs slot pa r := ⟨ha, hl, hh, ht, hmid, hw, hguest, hop, hunits, hp⟩
  refine ⟨fun hv => ?_, fun hv hc => ?_, fun c hv hc hfc => ?_, State.outbidTraces_of_none⟩
  · rw [exec_trcon_of_asks h]
    exact congrArg (fun f : FormEnd => Host.Outcome.next (f.finish s rd)) (State.askUnits_guest (t := t) _ (congrArg not hv))
  · rw [exec_trcon_of_asks h, hc]
    exact congrArg (fun f : FormEnd => Host.Outcome.next (f.finish s rd)) (State.askUnits_operator_first (t := t) (congrArg not hv))
  · rw [exec_trcon_of_asks h, hc]
    exact congrArg (fun f : FormEnd => Host.Outcome.next (f.finish s rd)) (State.askUnits_operator_due (u := s.dropTraceClaim) (t := t) (congrArg not hv) hfc)

/-! ### Migrations and policies (R269) -/

section
variable {s : State} {rd rs1 rs2 : BitVec 5}

/-- The migration of a descriptor that a form or a packet hands over. -/
def State.newMigration (s : State) (u : Asker) (m : List W64) (slot : Nat) (r : Region) : Migration :=
  { seq := s.dune.next, m := m, hart := u.hart, tid := u.tid, pkt := u.pkt, slot := slot, todo := List.range (migPages m), ending := migMode m = 1,
    polWait := (s.signedPolicy r.tid).isSome }

/-- A page stream holds a migration. -/
def State.holdMigration (s : State) (k : Nat) (g : Migration) : State :=
  { s with dune := { s.dune with streams := insertKV s.dune.streams k g, next := (s.dune.next + 1) % 2 ^ 32 } }

/-- The state in which a page stream has taken a migration of a region. -/
def State.takesMigration (s : State) (u : Asker) (m : List W64) (slot : Nat) (r : Region) (k : Nat) : State :=
  (s.holdMigration k (s.newMigration u m slot r)).setRegion slot { r with migrating := true }

/-- A migration begins: its policy goes ahead of it, or a post-copy freezes its region. -/
def State.beginsMigration (s : State) (u : Asker) (m : List W64) (slot : Nat) (r : Region) (k : Nat) : State :=
  match s.signedPolicy r.tid with
  | some bs => (s.takesMigration u m slot r k).sendTo { part := r.part, tid := r.tid, mod := migModule m } bs.length
  | none => if migMode m = 1 then (s.takesMigration u m slot r k).migFreeze slot else s.takesMigration u m slot r k

theorem State.beginsMigration_of_policy {u : Asker} {m : List W64} {slot k : Nat} {r : Region} {pol : List Byte} (h : s.signedPolicy r.tid = some pol) :
    s.beginsMigration u m slot r k = (s.takesMigration u m slot r k).sendTo { part := r.part, tid := r.tid, mod := migModule m } pol.length := by
  rw [State.beginsMigration, h]

theorem State.beginsMigration_of_none {u : Asker} {m : List W64} {slot k : Nat} {r : Region} (h : s.signedPolicy r.tid = none) :
    s.beginsMigration u m slot r k = if migMode m = 1 then (s.takesMigration u m slot r k).migFreeze slot else s.takesMigration u m slot r k := by
  rw [State.beginsMigration, h]

/-- A descriptor of a migration that can be accepted (R269, R385). -/
structure State.MigrationOk (s : State) (u : Asker) (m : List W64) (slot : Nat) (r : Region) (k : Nat) : Prop where
  words : migBad m = false
  away : migModule m ≠ s.xlat.xmod
  aligned : migUnaligned m = false
  handle : s.byHandle (fld (wd m 0) 31 0) u.only = .ok (slot, r)
  state : r.state = .resident ∨ r.state = .frozen
  alone : r.shadow = none ∧ r.shadowOf = none
  still : r.migrating = false
  stream : s.dune.freeStream = some k

theorem State.MigrationOk.acceptMigration {u : Asker} {m : List W64} {slot k : Nat} {r : Region} (h : s.MigrationOk u m slot r k) :
    s.acceptMigration u m = .ok (s.beginsMigration u m slot r k, migTicket s.dune.next) := by
  obtain ⟨hbad, haway, hal, hh, hst, ⟨hs, hsh⟩, hmig, hk⟩ := h
  have hfit : (r.state == .resident || r.state == .frozen) = true := by simpa using hst
  have hr : (s.holdMigration k (s.newMigration u m slot r)).region slot = some r := State.byHandle_region hh
  have hmark : (s.holdMigration k (s.newMigration u m slot r)).modRegion slot (fun x => { x with migrating := true }) = s.takesMigration u m slot r k :=
    State.modRegion_of_some hr _
  have hno1 : r.shadow.isSome = false := by rw [hs]; rfl
  have hno2 : r.shadowOf.isSome = false := by rw [hsh]; rfl
  simp only [State.acceptMigration, hbad, decide_eq_false haway, hal, hh, hfit, hno1, hno2, hmig, hk, Bool.not_true, Bool.or_self, Bool.false_eq_true, if_false]
  change Except.ok (match s.signedPolicy r.tid with
    | some bs => ((s.holdMigration k (s.newMigration u m slot r)).modRegion slot fun x => { x with migrating := true }).sendTo
        { part := r.part, tid := r.tid, mod := migModule m } bs.length
    | none => if migMode m = 1 then ((s.holdMigration k (s.newMigration u m slot r)).modRegion slot fun x => { x with migrating := true }).migFreeze slot
        else (s.holdMigration k (s.newMigration u m slot r)).modRegion slot fun x => { x with migrating := true }, _) = _
  rw [hmark]
  rfl

theorem exec_dunego_of_accepted {bs : List Byte} {t : State} {v : Nat} (hm : (s.hart s.cur).mode.high = true) (ha : s.xreg rs1 % 64 = 0)
    (hl : s.formLoad true (s.xreg rs1) 64 = (s, .ok bs)) (hacc : s.acceptMigration s.askHart (words64 8 bs) = .ok (t, v)) :
    exec (.dunego rd rs1) s = .next (t.retire rd v) := by
  change execDunego rd rs1 s = _
  simp only [execDunego, form_of_high hm, ha, withBlock_of_load hl, hacc, bne_self_eq_false, Bool.false_eq_true, if_false, FormEnd.finish]

theorem exec_svpol (hm : (s.hart s.cur).mode.high = true) (hp : s.xreg rs1 % 4096 = 0) (hw : s.xreg rs2 % 8 = 0) (hroom : s.polWait.length < 4) :
    exec (.svpol rd rs1 rs2) s = .next (({ s with polWait := s.polWait ++ [(s.xreg rs1, s.xreg rs2)] } : State).retire rd 0) := by
  change execSvpol rd rs1 rs2 s = _
  simp only [execSvpol, form_of_high hm, hp, hw, if_neg (Nat.not_le.mpr hroom), bne_self_eq_false, Bool.or_self, Bool.false_eq_true, if_false, FormEnd.finish]

/-! ### The journal (R270) -/

theorem exec_jrnrd_of_held {rec : List W64} {newest : Nat} {s1 : State} (hm : (s.hart s.cur).mode.high = true) (ha : s.xreg rs2 % 64 = 0)
    (hr : s.journalRec (s.hartPart s.cur) (s.xreg rs1) = some (rec, newest))
    (hs : s.hartStore s.cur true (piecesOf (s.xreg rs2) 64) (bytesOf64 rec) = (s1, none)) : exec (.jrnrd rd rs1 rs2) s = .next (s1.retire rd newest) := by
  change execJrnrd rd rs1 rs2 s = _
  simp only [execJrnrd, form_of_high hm, ha, hr, hs, bne_self_eq_false, Bool.false_eq_true, if_false, FormEnd.finish]

theorem exec_jrnrd_of_not_held (hm : (s.hart s.cur).mode.high = true) (ha : s.xreg rs2 % 64 = 0)
    (hr : s.journalRec (s.hartPart s.cur) (s.xreg rs1) = none) : exec (.jrnrd rd rs1 rs2) s = .next (s.retire rd (2 ^ 63 + 12 * 2 ^ 56)) := by
  change execJrnrd rd rs1 rs2 s = _
  simp only [execJrnrd, form_of_high hm, ha, hr, bne_self_eq_false, Bool.false_eq_true, if_false, finish_refuse]
  rfl

variable {j : Journal} {part n : Nat} (hj : s.journals.find? (fun k => k.first == part) = some j) (hlen : j.recs.length = min j.count 65536)
include hj hlen

/-- The journal holds the last 65,536 records. -/
theorem State.journalRec_of_held (h1 : n < j.count) (h2 : j.count ≤ n + 65536) :
    ∃ rec, j.recs[n - (j.count - j.recs.length)]? = some rec ∧ s.journalRec part n = some (rec, j.count - 1) := by
  have hin : n - (j.count - j.recs.length) < j.recs.length := by omega
  have hrange : n < j.count ∧ j.count ≤ n + 65536 ∧ j.count - j.recs.length ≤ n := by omega
  have hget := List.getElem?_eq_getElem hin
  refine ⟨_, hget, ?_⟩
  rw [State.journalRec, hj, Option.bind_some, if_pos hrange, hget, Option.map_some]

omit hlen in
theorem State.journalRec_of_not_held (h : j.count ≤ n ∨ n + 65536 < j.count) : s.journalRec part n = none := by
  rw [State.journalRec, hj, Option.bind_some, if_neg (by omega)]

end

/-- Settles O30, form by form. -/
theorem hardpanForms : Obligations.HardpanForms := by
  intro s rd rs1 rs2 hm
  refine ⟨fun bs slot r k ha hl => ?_, exec_svpol hm, fun rec newest s1 ha hr hs => exec_jrnrd_of_held hm ha hr hs⟩
  intro m hbad haway hal hh hst hs hsh hmig hk g s2 s3
  have h : s.MigrationOk s.askHart m slot r k := ⟨hbad, haway, hal, hh, hst, ⟨hs, hsh⟩, hmig, hk⟩
  refine ⟨fun hpol => ?_, fun pol hpol => ?_⟩
  · rw [exec_dunego_of_accepted hm ha hl h.acceptMigration, State.beginsMigration_of_none hpol]
    rfl
  · rw [exec_dunego_of_accepted hm ha hl h.acceptMigration, State.beginsMigration_of_policy hpol]
    rfl

/-- Settles O31: a number is held exactly where it is one of the last 65,536. -/
theorem journalRecordsHeld : Obligations.JournalRecordsHeld := by
  intro s rd rs1 rs2 j hm ha hj hlen n
  refine ⟨fun h1 h2 => ?_, fun h => exec_jrnrd_of_not_held hm ha (State.journalRec_of_not_held hj h)⟩
  obtain ⟨rec, hrec, hheld⟩ := State.journalRec_of_held hj hlen h1 h2
  exact ⟨rec, hrec, fun s1 hs => exec_jrnrd_of_held hm ha hheld hs⟩

end Sys2Proof.Machine

namespace Sys2Proof.Machine

set_option Elab.async false

/-! ## Engine commands from issue to retirement (R247 to R249, R373) -/

/-! ### The token that a command waits for -/

section
variable {s s1 : State} {q : QueueId} {c c1 : Cmd}

theorem State.popFor_of_free (h : c.wte = false ∨ c.popped = true) : s.popFor c = some (s, c) := by
  have hb : (!c.wte || c.popped) = true := by simpa using h
  rw [State.popFor, if_pos hb]

theorem State.popFor_of_no_token (hw : c.wte = true) (hp : c.popped = false) (ht : takeToken c.tid ((s.hart c.hart).fifo c.wtf) = none) :
    s.popFor c = none := by
  simp [State.popFor, hw, hp, ht]

theorem State.popFor_of_token {k : TfTok} {l : List TfTok} (hw : c.wte = true) (hp : c.popped = false)
    (ht : takeToken c.tid ((s.hart c.hart).fifo c.wtf) = some (k, l)) :
    s.popFor c = some (s.modHart c.hart fun h => h.setFifo c.wtf l, if k.psn then { c.failed 256 with popped := true } else { c with popped := true }) := by
  have hb : ¬ (!c.wte || c.popped) = true := by simp [hw, hp]
  rw [State.popFor, if_neg hb, ht]
  rfl

/-! ### COMMAND_ISSUE -/

/-- The packet of a command learns that the command runs. -/
def State.tellRunning (u : State) (q : QueueId) (c : Cmd) : State := (c.pkt.map fun p => u.due p 2 0 (ticketOf q c) 0 (ticketOf q c) true).getD u

/-- A command stands at the head of a queue that may issue it. -/
structure State.Issues (s : State) (q : QueueId) (c : Cmd) : Prop where
  held : s.orphanAt q = none
  head : (s.cmdQueue q).q.head? = some c
  waits : c.issued = false
  undone : c.done = false
  may : s.mayIssue q c = true

theorem State.Issues.of_no_token (h : s.Issues q c) (hp : s.popFor c = none) : s.issue q = s := by
  obtain ⟨ho, hh, hi, hd, hm⟩ := h
  simp only [State.issue, ho, hh, hi, hd, hm, hp, Bool.not_true, Bool.or_self, Bool.false_eq_true, if_false]

theorem State.Issues.of_failed (h : s.Issues q c) (hp : s.popFor c = some (s1, c1)) (hd1 : c1.done = true) :
    s.issue q = s1.setHead q { c1 with issued := true } := by
  obtain ⟨ho, hh, hi, hd, hm⟩ := h
  simp only [State.issue, ho, hh, hi, hd, hm, hp, hd1, Bool.not_true, Bool.or_self, Bool.false_eq_true, if_false, if_true]

theorem State.Issues.copy {n : Nat} (h : s.Issues (.copy n) c) (hp : s.popFor c = some (s1, c1)) (hd1 : c1.done = false) :
    s.issue (.copy n) = (s1.setHead (.copy n) { c1 with issued := true }).tellRunning (.copy n) c := by
  obtain ⟨ho, hh, hi, hd, hm⟩ := h
  simp only [State.issue, ho, hh, hi, hd, hm, hp, hd1, Bool.not_true, Bool.or_self, Bool.false_eq_true, if_false, State.tellRunning]
  cases c.pkt <;> rfl

theorem State.Issues.stream {slot x y i : Nat} {s3 : State} (h : s.Issues (.stream slot x y i) c) (hp : s.popFor c = some (s1, c1)) (hd1 : c1.done = false)
    (hk : c.kind ≠ 2) (hs : (s1.setHead (.stream slot x y i) { c1 with issued := true }).startStream ⟨slot, x, y⟩ i ((c.c.drop 4).take 8) true c.units = (s3, true)) :
    s.issue (.stream slot x y i) = s3 := by
  obtain ⟨ho, hh, hi, hd, hm⟩ := h
  simp only [hd1] at hs
  simp only [State.issue, ho, hh, hi, hd, hm, hp, hd1, if_neg hk, hs, Bool.not_true, Bool.or_self, Bool.false_eq_true, if_false]

theorem State.Issues.barrier {slot x y i : Nat} (h : s.Issues (.stream slot x y i) c) (hp : s.popFor c = some (s1, c1)) (hd1 : c1.done = false)
    (hk : c.kind = 2) : s.issue (.stream slot x y i) =
      (s1.setHead (.stream slot x y i) { c1 with issued := true }).setHead (.stream slot x y i) { c1 with issued := true, done := true } := by
  obtain ⟨ho, hh, hi, hd, hm⟩ := h
  simp only [State.issue, ho, hh, hi, hd, hm, hp, hd1, if_pos hk, Bool.not_true, Bool.or_self, Bool.false_eq_true, if_false]

theorem State.Issues.coll {k : Nat} (h : s.Issues (.coll k) c) (hp : s.popFor c = some (s1, c1)) (hd1 : c1.done = false) (hpkt : c.pkt = none) :
    s.issue (.coll k) = (s1.setHead (.coll k) { c1 with issued := true }).modColl k fun e => { ({} : CollEngine) with cmds := e.cmds, hdrs := e.hdrs } := by
  obtain ⟨ho, hh, hi, hd, hm⟩ := h
  simp only [State.issue, ho, hh, hi, hd, hm, hp, hd1, hpkt, Bool.not_true, Bool.or_self, Bool.false_eq_true, if_false]

/-- The head of a copy engine's queue, in the place of what stood there. -/
theorem State.setHead_copy {n : Nat} {rest : List Cmd} (hq : (s.copyEngine n).cmds.q = c :: rest) (c1 : Cmd) :
    s.setHead (.copy n) c1 = s.modCmds (.copy n) fun u => { u with q := c1 :: rest } := by
  have htail : (s.copyEngine n).cmds.q.tail = rest := by rw [hq]; rfl
  change s.modCopy n (fun e => { e with cmds := { e.cmds with q := c1 :: e.cmds.q.tail } }) = s.modCopy n fun e => { e with cmds := { e.cmds with q := c1 :: rest } }
  simp only [State.modCopy, htail]

/-! ### COPY_UNIT, COMMAND_RETIRE and ENGINE_TOKEN_PUSH -/

/-- The unit that a copy engine moves next. -/
def State.copyStep (s : State) (n : Nat) (c : Cmd) : State × Option AccFault := if c.kind = 3 then s.bytesUnit (.copy n) c else s.elemsUnit (.copy n) c

theorem exec_copyUnit {n : Nat} {rest : List Cmd} (hq : (s.copyEngine n).cmds.q = c :: rest) (hi : c.issued = true) (hd : c.done = false) (hp : c.paused = false)
    (ht : (s.copyEngine n).turn = false ∨ s.mdrcReady n = false) (hu : s.copyStep n c = (s1, none)) :
    let p := s1.sendBar (.copy n) c false (c.bytesOfUnit c.units)
    exec (.copyUnit n) s = .next (((p.1.count 4 0 { part := c.part, tid := c.tid } 1).setHead (.copy n)
      { p.2 with units := c.units + 1, done := p.2.done || decide (c.totalUnits ≤ c.units + 1) }).modCopy n fun e => { e with turn := true }) := by
  have hno : (!c.issued || c.done || c.paused || ((s.copyEngine n).turn && s.mdrcReady n)) = false := by
    rcases ht with h | h <;> simp [hi, hd, hp, h]
  unfold State.copyStep at hu
  change execCopyUnit n s = _
  simp only [execCopyUnit, hq, hno, hu, Bool.false_eq_true, if_false]

section
variable (hc : s.headCmd q = some c)
include hc

/-- A command whose barrier message is on its way goes no further. -/
theorem exec_commandRetire_pending (hd : c.done = true) (hn : c.counted = false) (hcr : c.credited = true) (hb : s.barPending q c = true) :
    exec (.commandRetire q) s = .next (s.setHead q c) := by
  change execCommandRetire q s = _
  simp only [execCommandRetire, hc, hd, hn, hcr, hb, Bool.not_true, Bool.or_self, Bool.false_eq_true, if_false, if_true]

theorem exec_commandRetire (hd : c.done = true) (hn : c.counted = false) (hcr : c.credited = true) (hb : s.barPending q c = false) (hcca : c.cca = 0) :
    exec (.commandRetire q) s = .next (if c.pte then s.setHead q { c with counted := true }
      else (s.setHead q { c with counted := true }).endCmd q { c with counted := true }) := by
  have hcount : s.retireCount q c = (s, { c with counted := true }) := by rw [State.retireCount]; exact if_pos hcca
  have hno : (!c.done || c.counted) = false := by rw [hd, hn]; rfl
  change execCommandRetire q s = _
  simp only [execCommandRetire, hc, hno, if_pos hcr, hb, hcount, Bool.false_eq_true, if_false]
  rfl

theorem exec_engineTokenPush (hn : c.counted = true) (hp : c.pte = true) (hf : (s.hart c.hart).fifoFull c.ptf = false) :
    exec (.engineTokenPush q) s = .next ((s.modHart c.hart fun h =>
      h.setFifo c.ptf (h.fifo c.ptf ++ [{ word := .ofNat 32 c.tag, psn := c.fail != 0, tid := c.tid }])).endCmd q c) := by
  have hno : (!c.counted || !c.pte || (s.hart c.hart).fifoFull c.ptf) = false := by rw [hn, hp, hf]; rfl
  change execEngineTokenPush q s = _
  simp only [execEngineTokenPush, hc, hno, Bool.false_eq_true, if_false]

end

end

/-- Settles O44, step by step along the life of a command. -/
theorem engineSteps : Obligations.EngineSteps := by
  refine ⟨fun s n c rest hq => ⟨fun hi hd => ?_, fun s1 hi hd hp ht h3 hne => ?_⟩, fun s s1 slot x y i c ho hh hi hd hk hw hm hs => ?_,
    fun s slot x y i c ho hh hi hd hk hw hm => ?_, fun s k c hh hi hd hw hpkt => ?_, fun s q c hc => ⟨fun hd hn hcr => ⟨?_, fun hb hcca => ⟨fun hp => ?_, fun hp => ?_⟩⟩, ?_⟩⟩
  · have h : s.Issues (.copy n) c := ⟨rfl, by change (s.copyEngine n).cmds.q.head? = some c; rw [hq]; rfl, hi, hd, rfl⟩
    refine ⟨fun hfree => ?_, fun hw hp => ⟨fun ht => ?_, fun k l ht hk => ?_, fun k l ht hk => ?_⟩⟩
    · have hpop := State.popFor_of_free (s := s) hfree
      exact congrArg Host.Outcome.next ((h.copy hpop hd).trans (by rw [State.setHead_copy hq]; rfl))
    · exact congrArg Host.Outcome.next (h.of_no_token (State.popFor_of_no_token hw hp ht))
    · have hpop := State.popFor_of_token hw hp ht
      rw [hk, if_neg Bool.false_ne_true] at hpop
      exact congrArg Host.Outcome.next ((h.copy hpop hd).trans (by rw [State.setHead_copy (s := s.modHart c.hart fun h => h.setFifo c.wtf l) hq]; rfl))
    · have hpop := State.popFor_of_token hw hp ht
      rw [hk, if_pos rfl] at hpop
      exact congrArg Host.Outcome.next ((h.of_failed hpop rfl).trans (by rw [State.setHead_copy (s := s.modHart c.hart fun h => h.setFifo c.wtf l) hq]))
  · refine exec_copyUnit hq hi hd hp ht ?_
    by_cases hk : c.kind = 3
    · rw [State.copyStep, if_pos hk, h3 hk]
    · rw [State.copyStep, if_neg hk, hne hk]
  · have h : s.Issues (.stream slot x y i) c := ⟨ho, hh, hi, hd, hm⟩
    exact congrArg Host.Outcome.next (h.stream (State.popFor_of_free (.inl hw)) hd (by omega) hs)
  · have h : s.Issues (.stream slot x y i) c := ⟨ho, hh, hi, hd, hm⟩
    exact congrArg Host.Outcome.next (h.barrier (State.popFor_of_free (.inl hw)) hd hk)
  · have h : s.Issues (.coll k) c := ⟨rfl, hh, hi, hd, rfl⟩
    exact congrArg Host.Outcome.next (h.coll (State.popFor_of_free (.inl hw)) hd hpkt)
  · exact exec_commandRetire_pending hc hd hn hcr
  · rw [exec_commandRetire hc hd hn hcr hb hcca, if_pos hp]
  · rw [exec_commandRetire hc hd hn hcr hb hcca, if_neg (by rw [hp]; exact Bool.false_ne_true)]
  · exact exec_engineTokenPush hc

end Sys2Proof.Machine

namespace Sys2Proof.Machine

set_option Elab.async false

/-! ## Command packets (R313, R314, R318) -/

/-- What becomes of a packet by its check, and of the undefined ones behind it. -/
def State.packetOutcome (s : State) (p : Packet) (c : Checked) : State := (s.handOver p c).refuseUndefined s.pipe.length

section
variable {s : State} {p : Packet} (hn : s.nextPacket = some p) (hg : p.gone = false)
include hn hg

/-- The packet that is accepted next, with its opcode and no stray bits, is checked. -/
theorem withPacket_of_clean {opc named : Nat} (ho : p.opc = opc) (hc : packetClean p.pw named = true) (k : State → Packet → Checked) :
    withPacket s opc named k = s.packetOutcome p (k s p) := by
  simp only [withPacket, hn, hg, ho, hc, bne_self_eq_false, Bool.false_eq_true, if_false, if_true, State.packetOutcome]

/-- One with a stray bit is refused. -/
theorem withPacket_of_unclean {opc named : Nat} (ho : p.opc = opc) (hc : packetClean p.pw named = false) (k : State → Packet → Checked) :
    withPacket s opc named k = s.packetOutcome p (.refused s .badArg) := by
  simp only [withPacket, hn, hg, ho, hc, bne_self_eq_false, Bool.false_eq_true, if_false, State.packetOutcome]

end

/-! ### LAUNCH -/

/-- The words of a LAUNCH keep their limits, and its address space is one of the tenant's (R313). -/
structure State.LaunchOk (s : State) (p : Packet) : Prop where
  image : wd p.pw 1 < 2 ^ 52 ∧ wd p.pw 1 % 64 = 0
  save : wd p.pw 4 < 2 ^ 52 ∧ wd p.pw 4 % 4096 = 0
  asid : wd p.pw 3 < 4096
  flags : wd p.pw 5 < 8
  plain : plcShadow (wd p.pw 2) = false ∧ fld (wd p.pw 2) 47 16 = 0
  plc : s.plcOk p.asker.part (s.launchPlc p.asker.part (wd p.pw 2)) = true
  live : s.asidOf (wd p.pw 3) p.asker.tid = true

/-- The region that a LAUNCH loads. -/
def Packet.launched (p : Packet) (plc : Nat) : Region :=
  { gen := 0, tid := p.asker.tid, asid := wd p.pw 3, part := p.asker.part, plc := plc, img := { addr := wd p.pw 1, asid := some p.view.asid }
    save := if wd p.pw 4 = 0 then {} else { addr := wd p.pw 4, asid := some p.view.asid }
    early := bitN (wd p.pw 5) 1, nowait := bitN (wd p.pw 5) 2, goWhenEmitted := bitN (wd p.pw 5) 0 }

section
variable {s : State} {p : Packet} (h : s.LaunchOk p)
include h

/-- The checks of a LAUNCH that are over before a slot is sought. -/
theorem State.LaunchOk.limits :
    (decide (2 ^ 52 ≤ wd p.pw 1) || decide (2 ^ 52 ≤ wd p.pw 4) || decide (4096 ≤ wd p.pw 3) || decide (8 ≤ wd p.pw 5) || plcShadow (wd p.pw 2) ||
        fld (wd p.pw 2) 47 16 != 0 || !s.plcOk p.asker.part (s.launchPlc p.asker.part (wd p.pw 2))) = false ∧
      (wd p.pw 1 % 64 != 0 || wd p.pw 4 % 4096 != 0) = false := by
  obtain ⟨⟨h1, h1a⟩, ⟨h4, h4a⟩, h3, h5, ⟨hs, hz⟩, hp, _⟩ := h
  refine ⟨?_, ?_⟩
  · rw [decide_eq_false (Nat.not_le.mpr h1), decide_eq_false (Nat.not_le.mpr h4), decide_eq_false (Nat.not_le.mpr h3), decide_eq_false (Nat.not_le.mpr h5),
      hs, hz, hp]
    rfl
  · rw [h1a, h4a]
    rfl

theorem State.LaunchOk.launchPacket_slot {s1 : State} {i : ImgRead} {k : Nat}
    (hi : s.readImageFor p.asker.part (s.launchPlc p.asker.part (wd p.pw 2)) { addr := wd p.pw 1, asid := some p.view.asid } = (s1, i)) (hk : s.freeSlotAt = some k) :
    s.launchPacket p = .go s1 (handleOf k ((look s.gens k).getD 0)) fun a q =>
      a.startLaunch { p.launched (s.launchPlc p.asker.part (wd p.pw 2)) with owner := some q } i := by
  obtain ⟨hlim, hal⟩ := h.limits
  simp only [State.launchPacket, hlim, hal, h.live, hk, hi, Bool.not_true, Bool.false_eq_true, if_false]
  rfl

theorem State.LaunchOk.launchPacket_waits {s1 : State} {i : ImgRead}
    (hi : s.readImageFor p.asker.part (s.launchPlc p.asker.part (wd p.pw 2)) { addr := wd p.pw 1, asid := some p.view.asid } = (s1, i)) (hk : s.freeSlotAt = none)
    (hw : bitN (wd p.pw 5) 2 = false) :
    s.launchPacket p = .go s1 0 fun a q => a.startLaunch { p.launched (s.launchPlc p.asker.part (wd p.pw 2)) with owner := some q } i := by
  obtain ⟨hlim, hal⟩ := h.limits
  have hb : ¬ bitN (wd p.pw 5) 2 = true := by rw [hw]; exact Bool.false_ne_true
  simp only [State.launchPacket, hlim, hal, h.live, hk, hi, if_neg hb, Bool.not_true, Bool.false_eq_true, if_false]
  rfl

theorem State.LaunchOk.launchPacket_nowait (hk : s.freeSlotAt = none) (hw : bitN (wd p.pw 5) 2 = true) : s.launchPacket p = .refused s .busy := by
  obtain ⟨hlim, hal⟩ := h.limits
  simp only [State.launchPacket, hlim, hal, h.live, hk, if_pos hw, Bool.not_true, Bool.false_eq_true, if_false]

end

/-- Without a slot, a LAUNCH with a good image is among those that wait. -/
theorem State.startLaunch_waits {a : State} {r : Region} {q : PktRef} (i : Image) (hr : r.owner = some q) (h : a.addRegion r = none) :
    a.startLaunch r (.ok i) = { a with launches := a.launches ++ [{ r with image := some i }] } := by
  unfold State.startLaunch
  rw [h, hr]

/-! ### The other packets -/

section
variable {s : State} {p : Packet} (hn : s.nextPacket = some p) (hg : p.gone = false)
include hn hg

theorem exec_launch (ho : p.opc = 1) (hc : packetClean p.pw 5 = true) : exec .launch s = .next (s.packetOutcome p (s.launchPacket p)) :=
  congrArg Host.Outcome.next (withPacket_of_clean hn hg ho hc _)

theorem exec_arm {h slot : Nat} {r : Region} {s1 : State} (ho : p.opc = 2) (hc : packetClean p.pw 2 = true) (ha : s.armHandle p = some h)
    (hh : s.byHandle h (some p.view.tid) = .ok (slot, r)) (hr : s.armRegion slot r (wd p.pw 2) = .ok s1) :
    exec .arm s = .next (s.packetOutcome p (.done s1 0 h)) := by
  change execArm s = _
  rw [execArm, withPacket_of_clean hn hg ho hc]
  simp only [ha, hh, hr]

theorem exec_signal {s1 s2 : State} {da : Nat} (ho : p.opc = 3) (hc : packetClean p.pw 2 = true) (hal : wd p.pw 1 % 32 = 0) (hsp : s.packetSpace p = true)
    (hw : arriveOk (wd p.pw 2) = true) (hb : s.packetBarrier p (wd p.pw 1) .atomic = (s1, .ok da)) (harr : s1.arrive da (wd p.pw 2) 1 64 p.view.tid = .ok s2) :
    exec .signal s = .next (s.packetOutcome p (.done s2 (s2.barPhc da) 0)) := by
  change execSignal s = _
  rw [execSignal, withPacket_of_clean hn hg ho hc]
  simp only [hal, hsp, hw, hb, harr, bne_self_eq_false, Bool.not_true, Bool.false_eq_true, if_false]

theorem exec_wait {s1 : State} {da : Nat} (ho : p.opc = 4) (hc : packetClean p.pw 2 = true) (hal : wd p.pw 1 % 32 = 0) (hsp : s.packetSpace p = true)
    (hw : wd p.pw 2 < 2) (hb : s.packetBarrier p (wd p.pw 1) .read = (s1, .ok da)) :
    exec .wait s = .next (s.packetOutcome p (.go s1 0 fun a q => a.modQueue p.v p.q fun x => { x with waiting := some (da, wd p.pw 2 == 1, q) })) := by
  change execWait s = _
  rw [execWait, withPacket_of_clean hn hg ho hc]
  simp only [hal, hsp, if_neg (Nat.not_le.mpr hw), hb, bne_self_eq_false, Bool.not_true, Bool.false_eq_true, if_false]

end

section
variable {s : State} {seq v q da : Nat} {par : Bool} {p : PktRef}
  (hf : (s.waits.find? fun w => w.2.2.2.2.seq == seq && s.barPh w.2.2.1 != w.2.2.2.1) = some (v, q, da, par, p))
include hf

/-- A WAIT whose phase has flipped completes, or is faulted where the phase failed. -/
theorem exec_waitComplete : exec (.waitComplete seq) s = .next (if s.barLff da then
      (s.modQueue v q fun x => { x with waiting := none }).finish p 4 0 (s.barPhc da) (refuseWord .faulted (s.barPhc da % 2 ^ 48)) 0
    else (s.modQueue v q fun x => { x with waiting := none }).finish p 3 0 (s.barPhc da) 0 0) := by
  change execWaitComplete seq s = _
  simp only [execWaitComplete, hf]

end

/-- Settles O49, packet by packet: each check passes to the state that its effect begins from. -/
theorem packetsOfRegionsAndBarriers : Obligations.PacketsOfRegionsAndBarriers := by
  refine ⟨fun s p hn hg => ?_, fun s seq v q da par p hf => ⟨fun hl => ?_, fun hl => ?_⟩⟩
  · intro outcome
    refine ⟨State.handOver_go s p, State.handOver_refused s p, fun ho hc => ?_, fun h slot r s1 ho hc ha hh hr => exec_arm hn hg ho hc ha hh hr,
      fun hal hc hsp => ⟨fun s1 s2 da ho hw hb harr => exec_signal hn hg ho hc hal hsp hw hb harr, fun s1 da ho hw hb => exec_wait hn hg ho hc hal hsp hw hb⟩,
      fun hc ho => congrArg Host.Outcome.next (withPacket_of_unclean hn hg ho hc _),
      fun hc => ⟨fun ho => congrArg Host.Outcome.next (withPacket_of_unclean hn hg ho hc _), fun ho => congrArg Host.Outcome.next (withPacket_of_unclean hn hg ho hc _),
        fun ho => congrArg Host.Outcome.next (withPacket_of_unclean hn hg ho hc _)⟩⟩
    intro u plc h1 h4 h3 h5 hs hz hp h1a h4a hlive sp r
    have h : s.LaunchOk p := ⟨⟨h1, h1a⟩, ⟨h4, h4a⟩, h3, h5, ⟨hs, hz⟩, hp, hlive⟩
    refine ⟨fun s1 i hi => ⟨fun k hk => ?_, fun hk hw => ?_⟩, fun a q i hadd => State.startLaunch_waits i rfl hadd, fun hk hw => ?_⟩
    · rw [exec_launch hn hg ho hc, h.launchPacket_slot hi hk]
      rfl
    · rw [exec_launch hn hg ho hc, h.launchPacket_waits hi hk hw]
      rfl
    · rw [exec_launch hn hg ho hc, h.launchPacket_nowait hk hw]
      rfl
  · rw [exec_waitComplete hf, if_neg (by rw [hl]; exact Bool.false_ne_true)]
  · rw [exec_waitComplete hf, if_pos hl]

/-! ### COPY, COLL, MIGRATE, QUERY and CANCEL -/

section
variable {s : State} {p : Packet}

/-- A command block that a packet names is read once. -/
theorem withCommand_of_read {s1 : State} {bs : List Byte} (hal : wd p.pw 1 % 128 = 0) (hsp : s.packetSpace p = true) (hva : vaCheck (wd p.pw 1) 1 = none)
    (hr : s.vcpRead p.view (wd p.pw 1) 128 .control = (s1, .ok bs)) (k : State → List W64 → Ready) : withCommand s p k = (k s1 (words64 16 bs)).packet := by
  simp only [withCommand, hal, hsp, hva, hr, bne_self_eq_false, Bool.not_true, Bool.false_eq_true, if_false]

variable (hn : s.nextPacket = some p) (hg : p.gone = false)
include hn hg

theorem exec_copy {s1 : State} {bs : List Byte} (ho : p.opc = 5) (hc : packetClean p.pw 2 = true) (hal : wd p.pw 1 % 128 = 0) (hsp : s.packetSpace p = true)
    (hva : vaCheck (wd p.pw 1) 1 = none) (hr : s.vcpRead p.view (wd p.pw 1) 128 .control = (s1, .ok bs)) :
    exec .copy s = .next (s.packetOutcome p
      (s1.checkCopy p.asker (if fld (wd (words64 16 bs) 0) 63 56 = 4 then 4 else 3) (words64 16 bs) (wd p.pw 2)).packet) := by
  change execCopy s = _
  rw [execCopy, withPacket_of_clean hn hg ho hc, withCommand_of_read hal hsp hva hr]

theorem exec_collPacket {s1 : State} {bs : List Byte} (ho : p.opc = 6) (hc : packetClean p.pw 2 = true) (hal : wd p.pw 1 % 128 = 0) (hsp : s.packetSpace p = true)
    (hva : vaCheck (wd p.pw 1) 1 = none) (hr : s.vcpRead p.view (wd p.pw 1) 128 .control = (s1, .ok bs)) :
    exec .collPacket s = .next (s.packetOutcome p (s1.checkColl p.asker (words64 16 bs) (wd p.pw 2)).packet) := by
  change execCollPacket s = _
  rw [execCollPacket, withPacket_of_clean hn hg ho hc, withCommand_of_read hal hsp hva hr]

theorem exec_migrate_denied (ho : p.opc = 7) (hc : packetClean p.pw 1 = true) (hprv : (s.vcp p.v).prv = false) :
    exec .migrate s = .next (s.packetOutcome p (.refused s .denied)) := by
  change execMigrate s = _
  rw [execMigrate, withPacket_of_clean hn hg ho hc]
  simp only [hprv, Bool.not_false, if_true]

/-- A migration that passes its check is accepted with its packet. -/
theorem exec_migrate {s1 s2 s3 : State} {bs : List Byte} {pz : Bool} {ticket again : Nat} (ho : p.opc = 7) (hc : packetClean p.pw 1 = true)
    (hprv : (s.vcp p.v).prv = true) (hlt : wd p.pw 1 < 2 ^ 47) (hal : wd p.pw 1 % 64 = 0)
    (hr : s.physRead { mid := 0, part := some p.asker.part } .read [(wd p.pw 1, 64)] = (s1, .ok (bs, pz)))
    (hacc : s1.acceptMigration p.asker (words64 8 bs) = .ok (s2, ticket))
    (hagain : (s1.accept p ticket).1.acceptMigration { p.asker with pkt := some (s1.accept p ticket).2 } (words64 8 bs) = .ok (s3, again)) :
    exec .migrate s = .next (s3.refuseUndefined s.pipe.length) := by
  change execMigrate s = _
  rw [execMigrate, withPacket_of_clean hn hg ho hc]
  simp only [hprv, if_neg (Nat.not_le.mpr hlt), hal, hr, hacc, bne_self_eq_false, Bool.not_true, Bool.false_eq_true, if_false, State.packetOutcome,
    State.handOver_go, hagain]

/-! #### QUERY -/

theorem exec_query_ticket {w : Nat} (ho : p.opc = 8) (hc : packetClean p.pw 2 = true) (hsel : wd p.pw 2 = 16)
    (hw : s.ticketState (wd p.pw 1) p.view.tid = .ok w) : exec .query s = .next (s.packetOutcome p (.done s w 0)) := by
  change execQuery s = _
  rw [execQuery, withPacket_of_clean hn hg ho hc]
  simp only [hsel, hw, if_true]

theorem exec_query_region {slot : Nat} {r : Region} (ho : p.opc = 8) (hc : packetClean p.pw 2 = true) (hsel : wd p.pw 2 < 5)
    (hh : s.byHandle (wd p.pw 1) (some p.view.tid) = .ok (slot, r)) :
    exec .query s = .next (s.packetOutcome p (if wd p.pw 2 = 2 ∨ wd p.pw 2 = 3 then .refused s .denied
      else .done s ((r.query slot (wd p.pw 2)).getD 0) (wd p.pw 1))) := by
  have h16 : ¬ wd p.pw 2 = 16 := by omega
  change execQuery s = _
  rw [execQuery, withPacket_of_clean hn hg ho hc]
  simp only [if_neg h16, if_neg (Nat.not_le.mpr hsel), hh]

theorem exec_query_bad_handle {e : Refuse} (ho : p.opc = 8) (hc : packetClean p.pw 2 = true) (hsel : wd p.pw 2 < 5)
    (hh : s.byHandle (wd p.pw 1) (some p.view.tid) = .error e) : exec .query s = .next (s.packetOutcome p (.refused s e)) := by
  have h16 : ¬ wd p.pw 2 = 16 := by omega
  change execQuery s = _
  rw [execQuery, withPacket_of_clean hn hg ho hc]
  simp only [if_neg h16, if_neg (Nat.not_le.mpr hsel), hh]

theorem exec_query_bad_selector (ho : p.opc = 8) (hc : packetClean p.pw 2 = true) (hsel : 5 ≤ wd p.pw 2) (h16 : wd p.pw 2 ≠ 16) :
    exec .query s = .next (s.packetOutcome p (.refused s .badArg)) := by
  change execQuery s = _
  rw [execQuery, withPacket_of_clean hn hg ho hc]
  simp only [if_neg h16, if_pos hsel]

/-! #### CANCEL -/

section
variable (ho : p.opc = 9) (hc : packetClean p.pw 2 = true)
include ho hc

theorem exec_cancel_placing {slot : Nat} (h1 : wd p.pw 1 = 0) (hw : s.waitingLaunch p (wd p.pw 2) = some slot) :
    exec .cancel s = .next (s.packetOutcome p (.done s 0 0 fun a => (a.endRegion slot 5 0).freeSlot slot)) := by
  change execCancel s = _
  rw [execCancel, withPacket_of_clean hn hg ho hc]
  simp only [h1, hw]

theorem exec_cancel_slotless {o : PktRef} (h1 : wd p.pw 1 = 0) (hw : s.waitingLaunch p (wd p.pw 2) = none) (hs : s.slotlessLaunch p (wd p.pw 2) = some o) :
    exec .cancel s = .next (s.packetOutcome p
      (.done s 0 0 fun a => ({ a with launches := a.launches.filter fun r => r.owner != some o } : State).finish o 5 0 0 0 0)) := by
  change execCancel s = _
  rw [execCancel, withPacket_of_clean hn hg ho hc]
  simp only [h1, hw, hs]

theorem exec_cancel_no_launch (h1 : wd p.pw 1 = 0) (hw : s.waitingLaunch p (wd p.pw 2) = none) (hs : s.slotlessLaunch p (wd p.pw 2) = none) :
    exec .cancel s = .next (s.packetOutcome p (.refused s .state)) := by
  change execCancel s = _
  rw [execCancel, withPacket_of_clean hn hg ho hc]
  simp only [h1, hw, hs]

theorem exec_cancel_region {slot : Nat} {r : Region} (h1 : wd p.pw 1 = 1) (hh : s.byHandle (wd p.pw 2) (some p.view.tid) = .ok (slot, r))
    (hst : r.state ≠ .killed) : exec .cancel s = .next (s.packetOutcome p (.done s 0 (wd p.pw 2) fun a => (a.kill slot r 5).1)) := by
  change execCancel s = _
  rw [execCancel, withPacket_of_clean hn hg ho hc]
  simp only [h1, hh, if_neg hst]

theorem exec_cancel_waits (h1 : wd p.pw 1 = 2) (h2 : wd p.pw 2 = 0) :
    exec .cancel s = .next (s.packetOutcome p (.done s 0 0 fun a => a.cancelWaits p.v p.q)) := by
  change execCancel s = _
  rw [execCancel, withPacket_of_clean hn hg ho hc]
  simp only [h1, h2, if_true]

theorem exec_cancel_bad (h1 : 3 ≤ wd p.pw 1) : exec .cancel s = .next (s.packetOutcome p (.refused s .badArg)) := by
  obtain ⟨k, hk⟩ := Nat.exists_eq_add_of_le' h1
  change execCancel s = _
  rw [execCancel, withPacket_of_clean hn hg ho hc]
  simp only [hk]

end

end

/-- Settles O50, packet by packet. -/
theorem packetsOfEnginesAndQueries : Obligations.PacketsOfEnginesAndQueries := by
  intro s p hn hg outcome done
  refine ⟨fun s1 bs hal hc hsp hva hr => ?_, fun ho hc => ⟨exec_migrate_denied hn hg ho hc, fun s1 s2 s3 bs pz ticket again hprv hlt ha hread hacc hagain =>
      exec_migrate hn hg ho hc hprv hlt ha hread hacc hagain⟩,
    fun ho hc => ⟨fun w hsel hw => exec_query_ticket hn hg ho hc hsel hw, fun slot r w hsel h2 h3 hh hq => ?_, fun slot r hsel hh => ?_,
      fun e hsel hh => exec_query_bad_handle hn hg ho hc hsel hh, exec_query_bad_selector hn hg ho hc⟩,
    fun ho hc => ⟨fun slot => exec_cancel_placing hn hg ho hc, fun o => exec_cancel_slotless hn hg ho hc, exec_cancel_no_launch hn hg ho hc,
      fun slot r => exec_cancel_region hn hg ho hc, exec_cancel_waits hn hg ho hc, exec_cancel_bad hn hg ho hc⟩⟩
  · intro c
    refine ⟨fun s2 n k ho hk => ?_, fun s2 e low ho hk => ?_, fun s2 n k ho hk => ?_⟩
    · rw [exec_copy hn hg ho hc hal hsp hva hr, hk]
      rfl
    · rw [exec_copy hn hg ho hc hal hsp hva hr, hk]
      rfl
    · rw [exec_collPacket hn hg ho hc hal hsp hva hr, hk]
      rfl
  · rw [exec_query_region hn hg ho hc hsel hh, if_neg (by omega), hq]
    rfl
  · rw [exec_query_region hn hg ho hc (by omega) hh, if_pos hsel]
    rfl

end Sys2Proof.Machine

namespace Sys2Proof.Machine

set_option Elab.async false

/-! ## What the forms that only ask leave unchanged (R239, R240) -/

/-! ### A step of one core -/

/-- A step that touches its own core alone, within bounds that relate the core before and after. -/
structure State.CoreOnly (P : Hart → Hart → Prop) (s t : State) : Prop where
  frame : t = { s with harts := t.harts }
  others : ∀ h, h ≠ s.cur → t.hart h = s.hart h
  own : P (s.hart s.cur) (t.hart s.cur)

/-- A core keeps everything but rd, the pc and its wait. -/
def Hart.AskedOnly (rd : BitVec 5) (c d : Hart) : Prop := (∀ q, q ≠ rd → d.reg q = c.reg q) ∧ d = { c with x := d.x, pc := d.pc, wait := d.wait }

/-- A core keeps everything but rd, the pc, its wait and one FIFO. -/
def Hart.FifoOnly (rd : BitVec 5) (f : Nat) (c d : Hart) : Prop :=
  (∀ q, q ≠ rd → d.reg q = c.reg q) ∧ (∀ k, k ≠ f → d.fifo k = c.fifo k) ∧ d = { c with x := d.x, pc := d.pc, wait := d.wait, tf := d.tf }

/-- A core keeps its registers. -/
def Hart.SameRegs (rd : BitVec 5) (c d : Hart) : Prop := ∀ q, q ≠ rd → d.reg q = c.reg q

/-- A core that does not exist cannot change. -/
theorem State.modHart_of_le {s : State} {k : Nat} (h : s.harts.length ≤ k) (g : Hart → Hart) : s.modHart k g = s := by
  have hsame : upd s.harts k g = s.harts := List.modify_eq_self h
  rw [State.modHart, hsame]

theorem State.CoreOnly.modHart {P : Hart → Hart → Prop} {s : State} {g : Hart → Hart} (hsame : P (s.hart s.cur) (s.hart s.cur))
    (hg : P (s.hart s.cur) (g (s.hart s.cur))) : s.CoreOnly P (s.modHart s.cur g) := by
  refine ⟨rfl, fun h hh => s.hart_modHart_ne g hh, ?_⟩
  by_cases hl : s.cur < s.harts.length
  · rw [s.hart_modHart s.cur g hl]
    exact hg
  · rw [State.modHart_of_le (Nat.not_lt.mp hl)]
    exact hsame

theorem Hart.AskedOnly.refl (rd : BitVec 5) (c : Hart) : c.AskedOnly rd c := ⟨fun _ _ => rfl, rfl⟩

theorem Hart.FifoOnly.refl (rd : BitVec 5) (f : Nat) (c : Hart) : c.FifoOnly rd f c := ⟨fun _ _ => rfl, fun _ _ => rfl, rfl⟩

theorem State.CoreOnly.refl {P : Hart → Hart → Prop} {s : State} (hsame : P (s.hart s.cur) (s.hart s.cur)) : s.CoreOnly P s :=
  ⟨rfl, fun _ _ => rfl, hsame⟩

/-- Retiring writes rd and the pc. -/
theorem State.coreOnly_retire (s : State) (rd : BitVec 5) (v : Nat) : s.CoreOnly (Hart.AskedOnly rd) (s.retire rd v) := by
  refine State.CoreOnly.modHart (Hart.AskedOnly.refl rd _) ⟨fun q hq => (s.hart s.cur).reg_setReg_ne v hq, ?_⟩
  rw [(s.hart s.cur).setReg_frame rd v]

/-- Retiring from a changed FIFO. -/
theorem State.coreOnly_retire_setFifo (s : State) (rd : BitVec 5) (f : Nat) (l : Hart → List TfTok) (v : Nat) :
    s.CoreOnly (Hart.FifoOnly rd f) ((s.modHart s.cur fun c => c.setFifo f (l c)).retire rd v) := by
  have hone : (s.modHart s.cur fun c => c.setFifo f (l c)).retire rd v =
      s.modHart s.cur fun c => { (c.setFifo f (l c)).setReg rd v with pc := c.pc + 4, wait := .none } := by
    simp only [State.retire, State.retireAt, State.modHart, upd, List.modify_modify_eq]
    rfl
  have hframe := ((s.hart s.cur).setFifo f (l (s.hart s.cur))).setReg_frame rd v
  rw [hone]
  refine State.CoreOnly.modHart (Hart.FifoOnly.refl rd f _) ⟨fun q hq => ?_, fun k hk => ?_, ?_⟩
  · exact ((s.hart s.cur).setFifo f (l (s.hart s.cur))).reg_setReg_ne v hq
  · rw [hframe]
    exact upd_getD_ne _ _ _ hk
  · rw [hframe]
    rfl

/-- An exception changes no general register. -/
theorem State.coreOnly_trap (s : State) (rd : BitVec 5) (e : Exc) : s.CoreOnly (Hart.SameRegs rd) (s.trap e) := by
  refine State.CoreOnly.modHart (fun _ _ => rfl) fun q _ => ?_
  unfold Hart.trap
  split <;> rfl

theorem State.CoreOnly.mono {P Q : Hart → Hart → Prop} {s t : State} (h : s.CoreOnly P t) (hPQ : ∀ c d, P c d → Q c d) : s.CoreOnly Q t :=
  ⟨h.frame, h.others, hPQ _ _ h.own⟩

theorem State.CoreOnly.memRead {P : Hart → Hart → Prop} {s t : State} (h : s.CoreOnly P t) (a : Nat) : memRead t.mem a = memRead s.mem a := by
  rw [h.frame]

theorem Hart.AskedOnly.fifoOnly {rd : BitVec 5} {c d : Hart} (f : Nat) (h : c.AskedOnly rd d) : c.FifoOnly rd f d := by
  obtain ⟨hreg, hd⟩ := h
  have htf : d.tf = c.tf := by rw [hd]
  refine ⟨hreg, fun k _ => by rw [Hart.fifo, htf]; rfl, hd.trans ?_⟩
  rw [htf]

/-! ### Forms that only ask -/

/-- The body of a form that changes nothing: it retires with some word, or holds its core where it stands. -/
def FormEnd.Asks (s : State) (f : FormEnd) : Prop := (∃ v, f = .ret v s) ∨ f = .hold s

theorem FormEnd.asks_ret (s : State) (v : Nat) : FormEnd.Asks s (.ret v s) := .inl ⟨v, rfl⟩

theorem FormEnd.asks_refuse (s : State) (e : Refuse) (low : Nat) : FormEnd.Asks s (refuse s e low) := .inl ⟨_, rfl⟩

theorem FormEnd.Asks.finish {s : State} {f : FormEnd} (h : f.Asks s) (rd : BitVec 5) : s.CoreOnly (Hart.AskedOnly rd) (f.finish s rd) := by
  rcases h with ⟨v, rfl⟩ | rfl
  · exact s.coreOnly_retire rd v
  · exact State.CoreOnly.refl (Hart.AskedOnly.refl rd _)

theorem FormEnd.asks_withRegion {s : State} {h : Nat} {k : Nat → Region → FormEnd} (hk : ∀ slot r, (k slot r).Asks s) : (withRegion s h k).Asks s := by
  unfold withRegion
  split
  · exact hk _ _
  · exact FormEnd.asks_refuse ..

theorem FormEnd.asks_queryForm (s : State) (t cls : Nat) : (queryForm s t cls).Asks s := by
  unfold queryForm
  split
  · exact FormEnd.asks_refuse ..
  · split
    · exact FormEnd.asks_ret ..
    · exact FormEnd.asks_refuse ..

/-- A form for M and HS alone raises an exception in the other modes. -/
theorem form_hsOnly_cases (s : State) (w : Nat) (rd : BitVec 5) (body : State → FormEnd) :
    form s true w rd body = (body s).finish s rd ∨ ((s.hart s.cur).mode.high = false ∧ ∃ e, form s true w rd body = s.trap e) := by
  cases hm : (s.hart s.cur).mode.high with
  | true => exact .inl (form_of_high hm ..)
  | false =>
    refine .inr ⟨rfl, ?_⟩
    cases hv : (s.hart s.cur).mode.virt <;> exact ⟨_, by simp only [form, formMode, hm, hv]; rfl⟩

section
variable {s t : State} {rd rs1 rs2 : BitVec 5}

theorem exec_rgnqry_coreOnly (h : exec (.rgnqry rd rs1 rs2) s = .next t) : s.CoreOnly (Hart.AskedOnly rd) t := by
  obtain rfl := Host.Outcome.next.inj h
  refine (FormEnd.asks_withRegion fun slot r => ?_).finish rd
  split
  · exact FormEnd.asks_refuse ..
  · split
    · exact FormEnd.asks_ret ..
    · exact FormEnd.asks_refuse ..

theorem exec_strmqCommand_coreOnly (h : exec (.strmqCommand rd rs1 rs2) s = .next t) : s.CoreOnly (Hart.AskedOnly rd) t := by
  obtain rfl := Host.Outcome.next.inj h
  refine (FormEnd.asks_withRegion fun slot r => ?_).finish rd
  split
  · exact FormEnd.asks_refuse ..
  · split
    · exact FormEnd.asks_refuse ..
    · split
      · exact FormEnd.asks_ret ..
      · exact FormEnd.asks_refuse ..

theorem exec_tfqry_coreOnly (h : exec (.tfqry rd rs1) s = .next t) : s.CoreOnly (Hart.AskedOnly rd) t := by
  by_cases hf : s.xreg rs1 < 8
  · obtain rfl := Host.Outcome.next.inj ((exec_tfqry hf).symm.trans h)
    exact s.coreOnly_retire rd _
  · obtain ⟨_, _, hbad⟩ := exec_tf_of_bad (rd := rd) (rs2 := 0) (Nat.not_lt.mp hf)
    obtain rfl := Host.Outcome.next.inj (hbad.symm.trans h)
    exact s.coreOnly_retire rd _

theorem exec_cpyq_coreOnly (h : exec (.cpyq rd rs1) s = .next t) : s.CoreOnly (Hart.AskedOnly rd) t := by
  obtain rfl := Host.Outcome.next.inj h
  exact (FormEnd.asks_queryForm ..).finish rd

theorem exec_collq_coreOnly (h : exec (.collq rd rs1) s = .next t) : s.CoreOnly (Hart.AskedOnly rd) t := by
  obtain rfl := Host.Outcome.next.inj h
  exact (FormEnd.asks_queryForm ..).finish rd

theorem exec_fencex_coreOnly (h : exec (.fencex rd rs1) s = .next t) : s.CoreOnly (Hart.AskedOnly rd) t := by
  obtain rfl := Host.Outcome.next.inj h
  refine FormEnd.Asks.finish ?_ rd
  dsimp only
  split
  · exact FormEnd.asks_refuse ..
  · split
    · exact .inr rfl
    · exact FormEnd.asks_ret ..

theorem exec_duneq_coreOnly (h : exec (.duneq rd rs1) s = .next t) :
    s.CoreOnly (Hart.AskedOnly rd) t ∨ ((s.hart s.cur).mode.high = false ∧ ∃ e, t = s.trap e) := by
  obtain rfl := Host.Outcome.next.inj h
  refine (form_hsOnly_cases ..).imp (fun hf => ?_) id
  rw [hf]
  refine FormEnd.Asks.finish ?_ rd
  dsimp only
  split
  · exact FormEnd.asks_refuse ..
  · split
    · exact FormEnd.asks_ret ..
    · exact FormEnd.asks_refuse ..

/-! ### Forms over one FIFO -/

theorem exec_tfpsh_coreOnly (h : exec (.tfpsh rd rs1 rs2) s = .next t) : s.CoreOnly (Hart.FifoOnly rd (s.xreg rs1)) t := by
  obtain rfl := Host.Outcome.next.inj h
  have hrefused (e : Refuse) : s.CoreOnly (Hart.FifoOnly rd (s.xreg rs1)) ((refuse s e).finish s rd) :=
    (s.coreOnly_retire rd _).mono fun _ _ => Hart.AskedOnly.fifoOnly _
  rw [form_every_mode]
  dsimp only
  split
  · exact hrefused _
  · split
    · exact hrefused _
    · exact s.coreOnly_retire_setFifo rd _ (fun c => c.fifo (s.xreg rs1) ++ _) 0

/-- No command waits on a FIFO that a header cannot name. -/
theorem State.headsOn_of_le {f : Nat} (hf : 8 ≤ f) : (s.headsOn s.cur f).foldl State.issue s = s := by
  refine State.headsOn_none fun e _ => ?_
  have hne : (fld (wd e.2.c 0) 54 52 == f) = false := beq_eq_false_iff_ne.mpr (by unfold fld; omega)
  simp [waitsToken, hne]

theorem exec_tfpop_coreOnly (h : exec (.tfpop rd rs1) s = .next t) :
    ((s.headsOn s.cur (s.xreg rs1)).foldl State.issue s).CoreOnly (Hart.FifoOnly rd (s.xreg rs1)) t := by
  by_cases hf : s.xreg rs1 < 8
  · obtain rfl := Host.Outcome.next.inj ((exec_tfpop hf).symm.trans h)
    split
    · exact State.coreOnly_retire_setFifo _ rd _ (fun _ => []) _
    · next rest _ => exact State.coreOnly_retire_setFifo _ rd _ (fun _ => rest) _
  · obtain ⟨_, hbad, _⟩ := exec_tf_of_bad (rd := rd) (rs2 := 0) (Nat.not_lt.mp hf)
    obtain rfl := Host.Outcome.next.inj (hbad.symm.trans h)
    rw [State.headsOn_of_le (Nat.not_lt.mp hf)]
    exact (s.coreOnly_retire rd _).mono fun _ _ => Hart.AskedOnly.fifoOnly _

/-! ### Forms over counter banks -/

/-- The body of a form that changes the counter banks alone. -/
def FormEnd.Banks (s : State) (f : FormEnd) : Prop := ∃ v l, f = .ret v { s with banks := l }

theorem FormEnd.banks_refuse (s : State) (e : Refuse) (low : Nat) : FormEnd.Banks s (refuse s e low) := ⟨_, s.banks, rfl⟩

theorem FormEnd.banks_setBank (s : State) (v : Nat) (b : CtrBank) : FormEnd.Banks s (.ret v (s.setBank b)) := ⟨v, _, rfl⟩

theorem FormEnd.banks_readCounter (s : State) (b : CtrBank) (i : Nat) : FormEnd.Banks s (.ret (s.readCounter b i).2 (s.readCounter b i).1) := by
  unfold State.readCounter
  dsimp only
  split
  · exact ⟨_, s.banks, rfl⟩
  · split
    · exact FormEnd.banks_setBank ..
    · exact ⟨_, s.banks, rfl⟩

/-- The frame of a form over the counter banks. -/
theorem FormEnd.Banks.finish {f : FormEnd} (h : f.Banks s) (rd : BitVec 5) :
    f.finish s rd = { s with harts := (f.finish s rd).harts, banks := (f.finish s rd).banks } ∧ (∀ k, k ≠ s.cur → (f.finish s rd).hart k = s.hart k) ∧
      Hart.AskedOnly rd (s.hart s.cur) ((f.finish s rd).hart s.cur) := by
  obtain ⟨v, l, rfl⟩ := h
  have hcore := State.coreOnly_retire { s with banks := l } rd v
  exact ⟨rfl, hcore.others, hcore.own⟩

theorem exec_ctrrd_banks (h : exec (.ctrrd rd rs1) s = .next t) : ∃ f : FormEnd, f.Banks s ∧ t = f.finish s rd := by
  obtain rfl := Host.Outcome.next.inj h
  refine ⟨_, ?_, form_every_mode ..⟩
  dsimp only
  split
  · exact FormEnd.banks_refuse ..
  · split
    · exact FormEnd.banks_refuse ..
    · split
      · exact FormEnd.banks_refuse ..
      · split
        · exact FormEnd.banks_setBank ..
        · split
          · exact FormEnd.banks_refuse ..
          · exact FormEnd.banks_readCounter ..

theorem exec_ctrclr_banks (h : exec (.ctrclr rd rs1) s = .next t) : ∃ f : FormEnd, f.Banks s ∧ t = f.finish s rd := by
  obtain rfl := Host.Outcome.next.inj h
  refine ⟨_, ?_, form_every_mode ..⟩
  dsimp only
  split
  · exact FormEnd.banks_refuse ..
  · split
    · exact FormEnd.banks_refuse ..
    · split
      · exact FormEnd.banks_refuse ..
      · exact FormEnd.banks_setBank ..

end

/-- Settles O58: each form named is a step of its core alone, or of its core and the counter banks. -/
theorem queriesChangeOnlyTheirRegister : Obligations.QueriesChangeOnlyTheirRegister := by
  intro s t rd rs1 rs2 _
  have asked (h : s.CoreOnly (Hart.AskedOnly rd) t) : t = { s with harts := t.harts } ∧ (∀ h, h ≠ s.cur → t.hart h = s.hart h) ∧
      (∀ q, q ≠ rd → (t.hart s.cur).reg q = (s.hart s.cur).reg q) ∧ (∀ a, memRead t.mem a = memRead s.mem a) ∧
      ((s.hart s.cur).mode.high = true → t.hart s.cur = { s.hart s.cur with x := (t.hart s.cur).x, pc := (t.hart s.cur).pc, wait := (t.hart s.cur).wait }) :=
    ⟨h.frame, h.others, h.own.1, h.memRead, fun _ => h.own.2⟩
  have counted {f : FormEnd} (hf : f.Banks s) (ht : t = f.finish s rd) : t = { s with harts := t.harts, banks := t.banks } ∧ (∀ h, h ≠ s.cur → t.hart h = s.hart h) ∧
      (∀ q, q ≠ rd → (t.hart s.cur).reg q = (s.hart s.cur).reg q) ∧
      t.hart s.cur = { s.hart s.cur with x := (t.hart s.cur).x, pc := (t.hart s.cur).pc, wait := (t.hart s.cur).wait } := by
    obtain ⟨hframe, hothers, hreg, hown⟩ := hf.finish rd
    subst ht
    exact ⟨hframe, hothers, hreg, hown⟩
  refine ⟨fun i hi h => ?_, fun i u hu h => ?_, fun i hi h => ?_⟩
  · simp only [List.mem_cons, List.not_mem_nil, or_false] at hi
    rcases hi with rfl | rfl | rfl | rfl | rfl | rfl | rfl
    · exact asked (exec_rgnqry_coreOnly h)
    · exact asked (exec_strmqCommand_coreOnly h)
    · exact asked (exec_tfqry_coreOnly h)
    · exact asked (exec_cpyq_coreOnly h)
    · exact asked (exec_collq_coreOnly h)
    · rcases exec_duneq_coreOnly h with hc | ⟨hlow, e, rfl⟩
      · exact asked hc
      · have hc := s.coreOnly_trap rd e
        exact ⟨hc.frame, hc.others, hc.own, hc.memRead, fun hm => absurd (hlow.symm.trans hm) Bool.false_ne_true⟩
    · exact asked (exec_fencex_coreOnly h)
  · have hc : u.CoreOnly (Hart.FifoOnly rd (s.xreg rs1)) t := by
      rcases hu with ⟨rfl, rfl⟩ | ⟨rfl, rfl⟩
      · exact exec_tfpsh_coreOnly h
      · exact exec_tfpop_coreOnly h
    obtain ⟨hreg, hfifo, hown⟩ := hc.own
    exact ⟨hc.frame, hc.others, hreg, hfifo, hown⟩
  · simp only [List.mem_cons, List.not_mem_nil, or_false] at hi
    rcases hi with rfl | rfl
    · obtain ⟨f, hf, ht⟩ := exec_ctrrd_banks h
      exact counted hf ht
    · obtain ⟨f, hf, ht⟩ := exec_ctrclr_banks h
      exact counted hf ht

end Sys2Proof.Machine
